-- ==== Sys2Proof/Word.lean ====
section
/-! DEFINITION. The word types of the machine (R33, R11). -/

namespace Sys2Proof

/-- A 32-bit register or instruction word (R16, R33). -/
abbrev Word := BitVec 32

/-- A 64-bit address or pair (R11, R23). -/
abbrev Addr := BitVec 64

/-- A byte (R4). -/
abbrev Byte := BitVec 8

end Sys2Proof
end

