-- ==== Sys2Proof/Syntax.lean ====
section
/-! DEFINITION. The instructions and events of spec/opcode_table.json, one constructor of `Instr` for each row: the 219
instruction forms with their operand fields (R33, R36, R37), and the 91 events with the operands that choose among the
outcomes the spec leaves to timing, contention or the outside world. -/

namespace Sys2Proof

/-- The extension word without its MINOR (R36, R37). -/
inductive Ext where
  /-- Modifier form (FORM = 0). -/
  | mod (c : BitVec 7) (ty : BitVec 5) (rnd : BitVec 2) (scope : BitVec 3) (cache : BitVec 2) (bsrc : BitVec 2) (sub : BitVec 4)
  /-- Immediate form (FORM = 1). -/
  | imm (ty : BitVec 5) (imm20 : BitVec 20)
deriving DecidableEq, Repr

/-- The fields of a one-word instruction besides SET and MAJOR (R33): PRED, FS/NEG, D, A, B. -/
structure W1 where
  p : BitVec 3
  n : Bool
  d : BitVec 7
  a : BitVec 7
  b : BitVec 7
deriving DecidableEq, Repr

/-- The fields of a two-word instruction besides SET, MAJOR and MINOR. -/
structure W2 where
  p : BitVec 3
  n : Bool
  d : BitVec 7
  a : BitVec 7
  b : BitVec 7
  x : Ext
deriving DecidableEq, Repr

/-- The fields of BRA and GBRA: guard and signed 21-bit word offset (R55). -/
structure WBr where
  p : BitVec 3
  n : Bool
  off : BitVec 21
deriving DecidableEq, Repr

/-- The fields of SYSC: guard, bits [20:16] (which must be 0) and service number (R440). -/
structure WSysc where
  p : BitVec 3
  n : Bool
  z : BitVec 5
  service : BitVec 16
deriving DecidableEq, Repr

/-- An instruction form or an event, one constructor for each row of the opcode table. -/
inductive Instr where
  /-- BRA (R97): Each participant branches to the clause header at a signed 21-bit word offset from its own clause header. -/
  | bra (w : WBr)
  /-- BRX (R97): Each participant branches to the 64-bit absolute target held in a register pair. -/
  | brx (w : W1)
  /-- CALL (R97): Writes the return address to a link pair and branches to an IMM20 word offset. -/
  | call (w : W2)
  /-- CALLX (R97): Reads a target pair, writes the return address to a link pair and branches to the target. -/
  | callx (w : W1)
  /-- RET (R98): Branches to the address in a register pair, with the target predicted from the per-quire return stack. -/
  | ret (w : W1)
  /-- NOP (R119): Has no effect other than its issue slot. -/
  | nop (w : W1)
  /-- EXIT (R100): Ends each participant at issue and releases its registers and slot once its outstanding operations complete. -/
  | exit (w : W2)
  /-- TAIL (R101): Ends each participant and moves its outstanding memory writes into a retirement tracker entry. -/
  | tail (w : W2)
  /-- YIELD (R104): Exchanges the issuing quire for the oldest ready pending quire, or gives up the next issue cycle. -/
  | yield (w : W2)
  /-- NAP (R105): Makes each participant not ready for n clk after issue. -/
  | nap (w : W2)
  /-- QSYNC (R106): Parks each participant until every lane in its mask has arrived or is no longer live. -/
  | qsync (w : W2)
  /-- BKPT (R117): Stops the block for the debug agent when debugging is enabled, and otherwise does nothing. -/
  | bkpt (w : W2)
  /-- TRAP (R118): Ends the participants' task with fault cause USER-TRAP and a 20-bit code. -/
  | trap (w : W2)
  /-- RANK (R110): Writes each participant's rank among the live threads of the scope instance, and the live count. -/
  | rank (w : W2)
  /-- PLOP (R109): Sets a predicate from two predicates through a 4-bit truth table. -/
  | plop (w : W2)
  /-- S2V (R111): Writes a special register, as each participant sees it, into a V register. -/
  | s2v (w : W2)
  /-- S2G (R111): Writes a special register, as the lowest participant sees it, into a G register. -/
  | s2g (w : W2)
  /-- SHFL (R112): Moves a 32-bit value between participants within segments in abs, shift, rot or flip mode. -/
  | shfl (w : W2)
  /-- VOTE (R113): Forms the mask of participants whose predicate holds and returns the mask, its count or a predicate. -/
  | vote (w : W2)
  /-- MATCH (R114): Compares a value across participants and returns peer masks, leaders or unanimity. -/
  | matchv (w : W2)
  /-- QRED (R115): Reduces a value over the participants and writes the result to every participant or to a G register. -/
  | qred (w : W2)
  /-- IADD_ONE_WORD (R124): Writes the 32-bit sum of two registers in the one-word form. -/
  | iaddOneWord (w : W1)
  /-- IADD_TWO_WORD (R124): Integer add with type, optional saturation and immediate. -/
  | iaddTwoWord (w : W2)
  /-- IADDC (R125): Adds with carry in from a predicate and writes the carry out back to it. -/
  | iaddc (w : W2)
  /-- ISUB_ONE_WORD (R124): Writes the 32-bit difference of two registers in the one-word form. -/
  | isubOneWord (w : W1)
  /-- ISUB_TWO_WORD (R124): Integer subtract with type, optional saturation and immediate. -/
  | isubTwoWord (w : W2)
  /-- ISUBB (R125): Subtracts with borrow in from a predicate and writes the borrow out back to it. -/
  | isubb (w : W2)
  /-- IMUL_ONE_WORD (R124): Writes the low 32 bits of the product of two registers in the one-word form. -/
  | imulOneWord (w : W1)
  /-- IMUL_TWO_WORD (R124): Integer multiply with type, optional saturation and immediate. -/
  | imulTwoWord (w : W2)
  /-- IMULH (R126): Writes the high half of the double-width product. -/
  | imulh (w : W2)
  /-- IMAD (R124): Writes a times b plus c, formed exactly and reduced once. -/
  | imad (w : W2)
  /-- IMADW (R126): Writes a 64-bit pair of a 32-bit product plus a 64-bit addend. -/
  | imadw (w : W2)
  /-- IMIN (R127): Writes the lesser of two integers under the type. -/
  | imin (w : W2)
  /-- IMAX (R127): Writes the greater of two integers under the type. -/
  | imax (w : W2)
  /-- IABS (R127): Writes the absolute value, optionally saturated. -/
  | iabs (w : W2)
  /-- INEG (R127): Writes the negation, optionally saturated. -/
  | ineg (w : W2)
  /-- ISAD (R127): Writes a sum of absolute differences plus an addend. -/
  | isad (w : W2)
  /-- AND_ONE_WORD (R128): Writes the bitwise AND of two registers in the one-word form. -/
  | andOneWord (w : W1)
  /-- AND_TWO_WORD (R128): Bitwise AND with constant or immediate operand. -/
  | andTwoWord (w : W2)
  /-- OR_ONE_WORD (R128): Writes the bitwise OR of two registers in the one-word form. -/
  | orOneWord (w : W1)
  /-- OR_TWO_WORD (R128): Bitwise OR with constant or immediate operand. -/
  | orTwoWord (w : W2)
  /-- XOR_ONE_WORD (R128): Writes the bitwise XOR of two registers in the one-word form. -/
  | xorOneWord (w : W1)
  /-- XOR_TWO_WORD (R128): Bitwise XOR with constant or immediate operand. -/
  | xorTwoWord (w : W2)
  /-- ANDN (R128): Writes a AND NOT b. -/
  | andn (w : W2)
  /-- LOP3 (R128): Writes any bitwise function of three registers given by an 8-bit truth table. -/
  | lop3 (w : W2)
  /-- SHL_ONE_WORD (R129): Shifts left by a register count in the one-word form. -/
  | shlOneWord (w : W1)
  /-- SHL_TWO_WORD (R129): Shift left with width, wrap and immediate options. -/
  | shlTwoWord (w : W2)
  /-- SHR_ONE_WORD (R129): Shifts right logically by a register count in the one-word form. -/
  | shrOneWord (w : W1)
  /-- SHR_TWO_WORD (R129): Logical shift right with width, wrap and immediate options. -/
  | shrTwoWord (w : W2)
  /-- SAR (R129): Shifts right arithmetically. -/
  | sar (w : W2)
  /-- SHF (R130): Funnel-shifts two registers left or right. -/
  | shf (w : W2)
  /-- POPC (R131): Writes the number of 1 bits. -/
  | popc (w : W2)
  /-- CLZ (R131): Writes the number of leading zero bits. -/
  | clz (w : W2)
  /-- CTZ (R131): Writes the number of trailing zero bits. -/
  | ctz (w : W2)
  /-- BREV (R131): Reverses the bits of the operand. -/
  | brev (w : W2)
  /-- BFX (R132): Extracts a bit field, sign- or zero-extended. -/
  | bfx (w : W2)
  /-- BFI (R132): Inserts a bit field into a copy of operand c. -/
  | bfi (w : W2)
  /-- ISET (R133): Compares two integers and writes a mask word or a predicate. -/
  | iset (w : W2)
  /-- ISEL (R133): Selects a or b by a predicate. -/
  | isel (w : W2)
  /-- MOV_ONE_WORD (R134): Copies a register in the one-word form. -/
  | movOneWord (w : W1)
  /-- MOV_TWO_WORD (R134): Copies a register or pair with a type. -/
  | movTwoWord (w : W2)
  /-- MOVI (R134): Writes a sign-extended or high-placed 20-bit immediate. -/
  | movi (w : W2)
  /-- LEA (R135): Computes a 64-bit address from a base pair and a scaled offset. -/
  | lea (w : W2)
  /-- PRMT (R136): Builds each result byte from a selector byte over eight source bytes. -/
  | prmt (w : W2)
  /-- FADD_ONE_WORD (R182): Adds two FP32 registers under RNE in the one-word form. -/
  | faddOneWord (w : W1)
  /-- FADD_TWO_WORD (R182): FP32 add with rounding, ftz, negation and placed immediate. -/
  | faddTwoWord (w : W2)
  /-- FMUL_ONE_WORD (R182): Multiplies two FP32 registers under RNE in the one-word form. -/
  | fmulOneWord (w : W1)
  /-- FMUL_TWO_WORD (R182): FP32 multiply with rounding, ftz, negation and placed immediate. -/
  | fmulTwoWord (w : W2)
  /-- FFMA (R182): Fused FP32 multiply-add rounded once. -/
  | ffma (w : W2)
  /-- FMIN (R185): Writes the lesser FP32 operand, NaN-avoiding, with -0 below +0. -/
  | fmin (w : W2)
  /-- FMAX (R185): Writes the greater FP32 operand, NaN-avoiding, with -0 below +0. -/
  | fmax (w : W2)
  /-- FSET (R186): Compares two FP32 values under a condition and writes a mask word or predicate. -/
  | fset (w : W2)
  /-- FCLASS (R187): Classifies an FP32 pattern into a one-hot word or tests it against a class mask. -/
  | fclass (w : W2)
  /-- FRND (R188): Rounds an FP32 value to an integral value. -/
  | frnd (w : W2)
  /-- FSCL (R189): Scales an FP32 value by 2^n, rounded once. -/
  | fscl (w : W2)
  /-- FRCP (R190): Writes the correctly rounded reciprocal and sets a flag. -/
  | frcp (w : W2)
  /-- FRSQ (R190): Writes the correctly rounded reciprocal square root and sets a flag. -/
  | frsq (w : W2)
  /-- FSQRT (R190): Writes the square root rounded under RND and sets a flag. -/
  | fsqrt (w : W2)
  /-- FEX2 (R190): Writes 2^x correctly rounded and sets a flag. -/
  | fex2 (w : W2)
  /-- FLG2 (R190): Writes log2 x correctly rounded and sets a flag. -/
  | flg2 (w : W2)
  /-- FSIN (R190): Writes sin of x turns correctly rounded and sets a flag. -/
  | fsin (w : W2)
  /-- FCOS (R190): Writes cos of x turns correctly rounded and sets a flag. -/
  | fcos (w : W2)
  /-- HADD2 (R182): Adds packed BF16 or FP16 pairs, each element rounded independently. -/
  | hadd2 (w : W2)
  /-- HMUL2 (R182): Multiplies packed BF16 or FP16 pairs. -/
  | hmul2 (w : W2)
  /-- HFMA2 (R182): Fused multiply-add of packed BF16 or FP16 pairs. -/
  | hfma2 (w : W2)
  /-- HMNX2 (R185): Per-element minimum or maximum of packed pairs. -/
  | hmnx2 (w : W2)
  /-- CVT (R162): Converts one float value to another floating format or to an E8M0 scale. -/
  | cvt (w : W2)
  /-- CVTP (R164): Packs two FP32 values into a 16-bit pair or two FP8 bytes of a word. -/
  | cvtp (w : W2)
  /-- CVTX (R165): Widens one element of a packed word to FP32 exactly. -/
  | cvtx (w : W2)
  /-- F2I (R166): Converts a float to an integer with saturation. -/
  | f2i (w : W2)
  /-- I2F (R167): Converts an integer to a float format. -/
  | i2f (w : W2)
  /-- QBLK (R168): Quantises one block held one element per lane and returns code, scale and saturation. -/
  | qblk (w : W2)
  /-- QTILE (R170): Quantises a 64 x 64 FP32 tile into a tile image with trailer. -/
  | qtile (w : W2)
  /-- UNQ (R172): Widens an element code with a scale to FP32. -/
  | unq (w : W2)
  /-- PLX (R173): Gathers one bit plane across the participants. -/
  | plx (w : W2)
  /-- PLI (R174): Rebuilds each lane's element from bit planes held across lanes. -/
  | pli (w : W2)
  /-- TRLCK (R175): Checks the trailer of a tile image and writes a status word. -/
  | trlck (w : W2)
  /-- SCLX (R176): Multiplies, divides, maxes or mins four packed E8M0 scales. -/
  | sclx (w : W2)
  /-- LD (R209): Loads from global memory after coalescer checks, optionally as an acquire. -/
  | ld (w : W2)
  /-- ST (R209): Stores to global memory, optionally as a release or a reader-count store. -/
  | st (w : W2)
  /-- LDS (R215): Loads from the context's scratchpad side. -/
  | lds (w : W2)
  /-- STS (R215): Stores to the context's scratchpad side. -/
  | sts (w : W2)
  /-- LDP (R223): Loads from the tarn's pool. -/
  | ldp (w : W2)
  /-- STP (R223): Stores to the tarn's pool. -/
  | stp (w : W2)
  /-- LDT (R225): Loads a tile object from global memory into a tile with version retries. -/
  | ldt (w : W2)
  /-- STT (R226): Writes a tile to a tile object, bumping VER around the data or committing whole with aon. -/
  | stt (w : W2)
  /-- TDEF (R221): Defines a tile-table entry from a descriptor. -/
  | tdef (w : W2)
  /-- TSET (R221): Makes a tile, or all tiles of the side, EMPTY. -/
  | tset (w : W2)
  /-- TQRY (R218): Returns a tile-table entry with its state. -/
  | tqry (w : W2)
  /-- PREF (R228): Prefetches a line into L1 or the home tarn cache without faulting. -/
  | pref (w : W2)
  /-- CCTL (R229): Cleans, evicts, invalidates code or drops a span for a line and sets a flag when done. -/
  | cctl (w : W2)
  /-- TAGLD (R231): Reads the tag of a 32-byte granule. -/
  | tagld (w : W2)
  /-- TAGST (R231): Sets the tag of a 32-byte granule. -/
  | tagst (w : W2)
  /-- FENCE (R243): Stalls the thread until earlier reads return or covered writes are performed at a scope. -/
  | fence (w : W2)
  /-- FSP (R244): Waits for scratchpad writes to reach their banks and empties the matrix operand cache. -/
  | fsp (w : W1)
  /-- ATOM (R282): Performs an atomic RMW at the home MAU and returns the old value. -/
  | atom (w : W2)
  /-- RED (R282): Performs a merged reduction at the home MAU and returns nothing. -/
  | red (w : W2)
  /-- ATOMS (R288): Performs an atomic RMW at a scratchpad bank. -/
  | atoms (w : W2)
  /-- ATOMP (R289): Performs an atomic RMW at a pool bank and returns the old value. -/
  | atomp (w : W2)
  /-- REDP (R289): Performs a reduction at a pool bank. -/
  | redp (w : W2)
  /-- PUSHT (R292): Pushes an entry at the tail of a pool deque. -/
  | pusht (w : W2)
  /-- TAKET (R292): Takes the newest entry from the tail of a pool deque. -/
  | taket (w : W2)
  /-- TAKEH (R292): Takes the oldest entry from the head of a pool deque. -/
  | takeh (w : W2)
  /-- PROP (R306): Proposes a value to a decide-once cell at a generation. -/
  | prop (w : W2)
  /-- DREAD (R309): Reads a cell's decision from a decision cache or its home. -/
  | dread (w : W2)
  /-- DWAIT (R312): Waits at the home until a cell open at a generation is decided, reinitialised or poisoned. -/
  | dwait (w : W2)
  /-- RECY (R306): Opens the next generation of a decided cell. -/
  | recy (w : W2)
  /-- DQRY (R306): Queries a cell's state at its home. -/
  | dqry (w : W2)
  /-- DINIT (R311): Writes a cell OPEN at a generation, wakes waiters and purges the module's decision caches. -/
  | dinit (w : W2)
  /-- BARA (R322): Arrives at a named barrier and continues. -/
  | bara (w : W2)
  /-- BARS (R322): Arrives at a named barrier and waits for the phase to complete. -/
  | bars (w : W2)
  /-- BARR (R323): Arrives at a named barrier, waits, and receives a reduction over the phase's contributions. -/
  | barr (w : W2)
  /-- SBAR (R326): Arrives at a scope barrier object and waits for the phase. -/
  | sbar (w : W2)
  /-- SBARA (R326): Arrives at a scope barrier object and continues, its flag clearing at phase completion. -/
  | sbara (w : W2)
  /-- WAITX (R329): Waits until a 64-bit signal word meets a condition or the external-wait timeout expires. -/
  | waitx (w : W2)
  /-- SIGX (R333): Sets or adds to a 64-bit signal word by one RMW as a release. -/
  | sigx (w : W2)
  /-- ACP (R378): Places a copy command on the instruction ring and names a status pair. -/
  | acp (w : W2)
  /-- ACPG (R379): Places a gather command on the instruction ring. -/
  | acpg (w : W2)
  /-- ACPR (R380): Places a staged reduction command on the instruction ring. -/
  | acpr (w : W2)
  /-- CWAIT (R381): Waits until a ring's completion word covers a sequence number. -/
  | cwait (w : W2)
  /-- SHDW (R383): Registers a shadow region and returns a handle. -/
  | shdw (w : W2)
  /-- PUBL (R385): Waits for overlapping commands, then publishes a shadow generation. -/
  | publ (w : W2)
  /-- ABND (R386): Waits as PUBL does, then discards the open generation and unregisters the handle. -/
  | abnd (w : W2)
  /-- OBRES (R402): Reserves operand buffer units for a handle from a record. -/
  | obres (w : W2)
  /-- OBREL (R402): Releases a handle after its commands finish. -/
  | obrel (w : W2)
  /-- OBLD (R403): Fills a handle from a tile, optionally checking an image trailer. -/
  | obld (w : W2)
  /-- OBLDG (R406): Gathers tile rows named per lane into consecutive vectors of a handle. -/
  | obldg (w : W2)
  /-- MSIGN (R407): Arrives at a convergence register once the thread's fills complete. -/
  | msign (w : W2)
  /-- MMA (R409): Multiplies two handle operands and accumulates into an accumulator region after consuming a signed phase. -/
  | mma (w : W2)
  /-- MMAQ (R411): Forms one quadrant of a quad-wide product with operands shared over the quad broadcast. -/
  | mmaq (w : W2)
  /-- ACCZ (R414): Writes +0 to every cell of an accumulator region. -/
  | accz (w : W2)
  /-- ACCST (R415): Converts an accumulator region into a scratchpad tile. -/
  | accst (w : W2)
  /-- ACCRD (R414): Reads one accumulator cell per lane into a V register. -/
  | accrd (w : W2)
  /-- SPRG (R424): Sends a spring message on the instruction ring without a reply register. -/
  | sprg (w : W2)
  /-- SPRGW (R424): Sends a spring message and receives a result quad. -/
  | sprgw (w : W2)
  /-- GBRA (R143): Branches the whole issuing group to a word offset when the uniform guard holds. -/
  | gbra (w : WBr)
  /-- GLOOP (R144): Decrements a uniform count and branches while it stays non-zero. -/
  | gloop (w : W2)
  /-- GADD_ONE_WORD (R138): Uniform add in the one-word form. -/
  | gaddOneWord (w : W1)
  /-- GADD_TWO_WORD (R138): Uniform add with modifiers. -/
  | gaddTwoWord (w : W2)
  /-- GSUB_ONE_WORD (R138): Uniform subtract in the one-word form. -/
  | gsubOneWord (w : W1)
  /-- GSUB_TWO_WORD (R138): Uniform subtract with modifiers. -/
  | gsubTwoWord (w : W2)
  /-- GMUL_ONE_WORD (R138): Uniform multiply in the one-word form. -/
  | gmulOneWord (w : W1)
  /-- GMUL_TWO_WORD (R138): Uniform multiply with modifiers. -/
  | gmulTwoWord (w : W2)
  /-- GMAD (R138): Uniform multiply-add as IMAD. -/
  | gmad (w : W2)
  /-- GAND_ONE_WORD (R138): Uniform AND in the one-word form. -/
  | gandOneWord (w : W1)
  /-- GAND_TWO_WORD (R138): Uniform AND with modifiers. -/
  | gandTwoWord (w : W2)
  /-- GOR_ONE_WORD (R138): Uniform OR in the one-word form. -/
  | gorOneWord (w : W1)
  /-- GOR_TWO_WORD (R138): Uniform OR with modifiers. -/
  | gorTwoWord (w : W2)
  /-- GXOR_ONE_WORD (R138): Uniform XOR in the one-word form. -/
  | gxorOneWord (w : W1)
  /-- GXOR_TWO_WORD (R138): Uniform XOR with modifiers. -/
  | gxorTwoWord (w : W2)
  /-- GSHL_ONE_WORD (R138): Uniform shift left in the one-word form. -/
  | gshlOneWord (w : W1)
  /-- GSHL_TWO_WORD (R138): Uniform shift left with modifiers. -/
  | gshlTwoWord (w : W2)
  /-- GSHR_ONE_WORD (R138): Uniform logical shift right in the one-word form. -/
  | gshrOneWord (w : W1)
  /-- GSHR_TWO_WORD (R138): Uniform logical shift right with modifiers. -/
  | gshrTwoWord (w : W2)
  /-- GSAR_ONE_WORD (R138): Uniform arithmetic shift right in the one-word form. -/
  | gsarOneWord (w : W1)
  /-- GSAR_TWO_WORD (R138): Uniform arithmetic shift right with modifiers. -/
  | gsarTwoWord (w : W2)
  /-- GMIN_ONE_WORD (R138): Uniform minimum in the one-word form. -/
  | gminOneWord (w : W1)
  /-- GMIN_TWO_WORD (R138): Uniform minimum with modifiers. -/
  | gminTwoWord (w : W2)
  /-- GMAX_ONE_WORD (R138): Uniform maximum in the one-word form. -/
  | gmaxOneWord (w : W1)
  /-- GMAX_TWO_WORD (R138): Uniform maximum with modifiers. -/
  | gmaxTwoWord (w : W2)
  /-- GMOV (R138): Copies a G register. -/
  | gmov (w : W1)
  /-- GMOVI (R138): Writes an immediate to a G register as MOVI. -/
  | gmovi (w : W2)
  /-- GSET (R138): Compares G values and writes a G register or uniform predicate. -/
  | gset (w : W2)
  /-- GSEL (R138): Selects between G values by a uniform predicate. -/
  | gsel (w : W2)
  /-- GLD (R142): Loads from memory once for the issuing group into a G register. -/
  | gld (w : W2)
  /-- G2V (R140): Copies a G register into a V register of every thread of the group. -/
  | g2v (w : W1)
  /-- V2G (R141): Copies one lane's V register into a G register. -/
  | v2g (w : W2)
  /-- GPLOP (R138): Sets a uniform predicate through a truth table. -/
  | gplop (w : W2)
  /-- LAUNCH (R359): Reads a launch record from memory and submits it for acceptance. -/
  | launch (w : W2)
  /-- SPAWN (R359): Submits a one-block child launch inheriting the issuing block's ranges. -/
  | spawn (w : W2)
  /-- JDEC (R359): Decrements a block's join counter. -/
  | jdec (w : W2)
  /-- TSTAT (R359): Returns a launch's progress or a block record's state. -/
  | tstat (w : W2)
  /-- TCANCEL (R359): Cancels a launch's undispatched records, and with stop halts its running blocks. -/
  | tcancel (w : W2)
  /-- GANG (R361): Opens, queries or aborts a gang. -/
  | gang (w : W2)
  /-- SRRD (R439): Reads a system register into a G pair. -/
  | srrd (w : W2)
  /-- SRWR (R439): Writes a system register from a G pair. -/
  | srwr (w : W2)
  /-- SYSC (R441): Parks the group and places a service-call trap for the supervisor. -/
  | sysc (w : WSysc)
  /-- ERET (R443): Ends a trap handler, delivers SYSRET after a SYSC and resumes at EPC. -/
  | eret (w : W1)
  /-- TLBINV (R454): Removes TLB and table-cache entries in a scope, optionally purging decision caches. -/
  | tlbinv (w : W2)
  /-- LREV (R455): Revokes leases on granules and ends the holding tasks. -/
  | lrev (w : W2)
  /-- CTXSTOP (R448): Halts a core's context and saves it, optionally queueing a RESUME record. -/
  | ctxstop (w : W2)
  /-- CTXGO (R449): Resumes a saved context on a core of its tarn. -/
  | ctxgo (w : W2)
  /-- WCAP (R460): Sets the weir cap and returns the previous cap. -/
  | wcap (w : W2)
  /-- TRIQ (R453): Reads a control-triad counter. -/
  | triq (w : W2)
  /-- TRIRS (R453): Clears a triad plane's counters or resynchronises one of its copies. -/
  | trirs (w : W2)
  /-- TWRST (R457): Warm-resets another tarn of the partition, folding the ring and readmitting it. -/
  | twrst (w : W2)
  /-- KEYLD (R462): Loads or clears a partition key slot from an authenticated blob. -/
  | keyld (w : W2)
  /-- SCRUB (R473): Reads, corrects and writes back the lines of granules. -/
  | scrub (w : W2)
  /-- TIERMV (R474): Copies a 64 KiB granule to another granule, mirroring writes during the move. -/
  | tiermv (w : W2)
  /-- POISON (R475): Poisons granules or lines. -/
  | poison (w : W2)
  /-- RETIRE (R476): Takes a pseudo-channel out of service. -/
  | retire (w : W2)
  /-- HINST (R428): Checks a handler image and installs it in a slot of masked springs. -/
  | hinst (w : W2)
  /-- HDROP (R428): Empties a handler slot of masked springs. -/
  | hdrop (w : W2)
  /-- ROWRD (R431): Reads the message's DRAM row into the row buffer as one act. -/
  | rowrd (w : W2)
  /-- ROWWR (R431): Writes masked lines of the row buffer to the row as one act. -/
  | rowwr (w : W2)
  /-- ROWRED (R430): Reduces over a range of row-buffer words, optionally updating them. -/
  | rowred (w : W2)
  /-- LINERD (R430): Copies one row-buffer line into 16 G registers. -/
  | linerd (w : W2)
  /-- LINEWR (R430): Copies 16 G registers into one row-buffer line. -/
  | linewr (w : W2)
  /-- REPLY (R430): Sets the reply value and ends the handler. -/
  | reply (w : W2)
  /-- CLAUSE_ENTRY (R50): A group enters a clause once its wait flags are clear, and the clause is fetched, decoded and checked. -/
  | clauseEntry (b q : Nat) (addr : BitVec 64)
  /-- QUIRE_EXCHANGE (R93): A quire stalled long is exchanged for the oldest ready pending quire in 2 clk. -/
  | quireExchange (b q : Nat)
  /-- FORCED_EXCHANGE (R94): Every 256 clk the oldest ready pending quire displaces the earliest-entered active quire. -/
  | forcedExchange (b : Nat)
  /-- AGEING_PICK (R91): A candidate passed over for 1,024 issue cycles of its quire is chosen. -/
  | ageingPick (b q : Nat)
  /-- NAP_EXPIRY (R105): A participant's nap ends and it becomes ready. -/
  | napExpiry (b q lane : Nat)
  /-- LOAD_COMPLETION (R209): A load's data arrive, write the destination and decrement the selected flag. -/
  | loadCompletion (op : Nat)
  /-- TRANSCENDENTAL_COMPLETION (R192): A transcendental result is written and its flag decremented. -/
  | transcendentalCompletion (op : Nat)
  /-- TRACKER_ENTRY_DRAIN (R101): A retirement tracker entry is freed when its last operation completes. -/
  | trackerEntryDrain (core entry : Nat)
  /-- BLOCK_COMPLETION (R355): A complete block has its writes performed, its bitmap bit set, its leases released and its successors decremented. -/
  | blockCompletion (b : Nat)
  /-- LWIN (R480): A 64-byte host write to the launch window submits a launch record or is dropped.  A window is
  16 x module + partition. -/
  | lwin (win : Nat) (rec : BitVec 512) (whole : Bool)
  /-- LWDROP_READ (R479): A host read returns the dropped launch write count and clears it; a read of another register of BAR0 returns
  what its access code gives (R6).  `reg` is the partition + 16 x n: n is 0 for LWDROP, else the register's offset + 1. -/
  | lwdropRead (reg : Nat)
  /-- BAR0_REGISTER_WRITE (R479): A host write sets a BAR0 register without behaviour of its own. -/
  | bar0RegisterWrite (part off : Nat) (val : BitVec 64)
  /-- BAR2_ACCESS (R479): A host access through BAR2 reaches partition memory without lease or tag checks. -/
  | bar2Access (part off n : Nat) (write : Bool) (data : BitVec 512)
  /-- LAUNCH_ACCEPTANCE (R342): The command processor checks a launch record, takes a LID and forms all task records. -/
  | launchAcceptance (op : Nat)
  /-- REGISTRATION (R345): A successor's registration reaches its predecessor's command processor, which sends decrements for completed blocks. -/
  | registration (part succ : Nat)
  /-- JOIN_DECREMENT (R345): A decrement arrives at the successor's command processor and lowers a join counter, readying the record at 0. -/
  | joinDecrement (part lid blk : Nat)
  /-- LEASE_GRANT (R352): The target tarn grants a record's leases once its granules are resident and queues it. -/
  | leaseGrant (part lid blk : Nat)
  /-- BLOCK_DISPATCH (R350): An idle core pops the head record of the highest-priority queue and starts the block. -/
  | blockDispatch (core : Nat)
  /-- SIDE_DRAIN (R365): A scratchpad side drains once its context's commands complete and any save is done. -/
  | sideDrain (core side : Nat)
  /-- GANG_ACKNOWLEDGE (R362): A member's acknowledgement reaches the initiator, which proposes COMMIT when all have arrived. -/
  | gangAcknowledge (part gang member : Nat)
  /-- GANG_TIMEOUT (R362): The initiator's gang timer expires and it proposes ABORT. -/
  | gangTimeout (part gang : Nat)
  /-- GANG_DECISION (R363): A member learns the gang decision and releases or aborts its gang waits. -/
  | gangDecision (part gang : Nat)
  /-- WATCHDOG_CHECK (R335): The 1 ms deadlock check tests each context against the watchdog period. -/
  | watchdogCheck (b : Nat)
  /-- EXTERNAL_WAIT_TIMEOUT (R332): A WAITX participant's timeout expires and it is released with the current value. -/
  | externalWaitTimeout (op : Nat)
  /-- WAITX_WAKE (R331): A write performed at the home wakes parked WAITX participants, which re-read the word. -/
  | waitxWake (op : Nat)
  /-- CELL_ACT (R306): A home slice acts on one cell operation, reading and possibly writing the cell. -/
  | cellAct (op lane : Nat)
  /-- RESULT_QUAD_WRITE (R300): A cell operation's result quad is written, completing its flag. -/
  | resultQuadWrite (op : Nat)
  /-- REQUEST_STAMP (R262): An inter-tarn request arriving at its home stop is stamped and its header broadcast. -/
  | requestStamp (req : Nat)
  /-- STAMPED_REQUEST_ACT (R263): Every stop acts on a stamped request 96 clk after its stamp, in stamp order. -/
  | stampedRequestAct (req : Nat)
  /-- SLICE_REQUEST (R260): A slice acts on one request or write for a line under the MOESI directory. -/
  | sliceRequest (op line : Nat) (evict : List (Nat × Nat)) (badBytes : Nat)
  /-- WRITE_BACK_DEADLINE (R269): 1,000 clk after the first M grant on a remote line, its dirty bytes are written back. -/
  | writeBackDeadline (tarn line : Nat)
  /-- UNCORRECTABLE_REREAD (R466): An uncorrectable line is read again, and poisoned if it still fails. -/
  | uncorrectableReread (line : Nat) (lasting : Bool)
  /-- PAGE_WALK (R202): A TLB miss is walked by the triad page walkers and the TLB filled. -/
  | pageWalk (core vpn : Nat)
  /-- MAU_SLOT (R283): The home MAU performs one RMW slot as one write in coherence order. -/
  | mauSlot (op lane : Nat)
  /-- POOL_BANK_RMW (R289): A pool bank's arithmetic unit performs an atomic RMW. -/
  | poolBankRmw (op lane : Nat)
  /-- DEQUE_SERVICE (R293): A pool bank serves one deque operation on a descriptor in arrival order. -/
  | dequeService (op lane : Nat)
  /-- LDT_ATTEMPT (R225): One attempt of LDT reads the version, data and version again, retrying on mismatch. -/
  | ldtAttempt (op : Nat)
  /-- STT_AON_COMMIT (R226): A staged STT.aon object is committed as one event with VER advanced by 2. -/
  | sttAonCommit (op : Nat)
  /-- QTILE_COMPLETION (R171): QTILE completes, returns both tiles to ready and decrements the flag. -/
  | qtileCompletion (op : Nat)
  /-- TRLCK_STATUS_WRITE (R175): TRLCK writes its status word and releases the tile. -/
  | trlckStatusWrite (op : Nat)
  /-- ENTRY_READ (R367): The engine reads a published declared-ring entry whole and advances HEAD. -/
  | entryRead (b : Nat)
  /-- ENGINE_START (R372): The engine starts an entry in ring order after checking it. -/
  | engineStart (b ring : Nat) (words : List Nat)
  /-- COMMAND_COMPLETION (R370): An entry's completion is written in ring order as a release at its scope. -/
  | commandCompletion (b ring : Nat)
  /-- PATH_ERROR (R388): A failed transfer is retried once, and a lasting error replays the command. -/
  | pathError (b ring : Nat) (retryFails : Bool)
  /-- UNCORRECTABLE_SOURCE_ERROR (R390): A command meeting an uncorrectable source byte stops, poisons the page and completes UE. -/
  | uncorrectableSourceError (b ring off : Nat)
  /-- PUBL_EXCHANGE (R385): After its wait, PUBL exchanges shadow and published frames as one write and a release. -/
  | publExchange (op : Nat)
  /-- ABND_DISCARD (R386): After its wait, ABND discards the generation and unregisters the handle. -/
  | abndDiscard (op : Nat)
  /-- MATRIX_COMMAND_START (R401): A matrix command starts in its pipe once earlier conflicting commands have finished. -/
  | matrixCommandStart (b num : Nat)
  /-- MATRIX_COMMAND_COMPLETION (R419): A matrix command writes its results and clears its flag. -/
  | matrixCommandCompletion (b num : Nat)
  /-- MSIGN_ARRIVAL (R407): An MSIGN arrival takes effect after the thread's fills complete and may complete the phase. -/
  | msignArrival (op : Nat)
  /-- QUAD_STEP_START (R412): Four matched MMAQs form a quad step and start together. -/
  | quadStepStart (tarn quad lid : Nat)
  /-- SPRING_MESSAGE_ARRIVAL (R426): A spring message arrives and enters the spring's queue. -/
  | springMessageArrival (b ring : Nat)
  /-- HANDLER_START (R429): A free spring starts the handler of its oldest queued message. -/
  | handlerStart (spring : Nat)
  /-- STEP_LIMIT (R433): A handler that would run a 257th step ends with outcome STEPS. -/
  | stepLimit (spring : Nat)
  /-- BARRIER_ARRIVAL (R320): An arrival takes effect once its covered writes are performed and is counted in the open phase. -/
  | barrierArrival (op : Nat)
  /-- SCOPE_BARRIER_RELEASE (R327): A scope barrier releases its waiters and clears SBARA flags after the network delay. -/
  | scopeBarrierRelease (key phase : Nat)
  /-- TRAP_ENTRY (R443): The supervisor core takes the next queued trap when INTRAP is 0 and enters TVEC. -/
  | trapEntry (tarn : Nat)
  /-- OWN_TRAP (R444): A fault of the supervisor core's own instruction is taken ahead of queued traps. -/
  | ownTrap (tarn : Nat)
  /-- SAVE_AREA_COMPLETE (R448): The save area of a stopped context is complete with STATUS 1. -/
  | saveAreaComplete (b : Nat)
  /-- HOFF_LIMIT_EXPIRY (R456): A held request's limit expires and its task ends HOME-OFFLINE. -/
  | hoffLimitExpiry (b q gid : Nat)
  /-- TARN_READMISSION (R457): A reset or cooled tarn is readmitted to the ring with empty caches and spans. -/
  | tarnReadmission (tarn : Nat)
  /-- TRIAD_DISSENT (R452): A triad copy dissents and is resynchronised, or becomes lasting on a second dissent. -/
  | triadDissent (tarn plane copy : Nat)
  /-- TRIAD_RESYNC_COMPLETE (R452): A dissenting copy finishes resynchronisation from the majority. -/
  | triadResyncComplete (tarn plane : Nat)
  /-- DUPLEX_MISMATCH (R452): A 2-of-2 mismatch pauses and retries the step, halting the tarn if it recurs. -/
  | duplexMismatch (tarn plane : Nat) (recurs : Bool)
  /-- DRAM_THERMAL_HALT (R461): A DRAM temperature of 105 C halts the tarn and ends its tasks with THERMAL. -/
  | dramThermalHalt (tarn : Nat)
  /-- WEIR_STEP (R460): The governor moves the weir one place along its ladder. -/
  | weirStep (tarn : Nat) (up : Bool)
  /-- MODULE_RESET (R460): Module reset sets weir, caps, TVEC, TLBs and caches to their reset state. -/
  | moduleReset (module : Nat)
  /-- TSV_PARITY_ERROR (R465): A TSV transfer parity error repeats the transfer up to twice. -/
  | tsvParityError (spring pa fails : Nat)
  /-- TSV_RETRAINING (R468): Four lasting parity errors in 1 ms start retraining of the pseudo-channel. -/
  | tsvRetraining (spring : Nat)
  /-- RETRAINING_COMPLETE (R468): Retraining ends and held requests proceed, or a failure retires the pseudo-channel. -/
  | retrainingComplete (spring : Nat) (ok : Bool)
  /-- ACTIVATION_ALERT (R469): A row's activation count reaching 4,096 raises an alert and opens a mitigation window. -/
  | activationAlert (spring row : Nat) (slot : Option Nat)
  /-- MITIGATION_WINDOW_END (R469): The 400 clk mitigation window ends and waiting bank requests proceed. -/
  | mitigationWindowEnd (spring row : Nat)
  /-- POD_REQUEST_DELIVERY (R485): A flit carrying a request is delivered at the home tarn's pod port in order. -/
  | podRequestDelivery (op : Nat)
  /-- FLIT_FAILURE (R486): A flit failing its tag or lost is resent once, and a lasting failure takes the port down. -/
  | flitFailure (tarn : Nat) (lasting : Bool)
  /-- POD_REKEY (R486): A pod port direction rekeys every 2^32 flits. -/
  | podRekey (tarn : Nat) (ok : Bool)
  /-- TDISP_STATE_TRANSITION (R483): The partition's TDISP interface moves to LOCKED or RUN. -/
  | tdispStateTransition (part target : Nat)
  /-- TDISP_ERROR (R483): A transition to ERROR stops every context of the partition and zeroes its key slots. -/
  | tdispError (part : Nat)
  /-- GET_VERSION (R482): An SPDM GET_VERSION request over DOE is answered. -/
  | getVersion (part : Nat)
  /-- GET_CAPABILITIES (R482): An SPDM GET_CAPABILITIES request is answered. -/
  | getCapabilities (part : Nat)
  /-- NEGOTIATE_ALGORITHMS (R482): An SPDM NEGOTIATE_ALGORITHMS request is answered. -/
  | negotiateAlgorithms (part : Nat)
  /-- GET_DIGESTS (R482): An SPDM GET_DIGESTS request is answered with doubly signed response. -/
  | getDigests (part : Nat)
  /-- GET_CERTIFICATE (R482): An SPDM GET_CERTIFICATE request is answered. -/
  | getCertificate (part : Nat)
  /-- CHALLENGE (R482): An SPDM CHALLENGE request is answered with ECDSA and LMS signatures. -/
  | challenge (part nonce : Nat)
  /-- GET_MEASUREMENTS (R482): An SPDM GET_MEASUREMENTS request returns firmware and key-slot measurements. -/
  | getMeasurements (part nonce : Nat)
  /-- KEY_EXCHANGE (R482): An SPDM KEY_EXCHANGE request starts a session. -/
  | keyExchange (part share : Nat)
  /-- FINISH (R482): An SPDM FINISH request completes the session handshake. -/
  | finish (part mac : Nat)
  /-- CLEAN_SPAN_WORD_DROP (R267): A guest slice drops clean span words of a remote sector at a moment of its own choosing, without a message. -/
  | cleanSpanWordDrop (tarn sector word : Nat)
  /-- HOST_COMPLETION (R478): The host port returns a completion for a module read, AtomicOp or posted write to host memory, possibly as Unsupported Request. -/
  | hostCompletion (op lane : Nat) (unsupported : Bool)
  /-- APERTURE_WAITX_REREAD (R478): Every 1 us a WAITX parked on a host-aperture word re-reads it. -/
  | apertureWaitxReread (op : Nat)
  /-- FORWARDING_STOP_FAILURE (R275): A forwarding stop that cannot pass traffic halts the module, stopping every partition that holds one of its tarns. -/
  | forwardingStopFailure (tarn : Nat)
  /-- LPDDR6_LINK_CRC_ERROR (R465): An LPDDR6 burst fails its link CRC and is repeated up to twice, becoming lasting if both repeats fail. -/
  | lpddr6LinkCrcError (tarn pa fails : Nat)
deriving DecidableEq, Repr

/-- What acts in one turn of the machine (log 1): an issue cycle of a core, a step of a spring's handler, an event of the
opcode table, or nothing (time passes). -/
inductive Act where
  | issue (core : Nat)
  | handler (spring : Nat)
  | event (e : Instr)
  | idle
deriving DecidableEq, Repr

end Sys2Proof
end

