-- ==== Sys2Proof/Machine/Encoding.lean ====
section
/-! DEFINITION. The encodings of the instructions: the opcode map (R58, R59) as `Instr.head`, and what each field of each
instruction may hold (R95, R123, R137, R159, R179, R208, R242, R278, R302, R318, R357, R376, R398, R423, R428, R430, R440,
R472) as `encOf`.  From these come the static checks of R61 in the order of R62. -/

namespace Sys2Proof

/-- What a register field of an instruction names (R44). -/
inductive Fk where
  /-- Unused: must be 0. -/
  | zero
  /-- V register, V pair, V quad; G register, G pair, sixteen G registers from a multiple of 16 (R45, R300, R430). -/
  | v | vp | vq | g | gp | g16
  /-- Predicate P or GP (7 is PT); tile, handle, convergence register, named barrier; special register (R82). -/
  | p | up | tile | handle | kreg | nb | sreg
  /-- MOVI's mode (R134). -/
  | movMode
deriving DecidableEq, Repr

/-- Whether an instruction has an immediate form (R38). -/
inductive ImmForm where
  | none | also | only
deriving DecidableEq, Repr

/-- What the fields of an instruction may hold, given the instruction's other fields. -/
structure Enc where
  d : Fk := .zero
  a : Fk := .zero
  b : Fk := .zero
  c : Fk := .zero
  /-- Operand b takes a source kind in BSRC (R42); its constant form is allowed. -/
  bs : Bool := false
  bconst : Bool := true
  imm : ImmForm := .none
  /-- Type codes accepted; none where TYPE is an unused field. -/
  tys : Option (List Nat) := Option.none
  /-- Where the immediate form uses TYPE for something else: whether its value is allowed. -/
  tyOk : Option Bool := Option.none
  rnd : Bool := false
  scopes : List Nat := [0]
  caches : List Nat := [0]
  /-- Whether the SUB value is allowed. -/
  sub : Bool := true
  /-- LOP3's table in bits [17:10] (R39). -/
  lop3 : Bool := false
  /-- The immediate is a system-register number (R439). -/
  sysreg : Bool := false
  /-- The immediate must be 0. -/
  immZero : Bool := false
  /-- A pair register that is odd and a predicate that does not exist are among the disallowed values of R318. -/
  strict : Bool := false
  /-- A constant operand b must be below this (R428). -/
  bmax : Nat := 128
deriving DecidableEq, Repr

namespace Ext

/-- Fields of the extension word; a field that the form does not have reads 0 (R38). -/
def c : Ext → BitVec 7 | .mod c .. => c | .imm .. => 0#7
def ty : Ext → BitVec 5 | .mod _ ty .. => ty | .imm ty _ => ty
def rnd : Ext → BitVec 2 | .mod _ _ rnd .. => rnd | .imm .. => 0#2
def scope : Ext → BitVec 3 | .mod _ _ _ sc .. => sc | .imm .. => 0#3
def cache : Ext → BitVec 2 | .mod _ _ _ _ ca .. => ca | .imm .. => 0#2
def bsrc : Ext → BitVec 2 | .mod _ _ _ _ _ bs _ => bs | .imm .. => 0#2
def sub : Ext → BitVec 4 | .mod _ _ _ _ _ _ su => su | .imm .. => 0#4
def isImm : Ext → Bool | .mod .. => false | .imm .. => true
def imm20 : Ext → BitVec 20 | .mod .. => 0#20 | .imm _ i => i

/-- TYPE I64 or N64: the instruction is 64 bits wide (R122). -/
def w64 (x : Ext) : Bool := x.ty == 4#5 || x.ty == 8#5
/-- The kind of a V or G operand of the instruction's width (R122). -/
def vW (x : Ext) : Fk := if x.w64 then .vp else .v
def gW (x : Ext) : Fk := if x.w64 then .gp else .g
/-- Operation of an atomic, SUB[2:0] (R279). -/
def atomOp (x : Ext) : Nat := (x.sub &&& 7#4).toNat
/-- The immediate form of an atomic: none for the types of two elements (R278). -/
def atomImm (x : Ext) : ImmForm := if x.ty == 12#5 || x.ty == 13#5 then .none else .also
/-- Direction SUB[1:0] and `.tile` SUB[2] of a copy (R376). -/
def dir (x : Ext) : Nat := (x.sub &&& 3#4).toNat
def tileF (x : Ext) : Bool := x.sub.getLsbD 2
def sideK (x : Ext) : Fk := if x.tileF then .tile else .v
/-- TLBINV's `.all` and `.cell`, in SUB or in TYPE[3], TYPE[4] of the immediate form (R440). -/
def tlbAll (x : Ext) : Bool := if x.isImm then x.ty.getLsbD 3 else x.sub.getLsbD 0
def tlbCell (x : Ext) : Bool := if x.isImm then x.ty.getLsbD 4 else x.sub.getLsbD 1
/-- The scope of an instruction whose immediate form carries it in TYPE[2:0] (R318, R302, R440). -/
def scopeT (x : Ext) : Nat := if x.isImm then x.ty.toNat % 8 else x.scope.toNat
/-- LOP3's truth table, extension bits [17:10] (R39). -/
def lop3Table (x : Ext) : BitVec 8 := (x.ty ++ x.rnd ++ x.scope.extractLsb' 2 1 : BitVec 8)

end Ext

/-- Type codes of the integer instructions (R123): the default, I32, I64, N32, N64; and the 32-bit ones. -/
def tyInt4 : List Nat := [0, 3, 4, 7, 8]
def tyInt2 : List Nat := [0, 3, 7]

/-- The types an atomic operation accepts (R279). -/
def atomTys (op : Nat) : List Nat :=
  if op ≤ 2 then [0, 3, 4, 7, 8, 9, 12, 13] else if op ≤ 5 then [0, 3, 4, 7, 8] else [0, 3, 4, 7, 8, 9]

/-- The type that a source code of CVT and F2I names (R160). -/
def cvtSrcType : Nat → Nat
  | 0 => 9 | 1 => 10 | 2 => 11 | 3 => 14 | 4 => 15 | 5 => 16 | _ => 99

/-- The opcode of an instruction (R58, R59): SET, MAJOR, MINOR, and whether it sets a flag. -/
structure Head where
  set : Bool
  major : BitVec 6
  minor : BitVec 6
  flag : Bool
deriving DecidableEq, Repr

/-- The four shapes of an instruction's words. -/
inductive Fields where
  | br (w : WBr) | w1 (w : W1) | w2 (w : W2) | sysc (w : WSysc)
deriving DecidableEq, Repr

/-- The opcode of an instruction; an event has none. -/
def Instr.head : Instr → Option Head
  | .bra _ => some ⟨false, 0#6, 0#6, false⟩
  | .brx _ => some ⟨false, 1#6, 0#6, false⟩
  | .call _ => some ⟨false, 2#6, 0#6, false⟩
  | .callx _ => some ⟨false, 3#6, 0#6, false⟩
  | .ret _ => some ⟨false, 4#6, 0#6, false⟩
  | .nop _ => some ⟨false, 5#6, 0#6, false⟩
  | .exit _ => some ⟨false, 6#6, 0#6, false⟩
  | .tail _ => some ⟨false, 6#6, 1#6, false⟩
  | .yield _ => some ⟨false, 6#6, 2#6, false⟩
  | .nap _ => some ⟨false, 6#6, 3#6, false⟩
  | .qsync _ => some ⟨false, 6#6, 4#6, false⟩
  | .bkpt _ => some ⟨false, 6#6, 5#6, false⟩
  | .trap _ => some ⟨false, 6#6, 6#6, false⟩
  | .rank _ => some ⟨false, 7#6, 0#6, false⟩
  | .plop _ => some ⟨false, 7#6, 1#6, false⟩
  | .s2v _ => some ⟨false, 7#6, 2#6, false⟩
  | .s2g _ => some ⟨false, 7#6, 3#6, false⟩
  | .shfl _ => some ⟨false, 8#6, 0#6, false⟩
  | .vote _ => some ⟨false, 9#6, 0#6, false⟩
  | .matchv _ => some ⟨false, 10#6, 0#6, false⟩
  | .qred _ => some ⟨false, 11#6, 0#6, false⟩
  | .iaddOneWord _ => some ⟨false, 12#6, 0#6, false⟩
  | .iaddTwoWord _ => some ⟨false, 21#6, 0#6, false⟩
  | .iaddc _ => some ⟨false, 21#6, 1#6, false⟩
  | .isubOneWord _ => some ⟨false, 13#6, 0#6, false⟩
  | .isubTwoWord _ => some ⟨false, 21#6, 2#6, false⟩
  | .isubb _ => some ⟨false, 21#6, 3#6, false⟩
  | .imulOneWord _ => some ⟨false, 14#6, 0#6, false⟩
  | .imulTwoWord _ => some ⟨false, 21#6, 4#6, false⟩
  | .imulh _ => some ⟨false, 21#6, 5#6, false⟩
  | .imad _ => some ⟨false, 21#6, 6#6, false⟩
  | .imadw _ => some ⟨false, 21#6, 7#6, false⟩
  | .imin _ => some ⟨false, 21#6, 8#6, false⟩
  | .imax _ => some ⟨false, 21#6, 9#6, false⟩
  | .iabs _ => some ⟨false, 21#6, 10#6, false⟩
  | .ineg _ => some ⟨false, 21#6, 11#6, false⟩
  | .isad _ => some ⟨false, 21#6, 12#6, false⟩
  | .andOneWord _ => some ⟨false, 15#6, 0#6, false⟩
  | .andTwoWord _ => some ⟨false, 22#6, 0#6, false⟩
  | .orOneWord _ => some ⟨false, 16#6, 0#6, false⟩
  | .orTwoWord _ => some ⟨false, 22#6, 1#6, false⟩
  | .xorOneWord _ => some ⟨false, 17#6, 0#6, false⟩
  | .xorTwoWord _ => some ⟨false, 22#6, 2#6, false⟩
  | .andn _ => some ⟨false, 22#6, 3#6, false⟩
  | .lop3 _ => some ⟨false, 22#6, 4#6, false⟩
  | .shlOneWord _ => some ⟨false, 18#6, 0#6, false⟩
  | .shlTwoWord _ => some ⟨false, 23#6, 0#6, false⟩
  | .shrOneWord _ => some ⟨false, 19#6, 0#6, false⟩
  | .shrTwoWord _ => some ⟨false, 23#6, 1#6, false⟩
  | .sar _ => some ⟨false, 23#6, 2#6, false⟩
  | .shf _ => some ⟨false, 23#6, 3#6, false⟩
  | .popc _ => some ⟨false, 23#6, 4#6, false⟩
  | .clz _ => some ⟨false, 23#6, 5#6, false⟩
  | .ctz _ => some ⟨false, 23#6, 6#6, false⟩
  | .brev _ => some ⟨false, 23#6, 7#6, false⟩
  | .bfx _ => some ⟨false, 23#6, 8#6, false⟩
  | .bfi _ => some ⟨false, 23#6, 9#6, false⟩
  | .iset _ => some ⟨false, 24#6, 0#6, false⟩
  | .isel _ => some ⟨false, 24#6, 1#6, false⟩
  | .movOneWord _ => some ⟨false, 20#6, 0#6, false⟩
  | .movTwoWord _ => some ⟨false, 24#6, 2#6, false⟩
  | .movi _ => some ⟨false, 24#6, 3#6, false⟩
  | .lea _ => some ⟨false, 24#6, 4#6, false⟩
  | .prmt _ => some ⟨false, 24#6, 5#6, false⟩
  | .faddOneWord _ => some ⟨false, 28#6, 0#6, false⟩
  | .faddTwoWord _ => some ⟨false, 30#6, 0#6, false⟩
  | .fmulOneWord _ => some ⟨false, 29#6, 0#6, false⟩
  | .fmulTwoWord _ => some ⟨false, 30#6, 1#6, false⟩
  | .ffma _ => some ⟨false, 30#6, 2#6, false⟩
  | .fmin _ => some ⟨false, 30#6, 3#6, false⟩
  | .fmax _ => some ⟨false, 30#6, 4#6, false⟩
  | .fset _ => some ⟨false, 30#6, 5#6, false⟩
  | .fclass _ => some ⟨false, 30#6, 6#6, false⟩
  | .frnd _ => some ⟨false, 30#6, 7#6, false⟩
  | .fscl _ => some ⟨false, 30#6, 8#6, false⟩
  | .frcp _ => some ⟨false, 31#6, 0#6, true⟩
  | .frsq _ => some ⟨false, 31#6, 1#6, true⟩
  | .fsqrt _ => some ⟨false, 31#6, 2#6, true⟩
  | .fex2 _ => some ⟨false, 31#6, 3#6, true⟩
  | .flg2 _ => some ⟨false, 31#6, 4#6, true⟩
  | .fsin _ => some ⟨false, 31#6, 5#6, true⟩
  | .fcos _ => some ⟨false, 31#6, 6#6, true⟩
  | .hadd2 _ => some ⟨false, 32#6, 0#6, false⟩
  | .hmul2 _ => some ⟨false, 32#6, 1#6, false⟩
  | .hfma2 _ => some ⟨false, 32#6, 2#6, false⟩
  | .hmnx2 _ => some ⟨false, 32#6, 3#6, false⟩
  | .cvt _ => some ⟨false, 36#6, 0#6, false⟩
  | .cvtp _ => some ⟨false, 36#6, 1#6, false⟩
  | .cvtx _ => some ⟨false, 36#6, 2#6, false⟩
  | .f2i _ => some ⟨false, 36#6, 3#6, false⟩
  | .i2f _ => some ⟨false, 36#6, 4#6, false⟩
  | .qblk _ => some ⟨false, 37#6, 0#6, false⟩
  | .qtile _ => some ⟨false, 37#6, 1#6, true⟩
  | .unq _ => some ⟨false, 37#6, 2#6, false⟩
  | .plx _ => some ⟨false, 37#6, 3#6, false⟩
  | .pli _ => some ⟨false, 37#6, 4#6, false⟩
  | .trlck _ => some ⟨false, 37#6, 5#6, true⟩
  | .sclx _ => some ⟨false, 37#6, 6#6, false⟩
  | .ld _ => some ⟨false, 40#6, 0#6, true⟩
  | .st _ => some ⟨false, 41#6, 0#6, false⟩
  | .lds _ => some ⟨false, 42#6, 0#6, true⟩
  | .sts _ => some ⟨false, 42#6, 1#6, false⟩
  | .ldp _ => some ⟨false, 43#6, 0#6, true⟩
  | .stp _ => some ⟨false, 43#6, 1#6, false⟩
  | .ldt _ => some ⟨false, 44#6, 0#6, true⟩
  | .stt _ => some ⟨false, 44#6, 1#6, false⟩
  | .tdef _ => some ⟨false, 44#6, 2#6, false⟩
  | .tset _ => some ⟨false, 44#6, 3#6, false⟩
  | .tqry _ => some ⟨false, 44#6, 4#6, false⟩
  | .pref _ => some ⟨false, 45#6, 0#6, false⟩
  | .cctl _ => some ⟨false, 45#6, 1#6, true⟩
  | .tagld _ => some ⟨false, 45#6, 2#6, true⟩
  | .tagst _ => some ⟨false, 45#6, 3#6, false⟩
  | .fence _ => some ⟨false, 48#6, 0#6, false⟩
  | .fsp _ => some ⟨false, 49#6, 0#6, false⟩
  | .atom _ => some ⟨false, 50#6, 0#6, true⟩
  | .red _ => some ⟨false, 51#6, 0#6, true⟩
  | .atoms _ => some ⟨false, 52#6, 0#6, true⟩
  | .atomp _ => some ⟨false, 52#6, 1#6, true⟩
  | .redp _ => some ⟨false, 52#6, 2#6, true⟩
  | .pusht _ => some ⟨false, 53#6, 0#6, true⟩
  | .taket _ => some ⟨false, 53#6, 1#6, true⟩
  | .takeh _ => some ⟨false, 53#6, 2#6, true⟩
  | .prop _ => some ⟨false, 54#6, 0#6, true⟩
  | .dread _ => some ⟨false, 54#6, 1#6, true⟩
  | .dwait _ => some ⟨false, 54#6, 2#6, true⟩
  | .recy _ => some ⟨false, 54#6, 3#6, true⟩
  | .dqry _ => some ⟨false, 55#6, 0#6, true⟩
  | .dinit _ => some ⟨false, 55#6, 1#6, true⟩
  | .bara _ => some ⟨false, 56#6, 0#6, false⟩
  | .bars _ => some ⟨false, 56#6, 1#6, false⟩
  | .barr _ => some ⟨false, 56#6, 2#6, false⟩
  | .sbar _ => some ⟨false, 57#6, 0#6, false⟩
  | .sbara _ => some ⟨false, 57#6, 1#6, true⟩
  | .waitx _ => some ⟨false, 57#6, 2#6, false⟩
  | .sigx _ => some ⟨false, 57#6, 3#6, false⟩
  | .acp _ => some ⟨false, 58#6, 0#6, true⟩
  | .acpg _ => some ⟨false, 58#6, 1#6, true⟩
  | .acpr _ => some ⟨false, 58#6, 2#6, true⟩
  | .cwait _ => some ⟨false, 59#6, 0#6, false⟩
  | .shdw _ => some ⟨false, 59#6, 1#6, true⟩
  | .publ _ => some ⟨false, 59#6, 2#6, true⟩
  | .abnd _ => some ⟨false, 59#6, 3#6, true⟩
  | .obres _ => some ⟨false, 60#6, 0#6, false⟩
  | .obrel _ => some ⟨false, 60#6, 1#6, false⟩
  | .obld _ => some ⟨false, 60#6, 2#6, true⟩
  | .obldg _ => some ⟨false, 60#6, 3#6, true⟩
  | .msign _ => some ⟨false, 60#6, 4#6, false⟩
  | .mma _ => some ⟨false, 61#6, 0#6, true⟩
  | .mmaq _ => some ⟨false, 61#6, 1#6, true⟩
  | .accz _ => some ⟨false, 61#6, 2#6, true⟩
  | .accst _ => some ⟨false, 61#6, 3#6, true⟩
  | .accrd _ => some ⟨false, 61#6, 4#6, true⟩
  | .sprg _ => some ⟨false, 62#6, 0#6, false⟩
  | .sprgw _ => some ⟨false, 62#6, 1#6, true⟩
  | .gbra _ => some ⟨true, 0#6, 0#6, false⟩
  | .gloop _ => some ⟨true, 1#6, 0#6, false⟩
  | .gaddOneWord _ => some ⟨true, 2#6, 0#6, false⟩
  | .gaddTwoWord _ => some ⟨true, 21#6, 0#6, false⟩
  | .gsubOneWord _ => some ⟨true, 3#6, 0#6, false⟩
  | .gsubTwoWord _ => some ⟨true, 21#6, 1#6, false⟩
  | .gmulOneWord _ => some ⟨true, 4#6, 0#6, false⟩
  | .gmulTwoWord _ => some ⟨true, 21#6, 2#6, false⟩
  | .gmad _ => some ⟨true, 21#6, 3#6, false⟩
  | .gandOneWord _ => some ⟨true, 5#6, 0#6, false⟩
  | .gandTwoWord _ => some ⟨true, 21#6, 4#6, false⟩
  | .gorOneWord _ => some ⟨true, 6#6, 0#6, false⟩
  | .gorTwoWord _ => some ⟨true, 21#6, 5#6, false⟩
  | .gxorOneWord _ => some ⟨true, 7#6, 0#6, false⟩
  | .gxorTwoWord _ => some ⟨true, 21#6, 6#6, false⟩
  | .gshlOneWord _ => some ⟨true, 8#6, 0#6, false⟩
  | .gshlTwoWord _ => some ⟨true, 21#6, 7#6, false⟩
  | .gshrOneWord _ => some ⟨true, 9#6, 0#6, false⟩
  | .gshrTwoWord _ => some ⟨true, 21#6, 8#6, false⟩
  | .gsarOneWord _ => some ⟨true, 10#6, 0#6, false⟩
  | .gsarTwoWord _ => some ⟨true, 21#6, 9#6, false⟩
  | .gminOneWord _ => some ⟨true, 11#6, 0#6, false⟩
  | .gminTwoWord _ => some ⟨true, 21#6, 10#6, false⟩
  | .gmaxOneWord _ => some ⟨true, 12#6, 0#6, false⟩
  | .gmaxTwoWord _ => some ⟨true, 21#6, 11#6, false⟩
  | .gmov _ => some ⟨true, 13#6, 0#6, false⟩
  | .gmovi _ => some ⟨true, 14#6, 0#6, false⟩
  | .gset _ => some ⟨true, 15#6, 0#6, false⟩
  | .gsel _ => some ⟨true, 16#6, 0#6, false⟩
  | .gld _ => some ⟨true, 17#6, 0#6, true⟩
  | .g2v _ => some ⟨true, 18#6, 0#6, false⟩
  | .v2g _ => some ⟨true, 19#6, 0#6, false⟩
  | .gplop _ => some ⟨true, 20#6, 0#6, false⟩
  | .launch _ => some ⟨true, 32#6, 0#6, true⟩
  | .spawn _ => some ⟨true, 33#6, 0#6, true⟩
  | .jdec _ => some ⟨true, 34#6, 0#6, true⟩
  | .tstat _ => some ⟨true, 35#6, 0#6, true⟩
  | .tcancel _ => some ⟨true, 36#6, 0#6, true⟩
  | .gang _ => some ⟨true, 37#6, 0#6, true⟩
  | .srrd _ => some ⟨true, 40#6, 0#6, false⟩
  | .srwr _ => some ⟨true, 41#6, 0#6, false⟩
  | .sysc _ => some ⟨true, 42#6, 0#6, false⟩
  | .eret _ => some ⟨true, 43#6, 0#6, false⟩
  | .tlbinv _ => some ⟨true, 44#6, 0#6, false⟩
  | .lrev _ => some ⟨true, 45#6, 0#6, true⟩
  | .ctxstop _ => some ⟨true, 46#6, 0#6, true⟩
  | .ctxgo _ => some ⟨true, 47#6, 0#6, false⟩
  | .wcap _ => some ⟨true, 48#6, 0#6, false⟩
  | .triq _ => some ⟨true, 49#6, 0#6, false⟩
  | .trirs _ => some ⟨true, 50#6, 0#6, false⟩
  | .twrst _ => some ⟨true, 51#6, 0#6, true⟩
  | .keyld _ => some ⟨true, 52#6, 0#6, true⟩
  | .scrub _ => some ⟨true, 56#6, 0#6, true⟩
  | .tiermv _ => some ⟨true, 57#6, 0#6, true⟩
  | .poison _ => some ⟨true, 58#6, 0#6, false⟩
  | .retire _ => some ⟨true, 59#6, 0#6, true⟩
  | .hinst _ => some ⟨true, 60#6, 0#6, true⟩
  | .hdrop _ => some ⟨true, 61#6, 0#6, true⟩
  | .rowrd _ => some ⟨true, 62#6, 0#6, false⟩
  | .rowwr _ => some ⟨true, 62#6, 1#6, false⟩
  | .rowred _ => some ⟨true, 62#6, 2#6, false⟩
  | .linerd _ => some ⟨true, 62#6, 3#6, false⟩
  | .linewr _ => some ⟨true, 62#6, 4#6, false⟩
  | .reply _ => some ⟨true, 62#6, 5#6, false⟩
  | _ => none

/-- The operand fields of an instruction; an event has none. -/
def Instr.fields : Instr → Option Fields
  | .bra w => some (.br w)
  | .brx w => some (.w1 w)
  | .call w => some (.w2 w)
  | .callx w => some (.w1 w)
  | .ret w => some (.w1 w)
  | .nop w => some (.w1 w)
  | .exit w => some (.w2 w)
  | .tail w => some (.w2 w)
  | .yield w => some (.w2 w)
  | .nap w => some (.w2 w)
  | .qsync w => some (.w2 w)
  | .bkpt w => some (.w2 w)
  | .trap w => some (.w2 w)
  | .rank w => some (.w2 w)
  | .plop w => some (.w2 w)
  | .s2v w => some (.w2 w)
  | .s2g w => some (.w2 w)
  | .shfl w => some (.w2 w)
  | .vote w => some (.w2 w)
  | .matchv w => some (.w2 w)
  | .qred w => some (.w2 w)
  | .iaddOneWord w => some (.w1 w)
  | .iaddTwoWord w => some (.w2 w)
  | .iaddc w => some (.w2 w)
  | .isubOneWord w => some (.w1 w)
  | .isubTwoWord w => some (.w2 w)
  | .isubb w => some (.w2 w)
  | .imulOneWord w => some (.w1 w)
  | .imulTwoWord w => some (.w2 w)
  | .imulh w => some (.w2 w)
  | .imad w => some (.w2 w)
  | .imadw w => some (.w2 w)
  | .imin w => some (.w2 w)
  | .imax w => some (.w2 w)
  | .iabs w => some (.w2 w)
  | .ineg w => some (.w2 w)
  | .isad w => some (.w2 w)
  | .andOneWord w => some (.w1 w)
  | .andTwoWord w => some (.w2 w)
  | .orOneWord w => some (.w1 w)
  | .orTwoWord w => some (.w2 w)
  | .xorOneWord w => some (.w1 w)
  | .xorTwoWord w => some (.w2 w)
  | .andn w => some (.w2 w)
  | .lop3 w => some (.w2 w)
  | .shlOneWord w => some (.w1 w)
  | .shlTwoWord w => some (.w2 w)
  | .shrOneWord w => some (.w1 w)
  | .shrTwoWord w => some (.w2 w)
  | .sar w => some (.w2 w)
  | .shf w => some (.w2 w)
  | .popc w => some (.w2 w)
  | .clz w => some (.w2 w)
  | .ctz w => some (.w2 w)
  | .brev w => some (.w2 w)
  | .bfx w => some (.w2 w)
  | .bfi w => some (.w2 w)
  | .iset w => some (.w2 w)
  | .isel w => some (.w2 w)
  | .movOneWord w => some (.w1 w)
  | .movTwoWord w => some (.w2 w)
  | .movi w => some (.w2 w)
  | .lea w => some (.w2 w)
  | .prmt w => some (.w2 w)
  | .faddOneWord w => some (.w1 w)
  | .faddTwoWord w => some (.w2 w)
  | .fmulOneWord w => some (.w1 w)
  | .fmulTwoWord w => some (.w2 w)
  | .ffma w => some (.w2 w)
  | .fmin w => some (.w2 w)
  | .fmax w => some (.w2 w)
  | .fset w => some (.w2 w)
  | .fclass w => some (.w2 w)
  | .frnd w => some (.w2 w)
  | .fscl w => some (.w2 w)
  | .frcp w => some (.w2 w)
  | .frsq w => some (.w2 w)
  | .fsqrt w => some (.w2 w)
  | .fex2 w => some (.w2 w)
  | .flg2 w => some (.w2 w)
  | .fsin w => some (.w2 w)
  | .fcos w => some (.w2 w)
  | .hadd2 w => some (.w2 w)
  | .hmul2 w => some (.w2 w)
  | .hfma2 w => some (.w2 w)
  | .hmnx2 w => some (.w2 w)
  | .cvt w => some (.w2 w)
  | .cvtp w => some (.w2 w)
  | .cvtx w => some (.w2 w)
  | .f2i w => some (.w2 w)
  | .i2f w => some (.w2 w)
  | .qblk w => some (.w2 w)
  | .qtile w => some (.w2 w)
  | .unq w => some (.w2 w)
  | .plx w => some (.w2 w)
  | .pli w => some (.w2 w)
  | .trlck w => some (.w2 w)
  | .sclx w => some (.w2 w)
  | .ld w => some (.w2 w)
  | .st w => some (.w2 w)
  | .lds w => some (.w2 w)
  | .sts w => some (.w2 w)
  | .ldp w => some (.w2 w)
  | .stp w => some (.w2 w)
  | .ldt w => some (.w2 w)
  | .stt w => some (.w2 w)
  | .tdef w => some (.w2 w)
  | .tset w => some (.w2 w)
  | .tqry w => some (.w2 w)
  | .pref w => some (.w2 w)
  | .cctl w => some (.w2 w)
  | .tagld w => some (.w2 w)
  | .tagst w => some (.w2 w)
  | .fence w => some (.w2 w)
  | .fsp w => some (.w1 w)
  | .atom w => some (.w2 w)
  | .red w => some (.w2 w)
  | .atoms w => some (.w2 w)
  | .atomp w => some (.w2 w)
  | .redp w => some (.w2 w)
  | .pusht w => some (.w2 w)
  | .taket w => some (.w2 w)
  | .takeh w => some (.w2 w)
  | .prop w => some (.w2 w)
  | .dread w => some (.w2 w)
  | .dwait w => some (.w2 w)
  | .recy w => some (.w2 w)
  | .dqry w => some (.w2 w)
  | .dinit w => some (.w2 w)
  | .bara w => some (.w2 w)
  | .bars w => some (.w2 w)
  | .barr w => some (.w2 w)
  | .sbar w => some (.w2 w)
  | .sbara w => some (.w2 w)
  | .waitx w => some (.w2 w)
  | .sigx w => some (.w2 w)
  | .acp w => some (.w2 w)
  | .acpg w => some (.w2 w)
  | .acpr w => some (.w2 w)
  | .cwait w => some (.w2 w)
  | .shdw w => some (.w2 w)
  | .publ w => some (.w2 w)
  | .abnd w => some (.w2 w)
  | .obres w => some (.w2 w)
  | .obrel w => some (.w2 w)
  | .obld w => some (.w2 w)
  | .obldg w => some (.w2 w)
  | .msign w => some (.w2 w)
  | .mma w => some (.w2 w)
  | .mmaq w => some (.w2 w)
  | .accz w => some (.w2 w)
  | .accst w => some (.w2 w)
  | .accrd w => some (.w2 w)
  | .sprg w => some (.w2 w)
  | .sprgw w => some (.w2 w)
  | .gbra w => some (.br w)
  | .gloop w => some (.w2 w)
  | .gaddOneWord w => some (.w1 w)
  | .gaddTwoWord w => some (.w2 w)
  | .gsubOneWord w => some (.w1 w)
  | .gsubTwoWord w => some (.w2 w)
  | .gmulOneWord w => some (.w1 w)
  | .gmulTwoWord w => some (.w2 w)
  | .gmad w => some (.w2 w)
  | .gandOneWord w => some (.w1 w)
  | .gandTwoWord w => some (.w2 w)
  | .gorOneWord w => some (.w1 w)
  | .gorTwoWord w => some (.w2 w)
  | .gxorOneWord w => some (.w1 w)
  | .gxorTwoWord w => some (.w2 w)
  | .gshlOneWord w => some (.w1 w)
  | .gshlTwoWord w => some (.w2 w)
  | .gshrOneWord w => some (.w1 w)
  | .gshrTwoWord w => some (.w2 w)
  | .gsarOneWord w => some (.w1 w)
  | .gsarTwoWord w => some (.w2 w)
  | .gminOneWord w => some (.w1 w)
  | .gminTwoWord w => some (.w2 w)
  | .gmaxOneWord w => some (.w1 w)
  | .gmaxTwoWord w => some (.w2 w)
  | .gmov w => some (.w1 w)
  | .gmovi w => some (.w2 w)
  | .gset w => some (.w2 w)
  | .gsel w => some (.w2 w)
  | .gld w => some (.w2 w)
  | .g2v w => some (.w1 w)
  | .v2g w => some (.w2 w)
  | .gplop w => some (.w2 w)
  | .launch w => some (.w2 w)
  | .spawn w => some (.w2 w)
  | .jdec w => some (.w2 w)
  | .tstat w => some (.w2 w)
  | .tcancel w => some (.w2 w)
  | .gang w => some (.w2 w)
  | .srrd w => some (.w2 w)
  | .srwr w => some (.w2 w)
  | .sysc w => some (.sysc w)
  | .eret w => some (.w1 w)
  | .tlbinv w => some (.w2 w)
  | .lrev w => some (.w2 w)
  | .ctxstop w => some (.w2 w)
  | .ctxgo w => some (.w2 w)
  | .wcap w => some (.w2 w)
  | .triq w => some (.w2 w)
  | .trirs w => some (.w2 w)
  | .twrst w => some (.w2 w)
  | .keyld w => some (.w2 w)
  | .scrub w => some (.w2 w)
  | .tiermv w => some (.w2 w)
  | .poison w => some (.w2 w)
  | .retire w => some (.w2 w)
  | .hinst w => some (.w2 w)
  | .hdrop w => some (.w2 w)
  | .rowrd w => some (.w2 w)
  | .rowwr w => some (.w2 w)
  | .rowred w => some (.w2 w)
  | .linerd w => some (.w2 w)
  | .linewr w => some (.w2 w)
  | .reply w => some (.w2 w)
  | _ => none

/-- What the fields of an instruction may hold. -/
def encOf : Instr → Enc
  | .bra _ => {}
  | .brx _ => { a := .vp }
  | .call w => { d := .vp, imm := .only, tys := some ([0]), sub := w.x.sub == 0#4 }
  | .callx _ => { d := .vp, a := .vp }
  | .ret _ => { a := .vp }
  | .nop _ => {}
  | .exit w => { tys := some ([0]), sub := w.x.sub == 0#4 }
  | .tail w => { tys := some ([0]), sub := w.x.sub == 0#4 }
  | .yield w => { tys := some ([0]), sub := w.x.sub == 0#4 }
  | .nap w => { tys := some ([0]), b := .v, bs := true, imm := .also, sub := w.x.sub == 0#4 }
  | .qsync w => { tys := some ([0]), b := .v, bs := true, sub := w.x.sub == 0#4 }
  | .bkpt w => { tys := some ([0]), imm := .also, sub := w.x.sub == 0#4 }
  | .trap w => { tys := some ([0]), imm := .also, sub := w.x.sub == 0#4 }
  | .rank w => { tys := some ([0]), d := .vp, scopes := [0, 1, 2], sub := w.x.sub == 0#4 }
  | .plop _ => { tys := some ([0]), d := .p, a := .p, b := .p, sub := true }
  | .s2v w => { tys := some ([0]), d := .v, a := .sreg, sub := w.x.sub == 0#4 }
  | .s2g w => { tys := some ([0]), d := .g, a := .sreg, sub := w.x.sub == 0#4 }
  | .shfl _ => { tys := some ([0]), d := .v, a := .v, b := .v, bs := true, c := .p, sub := true }
  | .vote w => { tys := some ([0]), d := if w.x.sub &&& 3#4 == 0#4 then .v else .p, a := .p, sub := !(w.x.sub.getLsbD 3) || w.x.sub &&& 3#4 == 0#4 }
  | .matchv w => { d := .v, a := w.x.vW, c := .p, tys := some ([0, 3, 4, 7, 8]), sub := w.x.sub.toNat ≤ 2 }
  | .qred w => { d := if w.x.sub.getLsbD 3 then .g else .v, a := .v, tys := some (if 3 ≤ (w.x.sub &&& 7#4).toNat then [0, 3, 7] else [0, 3, 7, 9]), rnd := w.x.ty == 9#5, sub := (w.x.sub &&& 7#4).toNat ≤ 5 }
  | .iaddOneWord _ => { d := .v, a := .v, b := .v }
  | .iaddTwoWord w => { d := w.x.vW, a := w.x.vW, b := w.x.vW, bs := true, tys := some (tyInt4), imm := .also, sub := w.x.sub.toNat ≤ 1 }
  | .iaddc w => { d := .v, a := .v, b := .v, bs := true, tys := some (tyInt2), imm := .also, c := .p, sub := w.x.sub == 0#4 }
  | .isubOneWord _ => { d := .v, a := .v, b := .v }
  | .isubTwoWord w => { d := w.x.vW, a := w.x.vW, b := w.x.vW, bs := true, tys := some (tyInt4), imm := .also, sub := w.x.sub.toNat ≤ 1 }
  | .isubb w => { d := .v, a := .v, b := .v, bs := true, tys := some (tyInt2), imm := .also, c := .p, sub := w.x.sub == 0#4 }
  | .imulOneWord _ => { d := .v, a := .v, b := .v }
  | .imulTwoWord w => { d := w.x.vW, a := w.x.vW, b := w.x.vW, bs := true, tys := some (tyInt4), imm := .also, sub := w.x.sub.toNat ≤ 1 }
  | .imulh w => { d := w.x.vW, a := w.x.vW, b := w.x.vW, bs := true, tys := some (tyInt4), imm := .also, sub := w.x.sub == 0#4 }
  | .imad w => { d := w.x.vW, a := w.x.vW, b := w.x.vW, bs := true, tys := some (tyInt4), imm := .also, sub := w.x.sub.toNat ≤ 1, c := w.x.vW }
  | .imadw w => { d := .vp, a := .v, b := .v, bs := true, c := .vp, tys := some (tyInt2), imm := .also, sub := w.x.sub == 0#4 }
  | .imin w => { d := w.x.vW, a := w.x.vW, b := w.x.vW, bs := true, tys := some (tyInt4), imm := .also, sub := w.x.sub == 0#4 }
  | .imax w => { d := w.x.vW, a := w.x.vW, b := w.x.vW, bs := true, tys := some (tyInt4), imm := .also, sub := w.x.sub == 0#4 }
  | .iabs w => { d := w.x.vW, a := w.x.vW, tys := some ([0, 3, 4]), sub := w.x.sub.toNat ≤ 1 }
  | .ineg w => { d := w.x.vW, a := w.x.vW, tys := some ([0, 3, 4]), sub := w.x.sub.toNat ≤ 1 }
  | .isad w => { d := .v, a := .v, b := .v, bs := true, tys := some ([0, 3, 7, 5]), imm := .also, c := .v, sub := w.x.sub == 0#4 }
  | .andOneWord _ => { d := .v, a := .v, b := .v }
  | .andTwoWord w => { d := .v, a := .v, b := .v, bs := true, tys := some ([0]), imm := .also, sub := w.x.sub == 0#4 }
  | .orOneWord _ => { d := .v, a := .v, b := .v }
  | .orTwoWord w => { d := .v, a := .v, b := .v, bs := true, tys := some ([0]), imm := .also, sub := w.x.sub == 0#4 }
  | .xorOneWord _ => { d := .v, a := .v, b := .v }
  | .xorTwoWord w => { d := .v, a := .v, b := .v, bs := true, tys := some ([0]), imm := .also, sub := w.x.sub == 0#4 }
  | .andn w => { d := .v, a := .v, b := .v, bs := true, tys := some ([0]), imm := .also, sub := w.x.sub == 0#4 }
  | .lop3 w => { d := .v, a := .v, b := .v, c := .v, lop3 := true, sub := w.x.sub == 0#4 }
  | .shlOneWord _ => { d := .v, a := .v, b := .v }
  | .shlTwoWord w => { d := w.x.vW, a := w.x.vW, b := .v, bs := true, tys := some (tyInt4), imm := .also, sub := w.x.sub.toNat ≤ 1 }
  | .shrOneWord _ => { d := .v, a := .v, b := .v }
  | .shrTwoWord w => { d := w.x.vW, a := w.x.vW, b := .v, bs := true, tys := some (tyInt4), imm := .also, sub := w.x.sub.toNat ≤ 1 }
  | .sar w => { d := w.x.vW, a := w.x.vW, b := .v, bs := true, tys := some (tyInt4), imm := .also, sub := w.x.sub.toNat ≤ 1 }
  | .shf w => { d := .v, a := .v, b := .v, bs := true, tys := some ([0]), imm := .also, sub := w.x.sub.toNat ≤ 3, c := .v }
  | .popc w => { d := .v, a := w.x.vW, tys := some (tyInt4), sub := w.x.sub == 0#4 }
  | .clz w => { d := .v, a := w.x.vW, tys := some (tyInt4), sub := w.x.sub == 0#4 }
  | .ctz w => { d := .v, a := w.x.vW, tys := some (tyInt4), sub := w.x.sub == 0#4 }
  | .brev w => { d := w.x.vW, a := w.x.vW, tys := some (tyInt4), sub := w.x.sub == 0#4 }
  | .bfx w => { d := .v, a := .v, b := .v, bs := true, tys := some (tyInt2), imm := .also, sub := w.x.sub == 0#4 }
  | .bfi w => { d := .v, a := .v, b := .v, bs := true, tys := some ([0]), imm := .also, c := .v, sub := w.x.sub == 0#4 }
  | .iset w => { d := if w.x.sub.getLsbD 3 then .p else .v, a := w.x.vW, b := w.x.vW, bs := true, tys := some (tyInt4), imm := .also, sub := (w.x.sub &&& 7#4).toNat ≤ 5 }
  | .isel w => { d := w.x.vW, a := w.x.vW, b := w.x.vW, bs := true, tys := some (tyInt4), imm := .also, c := .p, sub := w.x.sub == 0#4 }
  | .movOneWord _ => { d := .v, a := .v }
  | .movTwoWord w => { d := w.x.vW, a := w.x.vW, tys := some (tyInt4), sub := w.x.sub == 0#4 }
  | .movi w => { d := w.x.vW, a := .movMode, imm := .only, tys := some (if w.a == 1#7 then tyInt2 else tyInt4), sub := w.x.sub == 0#4 }
  | .lea w => { d := .vp, a := .vp, b := .v, bs := true, tys := some (tyInt2), imm := .also, sub := w.x.sub.toNat ≤ 7 }
  | .prmt w => { d := .v, a := .v, b := .v, bs := true, tys := some ([0]), imm := .also, c := .v, sub := w.x.sub == 0#4 }
  | .faddOneWord _ => { d := .v, a := .v, b := .v }
  | .faddTwoWord w => { d := .v, a := .v, b := .v, bs := true, tys := some ([0, 9]), rnd := true, sub := w.x.sub.toNat ≤ 3, imm := .also }
  | .fmulOneWord _ => { d := .v, a := .v, b := .v }
  | .fmulTwoWord w => { d := .v, a := .v, b := .v, bs := true, tys := some ([0, 9]), rnd := true, sub := w.x.sub.toNat ≤ 3, imm := .also }
  | .ffma w => { d := .v, a := .v, b := .v, bs := true, c := .v, tys := some ([0, 9]), rnd := true, sub := w.x.sub.toNat ≤ 7, imm := .also }
  | .fmin w => { d := .v, a := .v, b := .v, bs := true, tys := some ([0, 9]), sub := w.x.sub.toNat ≤ 1, imm := .also }
  | .fmax w => { d := .v, a := .v, b := .v, bs := true, tys := some ([0, 9]), sub := w.x.sub.toNat ≤ 1, imm := .also }
  | .fset w => { d := if w.x.sub.getLsbD 3 then .p else .v, a := .v, b := .v, bs := true, tys := some ([0, 9]), sub := true, imm := .also }
  | .fclass w => { d := if w.x.sub.getLsbD 3 || w.x.isImm then .p else .v, a := .v, b := if w.x.sub.getLsbD 3 then .v else .zero, bs := w.x.sub.getLsbD 3, tys := some ([0, 9]), sub := w.x.sub &&& 7#4 == 0#4, imm := .also }
  | .frnd w => { d := .v, a := .v, tys := some ([0, 9]), rnd := true, sub := w.x.sub.toNat ≤ 1 }
  | .fscl w => { d := .v, a := .v, b := .v, bs := true, tys := some ([0, 9]), rnd := true, sub := w.x.sub.toNat ≤ 1, imm := .also }
  | .frcp w => { d := .v, a := .v, tys := some ([0, 9]), sub := w.x.sub.toNat ≤ 1 }
  | .frsq w => { d := .v, a := .v, tys := some ([0, 9]), sub := w.x.sub.toNat ≤ 1 }
  | .fsqrt w => { d := .v, a := .v, tys := some ([0, 9]), sub := w.x.sub.toNat ≤ 1, rnd := true }
  | .fex2 w => { d := .v, a := .v, tys := some ([0, 9]), sub := w.x.sub.toNat ≤ 1 }
  | .flg2 w => { d := .v, a := .v, tys := some ([0, 9]), sub := w.x.sub.toNat ≤ 1 }
  | .fsin w => { d := .v, a := .v, tys := some ([0, 9]), sub := w.x.sub.toNat ≤ 1 }
  | .fcos w => { d := .v, a := .v, tys := some ([0, 9]), sub := w.x.sub.toNat ≤ 1 }
  | .hadd2 w => { d := .v, a := .v, b := .v, bs := true, tys := some ([0, 12, 13]), rnd := true, sub := w.x.sub &&& 0xD#4 == 0#4 }
  | .hmul2 w => { d := .v, a := .v, b := .v, bs := true, tys := some ([0, 12, 13]), rnd := true, sub := w.x.sub &&& 0xD#4 == 0#4 }
  | .hfma2 w => { d := .v, a := .v, b := .v, bs := true, c := .v, tys := some ([0, 12, 13]), rnd := true, sub := w.x.sub &&& 9#4 == 0#4 }
  | .hmnx2 w => { d := .v, a := .v, b := .v, bs := true, tys := some ([0, 12, 13]), sub := w.x.sub.toNat ≤ 1 }
  | .cvt w => { d := .v, a := .v, tys := some ([9, 10, 11, 14, 15, 16]), rnd := true, sub := (w.x.sub &&& 7#4).toNat ≤ 5 && (!(w.x.sub.getLsbD 3) || w.x.ty == 14#5 || w.x.ty == 15#5) && cvtSrcType (w.x.sub &&& 7#4).toNat != w.x.ty.toNat }
  | .cvtp w => { d := .v, a := .v, b := .v, bs := true, c := if w.x.ty == 12#5 || w.x.ty == 13#5 then .zero else .v, tys := some ([12, 13, 14, 15]), rnd := true, sub := w.x.sub &&& 6#4 == 0#4 && (w.x.sub == 0#4 || w.x.ty == 14#5 || w.x.ty == 15#5) }
  | .cvtx w => { d := .v, a := .v, b := .v, bs := true, tys := some ([12, 13, 14, 15, 16]), imm := .also, sub := w.x.sub == 0#4 }
  | .f2i w => { d := w.x.vW, a := .v, tys := some ([1, 2, 3, 4, 5, 6, 7, 8]), rnd := true, sub := w.x.sub.toNat ≤ 4 }
  | .i2f w => { d := .v, a := if w.x.sub == 4#4 || w.x.sub == 8#4 then .vp else .v, tys := some ([9, 10, 11]), rnd := true, sub := 1 ≤ w.x.sub.toNat && w.x.sub.toNat ≤ 8 }
  | .qblk w => { d := .v, a := .v, tys := some ([14, 15, 23]), rnd := true, sub := w.x.sub == 0#4 }
  | .qtile w => { d := .tile, a := .tile, tys := some ([14, 15, 23]), rnd := true, sub := w.x.sub == 0#4 }
  | .unq w => { d := .v, a := .v, b := .v, bs := true, tys := some ([14, 15, 17, 18, 19, 20, 21, 22, 23]), rnd := true, sub := w.x.sub.toNat ≤ 3, imm := .also }
  | .plx w => { d := .v, a := .v, b := .v, bs := true, tys := some ([0]), imm := .also, sub := w.x.sub == 0#4 }
  | .pli w => { d := .v, a := .v, tys := some ([0, 17, 18, 19, 20, 21, 22, 23]), sub := w.x.sub == 0#4 }
  | .trlck w => { d := .v, a := .tile, tys := some ([0]), sub := w.x.sub == 0#4 }
  | .sclx w => { d := .v, a := .v, b := .v, bs := true, tys := some ([0, 16]), sub := w.x.sub.toNat ≤ 3, imm := .also }
  | .ld w => { d := w.x.vW, a := .vp, b := .v, bs := true, imm := .also, tys := some ([0, 1, 2, 3, 4, 5, 6, 7, 8]), sub := w.x.sub.toNat ≤ 1, scopes := if w.x.sub == 1#4 then [1, 2, 3, 4, 5, 6, 7] else [0], caches := [0, 1, 2] }
  | .st w => { d := w.x.vW, a := .vp, b := .v, bs := true, imm := .also, tys := some ([0, 1, 2, 3, 4, 5, 6, 7, 8]), sub := if w.x.cache == 3#2 then w.x.sub != 0#4 else w.x.sub.toNat ≤ 1, scopes := if w.x.cache != 3#2 && w.x.sub == 1#4 then [1, 2, 3, 4, 5, 6, 7] else [0], caches := [0, 1, 2, 3] }
  | .lds w => { d := w.x.vW, a := .v, b := .v, bs := true, imm := .also, tys := some ([0, 1, 2, 3, 4, 5, 6, 7, 8]), sub := w.x.sub == 0#4 }
  | .sts w => { d := w.x.vW, a := .v, b := .v, bs := true, imm := .also, tys := some ([0, 1, 2, 3, 4, 5, 6, 7, 8]), sub := w.x.sub == 0#4 }
  | .ldp w => { d := w.x.vW, a := .v, b := .v, bs := true, imm := .also, tys := some ([0, 1, 2, 3, 4, 5, 6, 7, 8]), sub := w.x.sub == 0#4 }
  | .stp w => { d := w.x.vW, a := .v, b := .v, bs := true, imm := .also, tys := some ([0, 1, 2, 3, 4, 5, 6, 7, 8]), sub := w.x.sub == 0#4 }
  | .ldt w => { d := .tile, a := .vp, tys := some ([0]), caches := [0, 1, 2], sub := w.x.sub == 0#4 }
  | .stt w => { d := .tile, a := .vp, tys := some ([0]), sub := w.x.sub.toNat ≤ 1, caches := [0, 1, 2] }
  | .tdef w => { d := .tile, a := .vp, tys := some ([0]), sub := w.x.sub == 0#4 }
  | .tset w => { d := if w.x.sub.getLsbD 0 then .zero else .tile, tys := some ([0]), sub := w.x.sub.toNat ≤ 1 }
  | .tqry w => { d := .vp, a := .tile, tys := some ([0]), sub := w.x.sub == 0#4 }
  | .pref w => { a := .vp, b := .v, bs := true, imm := .also, tys := some ([0]), caches := [0, 1], sub := w.x.sub == 0#4 }
  | .cctl w => { a := .vp, b := .v, bs := true, imm := .also, tys := some ([0]), sub := w.x.sub.toNat ≤ 3, scopes := if w.x.sub == 2#4 then [2, 3, 4, 5] else [0] }
  | .tagld w => { d := .v, a := .vp, b := .v, bs := true, imm := .also, tys := some ([0]), sub := w.x.sub == 0#4 }
  | .tagst w => { d := .v, a := .vp, b := .v, bs := true, imm := .also, tys := some ([0]), sub := w.x.sub == 0#4 }
  | .fence w => { tys := some ([0]), scopes := [1, 2, 3, 4, 5, 6, 7], sub := w.x.sub.toNat ≤ 3 }
  | .fsp _ => {}
  | .atom w => { a := .vp, b := w.x.vW, bs := true, tys := some (atomTys w.x.atomOp), imm := w.x.atomImm, scopes := if w.x.sub.getLsbD 3 then [1, 2, 3, 4, 5, 6, 7] else [0], d := w.x.vW, sub := true, c := if w.x.atomOp == 7 then w.x.vW else .zero }
  | .red w => { a := .vp, b := w.x.vW, bs := true, tys := some (atomTys w.x.atomOp), imm := w.x.atomImm, scopes := if w.x.sub.getLsbD 3 then [1, 2, 3, 4, 5, 6, 7] else [0], sub := (w.x.sub &&& 7#4).toNat ≤ 5 }
  | .atoms w => { a := .v, b := w.x.vW, bs := true, tys := some (atomTys w.x.atomOp), imm := w.x.atomImm, scopes := if w.x.sub.getLsbD 3 then [1, 2, 3, 4, 5, 6, 7] else [0], d := w.x.vW, sub := true, c := if w.x.atomOp == 7 then w.x.vW else .zero }
  | .atomp w => { a := .v, b := w.x.vW, bs := true, tys := some (atomTys w.x.atomOp), imm := w.x.atomImm, scopes := if w.x.sub.getLsbD 3 then [1, 2, 3, 4, 5, 6, 7] else [0], d := w.x.vW, sub := true, c := if w.x.atomOp == 7 then w.x.vW else .zero }
  | .redp w => { a := .v, b := w.x.vW, bs := true, tys := some (atomTys w.x.atomOp), imm := w.x.atomImm, scopes := if w.x.sub.getLsbD 3 then [1, 2, 3, 4, 5, 6, 7] else [0], sub := (w.x.sub &&& 7#4).toNat ≤ 5 }
  | .pusht w => { tys := some ([0]), d := .v, a := .v, b := .vp, bs := true, bconst := false, sub := w.x.sub == 0#4 }
  | .taket w => { tys := some ([0]), d := .vp, a := .v, c := .v, sub := w.x.sub == 0#4 }
  | .takeh w => { tys := some ([0]), d := .vp, a := .v, c := .v, sub := w.x.sub == 0#4 }
  | .prop w => { d := .vq, a := .vp, b := .vp, bs := true, bconst := false, c := .v, scopes := [1, 2, 3, 4, 5, 6, 7], sub := w.x.sub == 0#4 }
  | .dread w => { d := .vq, a := .vp, c := .v, scopes := [1, 2, 3, 4, 5, 6, 7], sub := w.x.sub.toNat ≤ 1 }
  | .dwait w => { d := .vq, a := .vp, c := .v, scopes := [1, 2, 3, 4, 5, 6, 7], sub := w.x.sub == 0#4 }
  | .recy w => { d := .vq, a := .vp, c := .v, scopes := [1, 2, 3, 4, 5, 6, 7], sub := w.x.sub == 0#4 }
  | .dqry w => { d := .vq, a := .vp, scopes := [1, 2, 3, 4, 5, 6, 7], sub := w.x.sub == 0#4 }
  | .dinit w => { a := .vp, b := .v, bs := true, scopes := [1, 2, 3, 4, 5, 6, 7], imm := .also, tyOk := some (1 ≤ w.x.ty.toNat && w.x.ty.toNat ≤ 7), sub := w.x.sub == 0#4 }
  | .bara w => { a := .nb, b := .v, bs := true, imm := .also, sub := w.x.sub == 0#4 }
  | .bars w => { a := .nb, b := .v, bs := true, imm := .also, sub := w.x.sub == 0#4 }
  | .barr w => { strict := true, d := if w.x.sub.getLsbD 2 then .p else .v, a := .nb, b := .v, bs := true, c := .v, sub := w.x.sub.toNat ≤ 7, imm := .also }
  | .sbar w => { a := .v, b := .v, bs := true, scopes := [3, 4, 5, 6], imm := .also, tyOk := some (3 ≤ w.x.ty.toNat && w.x.ty.toNat ≤ 6), sub := w.x.sub == 0#4 }
  | .sbara w => { a := .v, b := .v, bs := true, scopes := [3, 4, 5, 6], imm := .also, tyOk := some (3 ≤ w.x.ty.toNat && w.x.ty.toNat ≤ 6), sub := w.x.sub == 0#4 }
  | .waitx w => { strict := true, d := .vp, a := .vp, b := .vp, bs := true, bconst := false, c := .p, scopes := [1, 2, 3, 4, 5, 6, 7], sub := w.x.sub.toNat ≤ 3 }
  | .sigx w => { strict := true, a := .vp, b := .vp, bs := true, bconst := false, scopes := [1, 2, 3, 4, 5, 6, 7], sub := w.x.sub.toNat ≤ 1, imm := .also, tyOk := some (w.x.ty.toNat < 16 && 1 ≤ w.x.ty.toNat % 8) }
  | .acp w => { d := .vp, a := if w.x.dir == 0 then w.x.sideK else .vp, b := if w.x.dir == 1 then w.x.sideK else .vp, c := if w.x.tileF then .zero else .v, scopes := [2, 3, 4, 5, 6, 7], caches := [0, 1, 2], sub := w.x.dir ≤ 2 && !(w.x.sub.getLsbD 3) && !(w.x.tileF && w.x.dir == 2), tys := some ([0]) }
  | .acpg w => { d := .vp, a := w.x.sideK, b := .vp, c := .v, scopes := [2, 3, 4, 5, 6, 7], caches := [0, 1, 2], sub := w.x.sub &&& 0xB#4 == 0#4, tys := some ([0]) }
  | .acpr w => { d := .vp, a := if w.x.sub.getLsbD 0 then .vp else .v, b := if w.x.sub.getLsbD 0 then .v else .vp, c := .v, tys := some (atomTys (w.x.sub.toNat / 2)), scopes := [2, 3, 4, 5, 6, 7], sub := w.x.sub.toNat / 2 ≤ 5 }
  | .cwait w => { d := .v, b := .v, bs := true, scopes := [2, 3, 4, 5, 6, 7], sub := w.x.sub.toNat ≤ 1, tys := some ([0]) }
  | .shdw w => { d := .v, a := .vp, b := .v, bs := true, imm := .also, tys := some ([0]), sub := w.x.sub == 0#4 }
  | .publ w => { d := .v, a := .v, scopes := [2, 3, 4, 5, 6, 7], tys := some ([0]), sub := w.x.sub == 0#4 }
  | .abnd w => { d := .v, a := .v, tys := some ([0]), sub := w.x.sub == 0#4 }
  | .obres w => { d := .handle, a := .vp, tys := some ([0]), sub := w.x.sub == 0#4 }
  | .obrel w => { d := .handle, tys := some ([0]), sub := w.x.sub == 0#4 }
  | .obld w => { d := .handle, a := .tile, b := .v, bs := true, c := if w.x.sub.getLsbD 1 then .v else .zero, tys := some ([0]), sub := w.x.sub.toNat ≤ 3 }
  | .obldg w => { d := .handle, a := .tile, b := .v, c := .v, tys := some ([0]), sub := w.x.sub == 0#4 }
  | .msign w => { a := .kreg, b := .v, bs := true, tys := some ([0]), imm := .also, sub := w.x.sub == 0#4 }
  | .mma w => { d := .handle, a := .handle, b := .v, bs := true, c := .kreg, tys := some ([0]), sub := w.x.sub.toNat ≤ 1 }
  | .mmaq w => { d := .handle, a := .handle, b := .v, bs := true, c := .kreg, tys := some ([0]), sub := w.x.sub.toNat ≤ 1 }
  | .accz w => { b := .v, bs := true, tys := some ([0]), sub := w.x.sub == 0#4 }
  | .accst w => { d := .tile, b := .v, bs := true, tys := some ([9, 10, 11, 14, 15]), rnd := true, sub := w.x.sub == 0#4 || (w.x.sub == 8#4 && (w.x.ty == 14#5 || w.x.ty == 15#5)) }
  | .accrd w => { d := .v, b := .v, bs := true, tys := some ([0]), sub := w.x.sub == 0#4 }
  | .sprg _ => { a := .vp, b := .vp, bs := true, bconst := false, c := .vp, scopes := [4, 5, 6, 7], sub := true }
  | .sprgw _ => { d := .vq, a := .vp, b := .vp, bs := true, bconst := false, c := .vp, scopes := [4, 5, 6, 7], sub := true }
  | .gbra _ => {}
  | .gloop w => { d := .g, imm := .only, tys := some ([0]), sub := w.x.sub == 0#4 }
  | .gaddOneWord _ => { d := .g, a := .g, b := .g }
  | .gaddTwoWord w => { bs := true, imm := .also, d := w.x.gW, a := w.x.gW, b := w.x.gW, tys := some (tyInt4), sub := w.x.sub.toNat ≤ 1 }
  | .gsubOneWord _ => { d := .g, a := .g, b := .g }
  | .gsubTwoWord w => { bs := true, imm := .also, d := w.x.gW, a := w.x.gW, b := w.x.gW, tys := some (tyInt4), sub := w.x.sub.toNat ≤ 1 }
  | .gmulOneWord _ => { d := .g, a := .g, b := .g }
  | .gmulTwoWord w => { bs := true, imm := .also, d := w.x.gW, a := w.x.gW, b := w.x.gW, tys := some (tyInt4), sub := w.x.sub.toNat ≤ 1 }
  | .gmad w => { bs := true, imm := .also, d := w.x.gW, a := w.x.gW, b := w.x.gW, tys := some (tyInt4), sub := w.x.sub.toNat ≤ 1, c := w.x.gW }
  | .gandOneWord _ => { d := .g, a := .g, b := .g }
  | .gandTwoWord w => { bs := true, imm := .also, d := .g, a := .g, b := .g, tys := some ([0]), sub := w.x.sub == 0#4 }
  | .gorOneWord _ => { d := .g, a := .g, b := .g }
  | .gorTwoWord w => { bs := true, imm := .also, d := .g, a := .g, b := .g, tys := some ([0]), sub := w.x.sub == 0#4 }
  | .gxorOneWord _ => { d := .g, a := .g, b := .g }
  | .gxorTwoWord w => { bs := true, imm := .also, d := .g, a := .g, b := .g, tys := some ([0]), sub := w.x.sub == 0#4 }
  | .gshlOneWord _ => { d := .g, a := .g, b := .g }
  | .gshlTwoWord w => { bs := true, imm := .also, d := w.x.gW, a := w.x.gW, b := .g, tys := some (tyInt4), sub := w.x.sub.toNat ≤ 1 }
  | .gshrOneWord _ => { d := .g, a := .g, b := .g }
  | .gshrTwoWord w => { bs := true, imm := .also, d := w.x.gW, a := w.x.gW, b := .g, tys := some (tyInt4), sub := w.x.sub.toNat ≤ 1 }
  | .gsarOneWord _ => { d := .g, a := .g, b := .g }
  | .gsarTwoWord w => { bs := true, imm := .also, d := w.x.gW, a := w.x.gW, b := .g, tys := some (tyInt4), sub := w.x.sub.toNat ≤ 1 }
  | .gminOneWord _ => { d := .g, a := .g, b := .g }
  | .gminTwoWord w => { bs := true, imm := .also, d := w.x.gW, a := w.x.gW, b := w.x.gW, tys := some (tyInt4), sub := w.x.sub == 0#4 }
  | .gmaxOneWord _ => { d := .g, a := .g, b := .g }
  | .gmaxTwoWord w => { bs := true, imm := .also, d := w.x.gW, a := w.x.gW, b := w.x.gW, tys := some (tyInt4), sub := w.x.sub == 0#4 }
  | .gmov _ => { d := .g, a := .g }
  | .gmovi w => { d := w.x.gW, a := .movMode, imm := .only, tys := some (if w.a == 1#7 then tyInt2 else tyInt4), sub := w.x.sub == 0#4 }
  | .gset w => { d := if w.x.sub.getLsbD 3 then .up else .g, a := w.x.gW, b := w.x.gW, bs := true, tys := some (tyInt4), imm := .also, sub := (w.x.sub &&& 7#4).toNat ≤ 5 }
  | .gsel w => { bs := true, imm := .also, d := w.x.gW, a := w.x.gW, b := w.x.gW, tys := some (tyInt4), c := .up, sub := w.x.sub == 0#4 }
  | .gld w => { d := w.x.gW, a := .gp, b := .g, bs := true, tys := some ([0, 7, 3, 8, 4]), caches := [0, 1, 2], imm := .also, sub := w.x.sub == 0#4 }
  | .g2v _ => { d := .v, a := .g }
  | .v2g w => { d := .g, a := .v, b := if w.x.sub == 1#4 then .zero else .g, bs := true, c := .up, tys := some ([0]), sub := w.x.sub == 0#4 || (w.x.sub == 1#4 && w.x.bsrc == 2#2 && w.b == 0#7) }
  | .gplop _ => { tys := some ([0]), d := .up, a := .up, b := .up, sub := true }
  | .launch w => { d := .gp, a := .gp, sub := w.x.sub == 0#4 }
  | .spawn _ => { d := .gp, a := .gp, b := .gp, c := .gp, sub := true }
  | .jdec w => { d := .g, a := .g, b := .g, bs := true, imm := .also, sub := w.x.sub == 0#4 }
  | .tstat w => { d := .gp, a := .g, b := if w.x.sub == 1#4 then .g else .zero, bs := w.x.sub == 1#4, sub := w.x.sub.toNat ≤ 1 }
  | .tcancel w => { d := .g, a := .g, sub := w.x.sub.toNat ≤ 1 }
  | .gang w => { d := .gp, a := if w.x.sub == 0#4 then .gp else .g, sub := w.x.sub.toNat ≤ 2 }
  | .srrd w => { d := .gp, imm := .only, sysreg := true, sub := w.x.sub == 0#4 }
  | .srwr w => { a := .gp, imm := .only, sysreg := true, sub := w.x.sub == 0#4 }
  | .sysc _ => {}
  | .eret _ => {}
  | .tlbinv w => { a := if w.x.tlbAll then .zero else .gp, b := if w.x.tlbAll then .zero else .g, bs := true, c := if w.x.tlbCell then .gp else .zero, scopes := [2, 4, 5], sub := w.x.sub.toNat ≤ 3, imm := .also, tyOk := some ([2, 4, 5].contains (w.x.ty.toNat % 8)), immZero := w.x.tlbAll }
  | .lrev w => { d := .g, a := .gp, b := .g, bs := true, imm := .also, sub := w.x.sub == 0#4 }
  | .ctxstop w => { d := .g, a := .g, b := .gp, sub := w.x.sub.toNat ≤ 1 }
  | .ctxgo w => { d := .g, a := .g, b := .gp, sub := w.x.sub == 0#4 }
  | .wcap w => { d := .g, b := .g, bs := true, imm := .also, sub := w.x.sub == 0#4 }
  | .triq w => { d := .gp, b := .g, bs := true, imm := .also, sub := w.x.sub == 0#4 }
  | .trirs w => { d := .g, b := .g, bs := true, sub := w.x.sub == 1#4 || w.x.sub == 2#4, imm := .also, tyOk := some (w.x.ty == 1#5 || w.x.ty == 2#5) }
  | .twrst w => { d := .g, a := .g, b := .gp, sub := w.x.sub == 0#4 }
  | .keyld w => { d := .g, a := .gp, b := .g, bs := true, sub := w.x.sub.toNat ≤ 1, imm := .also }
  | .scrub w => { d := .gp, a := .gp, b := .g, bs := true, imm := .also, sub := w.x.sub == 0#4 }
  | .tiermv w => { d := .gp, a := .gp, c := .gp, sub := w.x.sub == 0#4 }
  | .poison w => { d := .g, a := .gp, b := .g, bs := true, sub := w.x.sub.toNat ≤ 1, imm := .also }
  | .retire w => { d := .g, a := .g, b := .g, bs := true, imm := .also, sub := w.x.sub == 0#4 }
  | .hinst w => { bmax := 16, d := .g, a := .gp, b := .g, bs := true, c := .gp, sub := w.x.sub == 0#4 }
  | .hdrop w => { bmax := 16, d := .g, b := .g, bs := true, c := .gp, sub := w.x.sub == 0#4 }
  | .rowrd w => { tys := some ([0]), sub := w.x.sub == 0#4 }
  | .rowwr w => { a := .g, tys := some ([0]), sub := w.x.sub == 0#4 }
  | .rowred w => { d := .g, a := .g, b := .g, bs := true, tys := some (tyInt2), sub := (w.x.sub &&& 7#4).toNat ≤ 5, imm := .also }
  | .linerd w => { d := .g16, a := .g, tys := some ([0]), sub := w.x.sub == 0#4 }
  | .linewr w => { d := .g16, a := .g, tys := some ([0]), sub := w.x.sub == 0#4 }
  | .reply w => { a := .g, tys := some ([0]), sub := w.x.sub == 0#4 }
  | _ => {}

/-- An operand b field's kind under its source (R42): with BSRC = 1 a V operand names a G register, a pair a G pair. -/
def Fk.asG : Fk → Fk
  | .v => .g | .vp => .gp | k => k

/-- The kind of the base B field of an instruction, none where it is a constant (R42, R38). -/
def Enc.bKind (e : Enc) (x : Ext) : Option Fk :=
  if x.isImm then some e.c
  else if e.bs && x.bsrc == 1#2 then some e.b.asG
  else if e.bs && x.bsrc == 2#2 then Option.none
  else some e.b

/-- A field that must be 0 is not (sub-cause 0x6). -/
def Fk.nonZero (k : Fk) (n : BitVec 7) : Bool := k == .zero && n != 0#7 || k == .movMode && 2 ≤ n.toNat

/-- A field names no member of its class (sub-cause 0x7); version 2 has V0 to V63 only (R44, R45, R66). -/
def Fk.badMember (k : Fk) (ver : Nat) (n : BitVec 7) : Bool :=
  let m := n.toNat
  match k with
  | .v => ver == 2 && 64 ≤ m
  | .vp => m % 2 == 1 || ver == 2 && 64 ≤ m
  | .vq => m % 4 != 0 || ver == 2 && 64 ≤ m
  | .gp => m % 2 == 1
  | .g16 => m % 16 != 0
  | .p | .up => 8 ≤ m
  | .tile => 64 ≤ m
  | .handle => 32 ≤ m
  | .kreg => 16 ≤ m
  | .nb => 32 ≤ m
  | .sreg => 24 ≤ m
  | .zero | .g | .movMode => false

/-- An odd register of a pair, or a predicate that does not exist. -/
def Fk.misfit (k : Fk) (n : BitVec 7) : Bool :=
  match k with
  | .vp => n.toNat % 2 == 1
  | .p => 8 ≤ n.toNat
  | _ => false

/-- A field names a register at or beyond the declared count, its pair and quad registers counted (R46). -/
def Fk.beyond (k : Fk) (vr gr : Nat) (n : BitVec 7) : Bool :=
  let m := n.toNat
  match k with
  | .v => vr ≤ m
  | .vp => vr ≤ m + 1
  | .vq => vr ≤ m + 3
  | .g => gr ≤ m
  | .gp => gr ≤ m + 1
  | .g16 => gr ≤ m + 15
  | _ => false

/-- A failed check: sub-cause, and the word of the instruction that holds the failing field (0 base, 1 extension). -/
abbrev Bad := Nat × Nat

/-- The first true of a list of checks. -/
def firstBad : List (Bool × Bad) → Option Bad
  | [] => none
  | (true, b) :: _ => some b
  | (false, _) :: l => firstBad l

/-- Step 5 of R62 (sub-cause 0x6) for a two-word instruction: base fields first, then the extension word's. -/
def Enc.unused2 (e : Enc) (set : Bool) (w : W2) : List (Bool × Bad) :=
  let x := w.x
  let bz := (e.bKind x).elim (e.b == .zero && w.b != 0#7) fun k => k.nonZero w.b
  let bm := match e.bKind x with | some k => e.strict && k.misfit w.b | none => x.bsrc == 2#2 && decide (e.bmax ≤ w.b.toNat)
  [(e.d.nonZero w.d, (6, 0)), (e.a.nonZero w.a, (6, 0)), (bz, (6, 0)),
   (e.strict && (e.d.misfit w.d || e.a.misfit w.a) || bm, (6, 0)), (e.strict && !x.isImm && e.c.misfit x.c, (6, 1))] ++
  match x with
  | .mod c ty rnd scope cache bsrc _ =>
    [(e.imm == .only, (6, 1))] ++
    (if e.lop3 then [(e.c.nonZero c || scope &&& 3#3 != 0#3, (6, 1))] else
      [(e.c.nonZero c || (e.tys.isNone && ty != 0#5) || (!e.rnd && rnd != 0#2) || !e.scopes.contains scope.toNat, (6, 1))]) ++
    [(!e.caches.contains cache.toNat, (6, 1)),
     (if e.bs then bsrc == 3#2 || (set && bsrc == 1#2) || (!e.bconst && bsrc == 2#2) else bsrc != 0#2, (6, 1)),
     (!e.sub, (6, 1))]
  | .imm ty i =>
    [(e.imm == .none, (6, 1)),
     (match e.tyOk with | some ok => !ok | none => e.tys.isNone && ty != 0#5, (6, 1)),
     (e.immZero && i != 0#20, (6, 1))]

/-- Step 6 of R62 (sub-cause 0x7) for a two-word instruction. -/
def Enc.range2 (e : Enc) (ver : Nat) (w : W2) : List (Bool × Bad) :=
  let x := w.x
  let bk := match e.bKind x with | some k => k.badMember ver w.b | none => false
  let tyBad := match e.tys with
    | some l => e.tyOk.isNone && !l.contains x.ty.toNat || e.tyOk.isSome && !x.isImm && !l.contains x.ty.toNat
    | none => false
  [(e.d.badMember ver w.d, (7, 0)), (e.a.badMember ver w.a, (7, 0)), (bk, (7, 0)),
   (tyBad, (7, 1)), (!x.isImm && e.c.badMember ver x.c, (7, 1)), (e.sysreg && 0x00C < x.imm20.toNat, (7, 1))]

/-- Step 7 of R62 (sub-cause 0x8) for a two-word instruction. -/
def Enc.count2 (e : Enc) (vr gr : Nat) (w : W2) : List (Bool × Bad) :=
  let bk := match e.bKind w.x with | some k => k.beyond vr gr w.b | none => false
  [(e.d.beyond vr gr w.d, (8, 0)), (e.a.beyond vr gr w.a, (8, 0)), (bk, (8, 0)), (!w.x.isImm && e.c.beyond vr gr w.x.c, (8, 1))]

/-- Steps 5 and 6 of R62: the checks that depend on the words alone. -/
def staticBad (ver : Nat) (i : Instr) : Option Bad :=
  let e := encOf i
  match i.fields with
  | some (.w1 w) => firstBad
      [(e.d.nonZero w.d, (6, 0)), (e.a.nonZero w.a, (6, 0)), (e.b.nonZero w.b, (6, 0)),
       (e.d.badMember ver w.d, (7, 0)), (e.a.badMember ver w.a, (7, 0)), (e.b.badMember ver w.b, (7, 0))]
  | some (.w2 w) => firstBad (e.unused2 (match i.head with | some h => h.set | none => false) w ++ e.range2 ver w)
  | some (.sysc w) => if w.z == 0#5 then none else some (6, 0)
  | some (.br _) => none
  | none => none

/-- Step 7 of R62: a register at or beyond the declared count. -/
def countBad (vr gr : Nat) (i : Instr) : Option Bad :=
  let e := encOf i
  match i.fields with
  | some (.w1 w) => firstBad [(e.d.beyond vr gr w.d, (8, 0)), (e.a.beyond vr gr w.a, (8, 0)), (e.b.beyond vr gr w.b, (8, 0))]
  | some (.w2 w) => firstBad (e.count2 vr gr w)
  | _ => none

/-- An encoding that version 2 or 3 lacks (R66, sub-cause 0xA): a type code or cache code 3 in any word, BSRC = 1 where there is an
operand b, or an instruction; a TYPE field that holds a scope has no type code (log 124). -/
def absentIn (ver : Nat) (i : Instr) : Bool :=
  if 4 ≤ ver then false else
  let ty := match i.fields with | some (.w2 w) => (match i with | .lop3 _ => if w.x.isImm then w.x.ty.toNat else 0 | _ => w.x.ty.toNat) | _ => 0
  let bs1 := match i.fields, i.head with | some (.w2 w), some h => !h.set && (encOf i).bs && w.x.bsrc == 1#2 | _, _ => false
  let scopeInTy := (encOf i).tyOk.isSome && (match i.fields with | some (.w2 w) => w.x.isImm | _ => false)
  let high := if ver == 2 then 23 else 18
  let rc := match i.fields with | some (.w2 w) => w.x.cache == 3#2 | _ => false
  (!scopeInTy && 17 ≤ ty && ty ≤ high) || (ver == 2 && bs1) || rc ||
  match i with
  | .prop _ | .dread _ | .dwait _ | .recy _ | .dqry _ | .dinit _ | .sprg _ | .sprgw _ | .hinst _ | .hdrop _ | .rowrd _
  | .rowwr _ | .rowred _ | .linerd _ | .linewr _ | .reply _ | .qtile _ | .trlck _ | .shdw _ | .publ _ | .abnd _ => ver == 2
  | .obldg _ | .mmaq _ | .tagld _ | .tagst _ | .gang _ => true
  | _ => false

/-- A control transfer must be the last instruction of its clause (R54). -/
def Instr.isTransfer : Instr → Bool
  | .bra _ | .brx _ | .call _ | .callx _ | .ret _ | .exit _ | .tail _ | .gbra _ | .gloop _ | .sysc _ | .eret _ => true
  | _ => false

/-- A privileged instruction (R59). -/
def Instr.isPrivileged : Instr → Bool
  | .srrd _ | .srwr _ | .eret _ | .tlbinv _ | .lrev _ | .ctxstop _ | .ctxgo _ | .wcap _ | .triq _ | .trirs _ | .twrst _
  | .keyld _ | .scrub _ | .tiermv _ | .poison _ | .retire _ | .hinst _ | .hdrop _ => true
  | _ => false

/-- An instruction that only a spring handler decodes (R59, R60). -/
def Instr.isHandlerOnly : Instr → Bool
  | .rowrd _ | .rowwr _ | .rowred _ | .linerd _ | .linewr _ | .reply _ => true
  | _ => false

/-- The instructions a spring handler may use (R427). -/
def Instr.inHandler : Instr → Bool
  | .gbra _ | .gloop _ | .gmad _ | .gmov _ | .gmovi _ | .gset _ | .gsel _ | .gplop _
  | .gaddOneWord _ | .gaddTwoWord _ | .gsubOneWord _ | .gsubTwoWord _ | .gmulOneWord _ | .gmulTwoWord _
  | .gandOneWord _ | .gandTwoWord _ | .gorOneWord _ | .gorTwoWord _ | .gxorOneWord _ | .gxorTwoWord _
  | .gshlOneWord _ | .gshlTwoWord _ | .gshrOneWord _ | .gshrTwoWord _ | .gsarOneWord _ | .gsarTwoWord _
  | .gminOneWord _ | .gminTwoWord _ | .gmaxOneWord _ | .gmaxTwoWord _ => true
  | i => i.isHandlerOnly

/-- A register an instruction names: class (0 V, 1 G, 2 P, 3 GP) and number (R52). -/
def Fk.regs (k : Fk) (n : BitVec 7) : List (Nat × Nat) :=
  let m := n.toNat
  match k with
  | .v => [(0, m)]
  | .vp => [(0, m), (0, m + 1)]
  | .vq => [(0, m), (0, m + 1), (0, m + 2), (0, m + 3)]
  | .g => [(1, m)]
  | .gp => [(1, m), (1, m + 1)]
  | .g16 => (List.range 16).map fun j => (1, m + j)
  | .p => if m < 7 then [(2, m)] else []
  | .up => if m < 7 then [(3, m)] else []
  | _ => []

/-- The registers an instruction reads or writes through its fields, its guard included (R52, R88). -/
def Instr.regs (i : Instr) : List (Nat × Nat) :=
  let e := encOf i
  let guard (p : BitVec 3) : List (Nat × Nat) :=
    if p == 7#3 then [] else [(match i.head with | some h => if h.set then 3 else 2 | none => 2, p.toNat)]
  match i.fields with
  | some (.w1 w) => guard w.p ++ e.d.regs w.d ++ e.a.regs w.a ++ e.b.regs w.b
  | some (.w2 w) => guard w.p ++ e.d.regs w.d ++ e.a.regs w.a ++
      (match e.bKind w.x with | some k => k.regs w.b | none => []) ++ (if w.x.isImm then [] else e.c.regs w.x.c)
  | some (.br w) => guard w.p
  | some (.sysc w) => guard w.p
  | none => []

end Sys2Proof
end

