-- ==== Sys2Proof/WellFormed.lean ====
section
/-! DEFINITION. Which instructions are well formed: every field the instruction does not use is 0, and every operand names a
member of its class (R44, R45, R47, R61 sub-causes 0x6 and 0x7). -/

namespace Sys2Proof

/-- An instruction that encoding version 4 encodes: it is no event, and the checks of R61 that depend on its words alone
pass. -/
def Instr.wellFormed (i : Instr) : Bool := i.fields.isSome && (staticBad 4 i).isNone

end Sys2Proof
end

