-- ==== Sys2Proof/Decode.lean ====
section
/-! DEFINITION. Decoding instruction words into instructions (R33 to R37, R58, R59), total on any words and rejecting by
name, and the encoder written from the same field maps. -/

namespace Sys2Proof

/-- Why words decode to no instruction. -/
inductive Reject where
  /-- There is no word, or a two-word instruction lacks its extension word (R49). -/
  | truncated
  /-- Unassigned major (R61, sub-cause 0x4). -/
  | unassignedMajor
  /-- Unassigned minor, or a non-zero MINOR for a single-instruction major (0x5). -/
  | unassignedMinor
  /-- An unused field that is not 0, a missing immediate form, or a disallowed modifier value (0x6), in the word given. -/
  | badField (word : Nat)
  /-- An operand or type value out of range (0x7), in the word given. -/
  | badOperand (word : Nat)
deriving DecidableEq, Repr


/-- Branch majors of the L-set (R58). -/
def brMajor (major : Nat) : Option (WBr → Instr) :=
  match major with
  | 0x00 => some .bra
  | _ => none

/-- Branch majors of the G-set (R59). -/
def gbrMajor (major : Nat) : Option (WBr → Instr) :=
  match major with
  | 0x00 => some .gbra
  | _ => none

/-- One-word majors of the L-set (R58). -/
def oneL (major : Nat) : Option (W1 → Instr) :=
  match major with
  | 0x01 => some .brx
  | 0x03 => some .callx
  | 0x04 => some .ret
  | 0x05 => some .nop
  | 0x0C => some .iaddOneWord
  | 0x0D => some .isubOneWord
  | 0x0E => some .imulOneWord
  | 0x0F => some .andOneWord
  | 0x10 => some .orOneWord
  | 0x11 => some .xorOneWord
  | 0x12 => some .shlOneWord
  | 0x13 => some .shrOneWord
  | 0x14 => some .movOneWord
  | 0x1C => some .faddOneWord
  | 0x1D => some .fmulOneWord
  | 0x31 => some .fsp
  | _ => none

/-- One-word majors of the G-set (R59). -/
def oneG (major : Nat) : Option (W1 → Instr) :=
  match major with
  | 0x02 => some .gaddOneWord
  | 0x03 => some .gsubOneWord
  | 0x04 => some .gmulOneWord
  | 0x05 => some .gandOneWord
  | 0x06 => some .gorOneWord
  | 0x07 => some .gxorOneWord
  | 0x08 => some .gshlOneWord
  | 0x09 => some .gshrOneWord
  | 0x0A => some .gsarOneWord
  | 0x0B => some .gminOneWord
  | 0x0C => some .gmaxOneWord
  | 0x0D => some .gmov
  | 0x12 => some .g2v
  | 0x2B => some .eret
  | _ => none

/-- Two-word majors of the L-set with their minors (R58, R59): none for a major that is not one, some none for an
unassigned minor. -/
def twoL (major minor : Nat) : Option (Option (W2 → Instr)) :=
  match major with
  | 0x02 => (match minor with | 0 => some (some .call) | _ => some none)
  | 0x06 => (match minor with | 0 => some (some .exit) | 1 => some (some .tail) | 2 => some (some .yield) | 3 => some (some .nap) | 4 => some (some .qsync) | 5 => some (some .bkpt) | 6 => some (some .trap) | _ => some none)
  | 0x07 => (match minor with | 0 => some (some .rank) | 1 => some (some .plop) | 2 => some (some .s2v) | 3 => some (some .s2g) | _ => some none)
  | 0x08 => (match minor with | 0 => some (some .shfl) | _ => some none)
  | 0x09 => (match minor with | 0 => some (some .vote) | _ => some none)
  | 0x0A => (match minor with | 0 => some (some .matchv) | _ => some none)
  | 0x0B => (match minor with | 0 => some (some .qred) | _ => some none)
  | 0x15 => (match minor with | 0 => some (some .iaddTwoWord) | 1 => some (some .iaddc) | 2 => some (some .isubTwoWord) | 3 => some (some .isubb) | 4 => some (some .imulTwoWord) | 5 => some (some .imulh) | 6 => some (some .imad) | 7 => some (some .imadw) | 8 => some (some .imin) | 9 => some (some .imax) | 10 => some (some .iabs) | 11 => some (some .ineg) | 12 => some (some .isad) | _ => some none)
  | 0x16 => (match minor with | 0 => some (some .andTwoWord) | 1 => some (some .orTwoWord) | 2 => some (some .xorTwoWord) | 3 => some (some .andn) | 4 => some (some .lop3) | _ => some none)
  | 0x17 => (match minor with | 0 => some (some .shlTwoWord) | 1 => some (some .shrTwoWord) | 2 => some (some .sar) | 3 => some (some .shf) | 4 => some (some .popc) | 5 => some (some .clz) | 6 => some (some .ctz) | 7 => some (some .brev) | 8 => some (some .bfx) | 9 => some (some .bfi) | _ => some none)
  | 0x18 => (match minor with | 0 => some (some .iset) | 1 => some (some .isel) | 2 => some (some .movTwoWord) | 3 => some (some .movi) | 4 => some (some .lea) | 5 => some (some .prmt) | _ => some none)
  | 0x1E => (match minor with | 0 => some (some .faddTwoWord) | 1 => some (some .fmulTwoWord) | 2 => some (some .ffma) | 3 => some (some .fmin) | 4 => some (some .fmax) | 5 => some (some .fset) | 6 => some (some .fclass) | 7 => some (some .frnd) | 8 => some (some .fscl) | _ => some none)
  | 0x1F => (match minor with | 0 => some (some .frcp) | 1 => some (some .frsq) | 2 => some (some .fsqrt) | 3 => some (some .fex2) | 4 => some (some .flg2) | 5 => some (some .fsin) | 6 => some (some .fcos) | _ => some none)
  | 0x20 => (match minor with | 0 => some (some .hadd2) | 1 => some (some .hmul2) | 2 => some (some .hfma2) | 3 => some (some .hmnx2) | _ => some none)
  | 0x24 => (match minor with | 0 => some (some .cvt) | 1 => some (some .cvtp) | 2 => some (some .cvtx) | 3 => some (some .f2i) | 4 => some (some .i2f) | _ => some none)
  | 0x25 => (match minor with | 0 => some (some .qblk) | 1 => some (some .qtile) | 2 => some (some .unq) | 3 => some (some .plx) | 4 => some (some .pli) | 5 => some (some .trlck) | 6 => some (some .sclx) | _ => some none)
  | 0x28 => (match minor with | 0 => some (some .ld) | _ => some none)
  | 0x29 => (match minor with | 0 => some (some .st) | _ => some none)
  | 0x2A => (match minor with | 0 => some (some .lds) | 1 => some (some .sts) | _ => some none)
  | 0x2B => (match minor with | 0 => some (some .ldp) | 1 => some (some .stp) | _ => some none)
  | 0x2C => (match minor with | 0 => some (some .ldt) | 1 => some (some .stt) | 2 => some (some .tdef) | 3 => some (some .tset) | 4 => some (some .tqry) | _ => some none)
  | 0x2D => (match minor with | 0 => some (some .pref) | 1 => some (some .cctl) | 2 => some (some .tagld) | 3 => some (some .tagst) | _ => some none)
  | 0x30 => (match minor with | 0 => some (some .fence) | _ => some none)
  | 0x32 => (match minor with | 0 => some (some .atom) | _ => some none)
  | 0x33 => (match minor with | 0 => some (some .red) | _ => some none)
  | 0x34 => (match minor with | 0 => some (some .atoms) | 1 => some (some .atomp) | 2 => some (some .redp) | _ => some none)
  | 0x35 => (match minor with | 0 => some (some .pusht) | 1 => some (some .taket) | 2 => some (some .takeh) | _ => some none)
  | 0x36 => (match minor with | 0 => some (some .prop) | 1 => some (some .dread) | 2 => some (some .dwait) | 3 => some (some .recy) | _ => some none)
  | 0x37 => (match minor with | 0 => some (some .dqry) | 1 => some (some .dinit) | _ => some none)
  | 0x38 => (match minor with | 0 => some (some .bara) | 1 => some (some .bars) | 2 => some (some .barr) | _ => some none)
  | 0x39 => (match minor with | 0 => some (some .sbar) | 1 => some (some .sbara) | 2 => some (some .waitx) | 3 => some (some .sigx) | _ => some none)
  | 0x3A => (match minor with | 0 => some (some .acp) | 1 => some (some .acpg) | 2 => some (some .acpr) | _ => some none)
  | 0x3B => (match minor with | 0 => some (some .cwait) | 1 => some (some .shdw) | 2 => some (some .publ) | 3 => some (some .abnd) | _ => some none)
  | 0x3C => (match minor with | 0 => some (some .obres) | 1 => some (some .obrel) | 2 => some (some .obld) | 3 => some (some .obldg) | 4 => some (some .msign) | _ => some none)
  | 0x3D => (match minor with | 0 => some (some .mma) | 1 => some (some .mmaq) | 2 => some (some .accz) | 3 => some (some .accst) | 4 => some (some .accrd) | _ => some none)
  | 0x3E => (match minor with | 0 => some (some .sprg) | 1 => some (some .sprgw) | _ => some none)
  | _ => none

/-- Two-word majors of the G-set with their minors (R58, R59): none for a major that is not one, some none for an
unassigned minor. -/
def twoG (major minor : Nat) : Option (Option (W2 → Instr)) :=
  match major with
  | 0x01 => (match minor with | 0 => some (some .gloop) | _ => some none)
  | 0x0E => (match minor with | 0 => some (some .gmovi) | _ => some none)
  | 0x0F => (match minor with | 0 => some (some .gset) | _ => some none)
  | 0x10 => (match minor with | 0 => some (some .gsel) | _ => some none)
  | 0x11 => (match minor with | 0 => some (some .gld) | _ => some none)
  | 0x13 => (match minor with | 0 => some (some .v2g) | _ => some none)
  | 0x14 => (match minor with | 0 => some (some .gplop) | _ => some none)
  | 0x15 => (match minor with | 0 => some (some .gaddTwoWord) | 1 => some (some .gsubTwoWord) | 2 => some (some .gmulTwoWord) | 3 => some (some .gmad) | 4 => some (some .gandTwoWord) | 5 => some (some .gorTwoWord) | 6 => some (some .gxorTwoWord) | 7 => some (some .gshlTwoWord) | 8 => some (some .gshrTwoWord) | 9 => some (some .gsarTwoWord) | 10 => some (some .gminTwoWord) | 11 => some (some .gmaxTwoWord) | _ => some none)
  | 0x20 => (match minor with | 0 => some (some .launch) | _ => some none)
  | 0x21 => (match minor with | 0 => some (some .spawn) | _ => some none)
  | 0x22 => (match minor with | 0 => some (some .jdec) | _ => some none)
  | 0x23 => (match minor with | 0 => some (some .tstat) | _ => some none)
  | 0x24 => (match minor with | 0 => some (some .tcancel) | _ => some none)
  | 0x25 => (match minor with | 0 => some (some .gang) | _ => some none)
  | 0x28 => (match minor with | 0 => some (some .srrd) | _ => some none)
  | 0x29 => (match minor with | 0 => some (some .srwr) | _ => some none)
  | 0x2C => (match minor with | 0 => some (some .tlbinv) | _ => some none)
  | 0x2D => (match minor with | 0 => some (some .lrev) | _ => some none)
  | 0x2E => (match minor with | 0 => some (some .ctxstop) | _ => some none)
  | 0x2F => (match minor with | 0 => some (some .ctxgo) | _ => some none)
  | 0x30 => (match minor with | 0 => some (some .wcap) | _ => some none)
  | 0x31 => (match minor with | 0 => some (some .triq) | _ => some none)
  | 0x32 => (match minor with | 0 => some (some .trirs) | _ => some none)
  | 0x33 => (match minor with | 0 => some (some .twrst) | _ => some none)
  | 0x34 => (match minor with | 0 => some (some .keyld) | _ => some none)
  | 0x38 => (match minor with | 0 => some (some .scrub) | _ => some none)
  | 0x39 => (match minor with | 0 => some (some .tiermv) | _ => some none)
  | 0x3A => (match minor with | 0 => some (some .poison) | _ => some none)
  | 0x3B => (match minor with | 0 => some (some .retire) | _ => some none)
  | 0x3C => (match minor with | 0 => some (some .hinst) | _ => some none)
  | 0x3D => (match minor with | 0 => some (some .hdrop) | _ => some none)
  | 0x3E => (match minor with | 0 => some (some .rowrd) | 1 => some (some .rowwr) | 2 => some (some .rowred) | 3 => some (some .linerd) | 4 => some (some .linewr) | 5 => some (some .reply) | _ => some none)
  | _ => none

/-- Whether a base word's major is a two-word major of its set, as the walk of R49 takes it. -/
def isTwoWord (w : Word) : Bool :=
  let major := (w.extractLsb' 25 6).toNat
  if w.getLsbD 31 then (twoG major 0).isSome else (twoL major 0).isSome

/-- The operand fields of a base word (R33). -/
def baseFields (w : Word) : W1 :=
  { p := w.extractLsb' 22 3, n := w.getLsbD 21, d := w.extractLsb' 14 7, a := w.extractLsb' 7 7, b := w.extractLsb' 0 7 }

/-- The fields of an extension word besides MINOR (R36, R37). -/
def extFields (x : Word) : Ext :=
  if x.getLsbD 25 then .imm (x.extractLsb' 20 5) (x.extractLsb' 0 20)
  else .mod (x.extractLsb' 18 7) (x.extractLsb' 13 5) (x.extractLsb' 11 2) (x.extractLsb' 8 3) (x.extractLsb' 6 2)
    (x.extractLsb' 4 2) (x.extractLsb' 0 4)

/-- The instruction a one-word major gives. -/
def decodeOne (w : Word) : Option Instr :=
  let major := (w.extractLsb' 25 6).toNat
  let f := baseFields w
  let br : WBr := { p := f.p, n := f.n, off := w.extractLsb' 0 21 }
  if w.getLsbD 31 then
    (oneG major).map (· f) <|> (gbrMajor major).map (· br) <|>
      (if major = 0x2A then
        some (.sysc { p := f.p, n := f.n, z := w.extractLsb' 16 5, service := w.extractLsb' 0 16 }) else none)
  else (oneL major).map (· f) <|> (brMajor major).map (· br)

/-- The instruction a two-word major gives with an extension word. -/
def decodeTwo (w x : Word) : Option (Option Instr) :=
  let major := (w.extractLsb' 25 6).toNat
  let minor := (x.extractLsb' 26 6).toNat
  let f := baseFields w
  let f2 : W2 := { p := f.p, n := f.n, d := f.d, a := f.a, b := f.b, x := extFields x }
  ((if w.getLsbD 31 then twoG major minor else twoL major minor)).map fun m => m.map (· f2)

/-- Decode the first instruction of some words: steps 1 and 2 of R62.  Answers the instruction and its number of words. -/
def decodeRaw (ws : List Word) : Except Reject (Instr × Nat) :=
  match ws with
  | [] => .error .truncated
  | w :: rest =>
    if isTwoWord w then
      match rest with
      | [] => .error .truncated
      | x :: _ =>
        match decodeTwo w x with
        | some (some i) => .ok (i, 2)
        | _ => .error .unassignedMinor
    else
      match decodeOne w with
      | some i => .ok (i, 1)
      | none => .error .unassignedMajor

/-- Decode the first instruction of some words and make the checks that depend on the words alone, under encoding version 4
(steps 1, 2, 5 and 6 of R62). -/
def decode (ws : List Word) : Except Reject (Instr × Nat) :=
  match decodeRaw ws with
  | .error e => .error e
  | .ok (i, n) =>
    match staticBad 4 i with
    | none => .ok (i, n)
    | some (6, k) => .error (.badField k)
    | some (_, k) => .error (.badOperand k)

/-- The word that four bytes form, least significant byte first (R4). -/
def wordOfBytes (b0 b1 b2 b3 : Byte) : Word := b3 ++ b2 ++ b1 ++ b0

/-- The words that bytes form; bytes after the last whole word form none. -/
def wordsOfBytes : List Byte → List Word
  | b0 :: b1 :: b2 :: b3 :: rest => wordOfBytes b0 b1 b2 b3 :: wordsOfBytes rest
  | _ => []

/-- The bytes of a word in memory order (R4). -/
def bytesOfWord (w : Word) : List Byte :=
  [w.extractLsb' 0 8, w.extractLsb' 8 8, w.extractLsb' 16 8, w.extractLsb' 24 8]

/-- Decode bytes as they stand in memory. -/
def decodeBytes (bs : List Byte) : Except Reject (Instr × Nat) := decode (wordsOfBytes bs)

/-- The instruction read from an instruction whose bits are w, numbered as the opcode table numbers them; the bits above
nbits are 0. -/
def decodeTableWord (nbits w : Nat) : Option Instr :=
  let v := w % 2 ^ nbits
  match decodeBytes (bytesOfWord (BitVec.ofNat 32 v) ++ bytesOfWord (BitVec.ofNat 32 (v / 2 ^ 32))) with
  | .ok (i, _) => some i
  | .error _ => none

/-- A base word from its opcode and operand fields (R33). -/
def encodeBase (h : Head) (f : W1) : Word :=
  (BitVec.ofBool h.set ++ h.major ++ f.p ++ BitVec.ofBool f.n ++ f.d ++ f.a ++ f.b : BitVec 32)

/-- An extension word from its MINOR and fields (R36, R37). -/
def encodeExt (h : Head) : Ext → Word
  | .mod c ty rnd scope cache bsrc sub => (h.minor ++ 0#1 ++ c ++ ty ++ rnd ++ scope ++ cache ++ bsrc ++ sub : BitVec 32)
  | .imm ty i => (h.minor ++ 1#1 ++ ty ++ i : BitVec 32)

/-- The words of an instruction; an event has none. -/
def encode (i : Instr) : List Word :=
  match i.head, i.fields with
  | some h, some (.w1 f) => [encodeBase h f]
  | some h, some (.w2 f) => [encodeBase h ⟨f.p, f.n, f.d, f.a, f.b⟩, encodeExt h f.x]
  | some h, some (.br f) => [(BitVec.ofBool h.set ++ h.major ++ f.p ++ BitVec.ofBool f.n ++ f.off : BitVec 32)]
  | some h, some (.sysc f) => [(BitVec.ofBool h.set ++ h.major ++ f.p ++ BitVec.ofBool f.n ++ f.z ++ f.service : BitVec 32)]
  | _, _ => []

end Sys2Proof
end

