-- ==== Sys2Proof/Config.lean ====
section
/-! DEFINITION. What the spec leaves to an implementation, as constants without a body: nothing in Lean can evaluate
them, so a statement that holds, holds whatever they are (log 2). -/

namespace Sys2Proof.Config

/-- A fresh free value, drawn by its number (log 2). -/
opaque freeValue : Nat → BitVec 64

/-- By how much a core's %clk is ahead of its module's, modulo 9: two cores differ by at most 8 (R83). -/
opaque clkSkew : Nat → Nat

/-- The DRAM bank of a row of a pseudo-channel, by the row's granule (PA / 65,536): which rows share a bank is not in the spec
(R435, R469). -/
opaque bankOf : Nat → Nat

/-- The set of its slice, and of its slice's directory, that a line belongs to: the index is not in the spec (R14, R259). -/
opaque sliceSet : (line : Nat) → Nat
opaque dirSet : (line : Nat) → Nat

/-- Which byte of a reservation's units an element byte of a new reservation comes from, when earlier fills have left bytes
there: placement within the units cannot be observed (R396, R402). -/
opaque staleByte : (draw byte : Nat) → Nat

/-- Whether a KEYLD blob (key ciphertext, tag, binding) authenticates under the key of a session of the partition, and the key pair
it decrypts to (R462; the session key is made outside the model, log 8). -/
opaque keyAuth : (part session : Nat) → (blob : BitVec 768) → Bool
opaque keyPlain : (part session : Nat) → (blob : BitVec 768) → BitVec 512

/-- What a line of DRAM written under an earlier key reads as (R462), or one whose bad bytes decode to another codeword (R464). -/
opaque staleLine : (draw line : Nat) → BitVec 512

/-- The save areas that a reset, a thermal halt or a TDISP error uses for the contexts it stops, by partition and core: the spec
gives none (R457, R461, R483). -/
opaque resetSave : (part core : Nat) → BitVec 64

/-- Whether the UCIe links of a tarn retrain (R457). -/
opaque retrainOk : (draw : Nat) → Bool

/-- Whether both signatures of a firmware image verify, and its version (R484, log 8). -/
opaque imageOk : (image : BitVec 64) → (draw : Nat) → Bool
opaque imageVersion : (image : BitVec 64) → (draw : Nat) → Nat

/-- Whether a FINISH message authenticates the SPDM session (R482, log 8). -/
opaque finishOk : (part mac : Nat) → Bool

/-- The contents of an SPDM response (R482, log 8). -/
opaque spdmResponse : (part request arg draw : Nat) → Nat

end Sys2Proof.Config
end

