-- ==== Sys2Proof/Machine/State.lean ====
section
/-! DEFINITION. The state of the machine as plain data: every piece of state the spec gives an HX12 pod, grouped by
the part that holds it (thread, quire, block, core, tarn, partition, pod), and the state after reset.  A sparse table
`Tab` lists entries by number in rising order; an entry a table does not list has the default the reader names, which is
its value at reset.  Each field's docstring ends in [rule; width; value at reset]. -/

namespace Sys2Proof.Machine

/-- A sparse table: entries by number, numbers strictly rising. -/
abbrev Tab (α : Type) := List (Nat × α)

/-- What a thread waits for, besides registers and flags (R92). -/
inductive Wait where
  /-- Not waiting. -/
  | none
  /-- QSYNC with this lane mask, already including the own lane (R106). -/
  | qsync (mask : BitVec 32)
  /-- NAP until this clk, and whether it was of 32 clk or more at issue (R105, R92). -/
  | nap (til : Nat) (long : Bool)
  /-- BARS or BARR at a named barrier; phase number, 0 until its arrival is counted; BARR result register (D, to predicate) if
  any (R322, R323). -/
  | named (nb phase : Nat) (res : Option (Nat × Bool))
  /-- SBAR at a scope-barrier object; scope, id, the object's key, phase, 0 until its arrival is counted (R325, R326). -/
  | scope (sc id key phase : Nat)
  /-- WAITX, held by the operation of this number (R329). -/
  | waitx (op : Nat)
  /-- POISON, held by the operation of this number until its lines are poisoned (R475). -/
  | work (op : Nat)
  /-- SYSC parked until ERET (R441). -/
  | sysc
  /-- Held for an offline home: the clk since when, the home, the request's effective address (R456). -/
  | offline (since home : Nat) (ea : BitVec 64)
  /-- Stopped by BKPT or by another thread's BKPT (R117). -/
  | bkpt
  /-- A supervisor core whose firmware has not been started from outside (log 7). -/
  | boot
deriving DecidableEq, Repr

/-- A thread: one lane of one quire (R16, R86). -/
structure Thread where
  /-- V0-V127, by number; an unlisted register reads 0 [R16, R351; 128 x 32; 0] -/
  v : Tab (BitVec 32) := []
  /-- P0-P6 at bit n [R16, R351; 7; 0] -/
  p : BitVec 7 := 0#7
  /-- Completion-flag counts F0-F11, 0-63 [R50, R51, R351; 12 x 6; 0] -/
  flags : Tab Nat := []
  /-- The thread has not ended [R86; 1; set at dispatch] -/
  live : Bool := true
  /-- Address of the clause header at which the thread stands when in no group [R54; 64; set at dispatch] -/
  pc : BitVec 64 := 0#64
  /-- What it waits for [R92; -; none] -/
  wait : Wait := .none
  /-- The acquiring read, by its operation number, that holds back the thread's later accesses [R524; -; none] -/
  acq : Option Nat := Option.none
  /-- Of a thread that waits at a barrier instruction that ended its clause: the place of that instruction [R335, R445; 64 + 4; none] -/
  waitAt : Option (BitVec 64 × Nat) := Option.none
  /-- By flag: what the completed phases of its SBARA arrivals release to a clause entry that names the flag [R326; lists; empty] -/
  owed : Tab (List Nat) := []
  /-- Deque-spin bit [R334; 1; 0] -/
  spin : Bool := false
  /-- Remaining external-wait timeout in us, when an interrupted WAITX is to issue again [R332, R451; 32; 0] -/
  wxrem : Nat := 0
  /-- Outstanding writes this thread has read (operation numbers), which its releases cover [R238; list; empty] -/
  observed : List Nat := []
  /-- Outstanding writes that happen before its next access, as its acquires have found [R237, R238; list; empty] -/
  synced : List Nat := []
  /-- Writes that its last release fence covers and that are still outstanding, with the fence's scope [R236, R238; list + 3; empty, 0] -/
  fenced : List Nat := []
  fsc : Nat := 0
  /-- What its reads have met, for an acquire fence: release scope, place of the releasing agent, covered operation [R236, R237, R245,
  R247; list; empty] -/
  readSet : List (Nat × Nat × Nat) := []
deriving DecidableEq, Repr

/-- A group of threads inside a clause (R87, R88), with the clause as it was fetched and decoded at entry (R57). -/
structure Group where
  /-- Member lanes [R88; 32; -] -/
  lanes : BitVec 32
  /-- Clause address [R61; 64; -] -/
  clause : BitVec 64
  /-- The instruction words of the clause as fetched [R57; up to 15 x 32; -] -/
  words : List (BitVec 32)
  /-- Index of the next word in the clause, 1 to LEN, LEN + 1 when all have issued [R61; 4; 1 at entry] -/
  widx : Nat
  /-- Set-flag A and B, 15 for none [R48; 4 + 4; -] -/
  sfa : Nat
  sfb : Nat
  /-- Yield hint of the header [R56; 1; -] -/
  yld : Bool
  /-- Held: it has tried its next word and must wait for an event first [R52, R92; 1; 0] -/
  held : Bool := false
  /-- Consecutive issue cycles of the quire in which it could issue and was not chosen [R91; 11; 0] -/
  age : Nat := 0
  /-- It was held for an offline home and issues its instruction again [R456; 1; 0] -/
  stage : Nat := 0
  /-- Threads that a TAIL has ended whose group still stands at it [R101; 32; 0] -/
  ended : BitVec 32 := 0#32
deriving DecidableEq, Repr

/-- A quire: a thread slot of a core (R13, R16). -/
structure Quire where
  /-- The threads by lane [R16; 32 threads; set at dispatch] -/
  threads : Tab Thread := []
  /-- G0-G127; an unlisted register reads 0 [R16, R351; 128 x 32; 0] -/
  g : Tab (BitVec 32) := []
  /-- GP0-GP6 at bit n [R16, R351; 7; 0] -/
  gp : BitVec 7 := 0#7
  /-- Lane fault mask, %fmask [R216, R351; 32; 0] -/
  fmask : BitVec 32 := 0#32
  /-- First lane-fault cause and its offset [R216; 8 + 32; none] -/
  firstCause : Option (Nat × Nat) := Option.none
  /-- Groups in progress, by group number, in order of entry [R88; list; empty] -/
  groups : Tab Group := []
  /-- Ages of the clause headers at which threads stand (address, count) [R91; list; empty] -/
  headAge : Tab Nat := []
  /-- Issue number at which the quire last issued, none if it has not issued [R90; -; none] -/
  lastIssue : Option Nat := Option.none
  /-- Issue number at which it entered the active set [R94; -; at dispatch] -/
  entered : Nat := 0
  /-- It gives up its next issue cycle (YLD, YIELD) [R56, R104; 1; 0] -/
  skip : Bool := false
  /-- Per-quire return-address stack of 8 (fetch prediction only) [R98; 8 x 64; empty] -/
  retStack : List (BitVec 64) := []
deriving DecidableEq, Repr

/-- The open phase of a named barrier, convergence register or scope barrier (R320). -/
structure Phase where
  /-- Phase count n, set by the first arrival [R320; 27; 0] -/
  n : Nat := 0
  /-- Arrivals so far [R320; 27; 0] -/
  a : Nat := 0
  /-- Operation of the first BARR arrival [R323; 2; none] -/
  op : Option Nat := Option.none
  /-- Reduction so far under each of .sum .band .bor .umax [R323; 4 x 32; identities] -/
  acc : List Nat := [0, 4294967295, 0, 0]
  /-- Phases completed before this one [R320; -; 0] -/
  num : Nat := 0
  /-- SIGNED bit, for a convergence register [R394; 1; 0] -/
  signed : Bool := false
  /-- Arrivals that have taken effect and are not counted yet (operation x 32 + lane) [R407; list; empty] -/
  heldArr : List Nat := []
  /-- What the arrivals of the phase release, still outstanding (operation numbers) [R324, R326; list; empty] -/
  covers : List Nat := []
  /-- clk of the last arrival, and the place of its instruction among the arrivals of one cycle [R320; -; none] -/
  last : Nat × Nat := (0, 0)
deriving DecidableEq, Repr

/-- An entry of a tile table (R218). -/
structure Tile where
  /-- 0 EMPTY, 1 FILLING, 2 READY, 3 DRAINING [R218; 2; 0] -/
  st : Nat := 0
  /-- Descriptor bits [38:0] [R218; 39; 0] -/
  desc : BitVec 39 := 0#39
deriving DecidableEq, Repr

/-- A scratchpad side of a core (R214, R365), with the tile table that stays with it (R218). -/
structure Side where
  /-- Bytes of the side; an unlisted offset reads 0 [R214, R351; 196,608 x 8; 0] -/
  bytes : List Host.Cell := []
  /-- Tile table T0-T63 [R218, R351; 64 entries; EMPTY] -/
  tiles : Tab Tile := []
  /-- The block whose context holds the side [R365; -; none] -/
  owner : Option Nat := Option.none
deriving DecidableEq, Repr

/-- A handle of the operand buffer (R394, R395, R397). -/
structure Handle where
  /-- 0 FREE, 1 RESERVED, 2 REFUSED [R397; 2; 0] -/
  st : Nat := 0
  /-- Reservation record [R395; 64; 0] -/
  record : BitVec 64 := 0#64
  /-- Generation [R394; 32; 0] -/
  gen : BitVec 32 := 0#32
  /-- Operand cache entry: tile, descriptor, direction, placement, generation [R404; -; empty] -/
  cache : Option (Nat × BitVec 39 × Nat × BitVec 32 × BitVec 32) := Option.none
deriving DecidableEq, Repr

/-- A shadow registration of a block (R383, R384). -/
structure Shadow where
  /-- First virtual address and page count [R383; 64 + 13; -] -/
  base : BitVec 64
  pages : Nat
  /-- The region's pages as page tables name them, in page order (64 KiB numbers) [R383; -; -] -/
  own : List Nat
  /-- Reserved shadow frames, as page tables name them, in page order [R383; -; -] -/
  frames : List Nat
  /-- Pages the open generation has written (page index) [R384; list; empty] -/
  written : List Nat := []
  /-- The open generation has been discarded [R390; 1; 0] -/
  discarded : Bool := false
deriving DecidableEq, Repr

/-- A lease (R352): first and last+1 address and mode: 0 read, 1 read-write, 2 read and execute. -/
structure Lease where
  base : Nat
  len : Nat
  mode : Nat
deriving DecidableEq, Repr

/-- A command-ring entry formed by an instruction or read from a declared ring (R369, R371). -/
structure Entry where
  /-- The 256 bits of R371 [R371; 256; -] -/
  bits : BitVec 256
  /-- Sequence number, 0 for a chained entry [R367, R369, R373; 32; -] -/
  seq : Nat
  /-- Ring: 0 instruction ring, 1 declared ring [R369; 1; -] -/
  ring : Nat
  /-- Operation of the issuing threads, for the instruction ring [R378; -; none] -/
  origin : Option Nat := Option.none
  /-- Clause address and word index of the issuing instruction [R372; 64 + 4; 0] -/
  clause : BitVec 64 := 0#64
  widx : Nat := 0
  /-- 0 waiting, 1 started and moving, 2 done moving, waiting to be written [R370; 2; 0] -/
  stage : Nat := 0
  /-- Outcome: CODE, TR, RP, SD, detail [R374; -; 0] -/
  code : Nat := 0
  tr : Bool := false
  rp : Bool := false
  sd : Bool := false
  detail : Nat := 0
  /-- Staged source bytes of a REDUCE, or the words left to move (source, destination) [R380, R379; -; empty] -/
  staged : List (BitVec 8) := []
  work : List (Nat × Nat) := []
  /-- RMWs of a REDUCE applied so far; attempts of a spring message [R389, R434; -; 0] -/
  pos : Nat := 0
  /-- A number that no other entry has, and the sender identity of a spring message [R424; 32; -] -/
  id : Nat := 0
  ident : BitVec 32 := 0#32
  /-- Of a chained entry: its depth, and the sequence number of the outermost LINK [R373; 3 + 32; 0] -/
  depth : Nat := 0
  link : Nat := 0
  /-- Its start checks passed and it acted [R372; 1; 0] -/
  ran : Bool := false
  /-- Failing address, for a report [R372; 64; 0] -/
  ea : BitVec 64 := 0#64
  /-- Held for an offline home since this clk [R456; -; none] -/
  since : Option Nat := Option.none
  /-- A wait of the entry, by operation numbers it must see performed first [R246, R424; list; empty] -/
  covers : List Nat := []
  /-- Outstanding writes that happen before its completion: what it acquired, and what its engine has read [R238, R247; list; empty] -/
  seen : List Nat := []
  /-- The operation that stands for its writes of memory while they are not performed [R247, R255; -; none] -/
  wop : Option Nat := Option.none
  /-- The shadow handles whose open generations it has written into [R374; list; empty] -/
  gen : List Nat := []
  /-- Its next RMW is on its way to another tarn [R264, R380; 1; 0] -/
  sent : Bool := false
  /-- Reply and outcome of a SPRING entry [R425; 32 + 32; 0] -/
  reply : BitVec 32 := 0#32
  outcome : BitVec 32 := 0#32
deriving DecidableEq, Repr

/-- A matrix command in a core's queue (R401). -/
structure MCmd where
  /-- The instruction [R401; -; -] -/
  ins : Instr
  /-- Issue number, the order of the queue [R401; -; -] -/
  num : Nat
  /-- Operation of the issuing threads [R400; -; -] -/
  op : Nat
  /-- Operand values of the lowest participant at issue (b, c) and per-lane row indices [R400, R406; -; -] -/
  vb : BitVec 32
  vc : BitVec 32
  rows : List (Nat × BitVec 32)
  /-- 0 queued, 1 started [R401; 1; 0] -/
  stage : Nat := 0
  /-- An operand-cache hit decided at issue [R404; 1; -] -/
  hit : Bool := false
  /-- Clause address and word index of the issuing instruction, for its report [R418; 64 + 4; -] -/
  clause : BitVec 64
  widx : Nat
deriving DecidableEq, Repr

/-- How a block stands. -/
inductive BlkSt where
  /-- Running on its core. -/
  | running
  /-- Being stopped by CTXSTOP into this save area; with .rq; status register of the request. -/
  | stopping (save : BitVec 64) (rq : Bool)
  /-- Stopped, state in the save area; the number of results still to land (PEND) is the count of its operations. -/
  | saved (save : BitVec 64) (rq : Bool)
  /-- Stopped by DEBUG; resumes by CTXGO (R449). -/
  | debug
  /-- Ended on a fault or cancelled, waiting for outstanding operations (R392, R102): record state 5, 6 or 7. -/
  | ending (st : Nat)
deriving DecidableEq, Repr

/-- The record of a task fault (R204, R341, R445), with the failing word of an illegal encoding (R49, R61). -/
structure Report where
  cause : Nat
  detail : Nat
  clause : BitVec 64
  widx : Nat
  lane : Nat
  ea : BitVec 64
  /-- The failing word of an illegal encoding [R61; 32; 0] -/
  word : BitVec 32 := 0#32
deriving DecidableEq, Repr

/-- A block: the task a core runs (R20), with its context; also the supervisor core's own context (R443). -/
structure Block where
  /-- Global core that holds it, or held it last [R20; 9; at dispatch] -/
  core : Nat
  /-- Partition, launch and flattened block number [R347; 4 + 12 + 32; at dispatch] -/
  part : Nat
  lid : Nat
  bflat : Nat
  /-- Launching tarn of its launch [R336; -; at dispatch] -/
  ltarn : Nat
  /-- Code pointer and frame pointer [R347; 64 + 64; at dispatch] -/
  code : BitVec 64
  frame : BitVec 64
  /-- ENTRY and CODELEN of the kernel header, for the code lease [R352; 32 + 32; at dispatch] -/
  entry : Nat := 64
  codeLen : Nat := 0
  /-- Encoding version [R65; 2; at dispatch] -/
  ver : Nat := 4
  /-- Declared register counts [R46; 8 + 8; at dispatch] -/
  vregs : Nat := 128
  gregs : Nat := 128
  /-- Declared scratchpad bytes and ring entries [R80; 18 + 9; at dispatch] -/
  scratch : Nat := 0
  ring : Nat := 0
  /-- Block shape NTX NTY NTZ and grid shape GX GY GZ [R337; -; at dispatch] -/
  shape : List Nat := [1, 1, 1]
  grid : List Nat := [1, 1, 1]
  /-- Supervisor privilege [R438; 1; 0 for a dispatched block] -/
  sup : Bool := false
  /-- Declared ranges with their modes, and all leases [R338, R352; -; at dispatch] -/
  ranges : List Lease := []
  leases : List Lease := []
  /-- Gang number [R347; 16; at dispatch] -/
  gang : Nat := 0
  /-- State of the context [R348, R448; -; running] -/
  st : BlkSt := .running
  /-- Scratchpad side it holds [R365; 1; at dispatch] -/
  side : Nat := 0
  /-- Quires by number [R16; 16; at dispatch] -/
  quires : Tab Quire := []
  /-- Active set, and pending set from oldest to newest [R89; 8 + 8; at dispatch] -/
  active : List Nat := []
  pending : List Nat := []
  /-- Issue counter that orders issues and entries [R90; -; 0] -/
  issues : Nat := 0
  /-- Positions being exchanged: the entering quire, and the clk until which it issues nothing [R93; -; none] -/
  exch : List (Nat × Nat) := []
  /-- NB0-NB31 [R322, R351; 32 phases; no open phase] -/
  nb : Tab Phase := []
  /-- K0-K15 [R394; 16 phases; n = 0, a = 0, SIGNED = 0] -/
  kreg : Tab Phase := []
  /-- Handles H0-H31 [R394; 32; FREE] -/
  handles : Tab Handle := []
  /-- Operand buffer: element values by (handle unit bytes); an unlisted byte reads 0 [R394; 262,144 x 8; 0] -/
  obuf : List Host.Cell := []
  /-- Accumulator cells by row x 512 + column; an unlisted cell is +0 [R394; 131,072 x 32; +0] -/
  acc : Tab (BitVec 32) := []
  /-- Matrix command queue [R394, R401; 8; empty] -/
  mq : List MCmd := []
  /-- Outstanding entries of the instruction ring and of the declared ring, in ring order [R369; 16; empty] -/
  iring : List Entry := []
  dring : List Entry := []
  /-- Sequence number last given on the instruction ring, and its completion word [R369, R381; 32 + 32; 0] -/
  iseq : Nat := 0
  idone : Nat := 0
  /-- What the completions counted in a ring's completion word release: ring, scope, outstanding write [R247; list; empty] -/
  doneRel : List (Nat × Nat × Nat) := []
  /-- The same of a status pair in the side, by its offset [R375; list; empty] -/
  statRel : List (Nat × Nat × Nat) := []
  /-- The declared ring is read no further: its NOTIFY was too far ahead [R368; 1; 0] -/
  dstop : Bool := false
  /-- Shadow handles 0-3 [R383; 4; none] -/
  shadows : Tab Shadow := []
  /-- Fault that ended the task [R341; -; none] -/
  report : Option Report := Option.none
  /-- Its save area is being written: STATUS reads 0 there [R451; 1; 0] -/
  writing : Bool := false
  /-- clk since which the context has been deadlocked [R335; -; none] -/
  stuck : Option Nat := Option.none
deriving DecidableEq, Repr

/-- MOESI state of an L1 line (R258). -/
inductive Moesi where
  | m | o | e | s
deriving DecidableEq, Repr

/-- A cached line: an L1 line, a slice line or a guest line (R258, R269). -/
structure Line where
  /-- State, of an L1 line [R258; 3; not held] -/
  st : Moesi := .e
  /-- Per-byte valid mask [R258; 64; 0] -/
  valid : BitVec 64 := 0#64
  /-- Per-byte dirty mask [R258, R269; 64; 0] -/
  dirty : BitVec 64 := 0#64
  /-- Data, byte i at [8i+7:8i] [R258; 512; 0] -/
  data : BitVec 512 := 0#512
  /-- Reader count, of a slice line at its home [R212; 4; 0] -/
  rc : Nat := 0
  /-- Allocated as first to evict [R211; 1; 0] -/
  stream : Bool := false
  /-- Tags of its two granules, as they came with its bytes to a guest tarn, and which have come [R206; 8 + 2; 0] -/
  tags : BitVec 8 := 0#8
  tagged : BitVec 2 := 0#2
  /-- Recency of its last use: 0 for the least recently used place [R211; -; 0] -/
  use : Nat := 0
deriving DecidableEq, Repr

/-- A directory entry (R259). -/
structure Dir where
  /-- State of the line in the tarn's L1s [R259; 3; S] -/
  st : Moesi := .s
  /-- Sharer vector of the tarn's cores [R259; 24; 0] -/
  sharers : BitVec 24 := 0#24
  /-- Owner core [R259; 5; none] -/
  owner : Option Nat := Option.none
  /-- clk of the first grant of M since the last write-back [R269; -; none] -/
  grant : Option Nat := Option.none
  /-- Recency of its last use [R259; -; 0] -/
  use : Nat := 0
deriving DecidableEq, Repr

/-- A TLB or table-cache entry (R201, R202). -/
structure Xlat where
  /-- Partition, or the supervisor's root [R202; -; -] -/
  part : Nat
  /-- First virtual address and log2 of the page size: 16, 28 or 40 [R198; -; -] -/
  va : Nat
  sz : Nat
  /-- Leaf entry as read [R199; 64; -] -/
  pte : BitVec 64
deriving DecidableEq, Repr

/-- A decision-cache entry (R308): PA, GEN, VALUE, WINNER. -/
structure Decision where
  pa : Nat
  gen : BitVec 30
  value : BitVec 64
  winner : BitVec 32
deriving DecidableEq, Repr

/-- A core (R16): what belongs to the core and not to a block.  Number 24 of a tarn is its supervisor core. -/
structure Core where
  /-- Block it runs [R20; -; none] -/
  run : Option Nat := Option.none
  /-- Contexts that CTXGO has restored here while a block ran, which run when it has gone [R20, R449; list; empty] -/
  waiting : List Nat := []
  /-- Scratchpad sides 0 and 1 [R214; 2 x 196,608 x 8; 0] -/
  sides : Tab Side := []
  /-- L1 data cache by line number (PA / 64) [R16, R258; 2,048 lines; empty] -/
  l1 : Tab Line := []
  /-- Instruction cache: lines with their bytes, least recently used first [R16; 1,024 lines of 64 bytes; empty] -/
  icache : List (Nat × BitVec 512) := []
  /-- Core TLB, least recently used first [R16, R202; 256 entries; empty] -/
  tlb : List Xlat := []
  /-- Decision cache, least recently used first [R308; 64 entries; empty] -/
  dec : List Decision := []
  /-- Retirement tracker: the operations of each entry, with their block [R16, R101; 8 entries; empty] -/
  tracker : Tab (Nat × List Nat) := []
  /-- Engine: side served last, and ring taken last on each side [R370; 1 + 2; side 1, declared ring, so that side 0 and the instruction ring come first] -/
  engSide : Nat := 1
  engRing : List Nat := [1, 1]
  /-- Pages waiting for a walk (virtual page number) and the walk's result for the waiting access [R202; list; empty] -/
  walks : List Nat := []
  /-- Pages whose walk failed, to be reported by the access that needs them (page, level) [R203, R454; list; empty] -/
  noXlat : List (Nat × Nat) := []
  /-- Lines whose home is offline and that its fetch or a walk of its pages needs, with the clk since when [R456; list; empty] -/
  away : Tab Nat := []
  /-- Value of %clk when the core last became idle [R350; 64; 0] -/
  idleAt : Nat := 0
deriving DecidableEq, Repr

/-- A spring message, queued or running (R422, R426). -/
structure Msg where
  /-- Physical line address [R424; 56; -] -/
  pa : Nat
  slot : Nat
  arg0 : BitVec 64
  arg1 : BitVec 64
  /-- Sender identity [R424; 32; -] -/
  sender : BitVec 32
  /-- The entry that sent it: block, ring, the entry's own number [R425; -; -] -/
  src : Nat × Nat × Nat
  scope : Nat
deriving DecidableEq, Repr

/-- A row's activations since its count was last cleared (R469): those that must have been, those that may have been, and the handler
slot of the spring that made the last access [R435, R469; -; 0]. -/
structure RowCount where
  sure : Nat := 0
  may : Nat := 0
  slot : Option Nat := Option.none
deriving DecidableEq, Repr

/-- A spring (R421). -/
structure Spring where
  /-- Handler slots 0-15: state (1 LOADED, 2 DISABLED) and words [R421; 16; EMPTY] -/
  slots : Tab (Nat × List (BitVec 32)) := []
  /-- Message queue, oldest first [R421, R426; 64; empty] -/
  queue : List Msg := []
  /-- Messages that the full queue holds at the slice, in order of arrival [R263, R426; list; empty] -/
  held : List Msg := []
  /-- clk of the last arrival, and its place among the arrivals of one cycle [R426; -; none] -/
  last : Nat × Nat := (0, 0)
  /-- Running handler's message [R421; -; none] -/
  run : Option Msg := Option.none
  /-- Next word and steps run [R429; 7 + 9; 0] -/
  at_ : Nat := 0
  steps : Nat := 0
  /-- Handler context: G0-G63, GP0-GP6, row buffer [R421; 64 x 32 + 7 + 256 x 32; 0] -/
  g : Tab (BitVec 32) := []
  gp : BitVec 7 := 0#7
  rb : Tab (BitVec 32) := []
  /-- Outstanding writes that the running handler has read [R238; list; empty] -/
  seen : List Nat := []
  /-- Row open in the pseudo-channel, by bank (row number) [R435; -; none] -/
  openRow : Tab Nat := []
  /-- Activation counts by row [R469; -; 0] -/
  acts : Tab RowCount := []
  /-- Mitigation windows: (bank row, end clk) [R469; list; empty] -/
  mitig : List (Nat × Nat) := []
  /-- Clks of spring-caused alerts by slot [R436; list; empty] -/
  alerts : Tab (List Nat) := []
  /-- Granules marked MOVING [R434; list; empty] -/
  moving : List Nat := []
  /-- Clks of lasting parity errors, retraining in progress, clk the last retraining ended [R468; -; none] -/
  parity : List Nat := []
  retrain : Bool := false
  trained : Option Nat := Option.none
  /-- Retired [R476; 1; 0] -/
  retired : Bool := false
deriving DecidableEq, Repr

/-- A waiter parked at a cell, or a monitor of a WAITX (R312, R331): the operation, its cell or word address. -/
structure Waiter where
  op : Nat
  pa : Nat
  /-- Lane of the participant [R312, R331; 5; -] -/
  lane : Nat := 0
  /-- Recorded by the supervisor and not in a hardware slot [R313; 1; -] -/
  virt : Bool := false
deriving DecidableEq, Repr

/-- A task record (R347) with its state (R348). -/
structure Task where
  lid : Nat
  bflat : Nat
  /-- State code of R348 [R348; 3; 0] -/
  st : Nat := 0
  join : Nat := 0
  /-- Target tarn once placed [R349; -; none] -/
  target : Option Nat := Option.none
  /-- Leases once granted [R352; -; empty] -/
  leases : List Lease := []
  ranges : List Lease := []
  /-- Saved context to resume [R348; 64; none] -/
  resume : Option (BitVec 64) := Option.none
  /-- Its slot in the overflow area, when it is held there [R342; -; none] -/
  spilled : Option Nat := Option.none
  /-- Report of a record that never ran [R352; -; none] -/
  report : Option Report := Option.none
  /-- Decrements on their way to it [R345; -; 0] -/
  pend : Nat := 0
  /-- Outstanding writes that its acceptance and its decrements release (operation numbers) [R356; list; empty] -/
  covers : List Nat := []
deriving DecidableEq, Repr

/-- A launch record (R336). -/
abbrev LRec := BitVec 512

/-- An active launch, at its launching tarn's command processor (R339, R340). -/
structure Launch where
  /-- The 64-byte record [R336; 512; -] -/
  record : LRec
  /-- A number that no other launch has [model's own; -; -] -/
  uid : Nat
  /-- Partition and launching tarn [R336; -; -] -/
  part : Nat
  ltarn : Nat
  /-- Task records by flattened block number [R347; -; -] -/
  tasks : Tab Task := []
  /-- Successors registered with it (their own numbers) [R345; list; empty] -/
  succ : List Nat := []
  /-- Predecessor's own number, when registered or to be registered [R345; -; none] -/
  pred : Option Nat := Option.none
  /-- It has had its first faulted or cancelled block [R346; 1; 0] -/
  broken : Bool := false
  /-- Blocks that are DONE, FAULTED and CANCELLED [R339; 32 each; 0] -/
  ndone : Nat := 0
  nfault : Nat := 0
  ncanc : Nat := 0
  /-- Report entries produced [R339, R341; 16; 0] -/
  rptw : Nat := 0
  /-- Ranges given by SPAWN instead of a range table [R359; -; none] -/
  ranges : Option (List Lease) := Option.none
  /-- Entries of the range table as read at acceptance: BASE, LEN, STRIDE [R338; 8 x 192; empty] -/
  rtab : List (Nat × Nat × Nat) := []
  /-- Kernel's LCOUNT, LMODE, ENTRY + CODELEN as read at acceptance [R342; -; -] -/
  lcount : Nat := 0
  lmode : Nat := 0
  codeEnd : Nat := 0
deriving DecidableEq, Repr

/-- A gang entry of a module and partition (R360, R361). -/
structure Gang where
  desc : BitVec 512
  /-- 1 open and undecided, 2 COMMIT, 3 ABORT [R361; 2; 1] -/
  st : Nat := 1
  /-- Members acknowledged, known to the initiator [R362; 256; empty] -/
  acks : List Nat := []
  /-- clk of the initiator's timer start [R361; -; none] -/
  timer : Option Nat := Option.none
  /-- This module has sent its acknowledgement [R362; 1; 0] -/
  acked : Bool := false
  /-- Its proposals that wait for their turn at the cell, earliest first [R362, R307, R456; list; empty] -/
  prop : List Nat := []
deriving DecidableEq, Repr

/-- A trap waiting for a supervisor core (R443, R444). -/
structure Trap where
  kind : Nat
  cause : Nat := 0
  detail : Nat := 0
  addr : BitVec 64 := 0#64
  ident : BitVec 32 := 0#32
  service : Nat := 0
  /-- For SYSC: block, quire and lane mask of the waiting threads [R441; -; none] -/
  caller : Option (Nat × Nat × Nat) := Option.none
  /-- The block on whose behalf it is [R334; -; none] -/
  blk : Option Nat := Option.none
  /-- Of an OWN trap: clause address, word index and, of an illegal encoding, the failing word [R61, R63; 64 + 4 + 32; 0] -/
  clause : BitVec 64 := 0#64
  widx : Nat := 0
  word : BitVec 32 := 0#32
deriving DecidableEq, Repr

/-- Counters of a plane of the control triad (R452, R453). -/
structure Plane where
  /-- Counters 0-3: dissents, resyncs, duplex retries, lasting dissents [R453; 4 x 64; 0] -/
  cnt : List Nat := [0, 0, 0, 0]
  /-- Mode: 0 triplex, 1 resyncing, 2 duplex [R453; 2; 0] -/
  mode : Nat := 0
  /-- Copy number of the last dissenter [R453; 2; 0] -/
  last : Nat := 0
  /-- clk of the last counted dissent, by copy [R452; -; none] -/
  when_ : Tab Nat := []
  /-- Resynchronisations under way, oldest first: of a dissenter, or of the copy that TRIRS named [R452, R453; list; empty] -/
  syncing : List (Option Nat) := []
deriving DecidableEq, Repr

/-- An entry of the array log or transfer log (R467). -/
structure LogEntry where
  time : Nat
  count : Nat
  bytes : Nat
  kind : Nat
  slot : Nat := 0
  pc : Nat := 0
  pa : Nat
deriving DecidableEq, Repr

/-- An error log: its places, and once all 16 are filled the place of the oldest entry (R467). -/
structure ErrorLog where
  entries : List LogEntry := []
  oldest : Nat := 0
deriving DecidableEq, Repr

/-- How a tarn stands on the ring (R274, R275). -/
inductive Online where
  | online
  /-- Leaving: R276 has not completed. -/
  | leaving
  /-- Offline, the ring folded around it. -/
  | folded
  /-- A forwarding stop. -/
  | forwarding
deriving DecidableEq, Repr

/-- A tarn (R14), by module x 12 + number. -/
structure Tarn where
  /-- Ring status [R274; -; online] -/
  st : Online := .online
  /-- Management has cleared the cause of its absence [R275; 1; 0] -/
  cleared : Bool := true
  /-- Pool bytes; an unlisted offset reads 0 [R223; 33,554,432 x 8; not stated: DESIGN CHOICE 0, log 4] -/
  pool : List Host.Cell := []
  /-- Tarn-cache lines by line number, home and guest lines alike [R16, R257; 64 x 768 KiB; empty] -/
  slices : Tab Line := []
  /-- Directory entries by line number [R259; 131,072; empty] -/
  dir : Tab Dir := []
  /-- Home side: recorded spans by sector x 16 + tarn number: (lo, hi) [R265; -; none] -/
  spans : Tab (Nat × Nat) := []
  /-- Guest side: its own recorded span by global sector: (lo, hi) [R265; -; none] -/
  mySpans : Tab (Nat × Nat) := []
  /-- Tarn decision cache, least recently used first, slices in one list [R308; 1,024; empty] -/
  dec : List Decision := []
  /-- Parked cell waiters and WAITX monitors, in parking order [R312, R331; 32 + 32 per slice; empty] -/
  waiters : List Waiter := []
  monitors : List Waiter := []
  /-- clk of the last cell act by slice, and the place of its request among the arrivals of one cycle [R307, R317; -; none] -/
  cellClk : Tab (Nat × Nat) := []
  /-- Frames of 64 KiB on which its slices have acted on cells, rising [R298, R310; -; none] -/
  cellFrames : List Nat := []
  /-- Springs by slice [R421; 64; -] -/
  springs : Tab Spring := []
  /-- Pending-launch store: records it holds (lid, block, resume) [R342; 256; 0] -/
  store : Nat := 0
  /-- Ready queues by priority: (grant clk, lid, block) in order; RESUME records first, under 0 [R350, R348; 4 queues; empty] -/
  queues : Tab (List (Nat × Nat × Nat)) := []
  /-- Walkers' table cache: entries read, least recently used first (entry PA, entry) [R202; 1,024; empty] -/
  tcache : List (Nat × BitVec 64) := []
  /-- TVEC EPC TCAUSE TADDR TSRC SYSRET ROOT [R439; 64 each; TVEC 0, the others not stated: DESIGN CHOICE 0, log 5] -/
  tvec : BitVec 64 := 0#64
  epc : BitVec 64 := 0#64
  tcause : BitVec 64 := 0#64
  taddr : BitVec 64 := 0#64
  tsrc : BitVec 64 := 0#64
  sysret : BitVec 64 := 0#64
  root : BitVec 64 := 0#64
  /-- WPOL[0] [R439; 1; 0] -/
  wpol : Bool := false
  /-- Weir state, cap and DRAM temperature in degrees [R439, R460; 3 + 3 + 8; W0, W0, temperature not stated: DESIGN CHOICE 0, log 5] -/
  weir : Nat := 0
  cap : Nat := 0
  temp : Nat := 0
  /-- HOFF: enable and limit in ms [R439; 1 + 16; 1, 100] -/
  hoffEn : Bool := true
  hoffMs : Nat := 100
  /-- DEBUG[0] [R439; 1; 0] -/
  debug : Bool := false
  /-- INTRAP and the kind of the trap being handled, with a SYSC's caller [R439, R443; 1; 0] -/
  intrap : Bool := false
  caller : Option (Nat × Nat × Nat) := Option.none
  /-- The block on whose behalf that trap is [R334; -; none] -/
  behalf : Option Nat := Option.none
  /-- G0 to G7 of a SYSC's caller, which its handler reads; 0 at or beyond the declared count [R441; 8 x 32; empty] -/
  callG : List (BitVec 32) := []
  /-- Trap queue, held traps behind it, own traps ahead of it [R443; 64; empty] -/
  traps : List Trap := []
  own : List Trap := []
  /-- The supervisor core has halted and a warm reset is asked of management [R444; 1; 0] -/
  supHalt : Bool := false
  /-- Control-triad planes 0-3 [R453; 4; triplex, counters 0] -/
  planes : Tab Plane := []
  /-- Array log and transfer log, by place [R467; 16 + 16; empty] -/
  alog : ErrorLog := {}
  tlog : ErrorLog := {}
  /-- Hardware lease entries in use [R354; 1,024; 0] -/
  leaseCnt : Nat := 0
  /-- Last stamp given at this stop [R262; -; none] -/
  stamp : Option Nat := Option.none
  /-- Pod port up [R486; 1; up] -/
  port : Bool := true
  /-- Anti-rollback version of the firmware [R484; 32; not stated: DESIGN CHOICE 0, log 5] -/
  fwVer : Nat := 0
deriving DecidableEq, Repr

/-- What waits for the words of a span read (R271): an operation, a core's fetch, a walk for a core's page, or an entry of a ring. -/
inductive Asker where
  | op (id : Nat)
  | fetch (core : Nat)
  | walk (core vpn : Nat)
  | entry (b ring id : Nat)
deriving DecidableEq, Repr

/-- A stamped request in flight on a module's ring (R262-R264). -/
inductive Req where
  /-- A span read: requesting tarn, sector, run, and what waits for it. -/
  | spanRead (tarn sector lo hi : Nat) (by_ : List Asker)
  /-- A byte-masked write-back of a line (R269). -/
  | writeBack (tarn line : Nat) (mask : BitVec 64) (data : BitVec 512)
  /-- An invalidation that a home sends on its own account: sector, words [lo, hi] (R268). -/
  | inval (sector lo hi : Nat)
  /-- Any other access: the operation it carries and its lane (R264). -/
  | access (op lane : Nat)
  /-- The next RMW of a REDUCE: block, ring, the entry's own number, physical address (R264, R380). -/
  | reduce (b ring id pa : Nat)
deriving DecidableEq, Repr

/-- A request on the ring: not yet stamped, or stamped (cycle). -/
structure RingReq where
  home : Nat
  req : Req
  /-- Stamp cycle; none before it is stamped [R262; -; none] -/
  cycle : Option Nat := Option.none
deriving DecidableEq, Repr

/-- One element of an access: lane, virtual and physical address, data or compare value, and how far it has come. -/
structure Elem where
  lane : Nat
  va : BitVec 64
  pa : Nat
  size : Nat
  /-- Data of a store or atomic, and compare value [R209, R282; 64 + 64; -] -/
  x : BitVec 64 := 0#64
  c : BitVec 64 := 0#64
  /-- Value returned [R209; 64; -] -/
  r : BitVec 64 := 0#64
  /-- 0 to be done, 1 sent, 2 acted in the L1, 3 performed at its home, 4 failed or nothing written, 5 in a write-back under
  way, 6 arrived at the unit that serves it, 7 first slot of two done, or parked at its home [R255, R269, R284, R312; -; 0] -/
  st : Nat := 0
  /-- Its page has memory tagging enabled [R206; 1; -] -/
  te : Bool := false
  /-- Lanes merged into it [R286; -; empty] -/
  merged : List Nat := []
  /-- It has acted without writing: a failed CAS, a deque operation that is not OK [R281, R294; 1; 0] -/
  quiet : Bool := false
  /-- Of a cell operation that has reached its slice: clk, and place among the arrivals of one cycle [R307, R317; -; -] -/
  arr : Nat × Nat := (0, 0)
  /-- A DINIT has purged its cell's decisions since its act [R311; 1; 0] -/
  purged : Bool := false
  /-- The write-back that carries it, by its request's number [R269, R272; -; none] -/
  wb : Nat := 0
deriving DecidableEq, Repr

/-- What an outstanding operation is. -/
inductive OpKind where
  | load | store | atom | red | cell | tagSt | ldt | stt | cctl | waitx | sigx
  | trans | qtile | trlck | poolAtom | deque | lds | ldp | alu
  | shdw | publ | abnd | bar | sbar | msign | launch | gang | gangProp | ctxstop | lrev | twrst | keyld | scrub
  | tiermv | poison | retire | hinst | hdrop | tlbinv | trirs | fetch | copy | matrix | sprg | sts | stp | msg | met
deriving DecidableEq, Repr

/-- An outstanding operation (R50): whose it is, what it will write, and what it waits for. -/
structure Op where
  kind : OpKind
  /-- The instruction; not used of a spring message under way [-; -; -] -/
  ins : Instr
  /-- Block, quire and participants [R50; -; -] -/
  blk : Nat
  q : Nat
  lanes : BitVec 32
  /-- Selected flag, 15 for none [R50; 4; -] -/
  flag : Nat := 15
  /-- Registers held on the scoreboard: V numbers (per participant), G numbers, P numbers, GP numbers [R52; -; empty] -/
  holdV : List Nat := []
  holdG : List Nat := []
  holdP : List Nat := []
  holdGP : List Nat := []
  elems : List Elem := []
  /-- Scope of its release or acquire, 0 for none [R236; 3; 0] -/
  rel : Nat := 0
  acq : Nat := 0
  /-- The place of its agent: core x 32 + quire, 16 for an engine of the core [R13, R233; -; -] -/
  place : Nat := 0
  /-- Operations that must be performed (at rel) before it acts, and that those who acquire its write inherit [R524, R237; list; empty] -/
  covers : List Nat := []
  /-- Outstanding writes that happen before it [R238; list; empty] -/
  prior : List Nat := []
  /-- Outstanding writes that its read has met, with those that happen before them [R238; list; empty] -/
  met : List Nat := []
  /-- Scope at which an agent that reads its write inherits what it covers, 0 for none [R237; 3; 0] -/
  fsc : Nat := 0
  /-- Earlier operations of the thread it may not overtake [R235; list; empty] -/
  after_ : List Nat := []
  /-- Of a pool request: the earlier pool requests of its quire [R235; list; empty] -/
  before_ : List Nat := []
  /-- Other values: attempt counts, generation, status word [-; -; 0] -/
  n : Nat := 0
  m : Nat := 0
  /-- clk before which its event may not happen [R105, R332; -; 0] -/
  due : Nat := 0
  /-- Not sent because a home is offline, since this clk [R456; -; none] -/
  since : Option Nat := Option.none
  /-- The issuing instruction's place, for a report [R204; 64 + 4; -] -/
  clause : BitVec 64 := 0#64
  widx : Nat := 0
  /-- Its clause as it was fetched, and the clause's set-flags and yield hint, for an instruction that issues again [R57, R56, R313;
  -; -] -/
  code : List (BitVec 32) := []
  sets : Nat × Nat := (15, 15)
  yld : Bool := false
  /-- Of an LDT: the bytes of the object that its attempt has read [R225; -; empty] -/
  bytes : List (BitVec 8) := []
  /-- A fault found where the line is served: cause, lane, address [R205; -; none] -/
  bad : Option (Nat × Nat × BitVec 64) := Option.none
  /-- Of an LD or GLD: its L1 does not serve it, as known when it issues [R92; 1; 0] -/
  far : Bool := false
  /-- The threads that issued it have ended: its results are discarded [R100; 1; 0] -/
  drop : Bool := false
deriving DecidableEq, Repr

/-- The TDISP state of a partition's interface (R483). -/
inductive Tdisp where
  | unlocked | locked | run | error
deriving DecidableEq, Repr

/-- A partition: its tarns and the registers its host interface gives it (R479). -/
structure Part where
  /-- Its tarns, global numbers, rising [R325; -; assigned by management: DESIGN CHOICE, log 6] -/
  tarns : List Nat := []
  /-- LWDROP [R480; 64; not stated: DESIGN CHOICE 0, log 5] -/
  lwdrop : Nat := 0
  /-- XWTMO in us [R332; 64; 0] -/
  xwtmo : Nat := 0
  /-- WDPER in ms [R335; 16; 1000] -/
  wdper : Nat := 1000
  /-- OVFBASE OVFSIZE SHBASE SHSIZE HWBASE [R479; 64 each; not stated: DESIGN CHOICE 0, log 5] -/
  ovfbase : BitVec 64 := 0#64
  ovfsize : BitVec 64 := 0#64
  shbase : BitVec 64 := 0#64
  shsize : BitVec 64 := 0#64
  hwbase : BitVec 64 := 0#64
  /-- TDISP state [R483; -; unlocked: DESIGN CHOICE, log 5] -/
  tdisp : Tdisp := .unlocked
  /-- Frames of the shadow area in use (64 KiB page numbers) [R383; -; empty] -/
  shUsed : List Nat := []
  /-- Slots of the overflow area in use, rising [R342; list; empty] -/
  ovfUsed : List Nat := []
  /-- Active launches by LID [R340; 4,096; none] -/
  launches : Tab Launch := []
  /-- Gang table by module x 65,536 + gang number [R360; 64 per module; none] -/
  gangs : Tab Gang := []
  /-- Launches that are final while a registration with them is on its way, by their own numbers [R345; -; none] -/
  past : Tab Launch := []
  /-- SPDM exchange: step reached; and the number of the session whose key is established [R482; -; none] -/
  spdm : Nat := 0
  session : Option Nat := Option.none
deriving DecidableEq, Repr

/-- A key slot (R462): partition it is bound to, counter, the key pair. -/
structure KeySlot where
  part : Nat
  counter : BitVec 64
  key : BitVec 512
deriving DecidableEq, Repr

/-- What stands to issue next: nothing, a group of a block's quire, or a spring's handler. -/
inductive Cur where
  | idle
  | group (b q gid : Nat)
  | spring (gs : Nat)
deriving DecidableEq, Repr

/-- One turn of the machine, as timing, contention and the outside world choose it (log 1): time that passes, and what acts. -/
structure Turn where
  /-- clk that pass before it -/
  dt : Nat
  /-- Its kind: issue cycle of a core, a step of a spring's handler, an event of the opcode table, or nothing -/
  act : Act
deriving DecidableEq, Repr

/-- Why a step stops with a fault (all safe: the machine stops where the spec gives no effect). -/
inductive Fault where
  /-- A supervisor core's access to an offset of the control range that no rule describes (R478).  Raised by GLD.  Safe. -/
  | controlRange
deriving DecidableEq, Repr

/-- Why a step has no meaning. -/
inductive Refusal where
  /-- The instruction has no meaning yet.  Raised by exec's arm of it.  Safe. -/
  | notModelled (mnemonic : String)
  /-- An event that stands for no outside action the spec describes.  Safe. -/
  | noSuchEvent
deriving DecidableEq, Repr

/-- The whole machine: a pod of HX12 modules, its host, and what the outside world will do next. -/
structure State where
  /-- %clk, clk cycles since module reset, every stop's ring cycle alike [R83, R262; 64; 0] -/
  clk : Nat := 0
  /-- clk at the last reset of a module, by module: its %clk counts from there [R83; 64; 0] -/
  resetAt : Tab Nat := []
  /-- Turns to come, first at the head; empty: the default order of log 1 [model's own, log 1; list; empty] -/
  agenda : List Turn := []
  /-- What the turn under way acts for [model's own; -; idle] -/
  cur : Cur := .idle
  /-- Number for the next block, operation, group or request [model's own; -; 1] -/
  next : Nat := 1
  /-- Count of free values drawn [model's own; DESIGN CHOICE 0, log 2] -/
  free : Nat := 0
  /-- Blocks by number [R20; -; none] -/
  blocks : Tab Block := []
  /-- Cores by tarn x 25 + core, 24 the supervisor core [R14, R15; -; idle] -/
  cores : Tab Core := []
  /-- Tarns by module x 12 + tarn [R14; -; online] -/
  tarns : Tab Tarn := []
  /-- Partitions by number [R336, R479; 16; log 6] -/
  parts : Tab Part := []
  /-- Outstanding operations by number [R50; -; none] -/
  ops : Tab Op := []
  /-- Requests on the rings by number [R262; -; none] -/
  ring : Tab RingReq := []
  /-- Scope-barrier objects by key: partition, scope, instance, id [R325; -; no open phase] -/
  sbar : Tab Phase := []
  /-- What precedes the `.sc` fences that have passed, while it is outstanding: scope and place of the fence, and the writes before it
  [R241; list; empty] -/
  scFences : List (Nat × Nat × List Nat) := []
  /-- Completed scope-barrier phases whose release is on its way: object key, phase [R327; list; empty] -/
  sbarDone : List (Nat × Phase) := []
  /-- Key slots 0-63 by module x 64 + slot [R462; 64; unbound] -/
  keys : Tab KeySlot := []
  /-- DRAM of the pod by physical address; an unlisted byte reads 0 [R196; 56-bit space; not stated: DESIGN CHOICE 0, log 3] -/
  mem : List Host.Cell := []
  /-- Tarns whose data key has been changed, by tarn: the change that made older contents unreadable [R462; -; none] -/
  rekey : Tab Nat := []
  /-- Lines of those tarns written to DRAM since, rising [R462; -; none] -/
  rewritten : List Nat := []
  /-- Tags by 32-byte granule number (PA / 32) [R206; 4; not stated: DESIGN CHOICE 0, log 5] -/
  tags : Tab Nat := []
  /-- Poisoned lines (PA / 64), rising [R464, R470; -; none] -/
  poisoned : List Nat := []
  /-- Lines that decoded as uncorrectable and await their second read, rising [R466; list; empty] -/
  reread : List Nat := []
  /-- The shadow table: physical page that stands for a page as page tables name it; one not listed stands for itself
  (64 KiB numbers) [R383, R385; -; empty] -/
  remap : Tab Nat := []
  /-- TIERMV in progress: (source granule, destination granule, lines moved) [R474; list; empty] -/
  moves : List (Nat × Nat × Nat) := []
  /-- Host memory behind the aperture, by aperture offset; an unlisted byte reads 0 [R478; 8 TiB; the host's: DESIGN CHOICE 0, log 3] -/
  host : List Host.Cell := []
  /-- Values that reads by the host have returned, newest first [R479, R480; list; empty] -/
  hostRead : List (Nat × Nat) := []
  /-- Pod links: sessions keyed, flits since the last rekey, by port [R486; -; 0] -/
  flits : Tab Nat := []
deriving DecidableEq, Repr

/-- The context of a supervisor core (R443, R60): one quire of one lane at supervisor privilege.  Its block number is its
tarn's global number; its version and register counts are the model's choice, and before its firmware is started from outside it
stands still (log 7). -/
def Block.supervisor (gt : Nat) : Block :=
  { core := gt * 25 + 24, part := 0, lid := 0, bflat := 0, ltarn := gt, code := 0#64, frame := 0#64, sup := true,
    vregs := 128, gregs := 128, quires := [(0, { threads := [(0, { wait := .boot })] })], active := [0] }

/-- Blocks below this number are the supervisor cores' own contexts. -/
def firstBlock : Nat := 4096

/-- The machine right after reset (log 1, 3 to 7): no launch, no task, empty caches, memory with nothing listed, and one
partition, number 0, that holds the twelve tarns of module 0. -/
def State.reset : State :=
  { next := firstBlock, parts := [(0, { tarns := List.range 12 })] }

end Sys2Proof.Machine
end

