-- ==== Sys2Proof/Machine/Ops.lean ====
section
/-! DEFINITION. The named operations over tables, memory cells, registers, threads, groups and operations in flight; ending
a task on a fault; taking a trap on a supervisor core and returning from it. -/

namespace Sys2Proof.Machine

/-- The outcome of a step. -/
abbrev Out := Host.Outcome State Fault Refusal

/-! ### Sparse tables and memory cells -/

/-- The entry a table lists under a number. -/
def tget? {α : Type} : Tab α → Nat → Option α
  | [], _ => none
  | (i, a) :: t, k => if i = k then some a else tget? t k

/-- The entry under a number, or the default of an entry not listed. -/
def tget {α : Type} (t : Tab α) (k : Nat) (dflt : α) : α := (tget? t k).getD dflt

/-- List an entry, in its place. -/
def tput {α : Type} : Tab α → Nat → α → Tab α
  | [], k, v => [(k, v)]
  | (i, a) :: t, k, v => if k < i then (k, v) :: (i, a) :: t else if k = i then (k, v) :: t else (i, a) :: tput t k v

/-- Unlist an entry. -/
def tdel {α : Type} (t : Tab α) (k : Nat) : Tab α := t.filter fun e => e.1 != k

/-- A byte of a memory of cells: 0 where nothing is listed (log 3, 4). -/
def cellGet (m : List Host.Cell) (a : Nat) : Byte := tget m a 0#8

/-- Write a byte; writing what an unlisted address reads as unlists it, so that equal memories are equal lists. -/
def cellPut (m : List Host.Cell) (a : Nat) (b : Byte) : List Host.Cell := if b = 0#8 then tdel m a else tput m a b

/-- The canonical form of a memory: addresses strictly rising, and no byte listed that an unlisted address reads as. -/
def Memory.wf : List Host.Cell → Bool
  | [] => true
  | [(_, b)] => b != 0#8
  | (a, b) :: (a', b') :: m => b != 0#8 && decide (a < a') && Memory.wf ((a', b') :: m)

/-- n bytes from an address as a number, least significant first (R4). -/
def readLE (m : List Host.Cell) (a : Nat) : Nat → Nat
  | 0 => 0
  | n + 1 => (cellGet m a).toNat + 256 * readLE m (a + 1) n

/-- Store the low n bytes of a number (R4). -/
def writeLE (m : List Host.Cell) (a : Nat) : Nat → Nat → List Host.Cell
  | 0, _ => m
  | n + 1, v => writeLE (cellPut m a (BitVec.ofNat 8 v)) (a + 1) n (v / 256)

/-- Store a list of bytes. -/
def writeBytes (m : List Host.Cell) (a : Nat) : List Byte → List Host.Cell
  | [] => m
  | b :: bs => writeBytes (cellPut m a b) (a + 1) bs

/-- n bytes from an address. -/
def readBytes (m : List Host.Cell) (a n : Nat) : List Byte := (List.range n).map fun i => cellGet m (a + i)

/-- A register of a sparse register file; one not listed reads 0 (R351). -/
def regGet (r : Tab Word) (n : Nat) : Word := tget r n 0#32

/-- Write a register; a 0 is not listed. -/
def regPut (r : Tab Word) (n : Nat) (v : Word) : Tab Word := if v = 0#32 then tdel r n else tput r n v

/-- Bits [hi:lo] of a number (R4). -/
def bits (v : Nat) (hi lo : Nat) : Nat := v / 2 ^ lo % 2 ^ (hi + 1 - lo)

/-- The little-endian number that bytes form. -/
def leNat : List Byte → Nat
  | [] => 0
  | b :: bs => b.toNat + 256 * leNat bs

/-- The low n bytes of a number. -/
def leBytes : Nat → Nat → List Byte
  | 0, _ => []
  | n + 1, v => BitVec.ofNat 8 v :: leBytes n (v / 256)

/-- Integer part of a base-2 logarithm; 0 for 0. -/
def ilog2 (n : Nat) : Nat := Nat.log2 n

/-! ### Threads and quires -/

namespace Thread

def getV (t : Thread) (n : Nat) : Word := regGet t.v n
def setV (t : Thread) (n : Nat) (x : Word) : Thread := { t with v := regPut t.v n x }

/-- A pair by its even register (R11). -/
def getPair (t : Thread) (n : Nat) : BitVec 64 := t.getV (n + 1) ++ t.getV n
def setPair (t : Thread) (n : Nat) (x : BitVec 64) : Thread :=
  (t.setV n (x.extractLsb' 0 32)).setV (n + 1) (x.extractLsb' 32 32)

/-- A predicate; 7 reads true (R44). -/
def getP (t : Thread) (n : Nat) : Bool := if n = 7 then true else t.p.getLsbD n
/-- Write a predicate; 7 discards (R44). -/
def setP (t : Thread) (n : Nat) (x : Bool) : Thread :=
  if 7 ≤ n then t else { t with p := (t.p &&& ~~~ (BitVec.twoPow 7 n)) ||| (if x then BitVec.twoPow 7 n else 0#7) }

/-- The count of a completion flag (R50). -/
def flag (t : Thread) (n : Nat) : Nat := tget t.flags n 0
/-- Set a flag count; 0 is not listed. -/
def setFlag (t : Thread) (n k : Nat) : Thread :=
  { t with flags := if k = 0 then tdel t.flags n else tput t.flags n k }

end Thread

namespace Quire

def getG (q : Quire) (n : Nat) : Word := regGet q.g n
def setG (q : Quire) (n : Nat) (x : Word) : Quire := { q with g := regPut q.g n x }
def getGPair (q : Quire) (n : Nat) : BitVec 64 := q.getG (n + 1) ++ q.getG n
def setGPair (q : Quire) (n : Nat) (x : BitVec 64) : Quire :=
  (q.setG n (x.extractLsb' 0 32)).setG (n + 1) (x.extractLsb' 32 32)
def getGP (q : Quire) (n : Nat) : Bool := if n = 7 then true else q.gp.getLsbD n
def setGP (q : Quire) (n : Nat) (x : Bool) : Quire :=
  if 7 ≤ n then q else { q with gp := (q.gp &&& ~~~ (BitVec.twoPow 7 n)) ||| (if x then BitVec.twoPow 7 n else 0#7) }

end Quire

/-- The lanes of a mask, rising. -/
def laneList (m : BitVec 32) : List Nat := (List.range 32).filter fun l => m.getLsbD l

/-- The mask of some lanes. -/
def laneMask (ls : List Nat) : BitVec 32 := ls.foldl (fun m l => m ||| BitVec.twoPow 32 l) 0#32

/-! ### The parts of the state -/

namespace State

/-- A block; a number below `firstBlock` is a supervisor core's own context. -/
def block? (s : State) (b : Nat) : Option Block :=
  match tget? s.blocks b with
  | some B => some B
  | none => if b < firstBlock then some (Block.supervisor b) else none

/-- Thread l of a quire of a block. -/
def threadAt (s : State) (b q l : Nat) : Option Thread :=
  match s.block? b with
  | some B => (match tget? B.quires q with | some Q => tget? Q.threads l | none => none)
  | none => none

def setBlock (s : State) (b : Nat) (B : Block) : State := { s with blocks := tput s.blocks b B }
def updBlock (s : State) (b : Nat) (f : Block → Block) : State :=
  match s.block? b with | some B => s.setBlock b (f B) | none => s

def updQuire (s : State) (b q : Nat) (f : Quire → Quire) : State :=
  s.updBlock b fun B => match tget? B.quires q with | some Q => { B with quires := tput B.quires q (f Q) } | none => B

def updThread (s : State) (b q l : Nat) (f : Thread → Thread) : State :=
  s.updQuire b q fun Q => match tget? Q.threads l with | some t => { Q with threads := tput Q.threads l (f t) } | none => Q

def updGroup (s : State) (b q g : Nat) (f : Group → Group) : State :=
  s.updQuire b q fun Q => match tget? Q.groups g with | some x => { Q with groups := tput Q.groups g (f x) } | none => Q

def core (s : State) (c : Nat) : Core := tget s.cores c {}
def updCore (s : State) (c : Nat) (f : Core → Core) : State := { s with cores := tput s.cores c (f (s.core c)) }
def tarn (s : State) (t : Nat) : Tarn := tget s.tarns t {}
def updTarn (s : State) (t : Nat) (f : Tarn → Tarn) : State := { s with tarns := tput s.tarns t (f (s.tarn t)) }
def part (s : State) (p : Nat) : Part := tget s.parts p {}
def updPart (s : State) (p : Nat) (f : Part → Part) : State := { s with parts := tput s.parts p (f (s.part p)) }
def op? (s : State) (i : Nat) : Option Op := tget? s.ops i
def setOp (s : State) (i : Nat) (o : Op) : State := { s with ops := tput s.ops i o }
def delOp (s : State) (i : Nat) : State := { s with ops := tdel s.ops i }
/-- Enter an operation under a fresh number. -/
def newOp (s : State) (o : Op) : State := { s with ops := tput s.ops s.next o, next := s.next + 1 }

/-- A fresh free value (log 2). -/
def draw (s : State) : BitVec 64 × State := (Config.freeValue s.free, { s with free := s.free + 1 })

end State

/-- Tarn of a global core, core within the tarn (24: the supervisor core), module and quad (R15). -/
def coreTarn (c : Nat) : Nat := c / 25
def coreNum (c : Nat) : Nat := c % 25
def tarnModule (t : Nat) : Nat := t / 12

/-- The clk count of a module since its reset (R83). -/
def State.modClk (s : State) (module : Nat) : Nat := s.clk - tget s.resetAt module 0

/-- The identity of a thread (R299): module, tarn, core, quire, lane. -/
def identOf (B : Block) (q l : Nat) : BitVec 32 :=
  let t := coreTarn B.core
  BitVec.ofNat 32 (t / 12 * 2 ^ 24 + t % 12 * 2 ^ 20 + coreNum B.core * 2 ^ 15 + q * 2 ^ 11 + l * 2 ^ 6)

/-- The scratchpad side a block holds (R365). -/
def Block.sideOf (B : Block) (s : State) : Side := tget (s.core B.core).sides B.side {}
def State.updSide (s : State) (B : Block) (f : Side → Side) : State :=
  s.updCore B.core fun C => { C with sides := tput C.sides B.side (f (tget C.sides B.side {})) }
/-- Whether a block's scratchpad side is still its own (R365). -/
def State.holdsSide (s : State) (b : Nat) (B : Block) : Bool := (B.sideOf s).owner == some b

/-! ### The issuing group -/

/-- What an issuing instruction sees of its place: its block, quire and group (R87). -/
structure Ctx where
  b : Nat
  q : Nat
  gid : Nat
  B : Block
  Q : Quire
  gr : Group

/-- The issuing group, if the turn under way is a group's. -/
def State.ctx? (s : State) : Option Ctx :=
  match s.cur with
  | .group b q g =>
    match s.block? b with
    | some B =>
      match tget? B.quires q with
      | some Q => (tget? Q.groups g).map fun gr => ⟨b, q, g, B, Q, gr⟩
      | none => none
    | none => none
  | _ => none

/-- A guard: PRED 7 is always true, NEG inverts it (R33, R34). -/
def guardOk (preds : BitVec 7) (p : BitVec 3) (neg : Bool) : Bool :=
  (if p = 7#3 then true else preds.getLsbD p.toNat) != neg

/-- A member of a quire's group by lane. -/
def Ctx.thread (c : Ctx) (l : Nat) : Thread := tget c.Q.threads l {}

/-- The members of the issuing group (R87). -/
def Ctx.members (c : Ctx) : List Nat := laneList c.gr.lanes

/-- The participants of an L-set instruction: the members whose guard is true (R87). -/
def Ctx.participants (c : Ctx) (p : BitVec 3) (neg : Bool) : List Nat :=
  c.members.filter fun l => (c.thread l).live && guardOk (c.thread l).p p neg

/-- The threads a G-set instruction acts for: all of its group, or none when its guard is false (R60, R138). -/
def Ctx.uniform (c : Ctx) (p : BitVec 3) (neg : Bool) : List Nat :=
  if guardOk c.Q.gp p neg then c.members.filter fun l => (c.thread l).live else []

/-- The selected set-flag of a flag-setting instruction (R33, R48): 15 for none. -/
def Ctx.flag (c : Ctx) (fs : Bool) : Nat := if fs then c.gr.sfb else c.gr.sfa

/-- The group goes past the k words of the instruction it has issued (R53). -/
def State.advance (s : State) (c : Ctx) (k : Nat) : State :=
  s.updGroup c.b c.q c.gid fun g => { g with widx := g.widx + k, stage := 0 }

/-- The instruction cannot issue yet: the group stands before it until an event frees it (R52, R92). -/
def State.stall (s : State) (c : Ctx) : State := s.updGroup c.b c.q c.gid fun g => { g with held := true }

/-- Change the threads of some lanes of the quire. -/
def State.mapLanes (s : State) (b q : Nat) (ls : List Nat) (f : Nat → Thread → Thread) : State :=
  s.updQuire b q fun Q =>
    { Q with threads := Q.threads.map fun e => if ls.contains e.1 then (e.1, f e.1 e.2) else e }

/-- Take lanes out of the issuing group: they go on elsewhere. -/
def State.leave (s : State) (c : Ctx) (ls : List Nat) : State :=
  s.updGroup c.b c.q c.gid fun g => { g with lanes := g.lanes &&& ~~~ (laneMask ls) }

/-- An L-set instruction that changes only its participants' threads. -/
def laneStep (s : State) (k : Nat) (p : BitVec 3) (neg : Bool) (f : Ctx → Nat → Thread → Thread) : Out :=
  match s.ctx? with
  | none => .next s
  | some c => .next ((s.mapLanes c.b c.q (c.participants p neg) (f c)).advance c k)

/-- A spring by tarn x 64 + slice (R421). -/
def State.spring (s : State) (gs : Nat) : Spring := tget (s.tarn (gs / 64)).springs (gs % 64) {}
def State.updSpring (s : State) (gs : Nat) (f : Spring → Spring) : State :=
  s.updTarn (gs / 64) fun T => { T with springs := tput T.springs (gs % 64) (f (tget T.springs (gs % 64) {})) }

/-- A G-set instruction that changes only uniform registers: its quire's, or a spring handler's (R138, R429). -/
def uniStep (s : State) (k : Nat) (p : BitVec 3) (neg : Bool) (f : Quire → Quire) : Out :=
  match s.cur with
  | .spring gs =>
    .next (s.updSpring gs fun sp =>
      let q := if guardOk sp.gp p neg then f { g := sp.g, gp := sp.gp } else { g := sp.g, gp := sp.gp }
      { sp with g := q.g, gp := q.gp, at_ := sp.at_ + k })
  | _ =>
    match s.ctx? with
    | none => .next s
    | some c => .next ((if guardOk c.Q.gp p neg then s.updQuire c.b c.q f else s).advance c k)

/-! ### QSYNC -/

/-- Whether a thread is parked at a QSYNC. -/
def Thread.atQsync (t : Thread) : Bool := match t.wait with | .qsync _ => t.live | _ => false

/-- The lanes parked at the QSYNC before word `w` of a clause (R106). -/
def Quire.parked (q : Quire) (cl : BitVec 64) (w : Nat) : List Nat :=
  q.groups.foldl (fun a g =>
    if g.2.clause = cl ∧ g.2.widx = w then a ++ (laneList g.2.lanes).filter fun l => (tget q.threads l {}).atQsync else a) []

/-- Release the threads parked at one QSYNC as one group, if every lane named in their masks is parked there or not live;
members whose guard was false waited with their group and go on with it (R106, R88). -/
def Quire.qsyncAt (q : Quire) (cl : BitVec 64) (w : Nat) : Quire :=
  let S := q.parked cl w
  let ok := S.all fun l => match (tget q.threads l {}).wait with
    | .qsync m => (laneList m).all fun k => S.contains k || !(tget q.threads k { live := false }).live
    | _ => true
  if S.isEmpty || !ok then q
  else
    let at? (g : Group) : Bool := g.clause == cl && g.widx == w && (laneList g.lanes).any fun l => S.contains l
    let all := q.groups.foldl (fun m g => if at? g.2 then m ||| g.2.lanes else m) 0#32
    match q.groups.find? fun g => at? g.2 with
    | none => q
    | some first =>
      { q with
        groups := q.groups.filterMap fun g =>
          if g.1 = first.1 then some (g.1, { g.2 with lanes := all, held := false }) else if at? g.2 then none else some g
        threads := q.threads.map fun t => if S.contains t.1 then (t.1, { t.2 with wait := .none }) else t }

/-- Test every QSYNC of a quire: at each arrival, and whenever a thread stops being live (R106). -/
def Quire.qsyncTest (q : Quire) : Quire := q.groups.foldl (fun q g => q.qsyncAt g.2.clause g.2.widx) q

/-! ### Ending a task on a fault -/

/-- Cause codes of R447. -/
def causeIllegal : Nat := 1
def causePrivilege : Nat := 2
def causeUserTrap : Nat := 3
def causeLease : Nat := 4
def causeMisaligned : Nat := 5
def causeCellAccess : Nat := 6
def causeCellKind : Nat := 7
def causeTag : Nat := 8
def causePoison : Nat := 9
def causePoolRange : Nat := 10
def causeTileBusy : Nat := 11
def causeAonSpan : Nat := 12
def causeHomeOffline : Nat := 13
def causeBarCount : Nat := 14
def causeBarMismatch : Nat := 15
def causeBarId : Nat := 16
def causeMatrix : Nat := 17
def causeCopy : Nat := 18
def causeOverrun : Nat := 19
def causeDeadlock : Nat := 20
def causeLeaseDenied : Nat := 21
def causeLeaseRevoked : Nat := 22
def causeThermal : Nat := 23
def causeHostAtomic : Nat := 24
def causeTranslation : Nat := 25

/-- Whether an operation only waits for something that will no longer be awaited once its task ends. -/
def Op.onlyWaits (o : Op) : Bool :=
  match o.kind with
  | .waitx | .publ => true
  | .sbar => o.elems.all fun e => e.st != 0
  | .cell => o.m == 1
  | _ => false

/-- A write that is done and stays in the table only for what it covers (R237), or a read that stays for what it has met (R238): it
is no longer outstanding. -/
def Op.kept (o : Op) : Bool :=
  o.kind == .met ||
  ((match o.kind with | .store | .sts | .stp => true | _ => false) && o.flag == 15 && o.elems.all fun e => e.st == 3 || e.st == 4)

/-- A ring entry that has not started completes ABORTED (R392). -/
def Entry.abort (e : Entry) : Entry := if e.stage = 0 ∧ e.ran = false then { e with stage := 2, code := 4, detail := 0 } else e

/-- End a block's task: its threads issue nothing further; what it has issued goes on and its results are discarded (R64,
R86, R392).  `st` is the record state it ends in: 5 FAULTED, 6 CANCELLED, 7 GANG-ABORT (R348). -/
def State.endTask (s : State) (b : Nat) (st : Nat) (rep : Option Report) : State :=
  match s.block? b with
  | none => s
  | some B =>
    let B := { B with
      st := match B.st with | .ending k => .ending k | _ => .ending st
      report := B.report <|> rep
      quires := B.quires.map fun e => (e.1, { e.2 with
        groups := [], threads := e.2.threads.map fun t => (t.1, { t.2 with live := false, wait := .none, acq := none, spin := false }) })
      iring := B.iring.map Entry.abort
      dring := B.dring.map Entry.abort
      mq := B.mq.filter fun m => m.stage != 0 || !(match m.ins with | .mmaq _ => true | _ => false) }
    let s := s.setBlock b B
    let ended (i : Nat) : Bool := s.ops.any fun e => e.1 == i && e.2.blk == b && e.2.onlyWaits
    let s : State := if (s.ops.any fun e => e.2.blk == b && e.2.onlyWaits) then
        { s with tarns := s.tarns.map fun T => (T.1, { T.2 with
            waiters := T.2.waiters.filter fun w => !ended w.op
            monitors := T.2.monitors.filter fun w => !ended w.op }) }
      else s
    { s with
      ops := (s.ops.filter fun e => !(e.2.blk == b && e.2.onlyWaits)).map fun e =>
        if e.2.blk == b then (e.1, { e.2 with drop := true }) else e }

/-- A fault of a supervisor core's own instruction: an OWN trap, taken ahead of the queue; while a handler runs it halts the
core and the tarn asks for a warm reset (R443, R444).  The core's issue would resume at the faulting clause (log 10). -/
def State.ownTrap (s : State) (b q : Nat) (clause : BitVec 64) (widx : Nat) (cause detail : Nat) (ea : BitVec 64) (word : Word) : State :=
  let s := s.updQuire b q fun Q => { Q with
    groups := [], threads := Q.threads.map fun t => (t.1, { t.2 with pc := clause }) }
  s.updTarn b fun T =>
    if T.intrap then { T with supHalt := true } else { T with own := T.own ++ [{ kind := 8, cause, detail, addr := ea, clause, widx, word }] }

/-- A fault at an instruction of a block: it ends the issuing threads' task with a report (R204, R445), or raises an OWN
trap on a supervisor core (R444).  An illegal encoding's record holds the failing word (R61). -/
def State.faultAt (s : State) (b q : Nat) (clause : BitVec 64) (widx : Nat) (cause detail lane : Nat) (ea : BitVec 64)
    (word : Word := 0#32) : State :=
  match s.block? b with
  | none => s
  | some B =>
    if B.sup then s.ownTrap b q clause widx cause detail ea word
    else s.endTask b 5 (some { cause, detail, clause, widx, lane, ea, word })

/-- The base word of the instruction a group stands at, where its fault is an illegal encoding (R61, R63). -/
def Group.failing (g : Group) (cause : Nat) : Word := if cause = causeIllegal then g.words.getD (g.widx - 1) 0#32 else 0#32

/-- A fault of the issuing group's instruction. -/
def State.raise (s : State) (c : Ctx) (cause detail lane : Nat) (ea : BitVec 64) : State :=
  s.faultAt c.b c.q c.gr.clause c.gr.widx cause detail lane ea (c.gr.failing cause)

/-- A privileged instruction of k words: at user privilege it raises PRIVILEGE (R438, R59), unless its guard is false: then it has
no effect but its issue slot (R34, R35). -/
def privileged (s : State) (p : BitVec 3) (n : Bool) (k : Nat) (f : Ctx → Out) : Out :=
  match s.ctx? with
  | none => .next s
  | some c =>
    if c.B.sup then f c
    else if guardOk c.Q.gp p n then .next (s.raise c causePrivilege 0 (c.members.headD 0) 0#64)
    else .next (s.advance c k)

/-- Switch lanes off under the lane fault mask: their threads end, their results are discarded, and the quire keeps its
first cause (R216). -/
def State.laneFault (s : State) (b q : Nat) (ls : List Nat) (cause off : Nat) : State :=
  if ls.isEmpty then s else
  let s := s.updQuire b q fun Q => { Q with
    fmask := Q.fmask ||| laneMask ls
    firstCause := Q.firstCause <|> some (cause, off)
    groups := Q.groups.map fun g => (g.1, { g.2 with lanes := g.2.lanes &&& ~~~ (laneMask ls) })
    threads := Q.threads.map fun t => if ls.contains t.1 then (t.1, { t.2 with live := false, wait := .none, acq := none, spin := false }) else t }
  s.updQuire b q Quire.qsyncTest

/-! ### Traps to a supervisor core -/

/-- Place a trap on a tarn's queue; traps that find 64 there are held behind it in the order raised (R443). -/
def State.postTrap (s : State) (t : Nat) (tr : Trap) : State := s.updTarn t fun T => { T with traps := T.traps ++ [tr] }

/-- G0 to G7 of a SYSC's calling quire as its handler reads them (R441; log 119). -/
def State.callerRegs (s : State) (tr : Trap) : List Word :=
  match tr.caller with
  | some (b, q, _) =>
    match s.block? b with
    | some B => (List.range 8).map fun n => if n < B.gregs then (tget B.quires q {}).getG n else 0#32
    | none => []
  | none => []

/-- Taking a trap (R443): EPC is the clause at which the core's own issue would resume; TCAUSE, TADDR and TSRC are set,
INTRAP becomes 1, and the core enters the clause at TVEC.  With TVEC = 0 the core halts instead and the tarn asks for a warm
reset. -/
def State.takeTrap (s : State) (t : Nat) (tr : Trap) : State :=
  let T := s.tarn t
  if T.tvec = 0#64 then s.updTarn t fun T => { T with supHalt := true }
  else
    let pc := match s.block? t with
      | some B => (match tget? B.quires 0 with | some Q => (tget Q.threads 0 {}).pc | none => 0#64)
      | none => 0#64
    let s := s.updTarn t fun T => { T with
      epc := pc
      tcause := BitVec.ofNat 64 (tr.cause + 256 * tr.detail + 65536 * tr.kind)
      taddr := tr.addr
      tsrc := BitVec.ofNat 64 (tr.ident.toNat + 2 ^ 32 * tr.service)
      intrap := true
      caller := if tr.kind = 1 then tr.caller else none
      behalf := tr.blk
      callG := if tr.kind = 1 then s.callerRegs tr else [] }
    s.updThread t 0 0 fun th => { th with pc := T.tvec, wait := .none }

/-- Returning from a trap (R443, R441): INTRAP becomes 0, the core continues at EPC, and a SYSC's caller receives SYSRET in
pair G0 when its kernel declares at least two G registers, and goes on at the clause that follows. -/
def State.returnTrap (s : State) (t : Nat) : State :=
  let T := s.tarn t
  let s := match T.caller with
    | some (b, q, lanes) =>
      match s.block? b with
      | some B =>
        let s := if 2 ≤ B.gregs then s.updQuire b q fun Q => Q.setGPair 0 T.sysret else s
        s.mapLanes b q (laneList (BitVec.ofNat 32 lanes)) fun _ th => if th.wait == Wait.sysc then { th with wait := .none } else th
      | none => s
    | none => s
  let s := s.updTarn t fun T => { T with intrap := false, caller := none, behalf := none, callG := [] }
  s.updThread t 0 0 fun th => { th with pc := T.epc }

/-! ### Operations in flight and completion flags -/

/-- Add 1 to the selected flag of some threads (R50); 15 selects none. -/
def State.incFlag (s : State) (b q : Nat) (ls : List Nat) (f : Nat) : State :=
  if 12 ≤ f then s else s.mapLanes b q ls fun _ t => t.setFlag f (t.flag f + 1)

/-- Subtract 1 from the selected flag of some threads (R50). -/
def State.decFlag (s : State) (b q : Nat) (ls : List Nat) (f : Nat) : State :=
  if 12 ≤ f then s else s.mapLanes b q ls fun _ t => t.setFlag f (t.flag f - 1)

/-- Issue a flag-setting operation: it is entered, and the flag of each of its threads goes up by 1 (R50). -/
def State.issueOp (s : State) (o : Op) : State := (s.newOp o).incFlag o.blk o.q (laneList o.lanes) o.flag

/-- An operation of the issuing group's instruction, for some lanes. -/
def Ctx.op (c : Ctx) (kind : OpKind) (ins : Instr) (lanes : BitVec 32) (flag : Nat) : Op :=
  { kind, ins, blk := c.b, q := c.q, lanes, flag, clause := c.gr.clause, widx := c.gr.widx, code := c.gr.words
    sets := (c.gr.sfa, c.gr.sfb), yld := c.gr.yld, place := c.B.core * 32 + c.q }

/-- A result that an operation formed at issue and will write for a lane. -/
def Elem.result (l v : Nat) : Elem := { lane := l, va := 0#64, pa := 0, size := 4, r := BitVec.ofNat 64 v }

/-- Issue an operation and go past its instruction; with no lane there is none. -/
def State.issueStep (s : State) (c : Ctx) (k : Nat) (o : Op) : State :=
  if o.lanes = 0#32 then s.advance c k else (s.issueOp o).advance c k

/-- Complete an operation: it leaves the table, and the flag of each of its threads goes down by 1 (R50). -/
def State.finishOp (s : State) (i : Nat) : State :=
  match s.op? i with
  | none => s
  | some o => (s.delOp i).decFlag o.blk o.q (laneList o.lanes) o.flag

/-- The live threads of an operation that are still to receive results (R100). -/
def State.opLanes (s : State) (o : Op) : List Nat :=
  if o.drop then [] else
  match s.block? o.blk with
  | some B => (match tget? B.quires o.q with
    | some Q => (laneList o.lanes).filter fun l => (tget Q.threads l { live := false }).live
    | none => [])
  | none => []

end Sys2Proof.Machine
end

