-- ==== Sys2Proof/Machine/Operands.lean ====
section
/-! DEFINITION. Operand forms: widths and types (R122, R40), register operands, operand b by its source (R42), immediates
(R37, R38, R122, R179), and the same for uniform registers (R137). -/

namespace Sys2Proof.Machine

/-- Width of an integer type code in bits (R122). -/
def tyBits (ty : Nat) : Nat := if ty = 4 ∨ ty = 8 then 64 else 32

/-- An I type, or the default I32 (R122). -/
def tySigned (ty : Nat) : Bool := ty ≤ 4

/-- Size in bytes of a memory type: TYPE 0 is N32 (R208). -/
def tyBytes (ty : Nat) : Nat :=
  match ty with | 1 | 5 => 1 | 2 | 6 => 2 | 4 | 8 => 8 | _ => 4

/-- Two's complement of the low w bits of a number. -/
def toSigned (w n : Nat) : Int :=
  let m := n % 2 ^ w
  if 2 ^ (w - 1) ≤ m then (m : Int) - 2 ^ w else m

/-- The low w bits of an integer. -/
def ofInt (w : Nat) (x : Int) : Nat := (x % 2 ^ w).toNat

/-- Val: the exact integer that bits denote under a type (R122). -/
def valOf (ty n : Nat) : Int := if tySigned ty then toSigned (tyBits ty) n else (n % 2 ^ tyBits ty : Nat)

/-- Sat: clamp to the range of a w-bit integer type (R9). -/
def satInt (w : Nat) (signed : Bool) (x : Int) : Int :=
  let lo : Int := if signed then -(2 ^ (w - 1)) else 0
  let hi : Int := if signed then 2 ^ (w - 1) - 1 else 2 ^ w - 1
  if x < lo then lo else if hi < x then hi else x

/-- An exact result reduced to its type, with `.sat` or wrapping (R124). -/
def reduce (ty : Nat) (sat : Bool) (x : Int) : Nat :=
  ofInt (tyBits ty) (if sat then satInt (tyBits ty) (tySigned ty) x else x)

/-- IMM20 sign-extended. -/
def immSigned (i : BitVec 20) : Int := i.toInt
/-- IMM20 extended by type to W (R122). -/
def immByType (ty : Nat) (i : BitVec 20) : Nat := if tySigned ty then ofInt (tyBits ty) i.toInt else i.toNat
/-- IMM20 placed in bits [31:12] (R179). -/
def immPlaced (i : BitVec 20) : Nat := i.toNat * 4096

/-- A V register, or a pair at 64 bits, as a number. -/
def Thread.rd (t : Thread) (wide : Bool) (n : BitVec 7) : Nat :=
  if wide then (t.getPair n.toNat).toNat else (t.getV n.toNat).toNat
/-- Write a V register, or a pair at 64 bits, with the low bits of a number. -/
def Thread.wr (t : Thread) (wide : Bool) (n : BitVec 7) (x : Nat) : Thread :=
  if wide then t.setPair n.toNat (BitVec.ofNat 64 x) else t.setV n.toNat (BitVec.ofNat 32 x)

/-- A G register, or a G pair at 64 bits, as a number. -/
def Quire.rd (q : Quire) (wide : Bool) (n : BitVec 7) : Nat :=
  if wide then (q.getGPair n.toNat).toNat else (q.getG n.toNat).toNat
def Quire.wr (q : Quire) (wide : Bool) (n : BitVec 7) (x : Nat) : Quire :=
  if wide then q.setGPair n.toNat (BitVec.ofNat 64 x) else q.setG n.toNat (BitVec.ofNat 32 x)

/-- Operand b of an L-set instruction: a V operand, a G operand of the quire, a constant, or the immediate (R42, R38). -/
def opB (q : Quire) (t : Thread) (w : W2) (wide : Bool) (imm : Nat) : Nat :=
  match w.x with
  | .imm .. => imm
  | .mod _ _ _ _ _ bs _ => if bs = 0#2 then t.rd wide w.b else if bs = 1#2 then q.rd wide w.b else w.b.toNat

/-- Operand b of a G-set instruction (R42, R137). -/
def opBG (q : Quire) (w : W2) (wide : Bool) (imm : Nat) : Nat :=
  match w.x with
  | .imm .. => imm
  | .mod _ _ _ _ _ bs _ => if bs = 0#2 then q.rd wide w.b else w.b.toNat

/-- The field that names operand c: C, or B in the immediate form (R38). -/
def cField (w : W2) : BitVec 7 := if w.x.isImm then w.b else w.x.c

/-- The type code of an instruction as a number. -/
def tyOf (w : W2) : Nat := w.x.ty.toNat

/-- The address pair plus signed 32-bit offset of a global access (R209, R142): the offset is I32, an immediate is
sign-extended. -/
def effAddr (base : BitVec 64) (off : Nat) : BitVec 64 := base + BitVec.ofInt 64 (toSigned 32 off)

/-- Offset operand of a memory instruction: operand b as I32 with a sign-extended immediate (R208). -/
def opOff (q : Quire) (t : Thread) (w : W2) : Nat := opB q t w false (ofInt 32 (immSigned w.x.imm20))

/-- Rounding modes (R36). -/
inductive Rnd where
  | rne | rz | ru | rd
deriving DecidableEq, Repr

/-- The rounding mode of an instruction (R36). -/
def rndOf (x : Ext) : Rnd :=
  if x.rnd = 0#2 then .rne else if x.rnd = 1#2 then .rz else if x.rnd = 2#2 then .ru else .rd

end Sys2Proof.Machine
end

