-- ==== Sys2Proof/Machine/Cache.lean ====
section
/-! DEFINITION. The memory system: physical map (R196, R197), cached lines, the MOESI directory of a slice (R257 to R260),
spans and their invalidation (R265 to R268), write-backs (R269, R270), replacement (R211, R259), and reads and writes by agents
other than a core's loads and stores.  The command processors, the hardware of a save area and the host act at one point
(log 11). -/

namespace Sys2Proof.Machine

/-! ### The physical map -/

/-- Module part and address part of a physical address (R23). -/
def paModule (pa : Nat) : Nat := pa / 2 ^ 48 % 256
def paLow (pa : Nat) : Nat := pa % 2 ^ 48

/-- The home tarn of a byte of module DRAM (R196): none outside the two DRAM ranges. -/
def homeOf (pa : Nat) : Option Nat :=
  let a := paLow pa
  if a < 0xC000000000 then some (paModule pa * 12 + a / 2 ^ 36)
  else if 0x100000000000 ≤ a ∧ a < 0x130000000000 then some (paModule pa * 12 + (a - 0x100000000000) / 2 ^ 38)
  else none

/-- The LPDDR6 tier (R196). -/
def inTier (pa : Nat) : Bool := decide (0x100000000000 ≤ paLow pa ∧ paLow pa < 0x130000000000)
/-- The host aperture (R478). -/
def inHost (pa : Nat) : Bool := decide (0xF80000000000 ≤ paLow pa)
/-- A mapped frame a lease may name (R203, R478). -/
def mappedFrame (pa : Nat) : Bool := (homeOf pa).isSome || inHost pa
/-- Slice, MAU, directory and spring of a line (R197). -/
def sliceOf (pa : Nat) : Nat := Nat.xor (pa / 64 % 64) (pa / 65536 % 64)
/-- The spring of a line: tarn x 64 + slice (R420). -/
def springOf (pa : Nat) : Nat := (homeOf pa).getD 0 * 64 + sliceOf pa

def lineOf (pa : Nat) : Nat := pa / 64
def sectorOf (pa : Nat) : Nat := pa / 256
/-- The home tarn of a line. -/
def lineHome (ln : Nat) : Nat := (homeOf (ln * 64)).getD 0

/-! ### Bytes of a line -/

/-- The mask of n bytes from offset o of a line. -/
def byteMask (o n : Nat) : BitVec 64 := BitVec.ofNat 64 ((2 ^ n - 1) * 2 ^ o)
/-- The number of bytes that a mask names. -/
def maskBytes (m : BitVec 64) : Nat := ((List.range 64).filter m.getLsbD).length
/-- Data placed at offset o of a line. -/
def placeData (o v : Nat) : BitVec 512 := BitVec.ofNat 512 (v * 2 ^ (8 * o))
/-- The n bytes at offset o of a line. -/
def takeData (d : BitVec 512) (o n : Nat) : Nat := d.toNat / 2 ^ (8 * o) % 2 ^ (8 * n)
/-- A byte mask spread over the bits of a line. -/
def spread (m : BitVec 64) : BitVec 512 :=
  (List.range 64).foldl (fun acc i => if m.getLsbD i then acc ||| ((0xFF#512) <<< (8 * i)) else acc) 0#512
/-- Bytes of `over` in the mask, bytes of `base` outside it. -/
def overlay (base top : BitVec 512) (m : BitVec 64) : BitVec 512 :=
  (top &&& spread m) ||| (base &&& ~~~ (spread m))
/-- Put bytes into a line, dirty or clean. -/
def Line.put (l : Line) (m : BitVec 64) (d : BitVec 512) (dirty : Bool) : Line :=
  { l with valid := l.valid ||| m, dirty := if dirty then l.dirty ||| m else l.dirty, data := overlay l.data d m }

/-- Insert into a rising list. -/
def insNat : List Nat → Nat → List Nat
  | [], n => [n]
  | m :: l, n => if n < m then n :: m :: l else if n = m then m :: l else m :: insNat l n

/-- A line as the DRAM holds it; one written under an earlier key reads as a free value (R462, log 2). -/
def State.memLine (s : State) (ln : Nat) : BitVec 512 :=
  match tget? s.rekey (lineHome ln) with
  | some k => if s.rewritten.contains ln then BitVec.ofNat 512 (readLE s.mem (ln * 64) 64) else Config.staleLine k ln
  | none => BitVec.ofNat 512 (readLE s.mem (ln * 64) 64)

/-- Write a line to DRAM. -/
def State.setLine (s : State) (ln : Nat) (d : BitVec 512) : State :=
  { s with
    mem := writeLE s.mem (ln * 64) 64 d.toNat
    rewritten := if (tget? s.rekey (lineHome ln)).isSome then insNat s.rewritten ln else s.rewritten }

def State.l1? (s : State) (c ln : Nat) : Option Line := tget? (s.core c).l1 ln
def State.putL1 (s : State) (c ln : Nat) (l : Line) : State :=
  s.updCore c fun C => { C with l1 := if l.valid = 0#64 then tdel C.l1 ln else tput C.l1 ln l }
def State.delL1 (s : State) (c ln : Nat) : State := s.updCore c fun C => { C with l1 := tdel C.l1 ln }
/-- A line that is used now: one of cache code 2 goes to the least recently used place of its set (R211). -/
def Line.used (l : Line) (stream : Bool) (clk : Nat) : Line := { l with stream, use := if stream then 0 else clk + 1 }
/-- A core uses a line of its L1. -/
def State.touchL1 (s : State) (c ln : Nat) (stream : Bool) : State :=
  s.updCore c fun C => { C with l1 := match tget? C.l1 ln with | some l => tput C.l1 ln (l.used stream s.clk) | none => C.l1 }
def State.slice (s : State) (t ln : Nat) : Line := tget (s.tarn t).slices ln {}
def State.putSlice (s : State) (t ln : Nat) (l : Line) : State :=
  s.updTarn t fun T => { T with slices := if l.valid = 0#64 then tdel T.slices ln else tput T.slices ln (l.used l.stream s.clk) }
def State.dirOf (s : State) (t ln : Nat) : Dir := tget (s.tarn t).dir ln {}
def State.putDir (s : State) (t ln : Nat) (d : Dir) : State :=
  s.updTarn t fun T => { T with dir := tput T.dir ln { d with use := s.clk + 1 } }
def State.delDir (s : State) (t ln : Nat) : State := s.updTarn t fun T => { T with dir := tdel T.dir ln }

/-- The cores of a tarn (R15). -/
def tarnCores (t : Nat) : List Nat := (List.range 24).map fun c => t * 25 + c
/-- The cores of a tarn, but one, whose L1 holds a line. -/
def State.holders (s : State) (t ln c : Nat) : List Nat := (tarnCores t).filter fun k => k != c && (s.l1? k ln).isSome

/-! ### The directory of one tarn -/

/-- Take the dirty bytes of every L1 of the tarn, but one core's, into the slice (R260). -/
def State.takeDirty (s : State) (t ln c : Nat) : State :=
  (s.holders t ln c).foldl (fun s k =>
    match s.l1? k ln with
    | some l => if l.dirty = 0#64 then s else s.putSlice t ln ((s.slice t ln).put l.dirty l.data true)
    | none => s) s

/-- Invalidate every L1 copy in the tarn but one core's (R260). -/
def State.dropOthers (s : State) (t ln c : Nat) : State := (s.holders t ln c).foldl (fun s k => s.delL1 k ln) s

/-- The directory entry of a line goes; the clk from which R269 counts for a remote line stays until its write-back. -/
def State.freeDir (s : State) (t ln : Nat) : State :=
  match (s.dirOf t ln).grant with
  | some g => if t = lineHome ln then s.delDir t ln else s.putDir t ln { grant := some g }
  | none => s.delDir t ln

/-- Recall dirty data and invalidate every L1 copy of the tarn: before a write by an MAU, an engine, a spring, an `st.rc`
or a write-back, and when a directory entry is evicted (R259, R260). -/
def State.recall (s : State) (t ln : Nat) : State := ((s.takeDirty t ln 0xFFFFFF).dropOthers t ln 0xFFFFFF).freeDir t ln

/-- Recall dirty data and leave clean shared copies: what a read from outside the tarn's L1s does (R431, R269). -/
def State.clean (s : State) (t ln : Nat) : State :=
  let s := s.takeDirty t ln 0xFFFFFF
  let s := (s.holders t ln 0xFFFFFF).foldl (fun s k => match s.l1? k ln with
    | some l => s.putL1 k ln { l with st := .s, dirty := 0#64 }
    | none => s) s
  match tget? (s.tarn t).dir ln with
  | some d => s.putDir t ln { d with owner := none, st := .s }
  | none => s

/-- An L1 line keeps only some of its bytes; one that keeps none leaves the directory (R259). -/
def State.shrinkL1 (s : State) (c ln : Nat) (l : Line) : State :=
  let t := coreTarn c
  let s := s.putL1 c ln l
  if l.valid != 0#64 then s
  else match tget? (s.tarn t).dir ln with
    | some d => s.putDir t ln { d with sharers := d.sharers &&& ~~~ (BitVec.twoPow 24 (coreNum c))
                                       owner := if d.owner = some (coreNum c) then none else d.owner }
    | none => s

/-- What the home slice holds over the DRAM (R257). -/
def State.homeData (s : State) (ln : Nat) : BitVec 512 :=
  let l := s.slice (lineHome ln) ln
  overlay (s.memLine ln) l.data l.valid

/-- The home slice holds a line whole, as DRAM and its own bytes give it (R257). -/
def State.bringHome (s : State) (ln : Nat) (stream : Bool := false) : State :=
  let h := lineHome ln
  let l := s.slice h ln
  s.putSlice h ln { l with valid := BitVec.allOnes 64, data := s.homeData ln, stream }

/-- One read request served from a line: a reader count goes down, and at 0 the line is dropped without write-back (R212). -/
def State.countRead (s : State) (ln : Nat) : State :=
  let t := lineHome ln
  let l := s.slice t ln
  if l.rc = 0 then s
  else if l.rc = 1 then s.updTarn t fun T => { T with slices := tdel T.slices ln }
  else s.putSlice t ln { l with rc := l.rc - 1 }

/-- A reader count is discarded: the line is ordinarily dirty (R213). -/
def State.dropCount (s : State) (ln : Nat) : State :=
  let t := lineHome ln
  let l := s.slice t ln
  if l.rc = 0 then s else s.putSlice t ln { l with rc := 0 }

/-- A read miss of a core (R260): the slice supplies the line, or an owner forwards it; none when a guest slice lacks a byte
that is needed.  The bytes come under those the core has written (R258). -/
def State.fill (s : State) (c ln : Nat) (need : BitVec 64) (stream : Bool) : Option State :=
  let t := coreTarn c
  let home := t == lineHome ln
  let s := if home then s.bringHome ln stream else s
  let own := (s.l1? c ln).getD { st := .e }
  let others := s.holders t ln c
  let sl := s.slice t ln
  let base : BitVec 64 × BitVec 512 := if home then (BitVec.allOnes 64, s.homeData ln) else (sl.valid, sl.data)
  let got := others.foldl (fun a k => match s.l1? k ln with
    | some l => (a.1 ||| l.dirty, overlay a.2 l.data l.dirty) | none => a) base
  if need &&& ~~~ (got.1 ||| own.valid) != 0#64 then none
  else
    let s1 := others.foldl (fun s k => match s.l1? k ln with
      | some l => s.putL1 k ln { l with st := match l.st with | .m => .o | .e => .s | x => x }
      | none => s) s
    let l := { own with
      valid := own.valid ||| got.1, data := overlay got.2 own.data own.valid, tags := sl.tags
      st := match s.l1? c ln with | some l => l.st | none => if others.isEmpty then .e else .s }
    let d := s1.dirOf t ln
    let owned := others.any fun k => match s1.l1? k ln with | some l => l.st == Moesi.o | none => false
    let owner := if owned || (s.l1? c ln).isSome then d.owner else if others.isEmpty then some (coreNum c) else none
    let s2 := (s1.putL1 c ln (l.used stream s.clk)).putDir t ln
      { d with st := if owned then .o else l.st, sharers := d.sharers ||| BitVec.twoPow 24 (coreNum c), owner }
    some (if home then s2.countRead ln else s2)

/-- Tarns of the module other than `t` whose recorded span of the line's sector overlaps the bytes of the mask (R265). -/
def State.spanSharers (s : State) (ln : Nat) (m : BitVec 64) (t : Nat) : List Nat :=
  let h := lineHome ln
  let sec := ln / 4
  (List.range 12).filter fun u =>
    let g := tarnModule h * 12 + u
    g != h && g != t &&
    match tget? (s.tarn h).spans (sec * 16 + u) with
    | some (lo, hi) => (List.range 64).any fun i =>
        m.getLsbD i && decide (lo ≤ ln % 4 * 16 + i / 4) && decide (ln % 4 * 16 + i / 4 ≤ hi)
    | none => false

/-- Bytes of a remote line that a tarn has sent in write-backs which have not acted yet: they are still its own (R267). -/
def State.underWay (s : State) (t ln : Nat) : BitVec 64 :=
  s.ring.foldl (fun m r => match r.2.req with
    | .writeBack u l x _ => if u = t ∧ l = ln then m ||| x else m
    | _ => m) 0#64

/-- The granules of a line that a byte mask touches. -/
def granuleBits (m : BitVec 64) : BitVec 2 :=
  (if m &&& byteMask 0 32 = 0#64 then 0#2 else 1#2) ||| (if m &&& byteMask 32 32 = 0#64 then 0#2 else 2#2)

/-- A sharer invalidates exactly its recorded span, in its guest slice and in its L1s, and keeps its own dirty bytes; both
records are cleared (R268). -/
def State.dropSpan (s : State) (sec u : Nat) : State :=
  let h := lineHome (sec * 4)
  let g := tarnModule h * 12 + u
  match tget? (s.tarn h).spans (sec * 16 + u) with
  | none => s
  | some (lo, hi) =>
    let s := (List.range 4).foldl (fun s j =>
      let ln := sec * 4 + j
      let m : BitVec 64 := (List.range 64).foldl (fun acc i =>
        if lo ≤ j * 16 + i / 4 ∧ j * 16 + i / 4 ≤ hi then acc ||| BitVec.twoPow 64 i else acc) 0#64
      if m = 0#64 then s else
      let sl := s.slice g ln
      let tagged := sl.tagged &&& ~~~ granuleBits m
      let m := m &&& ~~~ s.underWay g ln
      let s := s.putSlice g ln { sl with valid := sl.valid &&& (~~~ m ||| sl.dirty), tagged }
      (tarnCores g).foldl (fun s k => match s.l1? k ln with
        | some l => s.shrinkL1 k ln { l with valid := l.valid &&& (~~~ m ||| l.dirty) }
        | none => s) s) s
    let s := s.updTarn h fun T => { T with spans := tdel T.spans (sec * 16 + u) }
    s.updTarn g fun T => { T with mySpans := tdel T.mySpans sec }

/-- A request put on the ring towards a home (R262, R264). -/
def State.send (s : State) (home : Nat) (r : Req) : State :=
  { s with ring := tput s.ring s.next { home, req := r }, next := s.next + 1 }

/-- The lowest and highest word of a sector that a line's byte mask touches. -/
def maskWords (ln : Nat) (m : BitVec 64) : Nat × Nat :=
  let ws := (List.range 16).filter fun w => (m >>> (4 * w)) &&& 15#64 != 0#64
  (ln % 4 * 16 + ws.headD 0, ln % 4 * 16 + ws.getLastD 0)

/-- A write that originates in the home tarn: when other tarns share its words, the home sends an invalidation on its own
account, and the write is performed when that acts (R268, R272).  Answers whether it is performed at once. -/
def State.ownInval (s : State) (ln : Nat) (m : BitVec 64) : State × Bool :=
  if (s.spanSharers ln m (lineHome ln)).isEmpty then (s, true)
  else
    let w := maskWords ln m
    (s.send (lineHome ln) (.inval (ln / 4) w.1 w.2), false)

/-- Bytes of a poisoned line: a write of all 64 bytes makes it good (R470). -/
def State.unpoison (s : State) (ln : Nat) (m : BitVec 64) : State :=
  if m = BitVec.allOnes 64 then { s with poisoned := s.poisoned.filter (· != ln) } else s

/-- Bytes written at a home slice: L1 copies are recalled, a reader count is discarded or set (R212, R213).  Dirty bytes that an
`st.rc` meets go to DRAM first: only its own write is lost when the line is dropped (R254). -/
def State.putHome (s : State) (ln : Nat) (m : BitVec 64) (d : BitVec 512) (rc : Nat) : State :=
  let h := lineHome ln
  let s := (s.recall h ln).unpoison ln m
  let old := s.slice h ln
  let keep := rc != 0 && old.rc == 0 && old.dirty != 0#64
  let s := if keep then s.setLine ln (overlay (s.memLine ln) old.data old.dirty) else s
  let sl := if keep then { old with dirty := 0#64 } else old
  let full := if rc = 0 then sl else { sl with valid := BitVec.allOnes 64, data := overlay (s.memLine ln) sl.data sl.valid }
  s.putSlice h ln { full.put m d true with rc }

/-- Every tarn whose recorded span overlaps the bytes of the mask, but one, loses it (R268). -/
def State.dropSpans (s : State) (ln : Nat) (m : BitVec 64) (t : Nat) : State :=
  (s.spanSharers ln m t).foldl (fun s u => s.dropSpan (ln / 4) (u % 12)) s

/-- The lines on which a write of a line is performed too: those that TIERMV has moved it to (R474). -/
def State.copiesOf (s : State) (ln : Nat) : List Nat :=
  s.moves.filterMap fun mv => if ln / 1024 = mv.1 ∧ ln % 1024 < mv.2.2 then some (mv.2.1 * 1024 + ln % 1024) else none

/-- The second copy of a write to a granule under TIERMV whose line has been moved (R474). -/
def State.mirror (s : State) (ln : Nat) (m : BitVec 64) (d : BitVec 512) : State :=
  (s.copiesOf ln).foldl (fun s x => (s.putHome x m d 0).dropSpans x m 0xFFFFFF) s

/-- A write at the home slice by an MAU, an engine, a spring, an `st.rc` or a write-back (R260, R268): L1 copies are
recalled, the bytes are written, a reader count is discarded or set (R212, R213).  `stamped`: every stop acts on it at once
(R263), else the home sends its own invalidation.  Answers whether it is performed at once. -/
def State.homeWrite (s : State) (ln : Nat) (m : BitVec 64) (d : BitVec 512) (rc : Nat) (stamped : Bool) : State × Bool :=
  let s := (s.putHome ln m d rc).mirror ln m d
  if stamped then (s.dropSpans ln m 0xFFFFFF, true) else s.ownInval ln m

/-- A write miss or upgrade of a core (R260): every other L1 copy of the tarn is invalidated and its dirty data taken; the
core holds the line M.  A reader count is discarded (R213). -/
def State.grantM (s : State) (c ln : Nat) : State :=
  let t := coreTarn c
  let s := (s.takeDirty t ln c).dropOthers t ln c
  let sl := s.slice t ln
  let s := if sl.rc = 0 then s else s.putSlice t ln { sl with rc := 0 }
  let d := s.dirOf t ln
  s.putDir t ln { st := .m, sharers := BitVec.twoPow 24 (coreNum c), owner := some (coreNum c), grant := d.grant <|> some s.clk }

/-- A store of a core into its L1 (R258): it takes the line M if it must, and marks valid and dirty only the bytes written.
Answers whether the write is performed at its home at once. -/
def State.storeL1 (s : State) (c ln : Nat) (m : BitVec 64) (d : BitVec 512) (stream : Bool := false) : State × Bool :=
  let t := coreTarn c
  let s := match s.l1? c ln with
    | some l => if l.st == Moesi.m || l.st == Moesi.e then s else s.grantM c ln
    | none => s.grantM c ln
  let s := match s.l1? c ln with
    | some l => if l.st == Moesi.e then s.grantM c ln else s
    | none => s
  let l := (s.l1? c ln).getD {}
  let s := s.putL1 c ln ({ l.put m d true with st := .m }.used stream s.clk)
  if t = lineHome ln then
    let s := (s.unpoison ln m).mirror ln m d
    let pending := s.ring.any fun r => match r.2.req with | .inval sec _ _ => sec == ln / 4 | _ => false
    let r := s.ownInval ln m
    (r.1, r.2 && !pending)
  else (s, false)

/-- Replacement of an L1 line (R259, R260): dirty bytes go to the slice; a clean line drops silently. -/
def State.evictL1 (s : State) (c ln : Nat) : State :=
  match s.l1? c ln with
  | none => s
  | some l =>
    let t := coreTarn c
    if l.dirty = 0#64 then s.delL1 c ln
    else
      let s := s.putSlice t ln { (s.slice t ln).put l.dirty l.data true with stream := l.stream }
      let d := s.dirOf t ln
      (s.delL1 c ln).putDir t ln { d with st := .s, owner := none, sharers := d.sharers &&& ~~~ (BitVec.twoPow 24 (coreNum c)) }

/-! ### Guest slices -/

/-- Bytes of a guest line outside the tarn's recorded span are dropped, from its slice and its L1s, when they are clean
(R269). -/
def State.dropOutside (s : State) (t ln : Nat) : State :=
  let sl := s.slice t ln
  let keep : BitVec 64 := match tget? (s.tarn t).mySpans (ln / 4) with
    | some (lo, hi) => (List.range 64).foldl (fun acc i =>
        if lo ≤ ln % 4 * 16 + i / 4 ∧ ln % 4 * 16 + i / 4 ≤ hi then acc ||| BitVec.twoPow 64 i else acc) 0#64
    | none => 0#64
  let tagged := sl.tagged &&& granuleBits keep
  let keep := keep ||| s.underWay t ln
  let s := s.putSlice t ln { sl with valid := sl.valid &&& (keep ||| sl.dirty), tagged }
  (tarnCores t).foldl (fun s k => match s.l1? k ln with
    | some l => s.shrinkL1 k ln { l with valid := l.valid &&& (keep ||| l.dirty) }
    | none => s) s

/-- Stores of a tarn's cores to a line that stand at one stage go to another (R255), in a write-back if one carries them. -/
def State.markStores (s : State) (p : Nat → Elem → Bool) (fromSt toSt : Nat) (wb : Nat := 0) : State :=
  { s with ops := s.ops.map fun e =>
      (e.1, { e.2 with elems := e.2.elems.map fun x =>
        if x.st = fromSt ∧ p ((s.block? e.2.blk).elim 0 (·.core)) x = true then { x with st := toSt, wb } else x }) }

/-- A guest slice writes back its dirty bytes of a line: it recalls them from its L1s and sends one byte-masked
write-back (R269). -/
def State.sendWriteBack (s : State) (t ln : Nat) : State :=
  let s := s.clean t ln
  let s := match tget? (s.tarn t).dir ln with | some d => s.putDir t ln { d with grant := none } | none => s
  let sl := s.slice t ln
  if sl.dirty = 0#64 ∨ t = lineHome ln then s
  else
    let s := s.putSlice t ln { sl with dirty := 0#64 }
    let s := s.markStores (fun c x => coreTarn c == t && lineOf x.pa == ln) 2 5 s.next
    s.send (lineHome ln) (.writeBack t ln sl.dirty sl.data)

/-- The home applies a write-back, of a request's number, at its stamp (R270): each byte of the mask takes the value; sharers lose
their spans; the guest drops written bytes outside its span; the stores it carries are performed (R272). -/
def State.applyWriteBack (s : State) (id t ln : Nat) (m : BitVec 64) (d : BitVec 512) : State :=
  let s := ((s.putHome ln m d 0).mirror ln m d).dropSpans ln m t
  (s.dropOutside t ln).markStores (fun c x => coreTarn c == t && lineOf x.pa == ln && x.wb == id) 5 3

/-- The tag of the granule that holds an address (R206). -/
def State.tagOf (s : State) (pa : Nat) : Nat := tget s.tags (pa / 32) 0
def State.setTag (s : State) (pa v : Nat) : State :=
  { s with tags := if v = 0 then tdel s.tags (pa / 32) else tput s.tags (pa / 32) v }
/-- The tag of a granule as a tarn meets it: in a guest tarn that holds bytes of the granule, the tag that came with them from the home;
where none has come, or its span has been lost since, the home's (R206). -/
def State.tagSeen (s : State) (t pa : Nat) : Nat :=
  let ln := pa / 64
  let l := s.slice t ln
  if t != lineHome ln && l.tagged.getLsbD (pa % 64 / 32) then l.tags.toNat / 16 ^ (pa % 64 / 32) % 16 else s.tagOf pa

/-- The home records a span read and serves it (R266): the recorded span becomes the smallest run that covers the old one
and the one requested, and the guest installs every word of it over its clean words; under cache code 2 the line takes the least
recently used place of both slices (R211). -/
def State.serveSpan (s : State) (t sec lo hi : Nat) (stream : Bool := false) : State :=
  let h := lineHome (sec * 4)
  let k := sec * 16 + t % 12
  let span := match tget? (s.tarn h).spans k with
    | some (l, u) => (min l lo, max u hi)
    | none => (lo, hi)
  let s := s.updTarn h fun T => { T with spans := tput T.spans k span }
  let s := s.updTarn t fun T => { T with mySpans := tput T.mySpans sec span }
  (List.range 4).foldl (fun s j =>
    let ln := sec * 4 + j
    let m : BitVec 64 := (List.range 64).foldl (fun acc i =>
      if span.1 ≤ j * 16 + i / 4 ∧ j * 16 + i / 4 ≤ span.2 then acc ||| BitVec.twoPow 64 i else acc) 0#64
    if m = 0#64 then s else
    let s := (s.clean h ln).bringHome ln stream
    let d := s.homeData ln
    let sl := s.slice t ln
    let tg (k : Nat) : BitVec 8 :=
      if m &&& byteMask (32 * k) 32 = 0#64 then sl.tags &&& (0xF#8 <<< (4 * k)) else BitVec.ofNat 8 (s.tagOf (ln * 64 + 32 * k) * 16 ^ k)
    let s := s.putSlice t ln { sl.put (m &&& ~~~ (sl.dirty ||| s.underWay t ln)) d false with
      tags := tg 0 ||| tg 1, tagged := sl.tagged ||| granuleBits m, stream }
    s.countRead ln) s

/-! ### Reads and writes of agents other than a core's loads and stores (log 11) -/

/-- A line as an agent of a tarn reads it: the bytes its own tarn holds, else the home's current value. -/
def State.readLine (s : State) (t ln : Nat) : BitVec 512 :=
  let h := lineHome ln
  let d := (s.clean h ln).homeData ln
  if t = h then d
  else
    let sl := (s.clean t ln).slice t ln
    overlay d sl.data sl.valid

/-- Whether a tarn holds, in its guest slice or its L1s, the bytes of a mask of a remote line. -/
def State.guestHas (s : State) (t ln : Nat) (m : BitVec 64) : Bool :=
  let l := (s.clean t ln).slice t ln
  m &&& ~~~ l.valid == 0#64

/-- Whether an agent of a tarn can read some bytes now: they are homed on it, or on another module (log 11), or in its guest slice
(R257, R266). -/
def State.agentHas (s : State) (t ln : Nat) (m : BitVec 64) : Bool :=
  t == lineHome ln || tarnModule t != tarnModule (lineHome ln) || s.guestHas t ln m

/-- A request is a span read by a tarn that covers some bytes of a line. -/
def Req.spans (r : Req) (t ln : Nat) (m : BitVec 64) : Bool :=
  match r with
  | .spanRead u sec lo hi _ => u == t && sec == ln / 4 && decide (lo ≤ (maskWords ln m).1) && decide ((maskWords ln m).2 ≤ hi)
  | _ => false

/-- A tarn has a span read under way for a run of words. -/
def State.spanAsked (s : State) (t ln : Nat) (m : BitVec 64) : Bool := s.ring.any fun r => r.2.req.spans t ln m

/-- Something more waits for the words of a span read. -/
def Req.joined (r : Req) (a : Asker) : Req :=
  match r with
  | .spanRead u sec lo hi l => .spanRead u sec lo hi (if l.contains a then l else l ++ [a])
  | x => x

/-- Ask the home of a remote line for the smallest run that covers some bytes (R266), or join the span read that is under way
for them: its words are delivered to all that wait (R271). -/
def State.askSpan (s : State) (a : Asker) (t ln : Nat) (m : BitVec 64) : State :=
  if s.spanAsked t ln m then
    { s with ring := s.ring.map fun r => if r.2.req.spans t ln m then (r.1, { r.2 with req := r.2.req.joined a }) else r }
  else s.send (lineHome ln) (.spanRead t (ln / 4) (maskWords ln m).1 (maskWords ln m).2 [a])

/-- n bytes from a physical address as an agent of a tarn reads them. -/
def State.agentRead (s : State) (t pa : Nat) : Nat → Nat
  | 0 => 0
  | n + 1 =>
    let b := if inHost pa then (cellGet s.host (pa % 2 ^ 43)).toNat else takeData (s.readLine t (lineOf pa)) (pa % 64) 1
    b + 256 * s.agentRead t (pa + 1) n

/-- The bytes an agent reads, as a list. -/
def State.agentBytes (s : State) (t pa n : Nat) : List Byte := leBytes n (s.agentRead t pa n)

/-- A write of an engine of a tarn, within one line (R260, R268, R269): at the home, or into its guest slice, which owes the home
the write-back (log 122).  Answers whether it is performed at once. -/
def State.engineLine (s : State) (t ln : Nat) (m : BitVec 64) (d : BitVec 512) : State × Bool :=
  if t = lineHome ln ∨ tarnModule t ≠ tarnModule (lineHome ln) then s.homeWrite ln m d 0 false
  else
    let s := s.recall t ln
    (s.putSlice t ln ((s.slice t ln).put m d true), false)

/-- Whether a list of bytes from an offset covers a line, and its data. -/
def lineChunk (o : Nat) (bs : List Byte) : BitVec 64 × BitVec 512 := (byteMask o bs.length, placeData o (leNat bs))

/-- A write of bytes at one point of their home, line by line (log 11). -/
def State.agentWrite (s : State) (pa : Nat) (bs : List Byte) : State :=
  let rec go (fuel : Nat) (s : State) (pa : Nat) (bs : List Byte) : State :=
    match fuel with
    | 0 => s
    | fuel + 1 =>
      if bs.isEmpty then s else
      let k := min (64 - pa % 64) bs.length
      let c := lineChunk (pa % 64) (bs.take k)
      let s := if inHost pa then { s with host := writeBytes s.host (pa % 2 ^ 43) (bs.take k) }
        else (s.homeWrite (lineOf pa) c.1 c.2 0 true).1
      go fuel s (pa + k) (bs.drop k)
  go (bs.length + 1) s pa bs

/-- The pseudo-channel of a line has been retired (R476). -/
def State.lineRetired (s : State) (ln : Nat) : Bool := !inTier (ln * 64) && (s.spring (springOf (ln * 64))).retired
/-- Whether a line is poisoned (R464, R476). -/
def State.isPoisoned (s : State) (ln : Nat) : Bool := s.poisoned.contains ln || s.lineRetired ln
/-- Poison a line: cached copies are invalidated, with the spans that hold them (R268), and their dirty data discarded (R470), at once
(log 77); a second read of it that was due is not made. -/
def State.poisonLine (s : State) (ln : Nat) : State :=
  let h := lineHome ln
  let s := s.dropSpans ln (BitVec.allOnes 64) 0xFFFFFF
  let s := (List.range 12).foldl (fun s u =>
    let t := tarnModule h * 12 + u
    let s := ((s.dropOthers t ln 0xFFFFFF).delDir t ln)
    s.updTarn t fun T => { T with slices := tdel T.slices ln }) s
  let s := s.markStores (fun _ x => lineOf x.pa == ln) 2 3
  { s with poisoned := insNat s.poisoned ln, reread := s.reread.filter (· != ln) }

/-- POISON's write of a line (R475), performed on its second copy too (R474). -/
def State.poisonWrite (s : State) (ln : Nat) : State := (ln :: s.copiesOf ln).foldl (fun s x => s.poisonLine x) s

/-! ### DRAM rows (R420, R435, R469) -/

/-- The bank of a granule's row at a spring. -/
def rowBank (granule : Nat) : Nat := Config.bankOf granule

/-- An access to a granule's row in a pseudo-channel, by a handler's slot or by another agent: it activates the row where another row of
the bank is open, and may where it is open, since what else closes a row is not stated (log 103). -/
def State.activate (s : State) (gs granule : Nat) (by_ : Option Nat) : State :=
  let sp := s.spring gs
  let c := tget sp.acts granule {}
  let n := if tget? sp.openRow (rowBank granule) = some granule then 0 else 1
  s.updSpring gs fun sp => { sp with
    openRow := tput sp.openRow (rowBank granule) granule
    acts := tput sp.acts granule { sure := c.sure + n, may := c.may + 1, slot := by_ } }

/-- A slice reads or writes a line of HBM4E in its DRAM. -/
def State.dramAccess (s : State) (ln : Nat) : State :=
  if inTier (ln * 64) then s else s.activate (springOf (ln * 64)) (ln / 1024) none

/-- A line holds bytes as they stand in its DRAM. -/
def Line.asStored (l : Line) : Bool := l.valid &&& ~~~l.dirty != 0#64

/-- The home lines of a tarn's slices that have been read from their DRAM or cleaned into it. -/
def State.dramLines (s old : State) (t : Nat) : List Nat :=
  ((s.tarn t).slices.filter fun e => e.2.asStored && lineHome e.1 == t && !(old.slice t e.1).asStored).map (·.1)

/-! ### Replacement (R211, R259, R260, R269) -/

/-- A line leaves a tarn's slice, and no L1 copy with it (R259): at home its dirty bytes go to DRAM and its reader count is discarded
(R213); of a guest line they are written back, those of the tarn's L1s with them (R269). -/
def State.evictSlice (s : State) (t ln : Nat) : State :=
  let l := s.slice t ln
  let s := if t ≠ lineHome ln then s.sendWriteBack t ln
    else if l.dirty = 0#64 then s
    else (s.setLine ln (overlay (s.memLine ln) l.data l.dirty)).dramAccess ln
  s.updTarn t fun T => { T with slices := tdel T.slices ln }

/-- One replacement that capacity makes with a request: a core's L1 line, or from 100,000 on a tarn's slice line. -/
def State.replace (s : State) (e : Nat × Nat) : State :=
  if e.1 < 100000 then s.evictL1 e.1 e.2 else s.evictSlice (e.1 - 100000) e.2

/-- The least recently used of some lines, given with their recency. -/
def lruOf : List (Nat × Nat) → Option Nat
  | [] => none
  | e :: l => some (l.foldl (fun m x => if x.2 < m.2 then x else m) e).1

/-- An L1 holds 2,048 lines at most (R16), as one set: the spec does not say into how many sets it is divided (log 42). -/
def State.fitL1 (s : State) (c : Nat) : State :=
  let l := (s.core c).l1
  if l.length ≤ 2048 then s
  else match lruOf (l.map fun e => (e.1, e.2.use)) with | some ln => s.evictL1 c ln | none => s

/-- A slice holds 16 lines of a set (R14). -/
def State.fitSlice (s : State) (t ln : Nat) : State :=
  let k (x : Nat) : Nat × Nat := (sliceOf (x * 64), Config.sliceSet x % 768)
  let l := (s.tarn t).slices
  if l.length ≤ 16 then s
  else
    let set := l.filter fun e => k e.1 == k ln
    if set.length ≤ 16 then s
    else match lruOf (set.map fun e => (e.1, e.2.use)) with | some x => s.evictSlice t x | none => s

/-- A directory holds 16 entries of a set: one that it evicts takes the L1 copies it names with it (R259). -/
def State.fitDir (s : State) (t ln : Nat) : State :=
  let k (x : Nat) : Nat × Nat := (sliceOf (x * 64), Config.dirSet x % 128)
  let l := (s.tarn t).dir
  if l.length ≤ 16 then s
  else
    let set := l.filter fun e => k e.1 == k ln && e.2.sharers != 0#24
    if set.length ≤ 16 then s
    else match lruOf (set.map fun e => (e.1, e.2.use)) with | some x => s.recall t x | none => s

/-- The lines of one table that another does not list. -/
def newLines {α : Type} (l old : Tab α) : List Nat := (l.filter fun e => (tget? old e.1).isNone).map (·.1)

/-- The lines of a directory that name sharers. -/
def shared (l : Tab Dir) : Tab Dir := l.filter fun e => e.2.sharers != 0#24

/-- Room is made where lines have been allocated: in the L1s, the slices and the directories (R14, R16, R259).  What has come from DRAM
counts as an access to its row (R469). -/
def State.fitAll (s old : State) : State :=
  let s := s.tarns.foldl (fun s x => (s.dramLines old x.1).foldl (fun s ln => s.dramAccess ln) s) s
  let s := s.cores.foldl (fun s x => (List.range (x.2.l1.length - 2048)).foldl (fun s _ => s.fitL1 x.1) s) s
  s.tarns.foldl (fun s x =>
    let T := old.tarn x.1
    let s := if x.2.slices.length ≤ 16 then s else (newLines x.2.slices T.slices).foldl (fun s ln => s.fitSlice x.1 ln) s
    if x.2.dir.length ≤ 16 then s else (newLines (shared x.2.dir) (shared T.dir)).foldl (fun s ln => s.fitDir x.1 ln) s) s

/-! ### DRAM that is held (R466, R468, R469) -/

/-- The springs' activations alone have brought a row of a bank to the count at which it alerts (R435, R469). -/
def Spring.alertDue (sp : Spring) (granule : Nat) : Bool := sp.acts.any fun a => rowBank a.1 == rowBank granule && decide (4096 ≤ a.2.sure)

/-- The bank of a row is in a mitigation window, or must alert first, or the pseudo-channel retrains (R435, R468, R469). -/
def State.rowHeld (s : State) (gs granule : Nat) : Bool :=
  let sp := s.spring gs
  sp.retrain || sp.alertDue granule || sp.mitig.any fun m => rowBank m.1 == rowBank granule && decide (s.clk < m.2)

/-- A request for a line must wait for its DRAM: the row is held, or the line waits for its second read (R263, R466). -/
def State.dramHeld (s : State) (ln : Nat) : Bool :=
  (s.slice (lineHome ln) ln).valid != BitVec.allOnes 64 &&
    ((!inTier (ln * 64) && s.rowHeld (springOf (ln * 64)) (ln / 1024)) || s.reread.contains ln)


end Sys2Proof.Machine
end

