-- ==== Sys2Proof/Machine/Xlat.lean ====
section
/-! DEFINITION. Translation and leases: page-table entries and the walk (R198 to R200), the core TLB and the walkers' table
cache (R201, R202), leases (R203), and the checks that a global access makes before any request leaves the core (R205). -/

namespace Sys2Proof.Machine

/-! ### Page-table entries -/

namespace Xlat

/-- Physical address of a virtual address on the page (R198, R199). -/
def pa (x : Xlat) (va : Nat) : Nat := x.pte.toNat % 2 ^ 56 / 2 ^ x.sz * 2 ^ x.sz + va % 2 ^ x.sz
/-- ATTR is CELL. -/
def cell (x : Xlat) : Bool := bits x.pte.toNat 59 56 == 1
/-- TE: tags are compared on the page. -/
def te (x : Xlat) : Bool := x.pte.getLsbD 11
/-- Level of the leaf. -/
def level (x : Xlat) : Nat := if x.sz = 40 then 2 else if x.sz = 28 then 3 else 4
/-- The page covers a virtual address. -/
def covers (x : Xlat) (part va : Nat) : Bool := x.part == part && x.va / 2 ^ x.sz == va / 2 ^ x.sz

/-- The permission checks of R203 on a virtual address of the page: SUP, a mapped frame, and RD, W or X as the access needs.  A
supervisor core also reaches the control range (R478). -/
def permits (x : Xlat) (user write exec : Bool) (va : Nat) : Bool :=
  let e := x.pte
  let p := x.pa va
  (mappedFrame p || (!user && decide (0xF00000000000 ≤ paLow p))) && !(user && e.getLsbD 7) &&
    (if exec then e.getLsbD 6 else if write then e.getLsbD 5 else e.getLsbD 4)

end Xlat

/-- Index bits of a level (R198). -/
def levelShift (lv : Nat) : Nat := 64 - 12 * lv

/-- An entry that ends the walk: V = 0, or malformed (R199, R200). -/
def pteBad (lv e : Nat) : Bool :=
  let leaf := bits e 1 1 == 1
  bits e 0 0 == 0 || bits e 63 60 != 0 || bits e 14 12 != 0 || bits e 10 8 != 0 || bits e 3 2 != 0 ||
  (if leaf then
    lv == 1 || decide (1 < bits e 59 56) || bits e 15 15 != 0 ||
      (lv == 2 && bits e 39 16 != 0) || (lv == 3 && bits e 27 16 != 0)
   else lv == 4 || bits e 59 56 != 0 || bits e 11 2 != 0)

/-! ### Offline homes (R456) -/

/-- Whether the home of a physical address is offline. -/
def State.homeOffline (s : State) (pa : Nat) : Bool :=
  match homeOf pa with
  | some h => (match (s.tarn h).st with | .online => false | _ => true)
  | none => false

/-- Whether a request of a tarn cannot be sent to the home of a location (R456): one that is leaving the ring still serves what its own
contexts have issued (R448, R457). -/
def State.shut (s : State) (t pa : Nat) : Bool := s.homeOffline pa && !(homeOf pa == some t && (s.tarn t).st == Online.leaving)

/-- An entry read by the walkers of a tarn: from their table cache of 1,024 entries, else from memory into it (R202).  For
an asker, an entry that another tarn holds is asked of its home first, or its DRAM is waited for, and none is answered. -/
def State.readPte (s : State) (ask : Option Asker) (t ea : Nat) : State × Option Nat :=
  let T := s.tarn t
  match T.tcache.find? (·.1 == ea) with
  | some e => (s.updTarn t fun T => { T with tcache := T.tcache.filter (·.1 != ea) ++ [e] }, some e.2.toNat)
  | none =>
    let m := byteMask (ea % 64) 8
    match ask.filter fun _ => !s.agentHas t (lineOf ea) m || (t == lineHome (lineOf ea) && s.dramHeld (lineOf ea)) with
    | some a => (if s.agentHas t (lineOf ea) m then s else s.askSpan a t (lineOf ea) m, none)
    | none =>
      let v := BitVec.ofNat 64 (s.agentRead t ea 8)
      (s.updTarn t fun T =>
        { T with tcache := (if T.tcache.length < 1024 then T.tcache else T.tcache.drop 1) ++ [(ea, v)] }, some v.toNat)

/-- The physical page that stands for a page as page tables name it: the exchanges of published shadow frames (R383, R385). -/
def State.remapPage (s : State) (p : Nat) : Nat := tget s.remap p p

/-- What a walk answers in place of a level when the home of an entry that it must read is offline (R456). -/
def levelAway : Nat := 255

/-- The walk from a level on (R198): the leaf, or the level at which none was found; none while an entry is on its way.  A table outside
the two DRAM ranges has no entry: what the walk does there is not stated (log 131). -/
def State.walkFrom (s : State) (ask : Option Asker) (t part va : Nat) : (fuel lv table : Nat) → State × Option (Except Nat Xlat)
  | 0, lv, _ => (s, some (.error lv))
  | fuel + 1, lv, table =>
    if (homeOf table).isNone then (s, some (.error lv)) else
    let ea := table + 8 * (va / 2 ^ levelShift lv % 4096)
    if s.shut t ea && !(s.tarn t).tcache.any (·.1 == ea) then (s, some (.error levelAway)) else
    match s.readPte ask t ea with
    | (s, none) => (s, none)
    | (s, some e) =>
      if pteBad lv e then (s, some (.error lv))
      else if bits e 1 1 = 1 then
        let sz := levelShift lv
        let pg := bits e 55 16
        let e' := if sz = 16 then e - pg * 65536 + s.remapPage pg * 65536 else e
        (s, some (.ok { part, va := va / 2 ^ sz * 2 ^ sz, sz, pte := BitVec.ofNat 64 e' }))
      else s.walkFrom ask t part va fuel (lv + 1) (e % 2 ^ 56 / 2 ^ 15 * 2 ^ 15)

/-- The root table of a tarn's walkers (R198, R439). -/
def State.rootTable (s : State) (t : Nat) : Nat := (s.tarn t).root.toNat % 2 ^ 56 / 2 ^ 15 * 2 ^ 15

/-- A walk by the page walkers of a tarn, from the root in its system registers (R198, R439): for a core or an engine, which waits
while an entry is on its way over the ring (R202, R264). -/
def State.walkAsk (s : State) (a : Asker) (t part va : Nat) : State × Option (Except Nat Xlat) :=
  s.walkFrom (some a) t part va 4 1 (s.rootTable t)

/-- A walk at one point, for the checks of commands and for the agents of log 11. -/
def State.walk (s : State) (t part va : Nat) : State × Except Nat Xlat :=
  match s.walkFrom none t part va 4 1 (s.rootTable t) with
  | (s, some r) => (s, r)
  | (s, none) => (s, .error 0)

/-! ### The core TLB -/

/-- A TLB hit. -/
def Core.tlbHit (C : Core) (part va : Nat) : Option Xlat := C.tlb.find? fun x => x.covers part va

/-- A TLB fill replaces the least recently used of 256 entries (R202). -/
def Core.tlbFill (C : Core) (x : Xlat) : Core :=
  let l := C.tlb.filter fun y => !(y.part == x.part && y.va == x.va && y.sz == x.sz)
  { C with tlb := (if l.length < 256 then l else l.drop 1) ++ [x] }

/-- A page looked up makes its entry the most recently used. -/
def State.touchTlb (s : State) (c part va : Nat) : State :=
  match (s.core c).tlbHit part va with
  | some x => s.updCore c fun C => C.tlbFill x
  | none => s

/-- The pages, among those of some addresses, that neither the TLB holds nor a finished walk has failed for. -/
def State.missing (s : State) (c part : Nat) (vas : List Nat) : List Nat :=
  (vas.filter fun va => ((s.core c).tlbHit part va).isNone && !((s.core c).noXlat.any fun e => e.1 == va / 65536)).map
    (· / 65536)

/-- Send pages to the walkers (R202). -/
def State.queueWalks (s : State) (c : Nat) (ps : List Nat) : State :=
  s.updCore c fun C => { C with walks := ps.foldl (fun w p => if w.contains p then w else w ++ [p]) C.walks }

/-- Forget a failed walk that an access has reported. -/
def State.dropNoXlat (s : State) (c : Nat) (vas : List Nat) : State :=
  s.updCore c fun C => { C with noXlat := C.noXlat.filter fun e => !(vas.any fun va => va / 65536 == e.1) }

/-- The translation of an address under a privilege and for an access: the page, or the level at which no permitted
translation was found. -/
def State.xlate (s : State) (c part : Nat) (user write exec : Bool) (va : Nat) : Except Nat Xlat :=
  match (s.core c).tlbHit part va with
  | some x => if x.permits user write exec va then .ok x else .error x.level
  | none => match (s.core c).noXlat.find? fun e => e.1 == va / 65536 with | some e => .error e.2 | none => .error 0

/-! ### Leases -/

/-- Whether a lease covers an address for reading or writing (R203). -/
def Lease.has (l : Lease) (write : Bool) (a : Nat) : Bool :=
  decide ((a + 2 ^ 64 - l.base % 2 ^ 64) % 2 ^ 64 < l.len) && (!write || l.mode == 1)

/-- Whether the leases cover n bytes from an address (log 12). -/
def leased (ls : List Lease) (write : Bool) : (fuel : Nat) → (a n : Nat) → Bool
  | 0, _, n => n == 0
  | fuel + 1, a, n =>
    n == 0 ||
    match ls.find? fun l => l.has write a with
    | some l =>
      let room := l.len - (a + 2 ^ 64 - l.base % 2 ^ 64) % 2 ^ 64
      n ≤ room || leased ls write fuel ((a + room) % 2 ^ 64) (n - room)
    | none => false

/-- Whether a block may access n bytes: leases at user privilege, none asked of the supervisor core (R203). -/
def Block.mayAccess (B : Block) (write : Bool) (a n : Nat) : Bool :=
  B.sup || leased B.leases write (B.leases.length + 1) a n

/-- The partition in whose name a block's accesses are made: a supervisor core's is its tarn's. -/
def State.partOf (s : State) (B : Block) : Nat :=
  if B.sup then
    match s.parts.find? fun p => p.2.tarns.contains (coreTarn B.core) with | some p => p.1 | none => 0
  else B.part

/-! ### The checks of a global access (R205) -/

/-- One participant's access: lane, effective address, physical address, page. -/
structure Acc where
  lane : Nat
  ea : BitVec 64
  pa : Nat
  x : Xlat
deriving DecidableEq, Repr

/-- What the checks answer. -/
inductive Chk where
  /-- A page must be walked first; the instruction waits. -/
  | wait (s : State)
  /-- A participant fails: no access takes effect. -/
  | fault (s : State)
  | ok (s : State) (accs : List Acc)

/-- The addresses at which an access of n bytes meets a new 64 KiB page. -/
def pagesOf (ea n : Nat) : List Nat :=
  (List.range ((ea % 65536 + n - 1) / 65536 + 1)).map fun i => (if i = 0 then ea else ea / 65536 * 65536 + i * 65536) % 2 ^ 64

/-- The first failing check of one participant, in the order of R205: cause and detail. -/
def State.accessBad (s : State) (c : Ctx) (ea n align : Nat) (write : Bool) (attr : Xlat → Option Nat) : Option (Nat × Nat) :=
  if !c.B.mayAccess write ea n then some (causeLease, 0)
  else if ea % align != 0 then some (causeMisaligned, 0)
  else
    (pagesOf ea n).foldl (fun r va => r <|>
      match s.xlate c.B.core (s.partOf c.B) (!c.B.sup) write false va with
      | .ok x => (attr x).map fun k => (k, 0)
      | .error lv => some (if lv = levelAway then (causeHomeOffline, 0) else if c.B.sup then (causeTranslation, lv) else (causeLeaseRevoked, 0))) none

/-- The checks of R205 over all participants before any access: the lowest failing lane is reported (R204).  `attr` gives the
cause with which a page's ATTR fails. -/
def State.checkAccess (s : State) (c : Ctx) (ls : List Nat) (ea : Nat → BitVec 64) (n align : Nat) (write : Bool)
    (attr : Xlat → Option Nat) : Chk :=
  let part := s.partOf c.B
  let vas := ls.foldl (fun a l => if c.B.mayAccess write (ea l).toNat n then a ++ pagesOf (ea l).toNat n else a) []
  match s.missing c.B.core part vas with
  | p :: ps => .wait ((s.queueWalks c.B.core (p :: ps)).stall c)
  | [] =>
    let bad := ls.filterMap fun l => (s.accessBad c (ea l).toNat n align write attr).map fun k => (l, k)
    match bad with
    | (l, k) :: _ => .fault ((s.dropNoXlat c.B.core vas).raise c k.1 k.2 l (ea l))
    | [] =>
      let s1 := vas.foldl (fun s va => s.touchTlb c.B.core part va) s
      .ok s1 (ls.filterMap fun l =>
        match s.xlate c.B.core part (!c.B.sup) write false (ea l).toNat with
        | .ok x => some { lane := l, ea := ea l, pa := x.pa (ea l).toNat, x }
        | .error _ => none)

/-- A page that ordinary accesses may not touch: CELL-ACCESS (R204). -/
def noCell (x : Xlat) : Option Nat := if x.cell then some causeCellAccess else none

/-- Pointer tag of an address: bits [63:60] (R206). -/
def ptrTag (ea : BitVec 64) : Nat := bits ea.toNat 63 60

/-- Whether the tags of every granule that n bytes touch, as a tarn meets them, match the pointer's, on a page with TE = 1 (R206). -/
def State.tagsMatch (s : State) (t : Nat) (te : Bool) (ea : BitVec 64) (pa n : Nat) : Bool :=
  !te || (List.range (pa % 32 + n)).all fun i => i % 32 != 0 || s.tagSeen t (pa / 32 * 32 + i) == ptrTag ea

/-! ### Holding for an offline home (R456) -/

/-- Clk in a millisecond and in a microsecond (0.4 ns each). -/
def clkPerMs : Nat := 2500000
def clkPerUs : Nat := 2500

/-- The key under which a core notes that a walk of a page meets an offline home. -/
def awayPage (vpn : Nat) : Nat := 2 ^ 60 + vpn

/-- A core's fetch or walk waits for an offline home, and its limit in HOFF has not come. -/
def State.awayHeld (s : State) (core k : Nat) : Bool :=
  let T := s.tarn (coreTarn core)
  match tget? (s.core core).away k with
  | some c => T.hoffEn && decide (s.clk < c + T.hoffMs * clkPerMs)
  | none => false

/-- A fetch of a line, or a walk of a page, meets an offline home: it is not sent, and the core's supervisor takes one HOME-OFFLINE trap.
Answers whether the limit in HOFF has come. -/
def State.holdAway (s : State) (core k : Nat) (ea : BitVec 64) (ident : BitVec 32) : State × Bool :=
  if !(s.tarn (coreTarn core)).hoffEn then (s, true)
  else if (tget? (s.core core).away k).isSome then (s, !s.awayHeld core k)
  else ((s.updCore core fun C => { C with away := tput C.away k s.clk }).postTrap (coreTarn core)
    { kind := 3, cause := causeHomeOffline, addr := ea, ident, blk := (s.core core).run }, false)

/-- A tarn serves what has reached it: it is on the ring, or leaving it (R457). -/
def State.serving (s : State) (t : Nat) : Bool := match (s.tarn t).st with | .online => true | .leaving => true | _ => false

/-- The pod port at either end of the way from a tarn to a location on another module is down (R486). -/
def State.podDown (s : State) (t pa : Nat) : Bool :=
  match homeOf pa with
  | some h => tarnModule h != tarnModule t && (!(s.tarn t).port || !(s.tarn h).port)
  | none => false

/-- An access to an offline home finds its supervisor's trap queue full: the instruction stalls before it places its trap (R443). -/
def State.trapsFull (s : State) (c : Ctx) (accs : List Acc) : Bool :=
  let T := s.tarn (coreTarn c.B.core)
  T.hoffEn && decide (64 ≤ T.traps.length) && accs.any fun a => s.homeOffline a.pa

/-- Hold the participants whose homes are offline: they leave their group and wait at the instruction as a group of their
own, and the tarn's supervisor takes a HOME-OFFLINE trap; with HOFF[0] = 0 the task ends instead (R456). -/
def State.holdOffline (s : State) (c : Ctx) (accs : List Acc) : State × List Acc :=
  let off := accs.filter fun a => s.homeOffline a.pa
  match off with
  | [] => (s, accs)
  | a :: _ =>
    let T := s.tarn (coreTarn c.B.core)
    if !T.hoffEn then (s.raise c causeHomeOffline 0 a.lane a.ea, [])
    else
      let ls := off.map (·.lane)
      let s := s.leave c ls
      let s := off.foldl (fun s a => s.updThread c.b c.q a.lane fun t =>
        { t with wait := .offline s.clk ((homeOf a.pa).getD 0) a.ea }) s
      let s := { s.updQuire c.b c.q fun Q =>
        { Q with groups := tput Q.groups s.next { c.gr with lanes := laneMask ls, stage := 0 } } with next := s.next + 1 }
      (s.postTrap (coreTarn c.B.core) { kind := 3, cause := causeHomeOffline, addr := a.ea, ident := identOf c.B c.q a.lane, blk := some c.b }, accs.filter fun a => !s.homeOffline a.pa)

end Sys2Proof.Machine
end

