-- ==== Sys2Proof/Machine/Order.lean ====
section
/-! DEFINITION. Ordering of memory operations (R233 to R255, R524): the operations that may not be overtaken, when a write is
performed at a scope, the writes that happen before a release, and what a read that meets a write inherits from it. -/

namespace Sys2Proof.Machine

/-- Where an agent lies (R13, R233): a thread by its core and quire, an engine by its core, in no quire; a spring or a supervisor
core by its tarn; the host in no tarn. -/
def threadPlace (core q : Nat) : Nat := core * 32 + q
def enginePlace (core : Nat) : Nat := core * 32 + 16
def springPlace (t : Nat) : Nat := (t * 25 + 24) * 32 + 17
def hostPlace : Nat := 2 ^ 60

/-- Whether two agents share an instance of a scope (R13, R233). -/
def sameInstance (sc p1 p2 : Nat) : Bool :=
  let c1 := p1 / 32
  let c2 := p2 / 32
  let inCore := decide (coreNum c1 < 24)
  if sc ≤ 1 then p1 == p2 && decide (p1 % 32 < 16)
  else if sc = 2 then c1 == c2 && inCore
  else if sc = 3 then coreTarn c1 == coreTarn c2 && coreNum c1 / 4 == coreNum c2 / 4 && inCore
  else if sc = 4 then coreTarn c1 == coreTarn c2
  else if sc = 5 then tarnModule (coreTarn c1) == tarnModule (coreTarn c2)
  else decide (7 ≤ sc) || (p1 != hostPlace && p2 != hostPlace)

/-- Whether two elements touch a common byte. -/
def Elem.overlaps (a b : Elem) : Bool := decide (a.pa < b.pa + b.size) && decide (b.pa < a.pa + a.size)

/-- A G-set access is made by every thread of its group (R234); a tile transfer, and the writes of QTILE and ACCST, by each of the
participants (R225, R226, R171, R415). -/
def Op.uniform (o : Op) : Bool := match o.ins with | .gld _ | .ldt _ | .stt _ | .qtile _ | .accst _ => true | _ => false

/-- The address space of an operation's elements: 0 global, 1 scratchpad, 2 pool (R195). -/
def Op.space (o : Op) : Nat :=
  match o.kind with
  | .lds | .sts | .qtile => 1
  | .ldp | .stp | .poolAtom | .deque => 2
  | .matrix => (match o.ins with | .accst _ => 1 | _ => 3)
  | _ => 0

/-- The lanes in whose program order an element stands. -/
def Op.lanesOf (o : Op) (e : Elem) : BitVec 32 :=
  if o.uniform then o.lanes else e.merged.foldl (fun m l => m ||| BitVec.twoPow 32 l) (BitVec.twoPow 32 e.lane)

/-- Operations that write memory (R236), ATOMS among them (R288); the writes of QTILE and of ACCST are their participants' (R171,
R415). -/
def Op.isWrite (o : Op) : Bool :=
  match o.kind with
  | .store | .atom | .red | .cell | .tagSt | .stt | .poolAtom | .deque | .sigx | .sts | .stp | .qtile => true
  | .lds => (match o.ins with | .atoms _ => true | _ => false)
  | .matrix => (match o.ins with | .accst _ => true | _ => false)
  | _ => false

/-- Operations that return a value read from memory. -/
def Op.isRead (o : Op) : Bool :=
  match o.kind with
  | .load | .atom | .ldt | .lds | .ldp | .deque | .waitx => true
  | .poolAtom => !o.holdV.isEmpty
  | _ => false

/-- Operations that are accesses to memory beyond the core (R209, R226, R231, R283). -/
def Op.accesses (o : Op) : Bool :=
  match o.kind with
  | .load | .store | .atom | .red | .cell | .tagSt | .ldt | .stt | .sigx => true
  | _ => false

/-- Whether an element is done: performed, or failed. -/
def Elem.done (e : Elem) : Bool := e.st == 3 || e.st == 4

/-- Whether an element has taken its place in its location's order, so that later accesses of its thread may follow. -/
def Elem.acted (e : Elem) : Bool := decide (2 ≤ e.st) && decide (e.st ≤ 5)

/-- Whether one write is performed at a scope (R255): by the core's L1 up to `.core`, posted to the host below `.sys` (log 110), and
otherwise by its home. -/
def Elem.performed (e : Elem) (sc : Nat) : Bool :=
  e.done || (decide (sc ≤ 2) && (e.st == 2 || e.st == 5)) || (inHost e.pa && decide (sc < 7) && e.st != 0)

/-- A read that has not taken its value yet (R238): of a tile transfer and of a WAITX, one that has not ended. -/
def Op.pendingRead (o : Op) : Bool :=
  o.isRead && match o.kind with
    | .ldt | .waitx => true
    | _ => o.elems.any fun e => !(e.acted || e.done)

/-- Whether an operation itself is performed at a scope: its writes are (R255), and it has read what it is to read.  One that has
gone was. -/
def State.performedOwn (s : State) (sc id : Nat) : Bool :=
  match s.op? id with
  | none => true
  | some o => !o.pendingRead && (!o.isWrite || o.elems.all fun e => e.performed sc)

/-- Whether an operation is performed at a scope with the writes that its read has met: a release that follows the read covers them
(R238). -/
def State.performedAt (s : State) (sc id : Nat) : Bool :=
  s.performedOwn sc id && (match s.op? id with | some o => o.met.all fun i => s.performedOwn sc i | none => true)

/-- Two operations of one thread touch a common location (R235). -/
def Op.conflicts (o o' : Op) : Bool :=
  o.blk == o'.blk && o.q == o'.q && o.space == o'.space &&
    o.elems.any fun e => o'.elems.any fun e' => o.lanesOf e &&& o'.lanesOf e' != 0#32 && e.overlaps e'

/-- The outstanding operations that a new one may not overtake (R235). -/
def State.earlier (s : State) (o : Op) : List Nat := (s.ops.filter fun x => x.2.conflicts o).map (·.1)

/-- The earlier operations that an element waits for have acted on the bytes it touches (R210, R235). -/
def State.clearToAct (s : State) (o : Op) (e : Elem) : Bool :=
  o.after_.all fun i => match s.op? i with
    | none => true
    | some a => a.elems.all fun e' => e'.acted || !e.overlaps e' || a.lanesOf e' &&& o.lanesOf e == 0#32

/-- The lower lanes of one instruction that touch an element's bytes act before it or with it (R210, R287). -/
def State.laneClear (s : State) (o : Op) (e : Elem) : Bool :=
  s.clearToAct o e && o.elems.all fun e' => e'.acted || e'.done || decide (e.lane ≤ e'.lane) || !e.overlaps e' || s.clearToAct o e'

/-- The outstanding writes of a thread itself. -/
def State.ownWrites (s : State) (b q l : Nat) : List Nat :=
  (s.ops.filter fun x => x.2.blk == b && x.2.q == q && x.2.lanes.getLsbD l && x.2.isWrite).map (·.1)

/-- Add numbers to a list without repeats. -/
def addNew (l ns : List Nat) : List Nat := ns.foldl (fun l n => if l.contains n then l else l ++ [n]) l

/-- Some writes with those that happen before them, as far as they are outstanding (R238). -/
def State.withPrior (s : State) (ids : List Nat) : List Nat :=
  (ids.foldl (fun a i => match s.op? i with | some o => addNew (addNew a o.prior) o.met | none => a) ids).filter fun i => (s.op? i).isSome

/-- The reads of a thread that have not taken their values yet: what they will meet happens before a release that follows them
(R238). -/
def State.openReads (s : State) (b q l : Nat) : List Nat :=
  (s.ops.filter fun x => x.2.blk == b && x.2.q == q && x.2.lanes.getLsbD l && x.2.pendingRead).map (·.1)

/-- Every outstanding write that happens before a thread's next access (R238): its own, and those that its acquires and its last
release fence have found. -/
def State.before (s : State) (b q l : Nat) (t : Thread) : List Nat :=
  s.withPrior (addNew (s.ownWrites b q l) (addNew t.synced t.fenced))

/-- Every outstanding write that happens before a release of a thread (R238): those it has read as well, or will have read. -/
def State.happenBefore (s : State) (b q l : Nat) (t : Thread) : List Nat :=
  s.withPrior (addNew (s.ownWrites b q l) (addNew (s.openReads b q l) (addNew t.observed (addNew t.synced t.fenced))))

/-- The same for some lanes of a quire. -/
def State.coversOf (s : State) (b q : Nat) (Q : Quire) (ls : List Nat) : List Nat :=
  ls.foldl (fun a l => addNew a (s.happenBefore b q l (tget Q.threads l {}))) []

/-- A store to host memory that is posted and has not arrived there covers some bytes: a later access of them comes behind it (R239,
log 110). -/
def State.hostPosted (s : State) (pa n : Nat) : Bool :=
  s.ops.any fun x => x.2.isWrite && x.2.space == 0 && x.2.elems.any fun e => inHost e.pa && e.st == 1 &&
    decide (pa % 2 ^ 43 < e.pa % 2 ^ 43 + e.size) && decide (e.pa % 2 ^ 43 < pa % 2 ^ 43 + n)

/-- Have the guest tarns write back the dirty remote lines of some writes: a release at `.quad` or wider needs them performed
(R269). -/
def State.pushBack (s : State) (sc : Nat) (ids : List Nat) : State :=
  if sc < 3 then s else
  ids.foldl (fun s i => match s.op? i with
    | none => s
    | some o =>
      match s.block? o.blk with
      | none => s
      | some B =>
        o.elems.foldl (fun s e =>
          if e.st = 2 ∧ lineHome (lineOf e.pa) ≠ coreTarn B.core then s.sendWriteBack (coreTarn B.core) (lineOf e.pa) else s) s) s

/-- Whether a released write, or the request that carries it, may go: every write it covers is performed at its scope
(R524). -/
def State.released (s : State) (o : Op) : Bool := o.rel == 0 || o.covers.all fun i => s.performedAt o.rel i

/-- Whether two operations' elements lie in one address space of one place: global memory, a block's side, a tarn's pool. -/
def State.samePlace (s : State) (o w : Op) : Bool :=
  let core (x : Op) : Nat := (s.block? x.blk).elim 0 (·.core)
  o.space == w.space && (o.space != 1 || o.blk == w.blk) && (o.space != 2 || coreTarn (core o) == coreTarn (core w))

/-- The writes, still outstanding or kept for what they cover, that a read of some bytes meets (log 17). -/
def State.writersOf (s : State) (o : Op) (e : Elem) : List (Nat × Op) :=
  s.ops.filter fun x => x.2.isWrite && s.samePlace o x.2 &&
    x.2.elems.any fun e' => !e'.quiet && ((e'.acted && e'.st != 4) || (e'.st == 7 && x.2.kind != .cell)) && e.overlaps e'

/-- What an acquire at a scope by an agent takes from a list of (release scope, releasing place, covered write) (R237). -/
def acquired (acq place : Nat) (rs : List (Nat × Nat × Nat)) : List Nat :=
  rs.foldl (fun a r => if acq != 0 && sameInstance (min r.1 acq) r.2.1 place then addNew a [r.2.2] else a) []

/-- A thread's read meets releases (R236 to R238): an acquire takes from them at once, and a later acquire fence may; it has read
some writes. -/
def Thread.meet (t : Thread) (acq place : Nat) (seen : List Nat) (rs : List (Nat × Nat × Nat)) : Thread :=
  { t with observed := addNew t.observed seen, synced := addNew t.synced (acquired acq place rs), readSet := rs ++ t.readSet }

/-- What a thread remembers of operations that have gone is dropped. -/
def State.forget (s : State) (t : Thread) : Thread :=
  let on (i : Nat) : Bool := (s.op? i).isSome
  { t with observed := t.observed.filter on, synced := t.synced.filter on, readSet := t.readSet.filter fun r => on r.2.2 }

/-- What the releases among some writes pass on: scope, place, covered write (R237). -/
def releasesOf (ws : List (Nat × Op)) : List (Nat × Nat × Nat) :=
  ws.flatMap fun w => if w.2.fsc = 0 then [] else w.2.covers.map fun i => (w.2.fsc, w.2.place, i)

/-- A read meets writes (R237, R238). -/
def State.observe (s : State) (o : Op) (e : Elem) : State :=
  let ws := s.writersOf o e
  s.mapLanes o.blk o.q (laneList (o.lanesOf e)) fun _ t =>
    (s.forget t).meet o.acq o.place (ws.map (·.1)) ((releasesOf ws).filter fun r => (s.op? r.2.2).isSome)

/-- An operation's read has met writes: they happen before the releases that follow it (R238). -/
def State.noteMet (s : State) (id : Nat) (o : Op) (e : Elem) : State :=
  match s.op? id, ((s.writersOf o e).map (·.1)).filter (· != id) with
  | some x, i :: ids => s.setOp id { x with met := addNew x.met (s.withPrior (i :: ids)) }
  | _, _ => s

/-- The outstanding writes of some kind that a read of n bytes at an address meets, and what happens before them (R238). -/
def State.seenIn (s : State) (p : Op → Bool) (pa n : Nat) : List Nat :=
  s.withPrior ((s.ops.filter fun x => x.2.isWrite && p x.2 &&
    x.2.elems.any fun e => !e.quiet && e.acted && e.st != 4 && decide (pa < e.pa + e.size) && decide (e.pa < pa + n)).map (·.1))

/-- What a read of some bytes of global memory by an engine or a spring meets, and of a block's side by an engine. -/
def State.seenAt (s : State) (pa n : Nat) : List Nat := s.seenIn (fun o => o.space == 0) pa n
def State.seenSide (s : State) (b o n : Nat) : List Nat := s.seenIn (fun x => x.space == 1 && x.blk == b) o n

/-- The fields of a two-word instruction. -/
def w2Of (i : Instr) : W2 :=
  match i.fields with
  | some (.w2 w) => w
  | _ => { p := 7#3, n := false, d := 0#7, a := 0#7, b := 0#7, x := .mod 0#7 0#5 0#2 0#3 0#2 0#2 0#4 }

/-- The cache code of an instruction (R211, R212). -/
def cacheOf (i : Instr) : Nat := (w2Of i).x.cache.toNat

/-- A load that takes its line past the L1: `.tc` (R211). -/
def Op.bypass (o : Op) : Bool := cacheOf o.ins == 1

/-- An access that goes past the L1: `.tc` (R211), a GLD miss (R266), and those of a supervisor core, which are performed at `.pkg`
(R252; log 100). -/
def State.pastL1 (s : State) (o : Op) : Bool :=
  o.bypass || (match o.ins with | .gld _ => true | _ => false) || (s.block? o.blk).elim false (·.sup)

/-- The value of an element in a core's L1, when every byte of it is valid there. -/
def State.l1Value (s : State) (c : Nat) (e : Elem) : Option Nat :=
  match s.l1? c (lineOf e.pa) with
  | some l =>
    let m := byteMask (e.pa % 64) e.size
    if m &&& ~~~ l.valid = 0#64 then some (takeData l.data (e.pa % 64) e.size) else none
  | none => none

/-- An LD, GLD or TAGLD that its core's L1 does not serve whole (R92). -/
def State.beyondL1 (s : State) (o : Op) : Bool :=
  o.kind == .load && o.elems.any fun e => e.st == 0 &&
    (s.pastL1 o || (match o.ins with | .tagld _ => true | _ => false) || (s.l1Value ((s.block? o.blk).elim 0 (·.core)) e).isNone)

/-- The order and the kind of an operation as it issues (R92, R235), and what a write passes on (R236, R238): what happens before it; to those who acquire it, a release what it covers, a write after a
release fence what the fence covered. -/
def State.stampOrder (s : State) (Q : Quire) (o : Op) : Op :=
  let ls := laneList o.lanes
  let o := { o with after_ := s.earlier o, far := s.beyondL1 o }
  if o.rel != 0 then
    let cov := s.coversOf o.blk o.q Q ls
    { o with covers := cov, prior := cov, fsc := o.rel }
  else if o.isWrite then
    let f := ls.foldl (fun a l => addNew a ((tget Q.threads l {}).fenced.filter fun i => (s.op? i).isSome)) []
    let sc := ls.foldl (fun a l => max a (tget Q.threads l {}).fsc) 0
    { o with covers := f, fsc := if f.isEmpty then 0 else sc
             prior := ls.foldl (fun a l => addNew a (s.before o.blk o.q l (tget Q.threads l {}))) [] }
  else o

/-- A release or acquire by some threads that is not itself a memory operation is recorded as a fence would be (R236). -/
def State.fenceLanes (s : State) (b q : Nat) (Q : Quire) (ls : List Nat) (acq rel : Nat) (core : Nat) : State :=
  s.mapLanes b q ls fun l t =>
    let t := if acq = 0 then t else
      { t with synced := addNew t.synced (acquired acq (threadPlace core q) t.readSet), readSet := [] }
    if rel = 0 then t else { t with fenced := s.happenBefore b q l (tget Q.threads l t), fsc := max t.fsc rel }

/-- `.sc` fences by some threads (R241): each takes its place after those that have passed, whose preceding writes happen before what
follows it where the two threads share an instance of both scopes. -/
def State.scOrder (s : State) (b q core sc : Nat) (ls : List Nat) : State :=
  ls.foldl (fun s l =>
    let t := (s.threadAt b q l).getD {}
    let p := threadPlace core q
    let F := (s.scFences.map fun f => (f.1, f.2.1, f.2.2.filter fun i => (s.op? i).isSome)).filter fun f => !f.2.2.isEmpty
    let before := s.withPrior (addNew (s.ownWrites b q l) t.observed)
    let found := F.foldl (fun a f => if sameInstance (min f.1 sc) f.2.1 p then addNew a f.2.2 else a) []
    { s.updThread b q l fun t => { t with synced := addNew t.synced found } with
      scFences := if before.isEmpty then F else F ++ [(sc, p, before)] }) s

/-- A value passes from some lanes to others without an access (R245): what the source lanes' last release fences covered, a later
acquire fence of a lane that receives it takes. -/
def State.passLanes (s : State) (c : Ctx) (ls : List Nat) (sources : Nat → List Nat) : State :=
  if ls.isEmpty then s else
  s.mapLanes c.b c.q ls fun l t =>
    let rs := ((sources l).filter (· != l)).flatMap fun k =>
      let th := c.thread k
      if th.fsc = 0 then [] else (th.fenced.filter fun i => (s.op? i).isSome).map fun i => (7, c.B.core * 32 + c.q, i)
    if rs.isEmpty then t else { t with readSet := rs ++ t.readSet }

/-! ### Completion of writes -/

/-- Finish an operation whose elements are done: its task ends when it met a fault (R205); a write that others may still read
stays in the table, without a flag, until what it covers is performed (R237), and a read until what it met is (R238). -/
def State.settle (s : State) (id : Nat) : State :=
  match s.op? id with
  | none => s
  | some o =>
    let s1 := s.decFlag o.blk o.q (laneList o.lanes) o.flag
    let on (l : List Nat) : Bool := l.any fun i => i != id && (s.op? i).isSome
    let rest : Op := { o with flag := 15, holdV := [], holdG := [], holdP := [], holdGP := [], bad := none }
    let s2 :=
      if o.isWrite && on (o.covers ++ o.prior ++ o.met) then
        s1.setOp id { rest with kind := if o.space = 1 then .sts else if o.space = 2 then .stp else .store }
      else if on o.met then s1.setOp id { rest with kind := .met, elems := [] }
      else s1.delOp id
    match o.bad with
    | some (cause, lane, ea) => s2.faultAt o.blk o.q o.clause o.widx cause 0 lane ea
    | none => s2

/-- Settle every operation without results whose elements are all done, and drop retained writes whose covered writes have
gone. -/
def State.retire (s : State) : State :=
  s.ops.foldl (fun s x =>
    match x.2.kind with
    | .store | .tagSt | .red | .cctl | .fetch | .stt | .sts | .stp | .sigx | .met => if x.2.elems.all Elem.done then s.settle x.1 else s
    | _ => s) s

end Sys2Proof.Machine
end

