-- ==== Sys2Proof/Machine/Issue.lean ====
section
/-! DEFINITION. What can issue and what issues next: instruction fetch (R57, R353), entry to a clause (R50), the register
scoreboard (R52), flag saturation (R51), the order of a thread's memory accesses behind an acquire (R524), and the choice of
a quire and of a candidate within it (R90, R91). -/

namespace Sys2Proof.Machine

/-! ### The core's clock and its duty -/

/-- %clk as a core reads it: cores of one module differ by at most 8 (R83, log 2). -/
def State.coreClk (s : State) (core : Nat) : Nat := s.modClk (tarnModule (coreTarn core)) + Config.clkSkew core % 9

/-- Duty in eighths and refresh factor of a state (R27). -/
def weirDuty (w : Nat) : Nat := [8, 7, 6, 8, 6, 4, 4, 2].getD w 2
def weirRefresh (w : Nat) : Nat := [1, 1, 1, 2, 2, 2, 4, 4].getD w 4

/-- Whether a core may issue in a cycle (R459). -/
def dutyCycle (w clk : Nat) : Bool :=
  let k := clk % 8
  match weirDuty w with
  | 8 => true
  | 7 => k != 7
  | 6 => k != 3 && k != 7
  | 4 => k % 2 == 0
  | _ => k % 4 == 0

/-! ### Fetch -/

/-- A line of the instruction cache (R16). -/
def Core.icLine (C : Core) (ln : Nat) : Option (BitVec 512) := (C.icache.find? fun e => e.1 == ln).map (·.2)

/-- A core has a line to fetch from: in its instruction cache, or where its tarn can read it now (R57, R264). -/
def State.fetchHas (s : State) (c ln : Nat) : Bool :=
  ((s.core c).icLine ln).isSome || (s.agentHas (coreTarn c) ln (BitVec.allOnes 64) && !(coreTarn c == lineHome ln && s.dramHeld ln) &&
    !(tarnModule (coreTarn c) != tarnModule (lineHome ln) && s.shut (coreTarn c) (ln * 64)))

/-- Ask for a line to fetch from (R266). -/
def State.fetchAsk (s : State) (c ln : Nat) : State :=
  if s.agentHas (coreTarn c) ln (BitVec.allOnes 64) then s else s.askSpan (.fetch c) (coreTarn c) ln (BitVec.allOnes 64)

/-- A word in the instruction cache or, missing there, coherently from memory (R57); 0 while its line is not at hand (it is not used
then). -/
def State.fetchPa (s : State) (c pa : Nat) : Word :=
  match (s.core c).icLine (lineOf pa) with
  | some l => BitVec.ofNat 32 (takeData l (pa % 64) 4)
  | none => if s.fetchHas c (lineOf pa) then BitVec.ofNat 32 (s.agentRead (coreTarn c) pa 4) else 0#32

/-- Bring a line into the instruction cache, as the most recently used of its 1,024 lines. -/
def State.icFill (s : State) (c pa : Nat) : State :=
  let d := match (s.core c).icLine (lineOf pa) with
    | some d => d
    | none => BitVec.ofNat 512 (s.agentRead (coreTarn c) (lineOf pa * 64) 64)
  s.updCore c fun C =>
    let l := C.icache.filter fun e => e.1 != lineOf pa
    { C with icache := (if l.length < 1024 then l else l.drop 1) ++ [(lineOf pa, d)] }

/-- Whether a block's code lease covers n bytes; the supervisor core's fetches are not lease-checked (R353). -/
def Block.mayFetch (B : Block) (a n : Nat) : Bool :=
  B.sup || leased (B.leases.filter fun l => l.mode == 2) false (B.leases.length + 1) a n

/-- The words of a clause as fetched, by the translation in force; a word that has none reads 0 (it is not used then). -/
def State.fetchWords (s : State) (B : Block) (a n : Nat) : List Word :=
  (List.range n).map fun i =>
    match s.xlate B.core (s.partOf B) (!B.sup) false true ((a + 4 * i) % 2 ^ 64) with
    | .ok x => s.fetchPa B.core (x.pa ((a + 4 * i) % 2 ^ 64))
    | .error _ => 0#32

/-! ### The clause header -/

/-- The fields of a clause header under an encoding version (R48, R67): LEN, wait mask, set-flags (15 for none), YLD, and
whether a reserved value stands in it. -/
structure Header where
  len : Nat
  wait : BitVec 12
  sfa : Nat
  sfb : Nat
  yld : Bool
  bad : Bool
deriving DecidableEq, Repr

def headerMark (h : Word) : Bool := h.extractLsb' 25 7 == 0x7F#7

def headerOf (ver : Nat) (h : Word) : Header :=
  let len := (h.extractLsb' 21 4).toNat
  if ver = 2 then
    let f (n : Nat) : Nat := if n = 7 then 15 else n
    { len, wait := (h.extractLsb' 13 8).zeroExtend 12, sfa := f (h.extractLsb' 10 3).toNat, sfb := f (h.extractLsb' 7 3).toNat,
      yld := h.getLsbD 6, bad := h.extractLsb' 0 6 != 0#6 }
  else
    let a := (h.extractLsb' 5 4).toNat
    let b := (h.extractLsb' 1 4).toNat
    { len, wait := h.extractLsb' 9 12, sfa := a, sfb := b, yld := h.getLsbD 0,
      bad := (decide (12 ≤ a) && a != 15) || (decide (12 ≤ b) && b != 15) }

/-- Every flag named in a wait mask is clear (R50). -/
def Thread.flagsClear (t : Thread) (m : BitVec 12) : Bool := (List.range 12).all fun n => !m.getLsbD n || t.flag n == 0

/-- The address of word i of a clause. -/
def wordAddr (cl : BitVec 64) (i : Nat) : Nat := (cl.toNat + 4 * i) % 2 ^ 64

/-- The pages that words 0 to n of a clause lie on that the fetch still needs walked. -/
def State.fetchMissing (s : State) (B : Block) (cl : BitVec 64) (n : Nat) : List Nat :=
  s.missing B.core (s.partOf B) [wordAddr cl 0, wordAddr cl n]

/-- The lines of words 0 and n of a clause that the fetch waits for. -/
def State.fetchAway (s : State) (B : Block) (cl : BitVec 64) (n : Nat) : List Nat :=
  [wordAddr cl 0, wordAddr cl n].filterMap fun va =>
    match s.xlate B.core (s.partOf B) (!B.sup) false true va with
    | .ok x => if s.fetchHas B.core (lineOf (x.pa va)) then none else some (lineOf (x.pa va))
    | .error _ => none

/-- The last word of the clause at an address that its fetch needs: that of its header until the header is at hand. -/
def State.fetchLen (s : State) (B : Block) (cl : BitVec 64) : Nat :=
  let h := (s.fetchWords B cl.toNat 1).headD 0#32
  if headerMark h then (headerOf B.ver h).len else 0

/-- The clause at an address is not at hand: its pages or its lines have to come from beyond the core's L1 (R92). -/
def State.fetchMiss (s : State) (B : Block) (cl : BitVec 64) : Bool :=
  let n := s.fetchLen B cl
  decide (cl.toNat % 4 = 0) && B.mayFetch cl.toNat (4 * (n + 1)) && !((s.fetchMissing B cl n).isEmpty && (s.fetchAway B cl n).isEmpty)

/-- The fetch of the clause at an address is under way: a page walk, its line over the ring or from an offline home, or DRAM. -/
def State.fetchHeld (s : State) (B : Block) (cl : BitVec 64) : Bool :=
  let t := coreTarn B.core
  let n := s.fetchLen B cl
  (s.fetchMissing B cl n).any (fun p => (s.core B.core).walks.contains p) ||
    (s.fetchAway B cl n).any fun ln =>
      if s.shut t (ln * 64) then s.awayHeld B.core ln else t == lineHome ln || s.spanAsked t ln (BitVec.allOnes 64)

/-- The wait mask of the header at an address; a word that is no header has none. -/
def State.waitMask (s : State) (B : Block) (cl : BitVec 64) : BitVec 12 :=
  let h := (s.fetchWords B cl.toNat 1).headD 0#32
  if headerMark h then (headerOf B.ver h).wait else 0#12

/-- The threads of a quire that stand at a header, wait for nothing, and have the flags of its wait mask clear. -/
def State.readyAt (s : State) (B : Block) (Q : Quire) (cl : BitVec 64) : List Nat :=
  let m := s.waitMask B cl
  let inGroup := Q.groups.foldl (fun a g => a ||| g.2.lanes) 0#32
  Q.threads.filterMap fun t =>
    if t.2.live && t.2.wait == Wait.none && t.2.pc == cl && !inGroup.getLsbD t.1 && t.2.flagsClear m then some t.1 else none

/-! ### Scoreboard and holds -/

/-- The next instruction of a group and its number of words. -/
def Group.nextInstr (g : Group) : Option (Instr × Nat) :=
  match decodeRaw (g.words.drop (g.widx - 1)) with | .ok r => some r | .error _ => none

/-- Whether an instruction sets a flag. -/
def setsFlag (i : Instr) : Bool := match i.head with | some h => h.flag | none => false

/-- Instructions that an acquire holds back: those that access memory or issue a copy, cell, barrier, spring, matrix or launch
command (R524). -/
def ordered (i : Instr) : Bool :=
  match i.head with
  | some h =>
    if h.set then h.major == 0x11#6 || (0x20#6 ≤ h.major && h.major ≤ 0x25#6)
    else 0x28#6 ≤ h.major || (h.major == 0x25#6 && (h.minor == 1#6 || h.minor == 5#6))
  | none => false

/-- An outstanding operation will write a register that an instruction names, in one of some lanes (R52). -/
def Op.holds (o : Op) (lanes : BitVec 32) (rs : List (Nat × Nat)) : Bool :=
  rs.any fun r =>
    match r.1 with
    | 0 => o.lanes &&& lanes != 0#32 && o.holdV.contains r.2
    | 1 => o.holdG.contains r.2
    | 2 => o.lanes &&& lanes != 0#32 && o.holdP.contains r.2
    | _ => o.holdGP.contains r.2

/-- The operations of a quire that hold a group's next instruction back: through registers. -/
def State.holders? (s : State) (b q : Nat) (lanes : BitVec 32) (i : Instr) : List Op :=
  (s.ops.filter fun e => e.2.blk == b && e.2.q == q && !e.2.drop && e.2.holds lanes i.regs).map (·.2)

/-- The issuing threads whose flag count stands at 63 (R51): participants, or the whole group of a G-set word. -/
def Quire.saturated (Q : Quire) (g : Group) (i : Instr) : Bool :=
  match i.fields, i.head with
  | some (.w2 w), some h =>
    let f := if w.n then g.sfb else g.sfa
    h.flag && decide (f < 12) && (laneList g.lanes).any fun l =>
      let t := tget Q.threads l {}
      t.live && (if h.set then guardOk Q.gp w.p false else guardOk t.p w.p false) && t.flag f == 63
  | _, _ => false

/-- A member's wait, or the acquire that holds back its accesses, keeps its group from issuing an instruction (R88, R524). -/
def Thread.waitsFor (t : Thread) (i : Instr) : Bool := t.wait != Wait.none || (t.acq.isSome && ordered i)

/-- Whether a block may issue at all. -/
def State.running (s : State) (b : Nat) (B : Block) : Bool :=
  B.st == BlkSt.running && (if B.sup then !(s.tarn b).supHalt else (s.core B.core).run == some b)

/-- A supervisor core performs each of its accesses at `.pkg` before it issues the next (R252), and before it returns from a trap
(R442). -/
def State.supWaits (s : State) (b : Nat) (i : Instr) : Bool :=
  decide (b < firstBlock) && (ordered i || match i with | .eret _ => true | _ => false) && s.ops.any fun x => x.2.blk == b && x.2.accesses && x.2.elems.any fun e => !e.performed 5

/-- Whether a group can issue its next instruction (R52, R88). -/
def State.groupReady (s : State) (b q : Nat) (Q : Quire) (g : Group) : Bool :=
  !g.held &&
  match g.nextInstr with
  | none => false
  | some (i, _) =>
    (laneList g.lanes).all (fun l => !(tget Q.threads l {}).waitsFor i) && !s.supWaits b i &&
      (s.holders? b q g.lanes i).isEmpty && !Q.saturated g i

/-! ### Candidates (R91) -/

/-- A candidate: address, number of ready threads, order of entry, age, and the group or none for a header. -/
structure Cand where
  addr : Nat
  count : Nat
  order : Nat
  age : Nat
  gid : Option Nat
deriving DecidableEq, Repr

/-- The headers at which threads of a quire stand. -/
def Quire.headers (Q : Quire) : List (BitVec 64) :=
  let inGroup := Q.groups.foldl (fun a g => a ||| g.2.lanes) 0#32
  (Q.threads.filterMap fun t => if t.2.live && !inGroup.getLsbD t.1 then some t.2.pc else none).eraseDups

/-- The candidates of a quire that can issue; a supervisor core enters no clause while an OWN trap waits to be taken (R443). -/
def State.candidates (s : State) (b q : Nat) (B : Block) (Q : Quire) : List Cand :=
  ((if B.sup && !(s.tarn b).own.isEmpty && !(s.tarn b).intrap then [] else Q.headers).filterMap fun cl =>
    let n := (s.readyAt B Q cl).length
    if n = 0 || s.fetchMiss B cl then none
    else some { addr := cl.toNat, count := n, order := 0, age := tget Q.headAge cl.toNat 0, gid := none }) ++
  (Q.groups.filterMap fun g =>
    if s.groupReady b q Q g.2 then
      some { addr := wordAddr g.2.clause g.2.widx, count := (laneList (g.2.lanes ||| g.2.ended)).length, order := g.1, age := g.2.age, gid := some g.1 }
    else none)

/-- The candidate that R91 chooses: one aged 1,024 issue cycles, else the most threads, then the lower address, then the
earlier entry, a header before a group (log 106). -/
def Cand.before (x y : Cand) : Bool :=
  if (decide (1024 ≤ x.age)) != (decide (1024 ≤ y.age)) then decide (1024 ≤ x.age)
  else if 1024 ≤ x.age then decide (x.addr < y.addr) || (x.addr == y.addr && decide (x.order ≤ y.order))
  else if x.count != y.count then decide (y.count < x.count)
  else if x.addr != y.addr then decide (x.addr < y.addr)
  else decide (x.order ≤ y.order)

/-- The best of a list under an order. -/
def bestOf {α : Type} (lt : α → α → Bool) : List α → Option α
  | [] => none
  | a :: l => match bestOf lt l with | none => some a | some b => some (if lt a b then a else b)

def State.choose (s : State) (b q : Nat) (B : Block) (Q : Quire) : Option Cand :=
  bestOf Cand.before (s.candidates b q B Q)

/-- The order of R90 between quires: the one that issued least recently, one that has not issued first, then the lower number. -/
def issuedBefore (x y : Nat × Option Nat × Cand) : Bool :=
  match x.2.1, y.2.1 with
  | none, none => decide (x.1 ≤ y.1)
  | none, some _ => true
  | some _, none => false
  | some m, some n => if m = n then decide (x.1 ≤ y.1) else decide (m < n)

/-- The ready quires of the active set, with what each would issue. -/
def State.readyQuires (s : State) (b : Nat) (B : Block) : List (Nat × Option Nat × Cand) :=
  B.active.filterMap fun q =>
    match tget? B.quires q with
    | some Q => (s.choose b q B Q).map fun c => (q, Q.lastIssue, c)
    | none => none

/-- The quire that issues, in a cycle of its tarn's duty (R459): of the ready quires of the active set the one that issued least recently
(R90); a quire that gives up its issue cycle stands back when another is ready (R56). -/
def State.chooseQuire (s : State) (b : Nat) (B : Block) : Option (Nat × Cand) :=
  if !dutyCycle (s.tarn (coreTarn B.core)).weir (s.coreClk B.core) then none else
  let ready := s.readyQuires b B
  let keen := ready.filter fun r => !(match tget? B.quires r.1 with | some Q => Q.skip | none => false)
  (bestOf issuedBefore (if keen.isEmpty then ready else keen)).map fun r => (r.1, r.2.2)

/-- Whether a quire is ready. -/
def State.quireReady (s : State) (b q : Nat) (B : Block) : Bool :=
  match tget? B.quires q with | some Q => (s.choose b q B Q).isSome | none => false

/-! ### Long and short waits (R92, R93) -/

/-- Whether an operation is of a long-latency kind (R92). -/
def Op.long (o : Op) : Bool :=
  match o.kind with
  | .load => o.far
  | .trans | .lds | .qtile | .trlck | .alu => false
  | _ => true

/-- Whether a parked thread's wait is long: every one but a short NAP. -/
def Wait.long : Wait → Bool
  | .none => false
  | .nap _ l => l
  | _ => true

/-- Instructions whose own wait is short (R92): for the conversion and lock units (R178), and of an FSP for scratchpad writes that no
matrix command makes. -/
def State.shortStall (s : State) (b q : Nat) (lanes : BitVec 32) (i : Instr) : Bool :=
  match i with
  | .qtile _ | .trlck _ => true
  | .fsp _ => !s.ops.any fun e => e.2.blk == b && e.2.q == q && e.2.lanes &&& lanes != 0#32 && e.2.kind == .matrix && e.2.space == 1 && e.2.isWrite
  | _ => false

/-- A member of a group waits on a long-latency event before an instruction: parked, or at an acquire that a long operation
holds (R524). -/
def State.memberLong (s : State) (t : Thread) (i : Instr) : Bool :=
  t.wait.long || (ordered i && match t.acq with | some k => (s.op? k).elim false Op.long | none => false)

/-- How a live thread stands: none, it can issue; some true, it waits on a long-latency event; some false, on a short one.  A
wait on flags is long by the operations counted in the flags that the header names. -/
def State.waitKind (s : State) (b q : Nat) (B : Block) (Q : Quire) (l : Nat) (t : Thread) : Option Bool :=
  if t.wait != Wait.none then some t.wait.long
  else
    match Q.groups.find? fun g => g.2.lanes.getLsbD l with
    | some g =>
      if s.groupReady b q Q g.2 then none
      else match g.2.nextInstr with
        | some (i, _) => some ((g.2.held && !s.shortStall b q g.2.lanes i) || (s.holders? b q g.2.lanes i).any Op.long || Q.saturated g.2 i ||
            (laneList g.2.lanes).any fun k => s.memberLong (tget Q.threads k {}) i)
        | none => some false
    | none =>
      let ls := s.readyAt B Q t.pc
      if ls.contains l && !s.fetchMiss B t.pc then none
      else
        let m := s.waitMask B t.pc
        some ((s.ops.any fun e => e.2.blk == b && e.2.q == q && e.2.lanes.getLsbD l && m.getLsbD e.2.flag && e.2.long) ||
          s.fetchMiss B t.pc)

/-- A quire is stalled long: no live thread can issue, at least one waits on a long-latency event, and none only on a short
one; a quire without a live thread counts as such (R93). -/
def State.stalledLong (s : State) (b q : Nat) (B : Block) (Q : Quire) : Bool :=
  let ks := Q.threads.filterMap fun t => if t.2.live then some (s.waitKind b q B Q t.1 t.2) else none
  ks.all fun k => k == some true

/-- The oldest ready quire of the pending set. -/
def State.oldestReady (s : State) (b : Nat) (B : Block) : Option Nat := B.pending.find? fun q => s.quireReady b q B

/-- Exchange an active quire for a pending one, in the leaving quire's position; the leaving quire goes to the tail of the
pending set, or for good when it has no live thread and no TAIL that still stands (R93, R94, R101, R104; log 134). -/
def State.exchange (s : State) (b out inn : Nat) : State :=
  s.updBlock b fun B =>
    let alive := match tget? B.quires out with | some Q => Q.threads.any (·.2.live) || Q.groups.any (·.2.ended != 0#32) | none => false
    { B with
      active := B.active.map fun q => if q = out then inn else q
      pending := (B.pending.filter (· != inn)) ++ (if alive then [out] else [])
      issues := B.issues + 1
      quires := match tget? B.quires inn with | some Q => tput B.quires inn { Q with entered := B.issues + 1 } | none => B.quires
      exch := (B.exch.filter fun e => decide (s.clk < e.2)) ++ [(inn, s.clk + 2)] }

/-- The quires that an exchange has just brought in issue nothing while it takes place (R93). -/
def Block.settled (B : Block) (clk : Nat) : Block :=
  { B with active := B.active.filter fun q => !B.exch.any fun e => e.1 == q && decide (clk < e.2) }

/-- The group numbers of a quire. -/
def State.groupsOf (s : State) (b q : Nat) : List Nat :=
  match s.block? b with
  | some B => (match tget? B.quires q with | some Q => Q.groups.map (·.1) | none => [])
  | none => []

end Sys2Proof.Machine
end

