-- ==== Sys2Proof/Machine/Memory.lean ====
section
/-! DEFINITION. Memory access instructions (R195 to R231) and GLD (R142), as they issue; what a slice does with the elements
of a load, a store, a prefetch, a tag or a cache control on one line (R209 to R213, R228 to R231, R260); and the completion of
reads.  The tile instructions stand in Tile. -/

namespace Sys2Proof.Machine

/-! ### Error logs (R467) -/

/-- Enter an event into a log: merged into an entry of its PA and KIND within 1 ms, else new: in the next free place, or with 16
entries in the place of the oldest. -/
def logInto (l : ErrorLog) (e : LogEntry) : ErrorLog :=
  let same (x : LogEntry) : Bool := x.pa == e.pa && x.kind == e.kind && decide (e.time ≤ x.time + clkPerMs)
  if l.entries.any same then
    { l with entries := l.entries.map fun x => if same x then { x with count := min 255 (x.count + 1) } else x }
  else if l.entries.length < 16 then { l with entries := l.entries ++ [e] }
  else { entries := l.entries.set l.oldest e, oldest := (l.oldest + 1) % 16 }

def State.logArray (s : State) (ln bytes kind : Nat) : State :=
  s.updTarn (lineHome ln) fun T =>
    { T with alog := logInto T.alog { time := s.modClk (tarnModule (lineHome ln)), count := 1, bytes, kind, pc := sliceOf (ln * 64), pa := ln * 64 } }

/-! ### Elements of operations -/

/-- The reader count of an `st.rc`, 0 for none (R212). -/
def rcOf (i : Instr) : Nat := match i with | .st w => if w.x.cache = 3#2 then w.x.sub.toNat else 0 | _ => 0

/-- How an access reaches its location: through the caches of its module, through a pod port (R257), or through the host port
(R478). -/
inductive Route where
  | here | pod | host
deriving DecidableEq, Repr

def State.coreOf (s : State) (b : Nat) : Nat := (s.block? b).elim 0 (·.core)

def State.routeOf (s : State) (o : Op) (e : Elem) : Route :=
  if inHost e.pa then .host
  else if paModule e.pa = tarnModule (coreTarn (s.coreOf o.blk)) then .here else .pod

/-- An element of an operation came to its home by a stamped request (R264). -/
def State.stampedFor (s : State) (o : Op) (e : Elem) : Bool :=
  s.routeOf o e == .here && coreTarn (s.coreOf o.blk) != lineHome (lineOf e.pa)

/-- Change the elements of an operation that satisfy a condition. -/
def State.mapElems (s : State) (id : Nat) (p : Elem → Bool) (f : Elem → Elem) : State :=
  match s.op? id with
  | some o => s.setOp id { o with elems := o.elems.map fun e => if p e then f e else e }
  | none => s

/-- The same element of an operation: its lane and place. -/
def Elem.same (a b : Elem) : Bool := a.lane == b.lane && a.pa == b.pa && a.size == b.size

/-- An element fails where its line is served (R205): its lane's effect is left out, and the lowest failing lane is reported. -/
def State.failElem (s : State) (id : Nat) (e : Elem) (cause : Nat) : State :=
  match (s.mapElems id e.same fun x => { x with st := 4 }).op? id with
  | some o =>
    s.setOp id { o with bad := match o.bad with
      | some (k, l, a) => if l ≤ e.lane then some (k, l, a) else some (cause, e.lane, e.va)
      | none => some (cause, e.lane, e.va) }
  | none => s

/-- A read element has its value: its threads observe the writes it met. -/
def State.capture (s : State) (id : Nat) (e : Elem) (v : Nat) : State :=
  let s := s.mapElems id e.same fun x => { x with r := BitVec.ofNat 64 v, st := 3 }
  match s.op? id with | some o => (s.noteMet id o e).observe o e | none => s

/-- The elements of an operation on a line that may act now: to be done, cached in this module, and behind the earlier
accesses of their threads. -/
def State.lineElems (s : State) (o : Op) (ln : Nat) : List Elem :=
  o.elems.filter fun e => e.st == 0 && lineOf e.pa == ln && s.routeOf o e == .here && s.laneClear o e

/-! ### Requests whose home is offline (R456) -/

/-- An unsent request whose home is offline is held (R456): the requester's supervisor takes one HOME-OFFLINE trap; at the limit in
HOFF, or at once without one, the task ends. -/
def State.holdUnsent (s : State) (id : Nat) (o : Op) (e : Elem) : State :=
  let T := s.tarn (coreTarn (s.coreOf o.blk))
  let over_ : State :=
    ((s.finishOp id).mapLanes o.blk o.q (List.range 32) fun _ t =>
      if t.wait == Wait.work id || t.wait == Wait.waitx id then { t with wait := .none } else t).faultAt o.blk o.q o.clause o.widx
        causeHomeOffline 0 e.lane e.va
  match o.since with
  | some k => if T.hoffEn && decide (s.clk < k + T.hoffMs * clkPerMs) then s else over_
  | none =>
    if !T.hoffEn then over_
    else
      let ident := match s.block? o.blk with | some B => identOf B o.q e.lane | none => 0#32
      (s.setOp id { o with since := some s.clk }).postTrap (coreTarn (s.coreOf o.blk)) { kind := 3, cause := causeHomeOffline, addr := e.va, ident, blk := some o.blk }

/-! ### Issue of a global access -/

/-- A global access by the issuing group: the checks of R205 on the participants, the homes that are offline (R456), then
what the instruction does with the accesses that go. -/
def globalAccess (s : State) (c : Ctx) (ls : List Nat) (ea : Nat → BitVec 64) (n align : Nat) (write : Bool)
    (attr : Xlat → Option Nat) (f : State → List Acc → State) : Out :=
  match s.checkAccess c ls ea n align write attr with
  | .wait s => .next s
  | .fault s => .next s
  | .ok s accs =>
    if s.trapsFull c accs then .next (s.stall c)
    else let r := s.holdOffline c accs; .next (f r.1 r.2)

/-- ATTR and aperture checks of an access that may not reach the host aperture (R204, R478). -/
def noHost (x : Xlat) : Option Nat :=
  if x.cell then some causeCellAccess else if inHost (x.pa x.va) then some causeLease else none

/-- Address pair plus offset of a lane (R209). -/
def addrOf (c : Ctx) (w : W2) (l : Nat) : BitVec 64 := effAddr ((c.thread l).getPair w.a.toNat) (opOff c.Q (c.thread l) w)

/-- The registers a result of a width writes (R45). -/
def destRegs (d : BitVec 7) (wide : Bool) : List Nat := if wide then [d.toNat, d.toNat + 1] else [d.toNat]

/-- The thread waits at its acquire until the reading operation has its value (R524). -/
def State.holdAcquire (s : State) (c : Ctx) (ls : List Nat) (acq id : Nat) : State :=
  if acq = 0 then s else s.mapLanes c.b c.q ls fun _ t => { t with acq := some id }

/-- LD (R209). -/
def execLd (w : W2) (s : State) : Out :=
  match s.ctx? with
  | none => .next s
  | some c =>
    let n := tyBytes (tyOf w)
    let acq := if w.x.sub.getLsbD 0 then w.x.scope.toNat else 0
    globalAccess s c (c.participants w.p false) (addrOf c w) n n false noCell fun s accs =>
      let ls := accs.map (·.lane)
      let o : Op := { c.op .load (.ld w) (laneMask ls) (c.flag w.n) with
        holdV := destRegs w.d (n == 8), acq
        elems := accs.map fun a => { lane := a.lane, va := a.ea, pa := a.pa, size := n, te := a.x.te } }
      (s.issueStep c 2 (s.stampOrder c.Q o)).holdAcquire c ls acq s.next

/-- ST (R209): with cache code 3, SUB is the reader count and there is no release (R208). -/
def execSt (w : W2) (s : State) : Out :=
  match s.ctx? with
  | none => .next s
  | some c =>
    let n := tyBytes (tyOf w)
    let rel := if w.x.cache != 3#2 && w.x.sub.getLsbD 0 then w.x.scope.toNat else 0
    globalAccess s c (c.participants w.p w.n) (addrOf c w) n n true noCell fun s accs =>
      let o : Op := { c.op .store (.st w) (laneMask (accs.map (·.lane))) 15 with
        rel
        elems := accs.map fun a =>
          { lane := a.lane, va := a.ea, pa := a.pa, size := n, te := a.x.te, st := if inHost a.pa && rel == 0 then 1 else 0
            x := BitVec.ofNat 64 ((c.thread a.lane).rd (n == 8) w.d) } }
      s.issueStep c 2 (s.stampOrder c.Q o)

/-- TAGLD (R231): on a page with TE = 0 it returns 0 and reads nothing. -/
def execTagld (w : W2) (s : State) : Out :=
  match s.ctx? with
  | none => .next s
  | some c =>
    globalAccess s c (c.participants w.p false) (addrOf c w) 1 1 false noHost fun s accs =>
      let o : Op := { c.op .load (.tagld w) (laneMask (accs.map (·.lane))) (c.flag w.n) with
        holdV := [w.d.toNat]
        elems := accs.map fun a => { lane := a.lane, va := a.ea, pa := a.pa / 32 * 32, size := 32, st := if a.x.te then 0 else 3 } }
      s.issueStep c 2 (s.stampOrder c.Q o)

/-- TAGST (R231): a store to the granule; on a page with TE = 0 it has no effect. -/
def execTagst (w : W2) (s : State) : Out :=
  match s.ctx? with
  | none => .next s
  | some c =>
    globalAccess s c (c.participants w.p w.n) (addrOf c w) 1 1 true noHost fun s accs =>
      let accs := accs.filter fun a => a.x.te
      let o : Op := { c.op .tagSt (.tagst w) (laneMask (accs.map (·.lane))) 15 with
        elems := accs.map fun a =>
          { lane := a.lane, va := a.ea, pa := a.pa / 32 * 32, size := 32, x := BitVec.ofNat 64 ((c.thread a.lane).rd false w.d % 16) } }
      s.issueStep c 2 (s.stampOrder c.Q o)

/-- PREF (R228): never faults; a participant whose address fails a check, or whose line's home is offline (log 109), has its
prefetch dropped. -/
def execPref (w : W2) (s : State) : Out :=
  match s.ctx? with
  | none => .next s
  | some c =>
    let ls := (c.participants w.p w.n).filter fun l => c.B.mayAccess false (addrOf c w l).toNat 1
    let part := s.partOf c.B
    match s.missing c.B.core part (ls.map fun l => (addrOf c w l).toNat) with
    | p :: ps => .next ((s.queueWalks c.B.core (p :: ps)).stall c)
    | [] =>
      let es := ls.filterMap fun l =>
        let ea := addrOf c w l
        match s.xlate c.B.core part (!c.B.sup) false false ea.toNat with
        | .ok x =>
          let pa := x.pa ea.toNat
          if x.cell || inHost pa || paModule pa != tarnModule (coreTarn c.B.core) || s.homeOffline pa then none
          else some { lane := l, va := ea, pa, size := 1, te := x.te : Elem }
        | .error _ => none
      let s1 := s.dropNoXlat c.B.core (ls.map fun l => (addrOf c w l).toNat)
      let s1 := ls.foldl (fun s l => s.touchTlb c.B.core part (addrOf c w l).toNat) s1
      .next (s1.issueStep c 2 { c.op .fetch (.pref w) (laneMask (es.map (·.lane))) 15 with elems := es })

/-- CCTL (R229): a lease of either mode; one act on the line of each participant's address. -/
def execCctl (w : W2) (s : State) : Out :=
  match s.ctx? with
  | none => .next s
  | some c =>
    globalAccess s c (c.participants w.p false) (addrOf c w) 1 1 false noHost fun s accs =>
      let o : Op := { c.op .cctl (.cctl w) (laneMask (accs.map (·.lane))) (c.flag w.n) with
        elems := accs.map fun a => { lane := a.lane, va := a.ea, pa := a.pa, size := 1 } }
      s.issueStep c 2 (s.stampOrder c.Q o)

/-- A log entry as its 32 bytes (R467). -/
def entryBytes (e : LogEntry) : List Byte :=
  leBytes 32 (e.pa % 2 ^ 56 + 2 ^ 114 * (e.pc % 64) + 2 ^ 120 * (e.slot % 16) + 2 ^ 124 * (e.kind % 16) + 2 ^ 128 * (e.bytes % 256) +
    2 ^ 136 * (e.count % 256) + 2 ^ 192 * (e.time % 2 ^ 64))

/-- The control range as the supervisor core reads it (R478): the array log at 0x000 and the transfer log at 0x200 of each
tarn's block, place by place (log 16); none elsewhere. -/
def State.controlRead (s : State) (pa n : Nat) : Option Nat :=
  let t := paModule pa * 12 + (paLow pa - 0xF00000000000) / 2 ^ 36
  let o := paLow pa % 2 ^ 36
  if (paLow pa - 0xF00000000000) / 2 ^ 36 < 12 ∧ o + n ≤ 0x400 then
    let img (l : ErrorLog) : List Byte := ((l.entries.map entryBytes).flatten ++ List.replicate 512 0#8).take 512
    some (leNat (((img (s.tarn t).alog ++ img (s.tarn t).tlog).drop o).take n))
  else none

/-- The address of a GLD (R142). -/
def gldAddr (c : Ctx) (w : W2) : BitVec 64 :=
  effAddr (c.Q.getGPair w.a.toNat) (opBG c.Q w false (ofInt 32 (immSigned w.x.imm20)))

/-- GLD (R142): one load for the issuing group; a supervisor core also reads the control range with it (R478). -/
def execGld (w : W2) (s : State) : Out :=
  match s.ctx? with
  | none => .next s
  | some c =>
    let n := tyBytes (tyOf w)
    let ls := c.uniform w.p false
    match s.checkAccess c (ls.take 1) (fun _ => gldAddr c w) n n false noCell with
    | .wait s => .next s
    | .fault s => .next s
    | .ok s accs =>
      if s.trapsFull c accs then .next (s.stall c) else
      let r := s.holdOffline c (accs.flatMap fun a => ls.map fun l => { a with lane := l })
      match r.2.take 1 with
      | [] => .next (r.1.advance c 2)
      | a :: _ =>
        let e : Elem := { lane := a.lane, va := a.ea, pa := a.pa, size := n, te := a.x.te }
        let o : Op := { c.op .load (.gld w) (laneMask ls) (c.flag w.n) with holdG := destRegs w.d (n == 8), elems := [e] }
        if c.B.sup && decide (0xF00000000000 ≤ paLow a.pa ∧ paLow a.pa < 0xF80000000000) then
          match r.1.controlRead a.pa n with
          | some v => .next (r.1.issueStep c 2 { o with elems := [{ e with st := 3, r := BitVec.ofNat 64 v }] })
          | none => .fault .controlRange
        else .next (r.1.issueStep c 2 (r.1.stampOrder c.Q o))

/-! ### At a slice -/

/-- The bytes of some elements of a line. -/
def elemMask (es : List Elem) : BitVec 64 := es.foldl (fun m e => m ||| byteMask (e.pa % 64) e.size) 0#64

/-- The lowest and highest word of a sector that an access needs: the line for an L1 fill, else the smallest run (R266). -/
def runOf (bypass : Bool) (ln : Nat) (m : BitVec 64) : Nat × Nat :=
  if bypass then maskWords ln m else (ln % 4 * 16, ln % 4 * 16 + 15)

/-- Whether a tarn holds a line that it wrote whole and whose bytes have not reached the home yet. -/
def State.wroteWhole (s : State) (t ln : Nat) : Bool :=
  ((s.clean t ln).slice t ln).dirty == BitVec.allOnes 64 || s.ring.any fun r =>
    match r.2.req with
    | .writeBack u l m _ => u == t && l == ln && m == BitVec.allOnes 64
    | _ => false

/-- Whether an access of a tarn meets a line as poisoned: a write of all its 64 bytes ends that for the writer at once, and for
the others when the bytes reach the home (R470). -/
def State.poisonedFor (s : State) (t ln : Nat) : Bool := s.isPoisoned ln && (s.lineRetired ln || !s.wroteWhole t ln)

/-- Serve read elements of one line at a tarn: each fails where the line is bad or a tag differs (R205), else it gets its value. -/
def State.serveChecked (s : State) (t : Nat) (bad : Bool) (id : Nat) (es : List Elem) (val : Elem → Nat) : State :=
  es.foldl (fun s e =>
    if bad then s.failElem id e causePoison
    else if !s.tagsMatch t e.te e.va e.pa e.size then s.failElem id e causeTag
    else s.capture id e (val e)) s

/-- Serve read elements of one line at its home.  `val` reads the bytes of an element. -/
def State.serveReads (s : State) (id ln : Nat) (es : List Elem) (val : Elem → Nat) : State :=
  s.serveChecked (lineHome ln) (s.isPoisoned ln) id es val

/-- The elements of an operation that go to the slice of one of them together, in lane order, once none of them must wait: they take
consecutive places there (R287, R297, R317). -/
def State.sliceGroup (s : State) (o : Op) (e : Elem) : List Elem :=
  let es := o.elems.filter fun x => x.st == 0 && springOf x.pa == springOf e.pa && paModule x.pa == paModule e.pa && !inHost x.pa
  if es.all (s.laneClear o) then es else []

/-- Put the accesses of some elements of remote lines of one slice on the ring as one request; the tarn's own dirty bytes of the
lines go ahead of it (R264, R283).  While an earlier request of the operation for a line is on its way, they wait for it (log
94). -/
def State.sendAccess (s : State) (id t ln : Nat) (es : List Elem) : State :=
  let lines := (es.map fun e => lineOf e.pa).eraseDups
  let sent := (s.op? id).elim false fun o => o.elems.any fun e => e.st == 1 && lines.contains (lineOf e.pa)
  match es with
  | [] => s
  | e :: _ =>
    if sent then s
    else
      let s := lines.foldl (fun s l => s.sendWriteBack t l) s
      (s.mapElems id (fun x => es.any x.same) fun x => { x with st := 1 }).send (lineHome ln) (.access id e.lane)

/-- A load at a slice (R211, R260, R266): from the L1 after a fill, or past it; a word of a remote line that the tarn does not
hold is asked of the home, and the elements wait as sent.  `GLD` misses take no L1 line. -/
def State.sliceLoad (s : State) (id : Nat) (o : Op) (ln : Nat) (es : List Elem) : State :=
  let c := s.coreOf o.blk
  let t := coreTarn c
  match o.ins with
  | .tagld _ => if t = lineHome ln then s.serveReads id ln es fun e => s.tagOf e.pa else s.sendAccess id t ln es
  | _ =>
    let m := elemMask es
    let past := s.pastL1 o
    let bad := s.poisonedFor t ln
    let s := if o.bypass then s.evictL1 c ln else s
    let ask (s : State) : State :=
      let run := runOf past ln m
      (s.mapElems id (fun e => es.any e.same) fun e => { e with st := 1 }).send (lineHome ln) (.spanRead t (ln / 4) run.1 run.2 [.op id])
    if past then
      if t = lineHome ln then
        let s := (s.clean t ln).bringHome ln (cacheOf o.ins == 2)
        (s.serveReads id ln es fun e => takeData (s.homeData ln) (e.pa % 64) e.size).countRead ln
      else if s.guestHas t ln m then
        let s := s.clean t ln
        s.serveChecked t bad id es fun e => takeData (s.slice t ln).data (e.pa % 64) e.size
      else ask s
    else match s.fill c ln m (cacheOf o.ins == 2) with
      | some s => s.serveChecked t bad id es fun e => (s.l1Value c e).getD 0
      | none => ask s

/-- The words of a span read have come (R266, R271): the elements of a load or a prefetch that waited for them are served. -/
def State.serveLoad (s : State) (id : Nat) (o : Op) (sec : Nat) : State :=
  (List.range 4).foldl (fun s j =>
    let ln := sec * 4 + j
    let es := o.elems.filter fun e => e.st == 1 && lineOf e.pa == ln
    if es.isEmpty then s
    else if o.kind == OpKind.load then s.sliceLoad id o ln es
    else
      match s.fill (s.coreOf o.blk) ln (elemMask es) (cacheOf o.ins == 2) with
      | some s => s.mapElems id (fun e => es.any e.same) fun e => { e with st := 3 }
      | none => s) s

/-- The data of some stores of one line, the higher lane last (R210). -/
def storeData (es : List Elem) : BitVec 64 × BitVec 512 :=
  es.foldl (fun a e =>
    let m := byteMask (e.pa % 64) e.size
    (a.1 ||| m, overlay a.2 (placeData (e.pa % 64) (e.x.toNat % 2 ^ (8 * e.size))) m)) (0#64, 0#512)

/-- The store elements of a line that pass the checks made at the tarn where the line is served (R205): a write of part of a poisoned line
fails, and so does one whose tag does not match. -/
def State.goodStores (s : State) (t : Nat) (bad : Bool) (id ln : Nat) (es : List Elem) : State × List Elem :=
  let poisoned := bad && (elemMask es != BitVec.allOnes 64 || s.lineRetired ln)
  es.foldl (fun a e =>
    if poisoned then (a.1.failElem id e causePoison, a.2)
    else if !s.tagsMatch t e.te e.va e.pa e.size then (a.1.failElem id e causeTag, a.2)
    else (a.1, a.2 ++ [e])) (s, [])

/-- A store at a slice (R209, R211, R212, R260): into the L1, or past it to the home slice. -/
def State.sliceStore (s : State) (id : Nat) (o : Op) (ln : Nat) (es : List Elem) : State :=
  let c := s.coreOf o.blk
  let t := coreTarn c
  let mark (s : State) (es : List Elem) (done : Bool) : State :=
    s.mapElems id (fun e => es.any e.same) fun e => { e with st := if done then 3 else 2 }
  if cacheOf o.ins = 3 ∨ s.pastL1 o = true then
    let s := s.evictL1 c ln
    if t = lineHome ln then
      let g := s.goodStores t (s.isPoisoned ln) id ln es
      if g.2.isEmpty then g.1 else
      let d := storeData g.2
      let r := g.1.homeWrite ln d.1 d.2 (rcOf o.ins) false
      mark r.1 g.2 r.2
    else s.sendAccess id t ln es
  else
    let g := s.goodStores t (s.poisonedFor t ln) id ln es
    if g.2.isEmpty then g.1 else
    let d := storeData g.2
    let r := g.1.storeL1 c ln d.1 d.2 (cacheOf o.ins == 2)
    mark r.1 g.2 r.2

/-- Stores that act at their home by a stamped or a pod request (R264, R307). -/
def State.homeStore (s : State) (id : Nat) (o : Op) (ln : Nat) (es : List Elem) (stamped : Bool) : State :=
  let g := s.goodStores (lineHome ln) (s.isPoisoned ln) id ln es
  if g.2.isEmpty then g.1 else
  let d := storeData g.2
  let r := g.1.homeWrite ln d.1 d.2 (rcOf o.ins) stamped
  r.1.mapElems id (fun e => g.2.any e.same) fun e => { e with st := if r.2 then 3 else 2 }

/-- Tag writes at their home (R231, R268): the last lane's tag stands; spans of the granule are lost. -/
def State.homeTags (s : State) (id ln : Nat) (es : List Elem) (stamped : Bool) : State :=
  es.foldl (fun s e =>
    if s.isPoisoned ln then s.failElem id e causePoison
    else
      let tag (s : State) (ln : Nat) : State := (s.setTag (ln * 64 + e.pa % 64) (e.x.toNat % 16)).dropCount ln
      let s := (s.copiesOf ln).foldl tag (tag s ln)
      let m := byteMask (e.pa % 64) 32
      if stamped then
        (s.dropSpans ln m 0xFFFFFF).mapElems id e.same fun e => { e with st := 3 }
      else
        let r := s.ownInval ln m
        r.1.mapElems id e.same fun e => { e with st := if r.2 then 3 else 2 }) s

/-- A prefetch at a slice (R228): into the L1, or with `.tc` into the home tarn cache; dropped where the line fails its
checks. -/
def State.slicePref (s : State) (id : Nat) (o : Op) (ln : Nat) (es : List Elem) : State :=
  let c := s.coreOf o.blk
  let t := coreTarn c
  let good := es.filter fun e => !s.isPoisoned ln && s.tagsMatch t e.te e.va e.pa 1
  let s := s.mapElems id (fun e => es.any e.same && !good.any e.same) fun e => { e with st := 3 }
  let mark (s : State) (k : Nat) : State := s.mapElems id (fun e => good.any e.same) fun e => { e with st := k }
  if good.isEmpty then s
  else if s.pastL1 o then
    let s := s.evictL1 c ln
    if t = lineHome ln then mark (s.bringHome ln) 3 else s.sendAccess id t ln good
  else match s.fill c ln (elemMask good) (cacheOf o.ins == 2) with
    | some s => mark s 3
    | none => (mark s 1).send (lineHome ln) (.spanRead t (ln / 4) (ln % 4 * 16) (ln % 4 * 16 + 15) [.op id])

/-- The home writes the dirty bytes that its tarn holds of a line to DRAM; every copy stays valid and becomes clean (R229). -/
def State.cleanHome (s : State) (ln : Nat) : State :=
  let h := lineHome ln
  let s := s.clean h ln
  let l := s.slice h ln
  if l.dirty = 0#64 then s
  else (s.setLine ln (overlay (s.memLine ln) l.data l.valid)).putSlice h ln { l with dirty := 0#64 }

/-- The guest tarns of a line's module send their dirty bytes of it home (R229, R269). -/
def State.callBack (s : State) (ln : Nat) : State :=
  (List.range 12).foldl (fun s u => s.sendWriteBack (tarnModule (lineHome ln) * 12 + u) ln) s

/-- A write-back of a line is on its way home. -/
def State.backUnderWay (s : State) (ln : Nat) : Bool :=
  s.ring.any fun r => match r.2.req with | .writeBack _ l _ _ => l == ln | _ => false

/-- The cores of the instance of a scope that holds a core (R13). -/
def scopeCores (sc core : Nat) : List Nat :=
  let t := coreTarn core
  if sc ≤ 2 then [core]
  else if sc = 3 then (List.range 4).map fun k => t * 25 + coreNum core / 4 * 4 + k
  else if sc = 4 then (List.range 25).map fun k => t * 25 + k
  else ((List.range 12).map fun u => (List.range 25).map fun k => (tarnModule t * 12 + u) * 25 + k).flatten

/-- CCTL `.clean` at a line's home (R229): every guest's dirty bytes come back, then the home's go to DRAM. -/
def State.cctlClean (s : State) (id ln : Nat) (es : List Elem) : State :=
  let s := s.callBack ln
  let mark (s : State) (k : Nat) : State := s.mapElems id (fun e => es.any e.same) fun e => { e with st := k }
  if s.backUnderWay ln then mark s 7 else mark (s.cleanHome ln) 3

/-- CCTL at a slice (R229).  `.span` gives the tarn's span up on both sides (log 15); it waits for its write-backs. -/
def State.sliceCctl (s : State) (id : Nat) (o : Op) (ln : Nat) (es : List Elem) : State :=
  let c := s.coreOf o.blk
  let t := coreTarn c
  let w := w2Of o.ins
  let mark (s : State) (k : Nat) : State := s.mapElems id (fun e => es.any e.same) fun e => { e with st := k }
  match w.x.sub.toNat % 4 with
  | 0 => if t = lineHome ln then s.cctlClean id ln es else s.sendAccess id t ln es
  | 1 => mark (s.evictL1 c ln) 3
  | 2 => mark ((scopeCores w.x.scope.toNat c).foldl (fun s k =>
      s.updCore k fun C => { C with icache := C.icache.filter fun e => e.1 != ln }) s) 3
  | _ =>
    let s := s.evictL1 c ln
    if t = lineHome ln then mark s 3
    else
      let sec := ln / 4
      let s := (List.range 4).foldl (fun s j => s.sendWriteBack t (sec * 4 + j)) s
      let s := s.dropSpan sec (t % 12)
      let busy := s.ring.any fun r => match r.2.req with | .writeBack u l _ _ => u == t && l / 4 == sec | _ => false
      mark s (if busy then 1 else 3)

/-- A CCTL `.span` whose write-backs have all been performed is done; a `.clean` then writes the line to DRAM. -/
def State.cctlDone (s : State) : State :=
  s.ops.foldl (fun s (x : Nat × Op) =>
    if x.2.kind != OpKind.cctl then s
    else
      let t := coreTarn (s.coreOf x.2.blk)
      let span := (w2Of x.2.ins).x.sub.toNat % 4 == 3
      x.2.elems.foldl (fun s e =>
        let ln := lineOf e.pa
        if e.st = 1 ∧ span = true ∧ !(s.ring.any fun r => match r.2.req with | .writeBack u l _ _ => u == t && l / 4 == sectorOf e.pa | _ => false)
        then s.mapElems x.1 e.same fun e => { e with st := 3 }
        else if e.st = 7 ∧ !(s.backUnderWay ln) then (s.cleanHome ln).mapElems x.1 e.same fun e => { e with st := 3 }
        else s) s) s

/-! ### Completion of reads -/

/-- Sign- or zero-extension of a loaded value (R209). -/
def extendLoad (ty v : Nat) : Nat :=
  match ty with | 1 => ofInt 32 (toSigned 8 v) | 2 => ofInt 32 (toSigned 16 v) | _ => v

/-- A read's results are written: of a GLD to the quire's G register, else to each lane's destination. -/
def State.writeRead (s : State) (o : Op) : State :=
  let w := w2Of o.ins
  let live := s.opLanes o
  match o.ins with
  | .gld _ =>
    match o.elems with
    | e :: _ =>
      if o.drop || e.st != 3 then s
      else s.updQuire o.blk o.q fun Q => Q.wr (tyBytes (tyOf w) == 8) w.d (extendLoad (tyOf w) e.r.toNat)
    | [] => s
  | _ =>
    o.elems.foldl (fun s e =>
      if o.holdV.isEmpty || e.st != 3 || !live.contains e.lane then s
      else s.updThread o.blk o.q e.lane fun t =>
        t.wr (!o.holdV.isEmpty && o.holdV.length == 2) w.d
          (match o.kind with | .atom | .poolAtom => e.r.toNat | _ => extendLoad (tyOf w) e.r.toNat)) s

/-- A read is complete: its results are written, its acquire ends, its flag goes down, and a fault it met ends the task
(R50, R205, R524). -/
def State.completeRead (s : State) (id : Nat) : State :=
  match s.op? id with
  | none => s
  | some o =>
    let s := s.writeRead o
    let s := if o.acq = 0 then s
      else s.mapLanes o.blk o.q (laneList o.lanes) fun _ t => if t.acq == some id then { t with acq := none } else t
    s.settle id

/-- Loads that hit in their core's L1 take their values there (R210, R31). -/
def State.l1Hits (s : State) (id : Nat) (o : Op) : State :=
  if o.bypass || o.kind != OpKind.load then s else
  match o.ins with
  | .tagld _ => s
  | _ =>
    o.elems.foldl (fun s e =>
      if e.st != 0 || s.routeOf o e != .here || !s.clearToAct o e then s
      else match s.l1Value (s.coreOf o.blk) e with
        | some v =>
          let c := s.coreOf o.blk
          (s.touchL1 c (lineOf e.pa) (cacheOf o.ins == 2)).serveChecked (coreTarn c) (s.poisonedFor (coreTarn c) (lineOf e.pa)) id [e] fun _ => v
        | none => s) s

/-! ### Scratchpad and pool -/

/-- Whether an access of n bytes at an offset of a side touches the rectangle of a tile (R222). -/
def tileTouches (T : Tile) (o n : Nat) : Bool :=
  let row0 := bits T.desc.toNat 8 0
  let col0 := bits T.desc.toNat 15 9
  let rows := bits T.desc.toNat 25 16
  let wcols := bits T.desc.toNat 32 26
  (List.range (n / 4 + 1)).any fun i =>
    let g := (o + min (4 * i) (n - 1)) / 4
    decide (row0 ≤ g / 96 ∧ g / 96 < row0 + rows ∧ col0 ≤ g % 96 ∧ g % 96 < col0 + wcols)

/-- A tile in FILLING, or for a write also in DRAINING, forbids an access (R222). -/
def Side.forbids (S : Side) (write : Bool) (o n : Nat) : Bool :=
  S.tiles.any fun e => (e.2.st == 1 || (write && e.2.st == 3)) && tileTouches e.2 o n

/-- The lane fault of a scratchpad access, if any (R215): cause and offset. -/
def scratchBad (B : Block) (S : Side) (write : Bool) (o : Int) (n : Nat) : Option Nat :=
  if o < 0 ∨ (B.scratch : Int) < o + n then some 1
  else if o.toNat % n != 0 then some 2
  else if S.forbids write o.toNat n then some 4
  else none

/-- Switch off each failing lane in turn, the lowest first. -/
def State.laneFaults (s : State) (c : Ctx) (bad : List (Nat × Nat × Nat)) : State :=
  bad.foldl (fun s x => s.laneFault c.b c.q [x.1] x.2.1 x.2.2) s

/-- Scratchpad or pool offset of a lane: N(V(A)) plus operand b as I32, exact (R215). -/
def offsetOf (c : Ctx) (w : W2) (l : Nat) : Int :=
  ((c.thread l).rd false w.a : Int) + toSigned 32 (opOff c.Q (c.thread l) w)

/-- A read that has its values at issue observes the writes it meets (R237, R238). -/
def State.observeAll (s : State) (o : Op) : State := o.elems.foldl (fun s e => s.observe o e) s

/-- A scratchpad or pool write, performed at once, is kept only while what happens before it is outstanding (R236 to
R238). -/
def State.keepWrite (s : State) (Q : Quire) (o : Op) : State :=
  let o := s.stampOrder Q o
  if o.covers.isEmpty && o.prior.isEmpty then s else s.newOp o

/-- An earlier scratchpad atomic of some lanes, still held back, touches bytes that are to be accessed (R235). -/
def State.scratchBusy (s : State) (c : Ctx) (xs : List (Nat × Nat)) (n : Nat) : Bool :=
  s.ops.any fun x => x.2.kind == .lds && x.2.blk == c.b && x.2.q == c.q &&
    x.2.elems.any fun e => e.st == 0 && xs.any fun y => y.1 == e.lane && decide (e.pa < y.2 + n) && decide (y.2 < e.pa + e.size)

/-- The participants of a scratchpad access that may go, with their offsets, and those that fail, with cause and offset; an STS
to a read-only word of the ring header fails (R366). -/
def scratchSplit (s : State) (c : Ctx) (ls : List Nat) (off : Nat → Int) (n : Nat) (write : Bool) (sts : Bool := false) :
    List (Nat × Nat) × List (Nat × Nat × Nat) :=
  let S := c.B.sideOf s
  let readOnly (o : Int) : Bool := sts && c.B.ring != 0 && decide (o < 16 ∧ 4 < o + n)
  ls.foldl (fun a l =>
    match scratchBad c.B S write (off l) n <|> (if readOnly (off l) then some 4 else none) with
    | some k => (a.1, a.2 ++ [(l, k, ofInt 32 (off l))])
    | none => (a.1 ++ [(l, (off l).toNat)], a.2)) ([], [])

/-- A thread's write leaves the ring header's read-only words and its reserved ones as they are (R6, R7, R366). -/
def Block.keepHeader (B : Block) (old new : List Host.Cell) : List Host.Cell :=
  if B.ring = 0 then new else writeBytes new 4 (readBytes old 4 60)

/-- Threads that read a ring's completion word meet the releases of the completions it counts, with an acquire if the read is one
(R247). -/
def State.meetDone (s : State) (c : Ctx) (ring acq : Nat) (ls : List Nat) : State :=
  let rs := (c.B.doneRel.filter fun r => r.1 == ring && (s.op? r.2.2).isSome).map fun r => (r.2.1, enginePlace c.B.core, r.2.2)
  if rs.isEmpty then s else s.mapLanes c.b c.q ls fun _ t => t.meet acq (threadPlace c.B.core c.q) [] rs

/-- Threads that read the declared ring's completion word, or a status pair, meet the releases of its completions (R247, R366,
R375). -/
def State.meetStatus (s : State) (c : Ctx) (xs : List (Nat × Nat)) (n : Nat) : State :=
  if c.B.ring = 0 then s
  else
    let at_ (o k : Nat) : List Nat := (xs.filter fun x => decide (x.2 < o + k) && decide (o < x.2 + n)).map (·.1)
    c.B.statRel.foldl (fun s r =>
      if (s.op? r.2.2).isNone || (at_ r.1 8).isEmpty then s
      else s.mapLanes c.b c.q (at_ r.1 8) fun _ t => t.meet 0 (threadPlace c.B.core c.q) [] [(r.2.1, enginePlace c.B.core, r.2.2)])
      (s.meetDone c 1 0 (at_ 4 4))

/-- LDS (R215): the bytes are read as it issues, and the destination is written at its completion (log 14). -/
def execLds (w : W2) (s : State) : Out :=
  match s.ctx? with
  | none => .next s
  | some c =>
    let n := tyBytes (tyOf w)
    let r := scratchSplit s c (c.participants w.p false) (offsetOf c w) n false
    if s.scratchBusy c r.1 n then .next (s.stall c)
    else
      let m := (c.B.sideOf s).bytes
      let o : Op := { c.op .lds (.lds w) (laneMask (r.1.map (·.1))) (c.flag w.n) with
        holdV := destRegs w.d (n == 8)
        elems := r.1.map fun x =>
          { lane := x.1, va := 0#64, pa := x.2, size := n, st := 3, r := BitVec.ofNat 64 (readLE m x.2 n) } }
      .next ((((s.issueStep c 2 o).observeAll o).meetStatus c r.1 n).laneFaults c r.2)

/-- STS (R215): the higher lane's bytes stand (R210). -/
def execSts (w : W2) (s : State) : Out :=
  match s.ctx? with
  | none => .next s
  | some c =>
    let n := tyBytes (tyOf w)
    let r := scratchSplit s c (c.participants w.p w.n) (offsetOf c w) n true true
    if s.scratchBusy c r.1 n then .next (s.stall c)
    else
      let s := s.updSide c.B fun S =>
        { S with bytes := c.B.keepHeader S.bytes (r.1.foldl (fun m x => writeLE m x.2 n ((c.thread x.1).rd (n == 8) w.d)) S.bytes) }
      let o : Op := { c.op .sts (.sts w) (laneMask (r.1.map (·.1))) 15 with
        elems := r.1.map fun x => { lane := x.1, va := 0#64, pa := x.2, size := n, st := 3 } }
      .next (((s.keepWrite c.Q o).advance c 2).laneFaults c r.2)

/-- The pool of a tarn holds 2^25 bytes (R223). -/
def poolSize : Nat := 2 ^ 25

/-- The checks of a pool access (R223, R289): the lowest failing lane with its cause. -/
def poolBad (ls : List Nat) (off : Nat → Int) (n align : Nat) : Option (Nat × Nat) :=
  (ls.filterMap fun l =>
    if off l < 0 ∨ (poolSize : Int) < off l + n then some (l, causePoolRange)
    else if (off l).toNat % align != 0 then some (l, causeMisaligned) else none).head?

/-- A pool request that has reached its bank ahead of a new one and is still to be served (R293): pool requests are served in
the order of their arrival, which is that of their issue. -/
def State.poolBusy (s : State) (t : Nat) : Bool :=
  s.ops.any fun x => (x.2.kind == .poolAtom || x.2.kind == .deque) && coreTarn (s.coreOf x.2.blk) == t && s.released x.2 &&
    x.2.elems.any fun e => e.st == 0

/-- The bytes of the pool that an element of a request may touch: its own, and of a deque operation the entries (R292). -/
def State.poolBytes (s : State) (t : Nat) (o : Op) (e : Elem) : List (Nat × Nat) :=
  (e.pa, e.size) :: if o.kind != .deque then [] else
    let m := (s.tarn t).pool
    [(readLE m (e.pa + 8) 4, 8 * 2 ^ min 16 (readLE m (e.pa + 12) 4 % 32))]

/-- An earlier pool request of some lanes, not served yet, touches bytes that are to be accessed (R235). -/
def State.poolConflict (s : State) (c : Ctx) (ls : List Nat) (off : Nat → Int) (n : Nat) : Bool :=
  s.ops.any fun x => (x.2.kind == .poolAtom || x.2.kind == .deque) && x.2.blk == c.b && x.2.q == c.q &&
    x.2.elems.any fun e => e.st == 0 && ls.any fun l => (x.2.lanesOf e).getLsbD l &&
      (s.poolBytes (coreTarn c.B.core) x.2 e).any fun r => decide ((r.1 : Int) < off l + n) && decide (off l < r.1 + r.2)

/-- A pool access of the issuing group: the checks on every participant, then the order of arrival at the banks. -/
def poolAccess (s : State) (c : Ctx) (ls : List Nat) (off : Nat → Int) (n align : Nat) (f : State → State) : Out :=
  match poolBad ls off n align with
  | some (l, k) => .next (s.raise c k 0 l (BitVec.ofInt 64 (off l)))
  | none =>
    if s.poolBusy (coreTarn c.B.core) || s.poolConflict c ls off n then .next (s.stall c) else .next (f s)

/-- LDP (R223). -/
def execLdp (w : W2) (s : State) : Out :=
  match s.ctx? with
  | none => .next s
  | some c =>
    let n := tyBytes (tyOf w)
    let ls := c.participants w.p false
    poolAccess s c ls (offsetOf c w) n n fun s =>
      let m := (s.tarn (coreTarn c.B.core)).pool
      let o : Op := { c.op .ldp (.ldp w) (laneMask ls) (c.flag w.n) with
        holdV := destRegs w.d (n == 8)
        elems := ls.map fun l =>
          { lane := l, va := 0#64, pa := (offsetOf c w l).toNat, size := n, st := 3
            r := BitVec.ofNat 64 (readLE m (offsetOf c w l).toNat n) } }
      (s.issueStep c 2 o).observeAll o

/-- STP (R223). -/
def execStp (w : W2) (s : State) : Out :=
  match s.ctx? with
  | none => .next s
  | some c =>
    let n := tyBytes (tyOf w)
    let ls := c.participants w.p w.n
    poolAccess s c ls (offsetOf c w) n n fun s =>
      let s := s.updTarn (coreTarn c.B.core) fun T =>
        { T with pool := ls.foldl (fun m l => writeLE m (offsetOf c w l).toNat n ((c.thread l).rd (n == 8) w.d)) T.pool }
      let o : Op := { c.op .stp (.stp w) (laneMask ls) 15 with
        elems := ls.map fun l => { lane := l, va := 0#64, pa := (offsetOf c w l).toNat, size := n, st := 3 } }
      (s.keepWrite c.Q o).advance c 2

end Sys2Proof.Machine
end

