-- ==== Sys2Proof/Machine/Num.lean ====
section
/-! DEFINITION. Exact numbers and formats: the floating formats (R148 to R150), rounding and Convert (R157, R158, R163), exact
sums and products rounded once (R182), minimum, maximum and comparison (R185, R186), the transcendentals (R190), CRC-32C
(R156), tile images (R154, R155), block quantisation (R168) and the combining operation of atomics (R280). -/

namespace Sys2Proof.Machine

/-! ### Formats -/

/-- A floating format: exponent and mantissa bits, bias, and whether it has infinities (R148). -/
structure Fmt where
  eb : Nat
  mb : Nat
  bias : Nat
  hasInf : Bool
deriving DecidableEq, Repr

namespace Fmt
def fp32 : Fmt := ⟨8, 23, 127, true⟩
def fp16 : Fmt := ⟨5, 10, 15, true⟩
def bf16 : Fmt := ⟨8, 7, 127, true⟩
def e4m3 : Fmt := ⟨4, 3, 7, false⟩
def e5m2 : Fmt := ⟨5, 2, 15, true⟩

/-- The pattern of the greatest finite magnitude. -/
def maxCode (f : Fmt) : Nat := if f.hasInf then (2 ^ f.eb - 1) * 2 ^ f.mb - 1 else 2 ^ (f.eb + f.mb) - 2
/-- The pattern of +∞, or where the format has none its NaN (R157). -/
def infCode (f : Fmt) : Nat := if f.hasInf then (2 ^ f.eb - 1) * 2 ^ f.mb else 2 ^ (f.eb + f.mb) - 1
/-- The canonical NaN (R148). -/
def nanCode (f : Fmt) : Nat := if f.hasInf then (2 ^ f.eb - 1) * 2 ^ f.mb + 2 ^ (f.mb - 1) else 2 ^ (f.eb + f.mb) - 1
/-- The sign bit. -/
def signBit (f : Fmt) : Nat := 2 ^ (f.eb + f.mb)
end Fmt

/-- The format of a type code (R40); packed types name their elements' format. -/
def fmtOfType (ty : Nat) : Fmt :=
  match ty with
  | 10 => .fp16 | 11 => .bf16 | 12 => .bf16 | 13 => .fp16 | 14 => .e4m3 | 15 => .e5m2 | _ => .fp32

/-- A value: NaN, an infinity, or the exact number (-1)^neg * m * 2^e. -/
inductive Fp where
  | nan
  | inf (neg : Bool)
  | num (neg : Bool) (m : Nat) (e : Int)
deriving DecidableEq, Repr

namespace Fp
def neg : Fp → Fp
  | .nan => .nan
  | .inf n => .inf (!n)
  | .num n m e => .num (!n) m e
def isNan : Fp → Bool | .nan => true | _ => false
def isZero : Fp → Bool | .num _ 0 _ => true | _ => false
def isNeg : Fp → Bool | .nan => false | .inf n => n | .num n _ _ => n
/-- The exact integer that a value scaled by 2^-e denotes, when e is at most its exponent. -/
def scaled (e0 : Int) : Fp → Int
  | .num n m e => let k := (m * 2 ^ (e - e0).toNat : Nat); if n then -(k : Int) else k
  | _ => 0
def expo : Fp → Int | .num _ _ e => e | _ => 0
end Fp

/-- The value of a pattern (R149). -/
def decodeFp (f : Fmt) (x : Nat) : Fp :=
  let n := x / f.signBit % 2 == 1
  let e := x / 2 ^ f.mb % 2 ^ f.eb
  let m := x % 2 ^ f.mb
  if f.hasInf && e == 2 ^ f.eb - 1 then (if m = 0 then .inf n else .nan)
  else if !f.hasInf && x % f.signBit == f.nanCode then .nan
  else if e = 0 then .num n m (1 - (f.bias : Int) - f.mb)
  else .num n (2 ^ f.mb + m) ((e : Int) - f.bias - f.mb)

/-- E8M0 (R150). -/
def decodeScale (x : Nat) : Fp := if x % 256 = 255 then .nan else .num false 1 ((x % 256 : Nat) - 127)

/-! ### Rounding -/

/-- Whether a magnitude between t and t + 1 units rounds up: twice the remainder against the unit, whether t is odd. -/
def roundsUp (mode : Rnd) (neg odd : Bool) (cmpHalf : Ordering) (inexact : Bool) : Bool :=
  match mode with
  | .rne => (match cmpHalf with | .gt => true | .eq => odd | .lt => false)
  | .rz => false
  | .ru => inexact && !neg
  | .rd => inexact && neg

/-- Round m * 2^e (plus less than one unit when `sticky`) to a multiple of 2^q, q > e or the value exact: the multiple. -/
def roundTo (mode : Rnd) (neg : Bool) (m : Nat) (e q : Int) (sticky : Bool) : Nat :=
  if q ≤ e then m * 2 ^ (e - q).toNat
  else
    let k := (q - e).toNat
    let t := m / 2 ^ k
    let r := m % 2 ^ k
    let half := 2 ^ (k - 1)
    let c : Ordering := if half < r then .gt else if r < half then .lt else if sticky then .gt else .eq
    if roundsUp mode neg (t % 2 == 1) c (r != 0 || sticky) then t + 1 else t

/-- The magnitude pattern that a magnitude rounds to at a format's precision with an unbounded exponent (step 4 of R157). -/
def roundMag (f : Fmt) (mode : Rnd) (neg : Bool) (m : Nat) (e : Int) (sticky : Bool) : Nat :=
  let top : Int := e + ilog2 m
  let q : Int := max (top - f.mb) (1 - (f.bias : Int) - f.mb)
  (((q + f.mb + f.bias - 1).toNat) * 2 ^ f.mb) + roundTo mode neg m e q sticky

/-- Steps 4 and 5 of R157. -/
def packMag (f : Fmt) (mode : Rnd) (sat neg : Bool) (c : Nat) : Nat :=
  let s := if neg then f.signBit else 0
  let inf := if f.hasInf then s + f.infCode else f.nanCode
  if c ≤ f.maxCode then s + c
  else if sat then s + f.maxCode
  else match mode, neg with
    | .rne, _ => inf
    | .rz, _ => s + f.maxCode
    | .ru, false => inf
    | .ru, true => s + f.maxCode
    | .rd, false => s + f.maxCode
    | .rd, true => inf

/-- A real given by truncated magnitude and sticky bit, rounded to a format (R157). -/
def roundReal (f : Fmt) (mode : Rnd) (sat neg : Bool) (m : Nat) (e : Int) (sticky : Bool) : Nat :=
  packMag f mode sat neg (roundMag f mode neg m e sticky)

/-- Convert of R157. -/
def convert (f : Fmt) (mode : Rnd) (sat : Bool) (x : Fp) : Nat :=
  match x with
  | .nan => f.nanCode
  | .inf n =>
    let s := if n then f.signBit else 0
    if sat then s + f.maxCode else if f.hasInf then s + f.infCode else f.nanCode
  | .num n m e => if m = 0 then (if n then f.signBit else 0) else roundReal f mode sat n m e false

/-- RoundInt of R158. -/
def roundInt (mode : Rnd) (neg : Bool) (m : Nat) (e : Int) : Int :=
  let t : Int := roundTo mode neg m e 0 false
  if neg then -t else t

/-- floor(log2 |x|) of a non-zero magnitude. -/
def floorLog2 (m : Nat) (e : Int) : Int := e + ilog2 m

/-- Clamp of R158. -/
def clampInt (x lo hi : Int) : Int := min (max x lo) hi

/-- ToScale of R163. -/
def toScale (mode : Rnd) (x : Fp) : Nat :=
  match x with
  | .nan => 255
  | .inf _ => 255
  | .num _ m e =>
    if m = 0 then 0
    else
      let k := floorLog2 m e
      let p := 2 ^ ilog2 m
      let k := match mode with
        | .ru => if p < m then k + 1 else k
        | .rne => if 3 * p ≤ 2 * m then k + 1 else k
        | _ => k
      (clampInt (k + 127) 0 254).toNat

/-! ### Exact arithmetic rounded once -/

/-- An exact product (R182). -/
def mulFp (x y : Fp) : Fp :=
  match x, y with
  | .nan, _ => .nan
  | _, .nan => .nan
  | .inf a, y => if y.isZero then .nan else .inf (a != y.isNeg)
  | x, .inf b => if x.isZero then .nan else .inf (x.isNeg != b)
  | .num a m e, .num b m' e' => .num (a != b) (m * m') (e + e')

/-- An exact sum of finite terms: integer and exponent. -/
def sumFp (ts : List Fp) : Int × Int :=
  let nz := ts.filter fun t => !t.isZero
  let e0 := nz.foldl (fun e t => min e t.expo) ((nz.headD (.num false 0 0)).expo)
  (nz.foldl (fun a t => a + t.scaled e0) 0, e0)

/-- Finish of R182 on the terms of an exact sum, without the `.ftz` of R181. -/
def finishTerms (f : Fmt) (mode : Rnd) (ts : List Fp) : Nat :=
  if ts.any Fp.isNan then f.nanCode
  else
    let pinf := ts.any fun t => t == .inf false
    let ninf := ts.any fun t => t == .inf true
    if pinf && ninf then f.nanCode
    else if pinf then convert f mode false (.inf false)
    else if ninf then convert f mode false (.inf true)
    else
      let r := sumFp ts
      if r.1 = 0 then
        if ts.all fun t => t.isZero && t.isNeg then f.signBit
        else match mode with | .rd => f.signBit | _ => 0
      else convert f mode false (.num (decide (r.1 < 0)) r.1.natAbs r.2)

/-- Replace a subnormal FP32 pattern by the zero of its sign, under `.ftz` (R181). -/
def flush (ftz : Bool) (x : Nat) : Nat :=
  let x := x % 2 ^ 32
  if ftz && x / 2 ^ 23 % 256 == 0 then x / 2 ^ 31 * 2 ^ 31 else x

/-- The sum and product forms of R182 on patterns: z is none for a sum of two or a product. -/
def addBits (f : Fmt) (mode : Rnd) (x y : Nat) : Nat := finishTerms f mode [decodeFp f x, decodeFp f y]
def mulBits (f : Fmt) (mode : Rnd) (x y : Nat) : Nat := finishTerms f mode [mulFp (decodeFp f x) (decodeFp f y)]
def fmaBits (f : Fmt) (mode : Rnd) (x y z : Nat) : Nat :=
  finishTerms f mode [mulFp (decodeFp f x) (decodeFp f y), decodeFp f z]

/-- The order of patterns that are not NaN, with -0 below +0 (R185). -/
def orderKey (f : Fmt) (x : Nat) : Int :=
  let mag := x % f.signBit
  if x / f.signBit % 2 = 1 then -(mag : Int) - 1 else mag

/-- FMIN and FMAX on patterns (R185). -/
def minMaxBits (f : Fmt) (isMax : Bool) (x y : Nat) : Nat :=
  let nx := (decodeFp f x).isNan
  let ny := (decodeFp f y).isNan
  if nx && ny then f.nanCode
  else if nx then y
  else if ny then x
  else if isMax then (if orderKey f x < orderKey f y then y else x)
  else (if orderKey f y < orderKey f x then y else x)

/-- The comparison key of FP32 patterns, with -0 equal to +0; none for NaN (R186). -/
def cmpKey (x : Nat) : Option Int :=
  if (decodeFp .fp32 x).isNan then none
  else some (if x / 2 ^ 31 % 2 = 1 then -((x % 2 ^ 31 : Nat) : Int) else (x % 2 ^ 31 : Nat))

/-- FSET's condition (R186). -/
def fcond (k x y : Nat) : Bool :=
  match cmpKey x, cmpKey y with
  | some a, some b =>
    (match k with
    | 0 => a == b | 1 => a != b | 2 => decide (a < b) | 3 => decide (a ≤ b) | 4 => decide (b < a) | 5 => decide (b ≤ a)
    | 6 => true | _ => false)
  | _, _ => k == 1 || k == 7

/-- FCLASS's class number (R187). -/
def fclassOf (x : Nat) : Nat :=
  let e := x / 2 ^ 23 % 256
  let m := x % 2 ^ 23
  let n := x / 2 ^ 31 % 2 == 1
  if e = 255 then (if m = 0 then (if n then 2 else 9) else if 2 ^ 22 ≤ m then 1 else 0)
  else if e = 0 then (if m = 0 then (if n then 5 else 6) else (if n then 4 else 7))
  else (if n then 3 else 8)

/-- FRND on a pattern after In (R188). -/
def frndBits (mode : Rnd) (x : Nat) : Nat :=
  match decodeFp .fp32 x with
  | .nan => Fmt.fp32.nanCode
  | .inf _ => x
  | .num n m e =>
    if m = 0 then x
    else
      let t := (roundInt mode n m e).natAbs
      if t = 0 then (if n then 2 ^ 31 else 0) else convert .fp32 .rne false (.num n t 0)

/-- FSCL on a pattern after In (R189). -/
def fsclBits (mode : Rnd) (x : Nat) (n : Int) : Nat :=
  match decodeFp .fp32 x with
  | .nan => Fmt.fp32.nanCode
  | .inf _ => x
  | .num s m e => if m = 0 then x else convert .fp32 mode false (.num s m (e + clampInt n (-1000) 1000))

/-! ### Transcendentals (R190, log 13) -/

/-- Integer square root, bit by bit. -/
def isqrt (n : Nat) : Nat :=
  (List.range (ilog2 n / 2 + 1)).reverse.foldl (fun r i => if (r + 2 ^ i) * (r + 2 ^ i) ≤ n then r + 2 ^ i else r) 0

/-- Fraction bits of the fixed-point series. -/
def fixP : Nat := 320
/-- Product in fixed point. -/
def fixMul (a b : Nat) : Nat := a * b / 2 ^ fixP
/-- 2 * atanh(n / d) in fixed point. -/
def fixAtanh2 (n d : Nat) : Nat :=
  let z := n * 2 ^ fixP / d
  let z2 := fixMul z z
  (((List.range 110).foldl (fun (a : Nat × Nat) k => (a.1 + a.2 / (2 * k + 1), fixMul a.2 z2)) (0, z)).1) * 2
/-- ln 2 = 2 atanh(1/3). -/
def fixLn2 : Nat := fixAtanh2 1 3
/-- arctan(1/d) in fixed point. -/
def fixAtanInv (d : Nat) : Nat :=
  ((List.range 80).foldl (fun (a : Int × Nat) k =>
    (if k % 2 = 0 then a.1 + (a.2 / (2 * k + 1) : Nat) else a.1 - (a.2 / (2 * k + 1) : Nat), a.2 / (d * d))) (0, 2 ^ fixP / d)).1.toNat
/-- 2 pi = 32 arctan(1/5) - 8 arctan(1/239). -/
def fixTwoPi : Nat := 32 * fixAtanInv 5 - 8 * fixAtanInv 239
/-- e^t in fixed point, 0 ≤ t < 1. -/
def fixExp (t : Nat) : Nat :=
  ((List.range 80).foldl (fun (a : Nat × Nat) k => (a.1 + a.2, fixMul a.2 t / (k + 1))) (0, 2 ^ fixP)).1
/-- sin t in fixed point, 0 ≤ t < 1.6. -/
def fixSin (t : Nat) : Nat :=
  let t2 := fixMul t t
  ((List.range 50).foldl (fun (a : Int × Nat) k =>
    (if k % 2 = 0 then a.1 + (a.2 : Int) else a.1 - (a.2 : Int), fixMul a.2 t2 / ((2 * k + 2) * (2 * k + 3)))) (0, t)).1.toNat

/-- FRCP of a finite non-zero value (R190); one beyond the range takes its sign (log 126). -/
def rcpNum (n : Bool) (m : Nat) (e : Int) : Nat :=
  let k := ilog2 m + 60
  roundReal .fp32 .rne false n (2 ^ k / m) (-e - k) (2 ^ k % m != 0)

/-- A value with an even exponent. -/
def evenExp (m : Nat) (e : Int) : Nat × Int := if e % 2 = 0 then (m, e) else (2 * m, e - 1)

/-- FSQRT of a positive value. -/
def sqrtNum (mode : Rnd) (m : Nat) (e : Int) : Nat :=
  let p := evenExp m e
  let r := isqrt (p.1 * 2 ^ 120)
  roundReal .fp32 mode false false r (p.2 / 2 - 60) (r * r != p.1 * 2 ^ 120)

/-- FRSQ of a positive value. -/
def rsqNum (m : Nat) (e : Int) : Nat :=
  let p := evenExp m e
  let k := ilog2 p.1 + 60
  let r := isqrt (2 ^ (2 * k) / p.1)
  roundReal .fp32 .rne false false r (-(k : Int) - p.2 / 2) (r * r * p.1 != 2 ^ (2 * k))

/-- FEX2 of a finite non-zero value. -/
def ex2Num (n : Bool) (m : Nat) (e : Int) : Nat :=
  if 10 ≤ floorLog2 m e then (if n then 0 else Fmt.fp32.infCode)
  else if 0 ≤ e ∨ m % 2 ^ (-e).toNat = 0 then
    let i : Int := (m : Int) * 2 ^ e.toNat / 2 ^ (-e).toNat
    roundReal .fp32 .rne false false 1 (if n then -i else i) false
  else
    let x : Int := (if n then -(m : Int) else m) * 2 ^ fixP
    let d : Int := 2 ^ (-e).toNat
    let x := x / d
    let i := x / 2 ^ fixP
    let t := (x - i * 2 ^ fixP).toNat
    roundReal .fp32 .rne false false (fixExp (fixMul t fixLn2)) (i - fixP) true

/-- FLG2 of a positive value. -/
def lg2Num (m : Nat) (e : Int) : Nat :=
  let k := ilog2 m
  let top : Int := e + k
  if m = 2 ^ k then
    if top = 0 then 0 else roundReal .fp32 .rne false (decide (top < 0)) top.natAbs 0 false
  else
    let l : Int := fixAtanh2 (m - 2 ^ k) (m + 2 ^ k) * 2 ^ fixP / fixLn2
    let v : Int := top * 2 ^ fixP + l
    roundReal .fp32 .rne false (decide (v < 0)) v.natAbs (-(fixP : Int)) true

/-- sin of n / 2^k turns, 0 ≤ n < 2^k, k at least 2; none for an exact zero. -/
def sinTurn (n k : Nat) : Option (Bool × Nat) :=
  let s := 2 ^ (k - 1) ≤ n
  let a := n % 2 ^ (k - 1)
  let a := if 2 ^ (k - 2) < a then 2 ^ (k - 1) - a else a
  if a = 0 then none
  else if a = 2 ^ (k - 2) then some (s, 0x3F800000)
  else some (s, roundReal .fp32 .rne false false (fixSin (a * fixTwoPi / 2 ^ k)) (-(fixP : Int)) true)

/-- The turns of a magnitude: numerator and denominator exponent after exact reduction (R190). -/
def turnsOf (m : Nat) (e : Int) : Nat × Nat :=
  let k := (2 - e).toNat
  let k := if k < 2 then 2 else k
  ((m * 4) * 2 ^ (e + k - 2).toNat % 2 ^ k, k)

def sinNum (n : Bool) (m : Nat) (e : Int) : Nat :=
  let r := turnsOf m e
  match sinTurn r.1 r.2 with
  | none => if n then 2 ^ 31 else 0
  | some (s, c) => if s != n then 2 ^ 31 + c else c

def cosNum (m : Nat) (e : Int) : Nat :=
  let r := turnsOf m e
  match sinTurn ((r.1 + 2 ^ (r.2 - 2)) % 2 ^ r.2) r.2 with
  | none => 0
  | some (s, c) => if s then 2 ^ 31 + c else c

/-- A transcendental by its minor: FRCP FRSQ FSQRT FEX2 FLG2 FSIN FCOS; the mode is FSQRT's (R190). -/
def transcend (op : Nat) (mode : Rnd) (ftz : Bool) (x : Nat) : Nat :=
  let nan := Fmt.fp32.nanCode
  let inf (n : Bool) : Nat := (if n then 2 ^ 31 else 0) + Fmt.fp32.infCode
  let zero (n : Bool) : Nat := if n then 2 ^ 31 else 0
  flush ftz <|
    match decodeFp .fp32 (flush ftz x), op with
    | .nan, _ => nan
    | .inf n, 0 => zero n
    | .inf n, 1 => if n then nan else 0
    | .inf n, 2 => if n then nan else inf false
    | .inf n, 3 => if n then 0 else inf false
    | .inf n, 4 => if n then nan else inf false
    | .inf _, _ => nan
    | .num n 0 _, 0 => inf n
    | .num n 0 _, 1 => inf n
    | .num n 0 _, 2 => zero n
    | .num _ 0 _, 3 => 0x3F800000
    | .num _ 0 _, 4 => inf true
    | .num n 0 _, 5 => zero n
    | .num _ 0 _, _ => 0x3F800000
    | .num n m e, 0 => rcpNum n m e
    | .num n m e, 1 => if n then nan else rsqNum m e
    | .num n m e, 2 => if n then nan else sqrtNum mode m e
    | .num n m e, 3 => ex2Num n m e
    | .num n m e, 4 => if n then nan else lg2Num m e
    | .num n m e, 5 => sinNum n m e
    | .num _ m e, _ => cosNum m e

/-! ### CRC-32C, planes, tile images -/

/-- One byte of CRC-32C (R156). -/
def crcByte (c : Nat) (b : Byte) : Nat :=
  (List.range 8).foldl (fun c _ => if c % 2 = 1 then Nat.xor (c / 2) 0x82F63B78 else c / 2) (Nat.xor c b.toNat)

/-- CRC-32C of a list of bytes (R156). -/
def crc32c (bs : List Byte) : Nat := Nat.xor (bs.foldl crcByte 0xFFFFFFFF) 0xFFFFFFFF

/-- Plane j of a block: bit i is bit 7 - j of element i (R152). -/
def planeOf (q : List Nat) (j : Nat) : Nat :=
  (List.range 32).foldl (fun w i => if (q.getD i 0).testBit (7 - j) then w + 2 ^ i else w) 0

/-- Element i of a block held as planes. -/
def unplane (planes : List Nat) (i : Nat) : Nat :=
  (List.range 8).foldl (fun y j => if (planes.getD j 0).testBit i then y + 2 ^ (7 - j) else y) 0

/-- The value of a bit-plane element at p planes under a scale (R153). -/
def bpValue (p c e : Nat) : Fp :=
  if e % 256 = 255 then .nan
  else
    let v : Int := toSigned 8 c / 2 ^ (8 - p)
    .num (decide (v < 0)) v.natAbs ((e % 256 : Nat) - 127 - p + 1)

/-- Planes of a BP type code: BP2 is 17 and BP8 is 23 (R40). -/
def bpPlanes (ty : Nat) : Nat := ty - 15

/-- Element code times its block's scale (R172): a BP, E4M3 or E5M2 element; a zero keeps the code's sign (log 125). -/
def elemValue (ty c e : Nat) : Fp :=
  if 17 ≤ ty then bpValue (bpPlanes ty) c e else mulFp (decodeFp (fmtOfType ty) c) (decodeScale e)

/-! ### Block quantisation -/

/-- The scale of a block of FP32 patterns (R168). -/
def blockScale (ty : Nat) (xs : List Nat) : Nat :=
  if xs.any fun x => x / 2 ^ 23 % 256 == 255 then 255
  else
    let m := xs.foldl (fun a x => max a (x % 2 ^ 31)) 0
    let k : Int := if ty = 14 then 119 else if ty = 15 then 112 else 128
    match decodeFp .fp32 m with
    | .num _ m e => if m = 0 then 0 else (clampInt (floorLog2 m e + k) 0 254).toNat
    | _ => 255

/-- Code and saturation of one element under its block's scale (R168). -/
def blockElem (ty : Nat) (mode : Rnd) (e x : Nat) : Nat × Bool :=
  if e = 255 then (0, false)
  else match decodeFp .fp32 x with
    | .num n m q =>
      if ty = 23 then
        let t := roundInt mode n m (q + 134 - e)
        (ofInt 8 (clampInt t (-128) 127), decide (t < -128) || decide (127 < t))
      else
        let f := fmtOfType ty
        let q' : Int := q + 127 - e
        (convert f mode true (.num n m q'), m != 0 && decide (f.maxCode < roundMag f mode n m q' false))
    | _ => (0, false)

/-- A tile image of 4,096 FP32 patterns in row-major order (R154, R155, R170). -/
def quantTile (ty : Nat) (mode : Rnd) (xs : List Nat) : List Byte :=
  let blocks := (List.range 128).map fun b => (xs.drop (32 * b)).take 32
  let qs := blocks.map fun xs =>
    let e := blockScale ty xs
    (e, xs.map fun x => blockElem ty mode e x)
  let area := qs.foldr (fun q acc =>
    (if ty = 23 then ((List.range 8).map fun j => leBytes 4 (planeOf (q.2.map (·.1)) j)).flatten
     else q.2.map fun c => BitVec.ofNat 8 c.1) ++ acc) []
  let scales := qs.map fun q => BitVec.ofNat 8 q.1
  let sat := qs.foldl (fun n q => n + (q.2.filter (·.2)).length) 0
  let maxabs :=
    if xs.any fun x => (decodeFp .fp32 x).isNan then Fmt.fp32.nanCode
    else xs.foldl (fun a x => max a (x % 2 ^ 31)) 0
  let body := area ++ scales
  body ++ leBytes 4 maxabs ++ leBytes 4 sat ++ leBytes 4 128 ++ leBytes 4 ty ++ leBytes 4 (crc32c body) ++ leBytes 12 0

/-- The status word of a trailer check of a tile image's 4,256 bytes (R175). -/
def trailerStatus (img : List Byte) : Nat :=
  let field (o n : Nat) : Nat := leNat ((img.drop (4224 + o)).take n)
  let b1 := crc32c (img.take 4224) != field 16 4
  let b2 := !([14, 15, 23].contains (field 12 1))
  let b3 := field 8 4 != 128
  let b4 := field 13 3 != 0 || field 20 12 != 0
  let b8 := field 4 4 != 0
  let b9 := field 0 4 / 2 ^ 23 % 256 == 255
  let bit (x : Bool) (n : Nat) : Nat := if x then 2 ^ n else 0
  bit (!(b1 || b2 || b3 || b4)) 0 + bit b1 1 + bit b2 2 + bit b3 3 + bit b4 4 + bit b8 8 + bit b9 9

/-! ### The combining operation of atomics -/

/-- Combine on one element of a floating format (R280). -/
def combineFp (f : Fmt) (op o x c : Nat) : Nat :=
  match op with
  | 0 => addBits f .rne o x
  | 1 => minMaxBits f false o x
  | 2 => minMaxBits f true o x
  | 6 => x
  | 7 => if o = c then x else o
  | _ => o

/-- Combine of R280 by type code: old value, data, compare value. -/
def combine (op ty o x c : Nat) : Nat :=
  if ty = 9 then combineFp .fp32 op o x c
  else if ty = 12 ∨ ty = 13 then
    combineFp (fmtOfType ty) op (bits o 15 0) (bits x 15 0) 0 + 2 ^ 16 * combineFp (fmtOfType ty) op (bits o 31 16) (bits x 31 16) 0
  else
    match op with
    | 0 => (o + x) % 2 ^ tyBits ty
    | 1 => if valOf ty o ≤ valOf ty x then o else x
    | 2 => if valOf ty x ≤ valOf ty o then o else x
    | 3 => o &&& x
    | 4 => o ||| x
    | 5 => Nat.xor o x
    | 6 => x
    | _ => if o = c then x else o

end Sys2Proof.Machine
end

