-- ==== Sys2Proof/Machine/Atomic.lean ====
section
/-! DEFINITION. Atomics and reductions (R278 to R297): at the MAUs of the home slices, at the scratchpad banks and at the pool
banks, and the deques of the pool. -/

namespace Sys2Proof.Machine

/-! ### Issue -/

/-- The data operand of an atomic (R278): 64-bit types take a pair, an immediate is extended by type or, for FP32, placed. -/
def atomData (c : Ctx) (w : W2) (l : Nat) : Nat :=
  opB c.Q (c.thread l) w (tyBits (tyOf w) == 64) (if tyOf w = 9 then immPlaced w.x.imm20 else immByType (tyOf w) w.x.imm20)
/-- The compare value of a CAS (R278). -/
def atomCmp (c : Ctx) (w : W2) (l : Nat) : Nat :=
  if w.x.sub.toNat % 8 = 7 then (c.thread l).rd (tyBits (tyOf w) == 64) (cField w) else 0
/-- Bytes of an atomic's location (R282). -/
def atomSize (w : W2) : Nat := if tyBits (tyOf w) = 64 then 8 else 4
/-- The scope of an atomic's `.ar` or `.rel`, 0 without it (R285). -/
def atomScope (w : W2) : Nat := if w.x.sub.getLsbD 3 then w.x.scope.toNat else 0
/-- Combine of R280 for an instruction's element. -/
def atomCombine (w : W2) (o : Nat) (e : Elem) : Nat := combine (w.x.sub.toNat % 8) (tyOf w) o e.x.toNat e.c.toNat
/-- A CAS whose comparison fails writes nothing (R281). -/
def casFails (w : W2) (o : Nat) (e : Elem) : Bool := w.x.sub.toNat % 8 == 7 && o != e.c.toNat

def atomElem (c : Ctx) (w : W2) (l : Nat) (ea : BitVec 64) (pa : Nat) (te : Bool) : Elem :=
  { lane := l, va := ea, pa, size := atomSize w, te
    x := BitVec.ofNat 64 (atomData c w l), c := BitVec.ofNat 64 (atomCmp c w l) }

/-- Merge the elements of a reduction that name one address, in increasing lane order (R286). -/
def mergeElems (w : W2) (es : List Elem) : List Elem :=
  es.foldl (fun a e =>
    if a.any fun x => x.va == e.va && x.pa == e.pa then
      a.map fun x => if x.va == e.va && x.pa == e.pa then
        { x with x := BitVec.ofNat 64 (combine (w.x.sub.toNat % 8) (tyOf w) x.x.toNat e.x.toNat 0), merged := x.merged ++ [e.lane] }
        else x
    else a ++ [e]) []

/-- The address of an atomic: the pair, with no offset (R278). -/
def atomAddr (c : Ctx) (w : W2) (l : Nat) : BitVec 64 := (c.thread l).getPair w.a.toNat

/-- ATTR and aperture checks of a global atomic: the aperture takes ATOM `.add`, `.exch` and `.cas` of the integer types
(R478). -/
def atomAttr (isAtom : Bool) (w : W2) (x : Xlat) : Option Nat :=
  let op := w.x.sub.toNat % 8
  if isAtom && (op == 0 || op == 6 || op == 7) && decide (tyOf w < 9) then noCell x else noHost x

/-- ATOM (R282). -/
def execAtom (w : W2) (s : State) : Out :=
  match s.ctx? with
  | none => .next s
  | some c =>
    globalAccess s c (c.participants w.p false) (atomAddr c w) (atomSize w) (atomSize w) true (atomAttr true w) fun s accs =>
      let ls := accs.map (·.lane)
      let o : Op := { c.op .atom (.atom w) (laneMask ls) (c.flag w.n) with
        holdV := destRegs w.d (atomSize w == 8), rel := atomScope w, acq := atomScope w
        elems := accs.map fun a => atomElem c w a.lane a.ea a.pa a.x.te }
      (s.issueStep c 2 (s.stampOrder c.Q o)).holdAcquire c ls (atomScope w) s.next

/-- RED (R282, R286). -/
def execRed (w : W2) (s : State) : Out :=
  match s.ctx? with
  | none => .next s
  | some c =>
    globalAccess s c (c.participants w.p false) (atomAddr c w) (atomSize w) (atomSize w) true (atomAttr false w) fun s accs =>
      let o : Op := { c.op .red (.red w) (laneMask (accs.map (·.lane))) (c.flag w.n) with
        rel := atomScope w
        elems := mergeElems w (accs.map fun a => atomElem c w a.lane a.ea a.pa a.x.te) }
      s.issueStep c 2 (s.stampOrder c.Q o)

/-! ### The MAU (R283, R284) -/

/-- Whether a SIGX adds, and its scope: the immediate form holds both in its TYPE field (R318). -/
def sigxAdd (w : W2) : Bool := if w.x.isImm then w.x.ty.getLsbD 3 else w.x.sub.getLsbD 0
def sigxScope (w : W2) : Nat := if w.x.isImm then tyOf w % 8 else w.x.scope.toNat

/-- The value that a global RMW writes: an atomic's (R280), or a SIGX's (R333). -/
def rmwNew (i : Instr) (old : Nat) (e : Elem) : Nat :=
  match i with
  | .sigx w => if sigxAdd w then (old + e.x.toNat) % 2 ^ 64 else e.x.toNat
  | _ => atomCombine (w2Of i) old e
/-- An RMW in two slots (R282), and one that writes nothing (R281). -/
def rmwPacked (i : Instr) : Bool := match i with | .sigx _ => false | _ => tyOf (w2Of i) == 12 || tyOf (w2Of i) == 13
def rmwFails (i : Instr) (old : Nat) (e : Elem) : Bool := match i with | .sigx _ => false | _ => casFails (w2Of i) old e
/-- Operations that a MAU serves. -/
def Op.atMau (o : Op) : Bool := o.kind == .atom || o.kind == .red || o.kind == .sigx

/-- An RMW is part of the release sequence of each release whose write it reads (R237). -/
def State.inherit (s : State) (id : Nat) (e : Elem) : State :=
  match s.op? id with
  | none => s
  | some o =>
    let ws := (s.writersOf o e).filter fun w => w.1 != id && w.2.fsc != 0
    let cov := ws.foldl (fun a w => addNew a w.2.covers) o.covers
    let sc := ws.foldl (fun a w => max a w.2.fsc) 0
    s.setOp id { o with covers := cov, fsc := if o.fsc = 0 then sc else o.fsc }

/-- Another operation whose slots at a MAU have begun and are not all done: slots of one instruction on one line, and the two
of a packed type, are consecutive (R284, R287). -/
def State.mauHeld (s : State) (id pa : Nat) : Bool :=
  s.ops.any fun x => x.1 != id && x.2.atMau &&
    x.2.elems.any fun e => decide (6 ≤ e.st) && springOf e.pa == springOf pa

/-- One slot of an element at its home MAU (R282): it fails on a poisoned line or a tag, else reads and writes as one write. -/
def State.mauSlot (s : State) (id : Nat) (e : Elem) (stamped : Bool) : State :=
  match s.op? id with
  | none => s
  | some o =>
    let ln := lineOf e.pa
    if s.isPoisoned ln then s.failElem id e causePoison
    else if !s.tagsMatch (lineHome ln) e.te e.va e.pa e.size then s.failElem id e causeTag
    else
      let old := takeData ((s.clean (lineHome ln) ln).homeData ln) (e.pa % 64) e.size
      let fails := !rmwPacked o.ins && rmwFails o.ins old e
      let s := (s.noteMet id o e).observe o e
      let s := if fails then s.dropCount ln else s.inherit id e
      if rmwPacked o.ins then
        let new := rmwNew o.ins old e
        let hi := e.st == 7
        let off := e.pa % 64 + (if hi then 2 else 0)
        let r := s.homeWrite ln (byteMask off 2) (placeData off (if hi then new / 2 ^ 16 else new % 2 ^ 16)) 0 stamped
        r.1.mapElems id e.same fun x =>
          if hi then { x with r := BitVec.ofNat 64 (x.r.toNat % 2 ^ 16 + old / 2 ^ 16 * 2 ^ 16), st := if r.2 then 3 else 2 }
          else { x with r := BitVec.ofNat 64 (old % 2 ^ 16), st := 7 }
      else if fails then
        s.mapElems id e.same fun x => { x with r := BitVec.ofNat 64 old, st := 3, quiet := true }
      else
        let r := s.homeWrite ln (byteMask (e.pa % 64) e.size) (placeData (e.pa % 64) (rmwNew o.ins old e)) 0 stamped
        r.1.mapElems id e.same fun x => { x with r := BitVec.ofNat 64 old, st := if r.2 then 3 else 2 }

/-- The next element of an operation to have a slot at a slice: arrived there, the lowest lane first (R287). -/
def Op.nextSlot (o : Op) (pa : Nat) : Option Elem := o.elems.find? fun e => decide (6 ≤ e.st) && springOf e.pa == springOf pa

/-- Elements arrive at their MAU, and the first has its slot. -/
def State.mauArrive (s : State) (id : Nat) (es : List Elem) (stamped : Bool) : State :=
  let s := s.mapElems id (fun e => es.any e.same) fun e => { e with st := 6 }
  match es, s.op? id with
  | e :: _, some o => (match o.nextSlot e.pa with | some x => s.mauSlot id x stamped | none => s)
  | _, _ => s

/-- MAU_SLOT (R283, R285, R333): one slot for an atomic, a reduction or a SIGX; one that is homed on another tarn is first sent there. -/
def execMauSlot (op lane : Nat) (s : State) : Out :=
  match s.op? op with
  | none => .next s
  | some o =>
    if !o.atMau then .next s else
    match o.elems.find? fun e => e.lane == lane with
    | none => .next s
    | some e =>
      if (s.routeOf o e != .here && decide (e.st < 6)) || inHost e.pa || s.dramHeld (lineOf e.pa) then .next s
      else if e.st = 0 && s.shut (coreTarn (s.coreOf o.blk)) e.pa then .next (s.holdUnsent op o e)
      else if !s.serving (lineHome (lineOf e.pa)) then .next s
      else if 6 ≤ e.st then
        match o.nextSlot e.pa with
        | some x => .next ((s.mauSlot op x (s.stampedFor o e)).retire)
        | none => .next s
      else
        let es := s.sliceGroup o e
        if !es.any e.same then .next s
        else if !s.released o then .next (s.pushBack o.rel o.covers)
        else
          let t := coreTarn (s.coreOf o.blk)
          if t != lineHome (lineOf e.pa) then .next (s.sendAccess op t (lineOf e.pa) es)
          else if s.mauHeld op e.pa then .next s
          else .next ((s.mauArrive op es false).retire)

/-! ### Scratchpad atomics (R288) -/

/-- The RMWs of some elements on a block's side, in lane order: each lane receives what the lanes below it left; the ring header's
read-only and reserved words take no write (R6, R7, R366). -/
def cellRmw (B : Block) (w : W2) (m : List Host.Cell) (es : List Elem) : List Host.Cell × List Elem :=
  es.foldl (fun a e =>
    let old := readLE a.1 e.pa e.size
    (B.keepHeader a.1 (writeLE a.1 e.pa e.size (atomCombine w old e)), a.2 ++ [{ e with r := BitVec.ofNat 64 old, st := 3, quiet := casFails w old e }])) (m, [])

/-- The held-back RMWs of an ATOMS are made at their banks. -/
def State.scratchRmw (s : State) (id : Nat) : State :=
  match s.op? id with
  | none => s
  | some o =>
    match s.block? o.blk with
    | none => s
    | some B =>
      if !(o.elems.any fun e => e.st == 0) || !s.released o then s
      else
        let s := o.elems.foldl (fun s e => s.noteMet id o e) (s.observeAll o)
        let r := cellRmw B (w2Of o.ins) (B.sideOf s).bytes o.elems
        match ((r.2.filter fun e => !e.quiet).foldl (fun s e => s.inherit id e) s).op? id with
        | some o => (s.updSide B fun S => { S with bytes := r.1 }).setOp id { o with elems := r.2 }
        | none => s

/-- ATOMS (R288): made as it issues, or under `.ar` once what it releases is performed (R524). -/
def execAtoms (w : W2) (s : State) : Out :=
  match s.ctx? with
  | none => .next s
  | some c =>
    let n := atomSize w
    let r := scratchSplit s c (c.participants w.p false) (fun l => ((c.thread l).rd false w.a : Int)) n true
    if s.scratchBusy c r.1 n then .next (s.stall c)
    else
      let ls := r.1.map (·.1)
      let o : Op := { c.op .lds (.atoms w) (laneMask ls) (c.flag w.n) with
        holdV := destRegs w.d (n == 8), rel := atomScope w, acq := atomScope w
        elems := r.1.map fun x => atomElem c w x.1 0#64 x.2 false }
      let o := s.stampOrder c.Q o
      let id := s.next
      .next ((((s.issueStep c 2 o).holdAcquire c ls (atomScope w) id).scratchRmw id).laneFaults c r.2)

/-! ### Pool atomics (R289) -/

/-- The offset of a pool atomic or deque operation: N(V(A)) (R278). -/
def poolOff (c : Ctx) (w : W2) (l : Nat) : Int := ((c.thread l).rd false w.a : Int)

/-- When a pool request reaches its bank: 20 clk after issue (R293), or after what it releases is performed (R524; log 135); 0 while it is
held back. -/
def State.poolDue (s : State) (o : Op) : Nat := if s.released o then s.clk + 20 else 0

/-- Pool requests whose release is no longer held back are sent (R524). -/
def State.sendPools (s : State) : State :=
  s.ops.foldl (fun s x =>
    if (x.2.kind == .poolAtom || x.2.kind == .deque) && x.2.due == 0 && s.released x.2 then s.setOp x.1 { x.2 with due := s.clk + 20 } else s) s

/-- A request to the pool of the issuing core's tarn: it reaches its bank 20 clk after issue (R293). -/
def poolIssue (s : State) (c : Ctx) (ls : List Nat) (w : W2) (n align : Nat) (o : Op) : Out :=
  match poolBad ls (poolOff c w) n align with
  | some (l, k) => .next (s.raise c k 0 l (BitVec.ofInt 64 (poolOff c w l)))
  | none =>
    let mine := (s.ops.filter fun x => (x.2.kind == .poolAtom || x.2.kind == .deque) && x.2.blk == c.b && x.2.q == c.q).map (·.1)
    let o' := s.stampOrder c.Q o
    .next ((s.issueStep c 2 { o' with due := s.poolDue o', before_ := mine }).holdAcquire c ls o.acq s.next)

/-- ATOMP (R289). -/
def execAtomp (w : W2) (s : State) : Out :=
  match s.ctx? with
  | none => .next s
  | some c =>
    let ls := c.participants w.p false
    let n := atomSize w
    poolIssue s c ls w n n { c.op .poolAtom (.atomp w) (laneMask ls) (c.flag w.n) with
      holdV := destRegs w.d (n == 8), rel := atomScope w, acq := atomScope w
      elems := ls.map fun l => atomElem c w l 0#64 (poolOff c w l).toNat false }

/-- REDP (R289, R286). -/
def execRedp (w : W2) (s : State) : Out :=
  match s.ctx? with
  | none => .next s
  | some c =>
    let ls := c.participants w.p false
    let n := atomSize w
    poolIssue s c ls w n n { c.op .poolAtom (.redp w) (laneMask ls) (c.flag w.n) with
      rel := atomScope w
      elems := mergeElems w (ls.map fun l => atomElem c w l 0#64 (poolOff c w l).toNat false) }

/-- The rank of a deque operation among those that arrive in one cycle (R293). -/
def dequeRank (i : Instr) : Nat := match i with | .taket _ => 0 | .pusht _ => 1 | _ => 2

/-- Whether one pool request is ahead of another at the banks (R293): the earlier arrival; of one cycle, the atomics (log 98), then
TAKET, PUSHT, TAKEH; of one kind the lower core, then the earlier issue. -/
def State.poolAhead (s : State) (x y : Nat × Op) : Bool :=
  let k (z : Op) : Nat := (if z.kind == OpKind.deque then 1 + dequeRank z.ins else 0) * 2 ^ 32 + s.coreOf z.blk
  if x.2.due != y.2.due then decide (x.2.due < y.2.due)
  else if k x.2 != k y.2 then decide (k x.2 < k y.2) else decide (x.1 < y.1)

/-- The earlier requests of an element's threads that touch its bytes have been served (R235). -/
def State.poolClear (s : State) (o : Op) (e : Elem) : Bool :=
  let t := coreTarn (s.coreOf o.blk)
  s.clearToAct o e && o.before_.all fun i => match s.op? i with
    | none => true
    | some a => a.elems.all fun e' => e'.acted || a.lanesOf e' &&& o.lanesOf e == 0#32 ||
        !(s.poolBytes t a e').any fun r => (s.poolBytes t o e).any fun q => decide (r.1 < q.1 + q.2) && decide (q.1 < r.1 + r.2)

/-- Some lanes of a pool request have been served, and some have not. -/
def Op.poolBegun (o : Op) : Bool := (o.elems.any fun e => e.st == 0) && o.elems.any fun e => e.st != 0

/-- A pool request that has arrived and whose lanes wait for no earlier request of their threads. -/
def State.poolHere (s : State) (o : Op) : Bool :=
  o.due != 0 && decide (o.due ≤ s.clk) && s.released o && (o.elems.any fun e => e.st == 0) && o.elems.all fun e => e.st != 0 || s.poolClear o e

/-- Whether a pool request may be served now: it has arrived, what it releases is performed, and none is ahead of it; the lanes of one that
has begun are served together (R287). -/
def State.poolTurn (s : State) (id : Nat) (o : Op) : Bool :=
  s.poolHere o && !(s.ops.any fun x => x.1 != id && (x.2.kind == .poolAtom || x.2.kind == .deque) &&
    coreTarn (s.coreOf x.2.blk) == coreTarn (s.coreOf o.blk) && s.poolHere x.2 && (x.2.poolBegun || (!o.poolBegun && s.poolAhead x (id, o))))

/-- A pool request whose elements are all served completes: a REDP with the bank's acknowledgement, the others with their
registers (R289, R292). -/
def State.poolDone (s : State) (id : Nat) : State :=
  match s.op? id with
  | none => s
  | some o => if o.elems.all Elem.done then s.completeRead id else s

/-- POOL_BANK_RMW (R289): the next lane's RMW at its bank. -/
def execPoolBankRmw (op lane : Nat) (s : State) : Out :=
  match s.op? op with
  | none => .next s
  | some o =>
    match o.elems.find? fun e => e.st == 0 with
    | none => .next s
    | some e =>
      if o.kind != OpKind.poolAtom || e.lane != lane then .next s
      else if !s.poolTurn op o then .next (s.pushBack o.rel o.covers)
      else
        let t := coreTarn (s.coreOf o.blk)
        let old := readLE (s.tarn t).pool e.pa e.size
        let fails := casFails (w2Of o.ins) old e
        let s := (s.noteMet op o e).observe o e
        let s := if fails then s else s.inherit op e
        let s := s.updTarn t fun T => { T with pool := writeLE T.pool e.pa e.size (atomCombine (w2Of o.ins) old e) }
        .next ((s.mapElems op e.same fun x => { x with r := BitVec.ofNat 64 old, st := 3, quiet := fails }).poolDone op)

/-! ### Deques (R291 to R294) -/

/-- The fields of a deque descriptor: HEAD, TAIL, BASE, CAPL, and whether it is bad (R291). -/
structure Deque where
  head : Nat
  tail : Nat
  base : Nat
  capl : Nat
  bad : Bool
deriving DecidableEq, Repr

/-- The entry count. -/
def Deque.count (d : Deque) : Nat := (d.tail + 2 ^ 32 - d.head) % 2 ^ 32

/-- The descriptor at a pool offset. -/
def dequeAt (m : List Host.Cell) (o : Nat) : Deque :=
  let w (i : Nat) : Nat := readLE m (o + 4 * i) 4
  let d : Deque := { head := w 0, tail := w 1, base := w 2, capl := w 3 % 32, bad := false }
  let bad := decide (d.capl < 1) || decide (16 < d.capl) || d.base % 8 != 0 || decide (2 ^ 25 < d.base + 8 * 2 ^ d.capl) ||
    w 3 / 32 != 0 || decide (2 ^ d.capl < d.count)
  { d with bad }

/-- Pool offset of an entry. -/
def Deque.slot (d : Deque) (i : Nat) : Nat := d.base + 8 * (i % 2 ^ d.capl)

/-- A deque operation: 0 PUSHT, 1 TAKET, 2 TAKEH; the pool after it, the status and the entry taken (R292). -/
def dequeAct (k : Nat) (m : List Host.Cell) (o x : Nat) : List Host.Cell × Nat × Nat :=
  let d := dequeAt m o
  if d.bad then (m, 3, 0)
  else if k = 0 then
    if d.count = 2 ^ d.capl then (m, 1, 0)
    else (writeLE (writeLE m (d.slot d.tail) 8 x) (o + 4) 4 ((d.tail + 1) % 2 ^ 32), 0, 0)
  else if d.count = 0 then (m, 2, 0)
  else if k = 1 then
    let t := (d.tail + 2 ^ 32 - 1) % 2 ^ 32
    (writeLE m (o + 4) 4 t, 0, readLE m (d.slot t) 8)
  else (writeLE m o 4 ((d.head + 1) % 2 ^ 32), 0, readLE m (d.slot d.head) 8)

/-- A deque operation issues: PUSHT is a release at `.tarn`, the takes are acquires at `.tarn` (R294). -/
def dequeIssue (k : Nat) (ins : Instr) (w : W2) (s : State) : Out :=
  match s.ctx? with
  | none => .next s
  | some c =>
    let ls := c.participants w.p false
    poolIssue s c ls w 16 16 { c.op .deque ins (laneMask ls) (c.flag w.n) with
      n := k
      holdV := if k = 0 then [w.d.toNat] else [w.d.toNat, w.d.toNat + 1, w.x.c.toNat]
      rel := if k = 0 then 4 else 0
      acq := if k = 0 then 0 else 4
      elems := ls.map fun l =>
        { lane := l, va := 0#64, pa := (poolOff c w l).toNat, size := 16
          x := BitVec.ofNat 64 (if k = 0 then opB c.Q (c.thread l) w true 0 else 0) } }

def execPusht (w : W2) (s : State) : Out := dequeIssue 0 (.pusht w) w s
def execTaket (w : W2) (s : State) : Out := dequeIssue 1 (.taket w) w s
def execTakeh (w : W2) (s : State) : Out := dequeIssue 2 (.takeh w) w s

/-- A PUSHT that returns OK clears the deque-spin bits of the threads of its tarn (R334). -/
def State.clearSpins (s : State) (t : Nat) : State :=
  { s with blocks := s.blocks.map fun e =>
      if coreTarn e.2.core = t then
        (e.1, { e.2 with quires := e.2.quires.map fun q =>
          (q.1, { q.2 with threads := q.2.threads.map fun th => (th.1, { th.2 with spin := false }) }) })
      else e }

/-- DEQUE_SERVICE (R292, R293): the next lane's operation, as one act; its registers are written with the last. -/
def execDequeService (op lane : Nat) (s : State) : Out :=
  match s.op? op with
  | none => .next s
  | some o =>
    match o.elems.find? fun e => e.st == 0 with
    | none => .next s
    | some e =>
      if o.kind != OpKind.deque || e.lane != lane then .next s
      else if !s.poolTurn op o then .next (s.pushBack o.rel o.covers)
      else
        let t := coreTarn (s.coreOf o.blk)
        let w := w2Of o.ins
        let d := dequeAt (s.tarn t).pool e.pa
        let r := dequeAct o.n (s.tarn t).pool e.pa e.x.toNat
        let ok := r.2.1 == 0
        let entry : Elem := { e with pa := d.slot (if o.n = 0 then d.tail else if o.n = 1 then d.tail + 2 ^ 32 - 1 else d.head), size := 8, st := 3 }
        let s := if o.n = 0 then s.noteMet op o e else (s.noteMet op o e).noteMet op o entry
        let s := if ok then ((s.observe o e).observe { o with acq := if o.n = 0 then 0 else o.acq } entry) else s.observe { o with acq := 0 } e
        let s := s.updTarn t fun T => { T with pool := r.1 }
        let s := s.mapElems op e.same fun x => { x with st := 3, quiet := !ok }
        let s := match s.op? op with
          | some x => if ok then s.setOp op { x with elems := x.elems ++ [entry] } else s
          | none => s
        let live := s.opLanes o
        let s := if !live.contains lane then s
          else s.updThread o.blk o.q lane fun th =>
            if o.n = 0 then th.setV w.d.toNat (BitVec.ofNat 32 r.2.1)
            else { (th.setPair w.d.toNat (BitVec.ofNat 64 r.2.2)).setV w.x.c.toNat (BitVec.ofNat 32 r.2.1) with spin := r.2.1 == 2 }
        let s := if o.n = 0 ∧ r.2.1 = 0 then s.clearSpins t else s
        match s.op? op with
        | some o' =>
          if !o'.elems.all Elem.done then .next s
          else
            let s := if o.acq = 0 then s
              else s.mapLanes o.blk o.q (laneList o.lanes) fun _ t => if t.acq == some op then { t with acq := none } else t
            .next (s.settle op)
        | none => .next s

end Sys2Proof.Machine
end

