-- ==== Sys2Proof/Machine/Flags.lean ====
section
/-! DEFINITION. Carry and borrow (R125), comparison conditions (R133, R318), predicate truth tables (R109). -/

namespace Sys2Proof.Machine

/-- Sum with carry in: the 32-bit result and the carry out (R125). -/
def addCarry (a b : Nat) (cin : Bool) : Nat × Bool :=
  let x := a % 2 ^ 32 + b % 2 ^ 32 + (if cin then 1 else 0)
  (x % 2 ^ 32, decide (2 ^ 32 ≤ x))

/-- Difference with borrow in: the 32-bit result and the borrow out (R125). -/
def subBorrow (a b : Nat) (cin : Bool) : Nat × Bool :=
  let x : Int := (a % 2 ^ 32 : Nat) - (b % 2 ^ 32 : Nat) - (if cin then 1 else 0)
  (ofInt 32 x, decide (x < 0))

/-- The condition of ISET in SUB[2:0]: eq ne lt le gt ge (R133). -/
def icond (k : Nat) (a b : Int) : Bool :=
  match k with
  | 0 => a == b | 1 => a != b | 2 => decide (a < b) | 3 => decide (a ≤ b) | 4 => decide (b < a) | _ => decide (b ≤ a)

/-- The condition of WAITX in SUB[1:0], unsigned: eq ne ge lt (R329). -/
def xcond (k x v : Nat) : Bool :=
  match k with | 0 => x == v | 1 => x != v | 2 => decide (v ≤ x) | _ => decide (x < v)

/-- A predicate truth table: bit 2a + b of the table (R109). -/
def lut2 (table : BitVec 4) (a b : Bool) : Bool := table.getLsbD ((if a then 2 else 0) + (if b then 1 else 0))

/-- The word that a truth value writes to a register (R133). -/
def boolWord (x : Bool) : Nat := if x then 0xFFFFFFFF else 0

end Sys2Proof.Machine
end

