-- ==== Sys2Proof/Machine/Barrier.lean ====
section
/-! DEFINITION. Barriers and external waits (R318 to R333): arrivals at named and scope barriers, their phases and releases;
WAITX and SIGX. -/

namespace Sys2Proof.Machine

/-! ### Phases (R320, R323) -/

/-- One arrival with its count, contribution and BARR operation, if it is one: the phase after it, and whether it completed. -/
def Phase.arrive (p : Phase) (n : Nat) (op : Option Nat) (x : Nat) (cov : List Nat) : Phase × Bool :=
  let p := if p.a = 0 then { p with n, op := none, acc := [0, 4294967295, 0, 0], covers := [] } else p
  let acc := match op, p.acc with
    | some _, [a, b, c, d] => [(a + x) % 2 ^ 32, b &&& x, c ||| x, max d x]
    | _, l => l
  let p := { p with a := p.a + 1, op := p.op <|> op, acc, covers := addNew p.covers cov }
  (p, p.a == p.n)

/-- The next phase, opened by its first arrival. -/
def Phase.close (p : Phase) : Phase := { num := p.num + 1, signed := p.signed, last := p.last }

/-- The result of a phase under its BARR operation (R323). -/
def Phase.result (p : Phase) : Nat := p.acc.getD (p.op.getD 0) 0

/-- The place of a lane's arrival among those that reach an object in one cycle (R320). -/
def arrivalRank (core q lane : Nat) : Nat := (core * 16 + q) * 32 + lane

/-- An arrival would come before one that has been taken in this cycle: it comes in the next one (R320). -/
def Phase.late (p : Phase) (clk rank : Nat) : Bool := p.last.1 == clk && decide (rank < p.last.2)

/-- An arrival disagrees with the open phase (R321). -/
def Phase.mismatch (p : Phase) (n : Nat) (op : Option Nat) : Bool :=
  p.a != 0 && (p.n != n || (match op, p.op with | some x, some y => x != y | _, _ => false))

/-! ### Issue -/

/-- The first failing check of a barrier instruction made at issue (R321): lane and cause, within a lane in the order of log 128. -/
def barBad (ls : List Nat) (count id : Nat → Nat) (maxCount : Nat) : Option (Nat × Nat) :=
  let l0 := ls.headD 0
  (ls.filterMap fun l =>
    if count l < 1 ∨ maxCount < count l then some (l, causeBarCount)
    else if 2 ^ 20 ≤ id l then some (l, causeBarId)
    else if count l != count l0 || id l != id l0 then some (l, causeBarMismatch) else none).head?

/-- A named-barrier arrival issues: a release at `.core`, counted by BARRIER_ARRIVAL; BARS and BARR wait for their phase
(R322, R324). -/
def namedIssue (ins : Instr) (w : W2) (waits : Bool) (res : Option (Nat × Bool)) (s : State) : Out :=
  match s.ctx? with
  | none => .next s
  | some c =>
    let ls := c.participants w.p w.n
    let count (l : Nat) : Nat := opB c.Q (c.thread l) w false w.x.imm20.toNat
    match barBad ls count (fun _ => 0) 512 with
    | some (l, k) => .next (s.raise c k 0 l 0#64)
    | none =>
      let o : Op := { c.op .bar ins (laneMask ls) 15 with
        rel := 2
        n := count (ls.headD 0)
        m := w.a.toNat
        elems := ls.map fun l => { lane := l, va := 0#64, pa := 0, size := 0, x := BitVec.ofNat 64 (if res.isSome then (c.thread l).rd false (cField w) else 0) } }
      let s := s.issueStep c 2 (s.stampOrder c.Q o)
      .next (if waits then s.mapLanes c.b c.q ls fun _ t => { t with wait := .named w.a.toNat 0 res } else s)

def execBara (w : W2) (s : State) : Out := namedIssue (.bara w) w false none s
def execBars (w : W2) (s : State) : Out := namedIssue (.bars w) w true none s
/-- BARR (R323): the result goes to V(D), or with `.p` to P(D). -/
def execBarr (w : W2) (s : State) : Out := namedIssue (.barr w) w true (some (w.d.toNat, w.x.sub.getLsbD 2)) s

/-- The scope of SBAR and SBARA: the immediate form holds it in its TYPE field (R318). -/
def sbarScope (w : W2) : Nat := if w.x.isImm then tyOf w % 8 else w.x.scope.toNat

/-- The number of the instance of a scope that holds a core (R13): quad, tarn, package or pod. -/
def instanceOf (sc core : Nat) : Nat :=
  if sc = 3 then coreTarn core * 6 + coreNum core / 4 else if sc = 4 then coreTarn core else if sc = 5 then tarnModule (coreTarn core) else 0

/-- The key of a scope-barrier object (R325). -/
def sbarKey (part sc inst id : Nat) : Nat := ((part * 8 + sc) * 2 ^ 20 + inst) * 2 ^ 20 + id

/-- The tarn whose supervisor serves virtualised ids (R325). -/
def State.sbarTarn (s : State) (part sc core : Nat) : Nat :=
  if sc ≤ 4 then coreTarn core else (s.part part).tarns.headD (coreTarn core)

/-- What a block of a gang launch does before an instruction that waits for its gang's decision (R363): 1 it waits, 2 it goes on,
3 it aborts. -/
def State.gangGate (s : State) (B : Block) : Nat :=
  if B.gang = 0 then 2
  else (tget? (s.part B.part).gangs (tarnModule B.ltarn * 65536 + B.gang)).elim 1 (·.st)

/-- SBAR and SBARA issue (R325, R326); at `.pod` a gang's threads first wait for its decision (R363). -/
def scopeIssue (ins : Instr) (kind : OpKind) (w : W2) (neg : Bool) (flag : Ctx → Nat) (s : State) : Out :=
  match s.ctx? with
  | none => .next s
  | some c =>
    let ls := c.participants w.p neg
    let sc := sbarScope w
    let count (l : Nat) : Nat := opB c.Q (c.thread l) w false w.x.imm20.toNat
    let id (l : Nat) : Nat := (c.thread l).rd false w.a
    let id0 := id (ls.headD 0)
    match barBad ls count id (2 ^ 26) with
    | some (l, k) => .next (s.raise c k 0 l 0#64)
    | none =>
      if sc = 6 ∧ !ls.isEmpty ∧ s.gangGate c.B = 1 then .next (s.stall c)
      else if sc = 6 ∧ !ls.isEmpty ∧ s.gangGate c.B = 3 then .next (s.endTask c.b 7 none)
      else
      let o : Op := { c.op kind ins (laneMask ls) (flag c) with
        rel := sc
        n := count (ls.headD 0)
        m := sbarKey c.B.part sc (instanceOf sc c.B.core) id0
        elems := ls.map fun l => { lane := l, va := 0#64, pa := 0, size := 0 } }
      let s := if 64 ≤ id0 ∧ !ls.isEmpty then
          s.postTrap (s.sbarTarn c.B.part sc c.B.core)
            { kind := 2, detail := 5, addr := BitVec.ofNat 64 id0, ident := identOf c.B c.q (ls.headD 0), blk := some c.b }
        else s
      let s := s.issueStep c 2 (s.stampOrder c.Q o)
      .next (if kind = .bar then s.mapLanes c.b c.q ls fun _ t => { t with wait := .scope sc id0 o.m 0 } else s)

def execSbar (w : W2) (s : State) : Out := scopeIssue (.sbar w) .bar w w.n (fun _ => 15) s
def execSbara (w : W2) (s : State) : Out := scopeIssue (.sbara w) .sbar w false (fun c => c.flag w.n) s

/-! ### Arrival and release -/

/-- Threads observe what a completed phase releases (R324, R326). -/
def Thread.acquireCovers (t : Thread) (cov : List Nat) : Thread := { t with synced := addNew t.synced cov }

/-- What a completed phase releases to an SBARA thread waits for a clause entry that names its flag (R326). -/
def Thread.owe (t : Thread) (flag : Nat) (cov : List Nat) : Thread :=
  if 12 ≤ flag then t else { t with owed := tput t.owed flag (addNew (tget t.owed flag []) cov) }

/-- The waiters of a completed phase of a named barrier go on, with the BARR result (R322, R323). -/
def State.releaseNamed (s : State) (b nb : Nat) (p : Phase) : State :=
  s.updBlock b fun B => { B with quires := B.quires.map fun q => (q.1, { q.2 with threads := q.2.threads.map fun t =>
    match t.2.wait with
    | .named k ph res =>
      if k = nb ∧ ph = p.num + 1 then
        let th := { t.2.acquireCovers p.covers with wait := .none }
        (t.1, match res with
          | some (d, true) => th.setP d (p.result != 0)
          | some (d, false) => th.setV d (BitVec.ofNat 32 p.result)
          | none => th)
      else t
    | _ => t }) }

/-- An arrival at a named barrier takes effect lane by lane (R320); of BARS and BARR its thread waits for the phase it arrived in
(R322). -/
def State.arriveNamed (s : State) (o : Op) : State :=
  let op : Option Nat := match o.ins with | .barr w => some (w.x.sub.toNat % 4) | _ => none
  o.elems.foldl (fun s e =>
    match s.block? o.blk with
    | none => s
    | some B =>
      let p : Phase := { tget B.nb o.m {} with last := (s.clk, arrivalRank B.core o.q e.lane) }
      let r := p.arrive o.n op e.x.toNat o.covers
      let s := s.updThread o.blk o.q e.lane fun t => match o.ins, t.wait with
        | .bara _, _ => t
        | _, .named k 0 res => { t with wait := .named k (r.1.num + 1) res }
        | _, _ => t
      let s := s.updBlock o.blk fun B => { B with nb := tput B.nb o.m (if r.2 then r.1.close else r.1) }
      if r.2 then s.releaseNamed o.blk o.m r.1 else s) s

/-- An arrival at a scope barrier takes effect lane by lane; a completed phase is released after the network's delay (R327). -/
def State.arriveScope (s : State) (id : Nat) (o : Op) : State :=
  o.elems.foldl (fun s e =>
    let p : Phase := { tget s.sbar o.m {} with last := (s.clk, arrivalRank (s.coreOf o.blk) o.q e.lane) }
    let r := p.arrive o.n none 0 o.covers
    let s := if o.kind == .sbar then s else s.updThread o.blk o.q e.lane fun t => match t.wait with
      | .scope sc k key 0 => { t with wait := .scope sc k key (r.1.num + 1) } | _ => t
    let s := s.mapElems id (fun x => x.lane == e.lane) fun x => { x with st := 6, pa := r.1.num + 1 }
    { s with sbar := tput s.sbar o.m (if r.2 then r.1.close else r.1)
             sbarDone := if r.2 then s.sbarDone ++ [(o.m, r.1)] else s.sbarDone }) s

/-- BARRIER_ARRIVAL (R320, R321, R524): an arrival is counted once what it releases is performed at its scope; when it disagrees
with the open phase, none of its participants arrives and the task ends.  Arrivals of one cycle come in the order of R320. -/
def execBarrierArrival (op : Nat) (s : State) : Out :=
  match s.op? op with
  | none => .next s
  | some o =>
    if !(o.kind == .bar || o.kind == .sbar) || !(o.elems.all fun e => e.st == 0) then .next s
    else if !s.released o then .next (s.pushBack o.rel o.covers)
    else
      let named := match o.ins with | .bara _ | .bars _ | .barr _ => true | _ => false
      let barr : Option Nat := match o.ins with | .barr w => some (w.x.sub.toNat % 4) | _ => none
      let open_ := if named then (match s.block? o.blk with | some B => tget B.nb o.m {} | none => {}) else tget s.sbar o.m {}
      if open_.late s.clk (arrivalRank (s.coreOf o.blk) o.q (o.elems.head?.elim 0 (·.lane))) then .next s
      else if open_.mismatch o.n barr then
        .next (if o.drop then s.finishOp op
          else (s.finishOp op).faultAt o.blk o.q o.clause o.widx causeBarMismatch 0 ((laneList o.lanes).headD 0) 0#64)
      else if named then .next ((s.arriveNamed o).delOp op)
      else
        let s := s.arriveScope op o
        .next (if o.kind == .bar then s.delOp op else s)

/-- SCOPE_BARRIER_RELEASE (R326, R327): the SBAR waiters of a completed phase go on, and each SBARA arrival of it takes 1 from its
flag, whose waits acquire what the phase releases. -/
def execScopeBarrierRelease (key phase : Nat) (s : State) : Out :=
  match s.sbarDone.find? fun x => x.1 == key && x.2.num + 1 == phase with
  | none => .next s
  | some x =>
    let s : State := { s with sbarDone := s.sbarDone.filter fun y => !(y.1 == key && y.2.num + 1 == phase) }
    let s : State := { s with blocks := s.blocks.map fun b => (b.1, { b.2 with quires := b.2.quires.map fun q =>
      (q.1, { q.2 with threads := q.2.threads.map fun t => match t.2.wait with
        | .scope _ _ k ph => if ph = phase ∧ k = key then (t.1, { t.2.acquireCovers x.2.covers with wait := .none }) else t
        | _ => t }) }) }
    let ids := (s.ops.filter fun o => o.2.kind == .sbar && o.2.m == key).map (·.1)
    .next (ids.foldl (fun s i => match s.op? i with
      | none => s
      | some o =>
        let ls := (o.elems.filter fun e => e.st == 6 && e.pa == phase).map (·.lane)
        let s := (s.decFlag o.blk o.q ls o.flag).mapLanes o.blk o.q ls fun _ t => t.owe o.flag x.2.covers
        let s := s.mapElems i (fun e => e.st == 6 && e.pa == phase) fun e => { e with st := 3 }
        match s.op? i with
        | some o => if o.elems.all Elem.done then s.delOp i else s
        | none => s) s)

/-! ### External waits (R329 to R332) -/

/-- WAITX (R329): each participant waits until its word meets the condition, or until its timeout. -/
def execWaitx (w : W2) (s : State) : Out :=
  match s.ctx? with
  | none => .next s
  | some c =>
    globalAccess s c (c.participants w.p w.n) (atomAddr c w) 8 8 false noCell fun s accs =>
      let ls := accs.map (·.lane)
      let tmo (l : Nat) : Nat := if (c.thread l).wxrem = 0 then (s.part c.B.part).xwtmo else (c.thread l).wxrem
      let o : Op := { c.op .waitx (.waitx w) (laneMask ls) 15 with
        acq := w.x.scope.toNat
        elems := accs.map fun a =>
          { lane := a.lane, va := a.ea, pa := a.pa, size := 8, te := a.x.te
            x := BitVec.ofNat 64 (opB c.Q (c.thread a.lane) w true 0)
            c := BitVec.ofNat 64 (if tmo a.lane = 0 then 0 else s.clk + tmo a.lane * clkPerUs) } }
      let id := s.next
      (s.issueStep c 2 (s.stampOrder c.Q o)).mapLanes c.b c.q ls fun _ t => { t with wait := .waitx id, wxrem := 0 }

/-- A WAITX whose participants have all been released or failed is over (R205). -/
def State.waitxOver (s : State) (id : Nat) : State :=
  match s.op? id with
  | some o => if o.elems.all Elem.done then s.settle id else s
  | none => s

/-- A participant gives its monitor slot back (R331). -/
def State.leaveMonitor (s : State) (id : Nat) (e : Elem) : State :=
  s.updTarn (lineHome (lineOf e.pa)) fun T => { T with monitors := T.monitors.filter fun m => !(m.op == id && m.lane == e.lane) }

/-- A participant is released with the value it read (R329, R330). -/
def State.waitxRelease (s : State) (id : Nat) (o : Op) (e : Elem) (v : Nat) : State :=
  let w := w2Of o.ins
  let ok := xcond (w.x.sub.toNat % 4) v e.x.toNat
  let s := s.observe o e
  let s := if (s.opLanes o).contains e.lane then
      s.updThread o.blk o.q e.lane fun t =>
        { (t.setPair w.d.toNat (BitVec.ofNat 64 v)).setP w.x.c.toNat ok with wait := .none }
    else s
  let s := s.leaveMonitor id e
  (s.mapElems id e.same fun x => { x with st := 3 }).waitxOver id

/-- A participant parks at its word's home; with every slot of the slice in use its supervisor records it (R331). -/
def State.waitxPark (s : State) (id : Nat) (o : Op) (e : Elem) : State :=
  if e.st = 7 ∨ inHost e.pa = true then s.mapElems id e.same fun x => { x with st := 7 }
  else
    let h := lineHome (lineOf e.pa)
    let full := decide (32 ≤ ((s.tarn h).monitors.filter fun m => sliceOf m.pa == sliceOf e.pa && !m.virt).length)
    let s := s.updTarn h fun T => { T with monitors := T.monitors ++ [{ op := id, pa := e.pa, lane := e.lane, virt := full }] }
    let ident := match s.block? o.blk with | some B => identOf B o.q e.lane | none => 0#32
    let s := if full then s.postTrap h { kind := 2, detail := 4, addr := e.va, ident, blk := some o.blk } else s
    s.mapElems id e.same fun x => { x with st := 7 }

/-- Read the words of some participants and release those whose condition holds, or all whose time is over.  A word of another tarn
is asked of its home first (R266); a participant whose line fails the checks of LD ends the task once the others are released
(R205). -/
def State.waitxRead (s : State) (id : Nat) (es : List Elem) (timedOut : Elem → Bool) : State :=
  es.foldl (fun s e => match s.op? id with
    | none => s
    | some o =>
      let ln := lineOf e.pa
      let t := coreTarn (s.coreOf o.blk)
      let m := byteMask (e.pa % 64) 8
      let fail (k : Nat) : State := ((s.leaveMonitor id e).failElem id e k).waitxOver id
      if !s.clearToAct o e then s
      else if s.shut t e.pa then (if e.st = 0 then s.holdUnsent id o e else s)
      else if s.podDown t e.pa then fail causeHomeOffline
      else if !inHost e.pa && t == lineHome ln && s.dramHeld ln then s
      else if !inHost e.pa && !s.agentHas t ln m then s.askSpan (.op id) t ln m
      else if !inHost e.pa && s.poisonedFor t ln then fail causePoison
      else if !inHost e.pa && !s.tagsMatch t e.te e.va e.pa 8 then fail causeTag
      else
        let v := s.agentRead t e.pa 8
        if xcond ((w2Of o.ins).x.sub.toNat % 4) v e.x.toNat || timedOut e then s.waitxRelease id o e v
        else s.waitxPark id o e) s

/-- A participant has no hardware slot: the supervisor of its word's home has recorded it (R331). -/
def State.virtual (s : State) (id : Nat) (e : Elem) : Bool :=
  (s.tarn (lineHome (lineOf e.pa))).monitors.any fun m => m.op == id && m.lane == e.lane && m.virt

/-- The first read of a participant's word, and the read again of a parked one after a write (R329,
R331).  The write that releases participants the supervisor has recorded traps to it, as R313 gives. -/
def State.waitxWake (s : State) (op : Nat) : State :=
  match s.op? op with
  | none => s
  | some o =>
    if o.kind != OpKind.waitx then s
    else
      let es := o.elems.filter fun e => !e.done && !inHost e.pa
      let r := s.waitxRead op es fun _ => false
      match es.find? fun e => s.virtual op e && !r.virtual op e with
      | some e => r.postTrap (lineHome (lineOf e.pa)) { kind := 2, detail := 4, addr := e.va }
      | none => r

/-- WAITX_WAKE (R329). -/
def execWaitxWake (op : Nat) (s : State) : Out := .next (s.waitxWake op)

/-- APERTURE_WAITX_REREAD (R478): a word in host memory is read again every 1 us. -/
def execApertureWaitxReread (op : Nat) (s : State) : Out :=
  match s.op? op with
  | none => .next s
  | some o =>
    if o.kind != OpKind.waitx then .next s
    else .next (s.waitxRead op (o.elems.filter fun e => !e.done && inHost e.pa) fun _ => false)

/-- EXTERNAL_WAIT_TIMEOUT (R332): participants whose time is over are released with the current value. -/
def execExternalWaitTimeout (op : Nat) (s : State) : Out :=
  match s.op? op with
  | none => .next s
  | some o =>
    if o.kind != OpKind.waitx then .next s
    else
      let late (e : Elem) : Bool := e.c != 0#64 && decide (e.c.toNat ≤ s.clk)
      .next (s.waitxRead op (o.elems.filter fun e => !e.done && late e) late)

/-- The aperture takes a SIGX (R478); its word may lie on no CELL page. -/
def execSigx (w : W2) (s : State) : Out :=
  match s.ctx? with
  | none => .next s
  | some c =>
    globalAccess s c (c.participants w.p w.n) (atomAddr c w) 8 8 true noCell fun s accs =>
      let o : Op := { c.op .sigx (.sigx w) (laneMask (accs.map (·.lane))) 15 with
        rel := sigxScope w
        elems := accs.map fun a =>
          { lane := a.lane, va := a.ea, pa := a.pa, size := 8, te := a.x.te
            x := BitVec.ofNat 64 (opB c.Q (c.thread a.lane) w true w.x.imm20.toNat) } }
      s.issueStep c 2 (s.stampOrder c.Q o)

end Sys2Proof.Machine
end

