-- ==== Sys2Proof/Machine/Cell.lean ====
section
/-! DEFINITION. Decide-once cells (R298 to R317): the cell state machine at the home, decision caches, waiters, and the result
quad. -/

namespace Sys2Proof.Machine

/-! ### The cell (R298) and its state machine (R306) -/

def cellValue (c : Nat) : Nat := bits c 63 0
def cellState (c : Nat) : Nat := bits c 65 64
def cellGen (c : Nat) : Nat := bits c 95 66
def cellWinner (c : Nat) : Nat := bits c 127 96
def mkCell (st gen value winner : Nat) : Nat := value + 2 ^ 64 * st + 2 ^ 66 * gen + 2 ^ 96 * winner

/-- Outcome codes of R301. -/
def outWon : Nat := 0
def outLost : Nat := 1
def outStale : Nat := 2
def outOpen : Nat := 3
def outDecided : Nat := 4
def outDone : Nat := 5
def outPoisoned : Nat := 6
def outBad : Nat := 7
def outRefused : Nat := 8

/-- The cell operations. -/
inductive CellOp where
  | prop | dread | dwait | recy | dqry | dinit
deriving DecidableEq, Repr

def cellOpOf (i : Instr) : CellOp :=
  match i with | .prop _ => .prop | .dread _ => .dread | .dwait _ => .dwait | .recy _ => .recy | .dqry _ => .dqry | _ => .dinit

/-- What an act does with a cell: the cell written, if any, and the outcome; no outcome parks the waiter (R306). -/
structure CellAct where
  write : Option Nat := none
  out : Option Nat := none
deriving DecidableEq, Repr

/-- The table of R306: operation, cell before, generation named, value and identity of a proposer. -/
def cellStep (k : CellOp) (c g v ident : Nat) : CellAct :=
  if k = .dinit then { write := some (mkCell 0 g 0 0), out := some outDone }
  else if cellState c = 2 then { out := some outPoisoned }
  else if cellState c = 3 then { out := some outBad }
  else if k = .dqry then { out := some (if cellState c = 0 then outOpen else outDecided) }
  else if cellGen c ≠ g then { out := some outStale }
  else if cellState c = 0 then
    match k with
    | .prop => { write := some (mkCell 1 g v ident), out := some outWon }
    | .dwait => {}
    | .dread | .recy | .dqry | .dinit => { out := some outOpen }
  else
    match k with
    | .prop => { out := some outLost }
    | .recy => if g = 0x3FFFFFFF then { out := some outRefused } else { write := some (mkCell 0 (g + 1) 0 0), out := some outDone }
    | .dread | .dwait | .dqry | .dinit => { out := some outDecided }

/-- The result quad of a cell as it stands after the act (R300). -/
def quadOf (c out : Nat) : List Nat :=
  let st := cellState c
  let v := if st = 1 then cellValue c else 0
  let w := if st = 1 then cellWinner c else 0
  let g := if 2 ≤ st then 0 else cellGen c
  [v % 2 ^ 32, v / 2 ^ 32, st * 2 ^ 30 + g, w / 64 * 64 + out]

/-! ### Decision caches (R308, R309) -/

def Decision.at_ (d : Decision) (pa gen : Nat) : Bool := d.pa == pa && d.gen.toNat == gen

/-- Install in a cache of n entries, least recently used first. -/
def decInstall (l : List Decision) (n : Nat) (d : Decision) : List Decision :=
  if l.any fun x => x.at_ d.pa d.gen.toNat then l.filter (fun x => !x.at_ d.pa d.gen.toNat) ++ l.filter (fun x => x.at_ d.pa d.gen.toNat)
  else (if l.length < n then l else l.drop 1) ++ [d]

/-- Install in a tarn's cache: 16 entries at each slice. -/
def decInstallTarn (l : List Decision) (d : Decision) : List Decision :=
  let mine (x : Decision) : Bool := sliceOf x.pa == sliceOf d.pa
  l.filter (fun x => !mine x) ++ decInstall (l.filter mine) 16 d

def State.installDecision (s : State) (core : Nat) (d : Decision) : State :=
  (s.updCore core fun C => { C with dec := decInstall C.dec 64 d }).updTarn (coreTarn core) fun T => { T with dec := decInstallTarn T.dec d }

/-- The decision that the caches of a core and its tarn hold for a cell at a generation. -/
def State.cachedDecision (s : State) (core pa gen : Nat) : Option Decision :=
  ((s.core core).dec.find? fun d => d.at_ pa gen) <|> ((s.tarn (coreTarn core)).dec.find? fun d => d.at_ pa gen)

/-- Purge the entries for some addresses from every decision cache of a module (R311, R454); a decision on its way to one is not
installed there. -/
def State.purgeDecisions (s : State) (module : Nat) (p : Nat → Bool) : State :=
  { s with
    ops := s.ops.map fun x => if x.2.kind == .cell && x.2.place / 32 / 25 / 12 == module then
        (x.1, { x.2 with elems := x.2.elems.map fun e => if e.done && p e.pa then { e with purged := true } else e }) else x
    cores := s.cores.map fun e => if coreTarn e.1 / 12 = module then (e.1, { e.2 with dec := e.2.dec.filter fun d => !p d.pa }) else e
    tarns := s.tarns.map fun e => if e.1 / 12 = module then (e.1, { e.2 with dec := e.2.dec.filter fun d => !p d.pa }) else e }

/-! ### Issue -/

/-- The page of a cell operation must be a CELL page (R304). -/
def cellAttr (x : Xlat) : Option Nat :=
  if !x.cell then some causeCellKind else if inHost (x.pa x.va) then some causeLease else none

/-- A result at hand: the quad packed into the element's value, and state, generation, winner and outcome. -/
def Elem.quad (e : Elem) (q : List Nat) (st : Nat) : Elem :=
  { e with r := BitVec.ofNat 64 (q.getD 0 0 + 2 ^ 32 * q.getD 1 0), x := BitVec.ofNat 64 (q.getD 2 0 + 2 ^ 32 * q.getD 3 0), st }

/-- A cell operation issues: the checks of R304, the decision caches for a DREAD without `.home` (R309), its release and its
acquire (R314). -/
def cellIssue (ins : Instr) (w : W2) (sc : Nat) (gen : Ctx → Nat → Nat) (val : Ctx → Nat → Nat) (s : State) : Out :=
  match s.ctx? with
  | none => .next s
  | some c =>
    let k := cellOpOf ins
    let wr := k == .prop || k == .recy || k == .dinit
    match s.checkAccess c (c.participants w.p false) (fun l => (c.thread l).getPair w.a.toNat) 16 16 wr cellAttr with
    | .wait s => .next s
    | .fault s => .next s
    | .ok s accs =>
      let cached (a : Acc) : Option Decision :=
        if k == .dread && !w.x.sub.getLsbD 0 then s.cachedDecision c.B.core a.pa (gen c a.lane) else none
      let hits := accs.filter fun a => (cached a).isSome
      if s.trapsFull c (accs.filter fun a => (cached a).isNone) then .next (s.stall c) else
      let r := s.holdOffline c (accs.filter fun a => (cached a).isNone)
      let go := accs.filter fun a => hits.any (·.lane == a.lane) || r.2.any (·.lane == a.lane)
      let es := go.map fun a =>
        let e : Elem := { lane := a.lane, va := a.ea, pa := a.pa, size := 16, x := BitVec.ofNat 64 (val c a.lane), c := BitVec.ofNat 64 (gen c a.lane + 2 ^ 32 * (identOf c.B c.q a.lane).toNat) }
        match cached a with
        | some d => e.quad (quadOf (mkCell 1 d.gen.toNat d.value.toNat d.winner.toNat) outDecided) 4
        | none => e
      let ls := go.map (·.lane)
      let o : Op := { c.op .cell ins (laneMask ls) (c.flag w.n) with
        holdV := if k == .dinit then [] else [w.d.toNat, w.d.toNat + 1, w.d.toNat + 2, w.d.toNat + 3]
        rel := if wr then sc else 0
        acq := if k == .dinit then 0 else sc
        elems := es }
      let s := hits.foldl (fun s a => match cached a with | some d => s.installDecision c.B.core d | none => s) r.1
      let id := s.next
      let s1 := (s.issueStep c 2 (s.stampOrder c.Q o)).holdAcquire c ls o.acq id
      .next ((o.elems.filter Elem.done).foldl (fun s e => (s.noteMet id o e).observe o e) s1)

/-- The generation in V(C)[29:0] (R302). -/
def genC (w : W2) (c : Ctx) (l : Nat) : Nat := (c.thread l).rd false w.x.c % 2 ^ 30

def execProp (w : W2) (s : State) : Out :=
  cellIssue (.prop w) w w.x.scope.toNat (genC w) (fun c l => opB c.Q (c.thread l) w true 0) s
def execDread (w : W2) (s : State) : Out := cellIssue (.dread w) w w.x.scope.toNat (genC w) (fun _ _ => 0) s
def execDwait (w : W2) (s : State) : Out := cellIssue (.dwait w) w w.x.scope.toNat (genC w) (fun _ _ => 0) s
def execRecy (w : W2) (s : State) : Out := cellIssue (.recy w) w w.x.scope.toNat (genC w) (fun _ _ => 0) s
def execDqry (w : W2) (s : State) : Out := cellIssue (.dqry w) w w.x.scope.toNat (fun _ _ => 0) (fun _ _ => 0) s
/-- DINIT (R302, R311): its immediate form holds SCOPE in the TYPE field. -/
def execDinit (w : W2) (s : State) : Out :=
  cellIssue (.dinit w) w (if w.x.isImm then (tyOf w) % 8 else w.x.scope.toNat)
    (fun c l => opB c.Q (c.thread l) w false w.x.imm20.toNat % 2 ^ 30) (fun _ _ => 0) s

/-! ### At the home -/

/-- The cell at a physical address, as its home holds it. -/
def State.cellAt (s : State) (pa : Nat) : Nat :=
  let ln := lineOf pa
  takeData ((s.clean (lineHome ln) ln).homeData ln) (pa % 64) 16

def State.writeCell (s : State) (pa c : Nat) (stamped : Bool) : State :=
  (s.homeWrite (lineOf pa) (byteMask (pa % 64) 16) (placeData (pa % 64) c) 0 stamped).1

/-- Outcomes that carry the order of their instruction (R314). -/
def ordersAs (out : Nat) : Bool := out != outPoisoned && out != outBad

/-- Wake the waiters parked at a cell, in parking order, with an outcome (R312), which is an acquire (R314); those that the
supervisor recorded are delivered by it, with one trap for the act (R313), whose address and source are the model's (log 127). -/
def State.wakeCell (s : State) (pa c out : Nat) : State :=
  let t := lineHome (lineOf pa)
  let ws := (s.tarn t).waiters.filter fun w => w.pa == pa
  let s := s.updTarn t fun T => { T with waiters := T.waiters.filter fun w => w.pa != pa }
  let s := if ws.any (·.virt) then s.postTrap t { kind := 2, detail := 3, addr := BitVec.ofNat 64 pa } else s
  ws.foldl (fun s w =>
    let s := match s.op? w.op with
      | some o => if ordersAs out then (o.elems.filter fun (x : Elem) => x.st == 7 && x.pa == pa).foldl (fun (s : State) x => (s.noteMet w.op o x).observe o x) s else s
      | none => s
    s.mapElems w.op (fun e => e.st == 7 && e.pa == pa) fun e => e.quad (quadOf c out) 4) s

/-- An uncorrectable error in a line of cells (R310): every cell that is not malformed becomes POISONED, the line is written
back good, and the waiters are woken. -/
def State.poisonCells (s : State) (ln : Nat) : State :=
  let s := { s with poisoned := s.poisoned.filter (· != ln) }
  (List.range 4).foldl (fun s i =>
    let pa := ln * 64 + 16 * i
    let c := s.cellAt pa
    let c' := if cellState c = 3 then mkCell 3 0 0 0 else mkCell 2 0 0 0
    (s.writeCell pa c' false).wakeCell pa c' outPoisoned) s

/-- One act of a home slice on the cell of an element (R306, R307); a reader count of its line is discarded (R213). -/
def State.cellActOn (s : State) (id : Nat) (e : Elem) (stamped : Bool) : State :=
  match s.op? id with
  | none => s
  | some o =>
    let ln := lineOf e.pa
    let t := lineHome ln
    let s := s.updTarn t fun T => { T with cellClk := tput T.cellClk (sliceOf e.pa) (s.clk, e.arr.2)
                                           cellFrames := insNat T.cellFrames (e.pa / 65536) }
    let retired := s.lineRetired ln
    let s := if retired then s else (if s.isPoisoned ln then s.poisonCells ln else s).dropCount ln
    let c := if retired then mkCell 2 0 0 0 else s.cellAt e.pa
    let k := cellOpOf o.ins
    let r := cellStep k c (e.c.toNat % 2 ^ 30) e.x.toNat (e.c.toNat / 2 ^ 32)
    match r.out with
    | none =>
      let full := decide (32 ≤ ((s.tarn t).waiters.filter fun w => sliceOf w.pa == sliceOf e.pa && !w.virt).length)
      let s := s.updTarn t fun T => { T with waiters := T.waiters ++ [{ op := id, pa := e.pa, lane := e.lane, virt := full }] }
      let s := if full then s.postTrap t { kind := 2, detail := 3, addr := e.va, ident := BitVec.ofNat 32 (e.c.toNat / 2 ^ 32), blk := some o.blk } else s
      let s := s.mapElems id e.same fun x => { x with st := 7 }
      match s.op? id with
      | some o => s.setOp id { o with m := 1 }
      | none => s
    | some out =>
      let s := if ordersAs out && k != .dinit then (s.noteMet id o e).observe o e else s
      match r.write with
      | none => s.mapElems id e.same fun x => x.quad (quadOf c out) 4
      | some c' =>
        if retired then s.mapElems id e.same fun x => x.quad (quadOf c outPoisoned) 4
        else
          let s := (s.writeCell e.pa c' stamped).mapElems id e.same fun x => x.quad (quadOf c' out) 3
          let s := if k = .recy then s
            else s.wakeCell e.pa c' (if k = .dinit then outStale else outDecided)
          if k = .dinit then s.purgeDecisions (paModule e.pa) fun a => a == e.pa else s

/-- The slice is within the 2 clk spacing of its last cell act (R317). -/
def State.cellSpacing (s : State) (pa : Nat) : Bool :=
  match tget? (s.tarn (lineHome (lineOf pa))).cellClk (sliceOf pa) with | some k => decide (s.clk < k.1 + 2) | none => false

/-- The place of a request among the cell requests that reach a slice in one cycle (R307): the tarn's own by core, and of one core as they
come, then those of the pod port as it delivers them, then stamped ones in stamp order. -/
def State.cellRank (s : State) (o : Op) (e : Elem) : Nat :=
  if s.routeOf o e == .pod then 2 ^ 80 + s.next else if s.stampedFor o e then 2 ^ 96 + s.next else s.coreOf o.blk * 2 ^ 64 + s.next

/-- One arrival is before another. -/
def arrBefore (x y : Nat × Nat) : Bool := decide (x.1 < y.1) || (x.1 == y.1 && decide (x.2 < y.2))

/-- Another instruction's act at the slice is due before an arrival (R307, R317). -/
def State.cellBehind (s : State) (id pa : Nat) (arr : Nat × Nat) : Bool :=
  s.ops.any fun x => x.1 != id && x.2.kind == .cell && x.2.elems.any fun e => e.st == 6 && springOf e.pa == springOf pa && arrBefore e.arr arr

/-- A slice cannot act yet on an arrival: the spacing of its acts, or an act that is due before. -/
def State.cellHeld (s : State) (id pa : Nat) (arr : Nat × Nat) : Bool := s.cellSpacing pa || s.cellBehind id pa arr

/-- An arrival would come before an act that the slice has made in this cycle: it comes in the next one. -/
def State.cellLate (s : State) (pa rank : Nat) : Bool :=
  match tget? (s.tarn (lineHome (lineOf pa))).cellClk (sliceOf pa) with | some k => k.1 == s.clk && decide (rank < k.2) | none => false

/-- The act that is next among an instruction's arrivals at a slice, the lowest lane's (R307). -/
def State.cellNext (s : State) (id pa : Nat) (stamped : Bool) : State :=
  match s.op? id with
  | some o =>
    match o.elems.find? fun x => x.st == 6 && springOf x.pa == springOf pa with
    | some x => if s.cellHeld id pa x.arr then s else s.cellActOn id x stamped
    | none => s
  | none => s

/-- Elements of an instruction reach a slice: they act in the order of R307, the lowest lane first. -/
def State.cellArrive (s : State) (id : Nat) (es : List Elem) (stamped : Bool) : State :=
  match es, s.op? id with
  | e :: _, some o =>
    let arr := (s.clk, s.cellRank o e)
    let s : State := { s.mapElems id (fun e => es.any e.same) fun e => { e with st := 6, arr } with next := s.next + 1 }
    s.cellNext id e.pa stamped
  | _, _ => s

/-- A DINIT whose acts are all done completes (R311). -/
def State.dinitDone (s : State) (id : Nat) : State :=
  match s.op? id with
  | some o => if cellOpOf o.ins == .dinit && o.elems.all Elem.done then s.settle id else s
  | none => s

/-- CELL_ACT (R306, R307): an act at the home slice; a request to another tarn of the module is first sent there.  It leaves its
core only when what it releases is performed (R314). -/
def execCellAct (op lane : Nat) (s : State) : Out :=
  match s.op? op with
  | none => .next s
  | some o =>
    match o.elems.find? fun e => e.lane == lane with
    | none => .next s
    | some e =>
      if o.kind != OpKind.cell || (s.routeOf o e != .here && e.st != 6) || s.dramHeld (lineOf e.pa) then .next s
      else if e.st = 0 && s.shut (coreTarn (s.coreOf o.blk)) e.pa then .next (s.holdUnsent op o e)
      else if !s.serving (lineHome (lineOf e.pa)) then .next s
      else if e.st = 6 then .next ((s.cellNext op e.pa (s.stampedFor o e)).dinitDone op)
      else if e.st != 0 || !s.clearToAct o e then .next s
      else if !s.released o then .next (s.pushBack o.rel o.covers)
      else
        let t := coreTarn (s.coreOf o.blk)
        let es := s.sliceGroup o e
        if es.isEmpty then .next s
        else if t != lineHome (lineOf e.pa) then .next ((s.setOp op { o with since := none }).sendAccess op t (lineOf e.pa) es)
        else if s.cellLate e.pa (s.cellRank o e) then .next s
        else .next (((s.setOp op { o with since := none }).cellArrive op es false).dinitDone op)

/-- The quad of a participant is written, and its decision installed (R300, R308). -/
def State.writeQuad (s : State) (o : Op) (e : Elem) : State :=
  let d := (w2Of o.ins).d.toNat
  let out := e.x.toNat / 2 ^ 32 % 16
  let keep := !e.purged && o.bad.isNone && (out == outWon || out == outLost || out == outDecided)
  let s := if keep && (cellOpOf o.ins == .prop || cellOpOf o.ins == .dread || cellOpOf o.ins == .dwait) then
      s.installDecision (s.coreOf o.blk)
        { pa := e.pa, gen := BitVec.ofNat 30 e.x.toNat, value := e.r, winner := BitVec.ofNat 32 (e.x.toNat / 2 ^ 38 * 64) }
    else s
  if (s.opLanes o).contains e.lane then
    s.updThread o.blk o.q e.lane fun t => (t.setPair d e.r).setPair (d + 2) e.x
  else s

/-- Threads whose acquiring operation has returned go on (R524). -/
def State.endAcquire (s : State) (o : Op) (id : Nat) (ls : List Nat) : State :=
  s.mapLanes o.blk o.q ls fun _ t => if t.acq == some id then { t with acq := none } else t

/-- RESULT_QUAD_WRITE (R300): the four registers of the participants whose results are there.  Of a DWAIT each participant is
released on its own (R312); the other operations write together. -/
def execResultQuadWrite (op : Nat) (s : State) : Out :=
  match s.op? op with
  | none => .next s
  | some o =>
    if o.kind != OpKind.cell || cellOpOf o.ins == .dinit then .next s
    else
      let here := o.elems.filter Elem.done
      let rest := o.elems.filter fun e => !e.done
      let s1 := here.foldl (fun s e => s.writeQuad o e) s
      if rest.isEmpty then .next ((s1.endAcquire o op (laneList o.lanes)).settle op)
      else if here.isEmpty || cellOpOf o.ins != .dwait then .next s
      else
        let ls := here.map (·.lane)
        .next (((s1.endAcquire o op ls).decFlag o.blk o.q ls o.flag).setOp op { o with
          elems := rest, lanes := o.lanes &&& ~~~ laneMask ls })

end Sys2Proof.Machine
end

