-- ==== Sys2Proof/Machine/Agent.lean ====
section
/-! DEFINITION. Accesses by virtual address of agents that hold no lease: the command processors, the schedulers and the
supervisors' hardware (R342, R352, R448, R462); each page is found by the walkers of the agent's tarn (log 11). -/

namespace Sys2Proof.Machine

/-- The parts of n bytes from a virtual address, page by page. -/
def pieces (va n : Nat) : List (Nat × Nat) :=
  let k := 65536 - va % 65536
  if n = 0 then [] else
  (va, min k n) :: (List.range ((n - k + 65535) / 65536)).map fun i =>
    ((va + k + i * 65536) % 2 ^ 64, min 65536 (n - k - i * 65536))

/-- Every page of a range has a translation that satisfies a condition at an address of it, as far as the homes of its table entries are
online (R456). -/
def State.pagesOk (s : State) (t part va n : Nat) (ok : Xlat → Nat → Bool) : Bool :=
  (pieces va n).all fun p => match (s.walk t part p.1).2 with | .ok x => ok x p.1 | .error lv => lv == levelAway

/-- A user page that may be read, written or executed (R203). -/
def userPage (write exec : Bool) (x : Xlat) (va : Nat) : Bool := x.permits true write exec va

/-- Some of n bytes from a virtual address lie at a home that is offline, or a table entry for them does: no request for them is sent
(R456). -/
def State.vaShut (s : State) (t part va n : Nat) : Bool :=
  (pieces va n).any fun p => match (s.walk t part p.1).2 with
    | .ok x => !inHost (x.pa p.1) && s.shut t (x.pa p.1)
    | .error lv => lv == levelAway

/-- One line that an operation's unit reads is at hand, or is asked of its home. -/
def State.opLine (s : State) (id t ln : Nat) : State × Bool :=
  if inHost (ln * 64) then (s, true)
  else if t == lineHome ln && s.dramHeld ln then (s, false)
  else if s.agentHas t ln (BitVec.allOnes 64) then (s, true)
  else (s.askSpan (.op id) t ln (BitVec.allOnes 64), false)

/-- The lines of n bytes from a physical address. -/
def linesOf (pa n : Nat) : List Nat := if n = 0 then [] else (List.range ((pa % 64 + n - 1) / 64 + 1)).map fun i => lineOf pa + i

/-- The unit that performs an operation reads some ranges, and goes on when it has them (R264); held for an offline home like any other
request of the operation (R456).  A page without a translation is left to the unit's own check. -/
def State.opReads (s : State) (id : Nat) (o : Op) (t part : Nat) (rs : List (Nat × Nat)) : State × Bool :=
  match rs.find? fun r => s.vaShut t part r.1 r.2 with
  | some r => (s.holdUnsent id o { lane := (laneList o.lanes).headD 0, va := BitVec.ofNat 64 r.1, pa := 0, size := 0 }, false)
  | none =>
    (rs.flatMap fun r => pieces r.1 r.2).foldl (fun a p =>
      match a.1.walkFrom (some (.op id)) t part p.1 4 1 (a.1.rootTable t) with
      | (s, none) => (s, false)
      | (s, some (.error _)) => (s, a.2)
      | (s, some (.ok x)) => (linesOf (x.pa p.1) p.2).foldl (fun a ln => let r := a.1.opLine id t ln; (r.1, a.2 && r.2)) (s, a.2)) (s, true)

/-- n bytes from a virtual address; none when a page has no translation. -/
def State.readVa (s : State) (t part va n : Nat) : State × Option (List Byte) :=
  (pieces va n).foldl (fun r p => match r.2 with
    | none => r
    | some bs =>
      match r.1.walk t part p.1 with
      | (s, .ok x) => (s, some (bs ++ s.agentBytes t (x.pa p.1) p.2))
      | (s, .error _) => (s, none)) (s, some [])

/-- Write bytes at a virtual address; a page that has no translation takes none, and one of cells is read-only to all but the cell
instructions (R298). -/
def State.writeVa (s : State) (t part va : Nat) (bs : List Byte) : State :=
  (pieces va bs.length).foldl (fun s p =>
    match s.walk t part p.1 with
    | (s, .ok x) => if x.cell then s else s.agentWrite (x.pa p.1) ((bs.drop ((p.1 + 2 ^ 64 - va) % 2 ^ 64)).take p.2)
    | (s, .error _) => s) s

/-- Bits [hi:lo] of the number that n bytes at a virtual address form, 0 where there is no translation. -/
def State.numVa (s : State) (t part va n : Nat) : State × Nat :=
  match s.readVa t part va n with | (s, some bs) => (s, leNat bs) | (s, none) => (s, 0)

/-! ### The ring (R24, R274) -/

/-- Hops between two tarns of a module, on the ring as it stands: intact, or folded around one offline tarn. -/
def State.hops (s : State) (a b : Nat) : Nat :=
  let m := tarnModule a
  let x := a % 12
  let y := b % 12
  let up := (y + 12 - x) % 12
  let down := (x + 12 - y) % 12
  match (List.range 12).find? fun u => (s.tarn (m * 12 + u)).st == Online.folded with
  | some u =>
    let crosses := decide ((u + 12 - x) % 12 ≤ up)
    if crosses then down else up
  | none => min up down

end Sys2Proof.Machine
end

