-- ==== Sys2Proof/Machine/Tile.lean ====
section
/-! DEFINITION. Tiles of the scratchpad (R218 to R222), tile transfers (R224 to R227), and the tile instructions of the
conversion unit, QTILE and TRLCK (R170, R171, R175). -/

namespace Sys2Proof.Machine

/-! ### Descriptors -/

/-- A descriptor's rectangle and kind (R218). -/
structure Desc where
  row0 : Nat
  col0 : Nat
  rows : Nat
  wcols : Nat
  ty : Nat
  image : Bool
deriving DecidableEq, Repr

def descOf (d : Nat) : Desc :=
  { row0 := bits d 8 0, col0 := bits d 15 9, rows := bits d 25 16, wcols := bits d 32 26, ty := bits d 37 33, image := d.testBit 38 }

/-- A descriptor that is well formed for a declared scratchpad size (R219). -/
def descOk (d scratch : Nat) : Bool :=
  let x := descOf d
  bits d 63 62 == 0 && bits d 59 39 == 0 &&
  decide (1 ≤ x.wcols ∧ x.wcols ≤ 96 ∧ 1 ≤ x.rows ∧ x.rows ≤ 512 ∧ x.col0 ≤ 95) && decide (x.col0 + x.wcols ≤ 96) &&
  decide ((x.row0 + x.rows - 1) * 96 + x.col0 + x.wcols ≤ scratch / 4) &&
  (if x.image then x.rows == 67 && x.wcols == 16 && [14, 15, 23].contains x.ty
   else [1, 2, 3, 5, 6, 7, 9, 10, 11, 12, 13, 14, 15].contains x.ty)

/-- Byte offset in the side of tile word (r, c) (R214). -/
def Desc.wordAt (x : Desc) (r c : Nat) : Nat := 4 * ((x.row0 + r) * 96 + x.col0 + c)
/-- Byte offset of byte B of a tile image (R219). -/
def Desc.imageAt (x : Desc) (B : Nat) : Nat := x.wordAt (B / 64) (B % 64 / 4) + B % 4
/-- Two rectangles share a grid word. -/
def Desc.overlaps (x y : Desc) : Bool :=
  decide (x.row0 < y.row0 + y.rows ∧ y.row0 < x.row0 + x.rows ∧ x.col0 < y.col0 + y.wcols ∧ y.col0 < x.col0 + x.wcols)

/-- The bytes of a tile's data as a tile object holds them (R224): row-major words of a GRID tile, the image of an IMAGE tile. -/
def Desc.dataAt (x : Desc) : List Nat :=
  if x.image then (List.range 4256).map x.imageAt
  else ((List.range x.rows).map fun r => (List.range (4 * x.wcols)).map fun i => x.wordAt r 0 + i).flatten
def Desc.dataSize (x : Desc) : Nat := if x.image then 4256 else 4 * x.rows * x.wcols

/-- The entry of a tile table. -/
def Side.tile (S : Side) (n : Nat) : Tile := tget S.tiles n {}
def Tile.desc' (T : Tile) : Desc := descOf T.desc.toNat
def State.setTile (s : State) (B : Block) (n : Nat) (f : Tile → Tile) : State :=
  s.updSide B fun S => { S with tiles := tput S.tiles n (f (S.tile n)) }
/-- A tile is FILLING or DRAINING. -/
def Tile.busy (T : Tile) : Bool := T.st == 1 || T.st == 3

/-- Switch off the lanes of all participants with cause TILE and the tile's number (R216, R221). -/
def State.tileFault (s : State) (c : Ctx) (ls : List Nat) (n : Nat) : State := s.laneFault c.b c.q ls 3 n

/-! ### The tile table -/

/-- TDEF (R218, R221): the descriptor of the lowest participant. -/
def execTdef (w : W2) (s : State) : Out :=
  match s.ctx? with
  | none => .next s
  | some c =>
    match c.participants w.p w.n with
    | [] => .next (s.advance c 2)
    | l :: ls =>
      let n := w.d.toNat
      if ((c.B.sideOf s).tile n).busy then .next (s.stall c)
      else
        let d := ((c.thread l).getPair w.a.toNat).toNat
        if descOk d c.B.scratch then
          .next ((s.setTile c.B n fun _ => { st := 2, desc := BitVec.ofNat 39 d }).advance c 2)
        else .next ((s.advance c 2).tileFault c (l :: ls) n)

/-- TSET (R221): the tile is EMPTY; one tile's descriptor stays, `.all` clears them (log 108). -/
def execTset (w : W2) (s : State) : Out :=
  match s.ctx? with
  | none => .next s
  | some c =>
    match c.participants w.p w.n with
    | [] => .next (s.advance c 2)
    | l :: ls =>
      let S := c.B.sideOf s
      let n := w.d.toNat
      if w.x.sub.getLsbD 0 then
        if S.tiles.any fun e => e.2.busy then .next (s.stall c)
        else .next ((s.updSide c.B fun S => { S with tiles := [] }).advance c 2)
      else if (S.tile n).busy then .next (s.stall c)
      else if (S.tile n).st = 0 then .next ((s.advance c 2).tileFault c (l :: ls) n)
      else .next ((s.setTile c.B n fun T => { T with st := 0 }).advance c 2)

/-- TQRY (R218): the entry with its state, to every participant, in every state of the tile. -/
def execTqry (w : W2) (s : State) : Out :=
  laneStep s 2 w.p w.n fun c _ t =>
    let T := (c.B.sideOf s).tile w.a.toNat
    t.setPair w.d.toNat (BitVec.ofNat 64 (T.desc.toNat + T.st * 2 ^ 60))

/-! ### Tile objects -/

/-- Header bits [61:32] of a tile's object (R224). -/
def Desc.header (x : Desc) : Nat :=
  (if x.image then 2 ^ 61 else 0) + x.ty * 2 ^ 56 + x.wcols * 2 ^ 48 + x.rows * 2 ^ 32

/-- The checks of a tile transfer on its whole object (R205, R225): with the translation of each of its lines.  An `.aon` object lies
within one page (R226). -/
def tileAccess (s : State) (c : Ctx) (l : Nat) (ls : List Nat) (ea : BitVec 64) (size : Nat) (write aon : Bool)
    (f : State → List (BitVec 64 × Nat × Bool) → State) : Out :=
  match s.checkAccess c [l] (fun _ => ea) size 64 write noHost with
  | .wait s => .next s
  | .fault s => .next s
  | .ok s _ =>
    if aon && decide (ea.toNat / 65536 ≠ (ea.toNat + size - 1) / 65536) then .next (s.raise c causeAonSpan 0 l ea) else
    let lines := (List.range ((size + 63) / 64)).filterMap fun i =>
      let va := ea + BitVec.ofNat 64 (64 * i)
      match s.xlate c.B.core (s.partOf c.B) (!c.B.sup) write false va.toNat with
      | .ok x => some (va, x.pa va.toNat, x.te, x)
      | .error _ => none
    match lines.find? fun y => s.homeOffline y.2.1 with
    | some y =>
      let accs : List Acc := ls.map fun l => { lane := l, ea, pa := y.2.1, x := y.2.2.2 }
      .next (if s.trapsFull c accs then s.stall c else (s.holdOffline c accs).1)
    | none => .next (f s (lines.map fun y => (y.1, y.2.1, y.2.2.1)))

/-- The tile a transfer names, if it may issue: it waits while the tile is busy, and an EMPTY tile switches lanes off. -/
def withTile (s : State) (c : Ctx) (ls : List Nat) (n : Nat) (f : Tile → Out) : Out :=
  let T := (c.B.sideOf s).tile n
  if T.busy then .next (s.stall c)
  else if T.st = 0 then .next ((s.advance c 2).tileFault c ls n)
  else f T

/-- LDT (R225): the tile is FILLING until an attempt succeeds or the transfer fails. -/
def execLdt (w : W2) (s : State) : Out :=
  match s.ctx? with
  | none => .next s
  | some c =>
    match c.participants w.p false with
    | [] => .next (s.advance c 2)
    | l :: ls =>
      withTile s c (l :: ls) w.d.toNat fun T =>
        tileAccess s c l (l :: ls) ((c.thread l).getPair w.a.toNat) (64 + T.desc'.dataSize) false false fun s lines =>
          let o : Op := { c.op .ldt (.ldt w) (laneMask (l :: ls)) (c.flag w.n) with
            elems := lines.map fun y => { lane := l, va := y.1, pa := y.2.1, size := 64, te := y.2.2 } }
          (s.setTile c.B w.d.toNat fun T => { T with st := 1 }).issueStep c 2 (s.stampOrder c.Q o)

/-- Write bytes at given offsets of a memory of cells. -/
def scatterBytes (m : List Host.Cell) (offs : List Nat) (bs : List Byte) : List Host.Cell :=
  (offs.zip bs).foldl (fun m x => cellPut m x.1 x.2) m

/-- The bytes of line k of a tile's object that a transfer needs: its header's VER and fields, or its data (R225). -/
def Desc.needs (x : Desc) (k : Nat) : BitVec 64 :=
  if k = 0 then byteMask 0 8 else byteMask 0 (min 64 (x.dataSize - 64 * (k - 1)))

/-- A tile transfer into T(D) is over: the tile is READY, and the operation completes, with a fault if it met one. -/
def State.ldtOver (s : State) (op : Nat) (B : Block) (fault : Option (Elem × Nat)) : State :=
  match s.op? op with
  | none => s
  | some o =>
    let s := s.setTile B (w2Of o.ins).d.toNat fun T => { T with st := 2 }
    let s := match fault with | some (e, k) => s.failElem op e k | none => s
    match s.op? op with
    | some o => (s.setOp op { o with elems := [] }).settle op
    | none => s

/-- An LDT begins its next attempt; after 64 retries it traps TILE-BUSY (R225). -/
def State.ldtRetry (s : State) (op : Nat) (o : Op) (B : Block) (e : Elem) : State :=
  if o.n < 64 then s.setOp op { o with n := o.n + 1, m := 0, bytes := [] } else s.ldtOver op B (some (e, causeTileBusy))

/-- The next read of an attempt has its line: VER and the header first, then the data, then VER again (R225). -/
def State.ldtRead (s : State) (op : Nat) (o : Op) (B : Block) (e : Elem) (bs : List Byte) : State :=
  let n := (w2Of o.ins).d.toNat
  let x := ((B.sideOf s).tile n).desc'
  let hdr := leNat (bs.take 8)
  if o.m = 0 then
    if hdr % 2 = 1 then s.ldtRetry op o B e
    else if bits hdr 61 32 * 2 ^ 32 != x.header then (s.ldtOver op B none).laneFault o.blk o.q (s.opLanes o) 3 n
    else s.setOp op { o with m := 1, bytes := bs }
  else if o.m < o.elems.length then s.setOp op { o with m := o.m + 1, bytes := o.bytes ++ bs }
  else if leNat (bs.take 4) ≠ leNat (o.bytes.take 4) then s.ldtRetry op o B e
  else (s.updSide B fun S => { S with bytes := B.keepHeader S.bytes (scatterBytes S.bytes x.dataAt (o.bytes.drop 64)) }).ldtOver op B none

/-- The next read of an attempt of an LDT, one line of the object (log 18); a line of another tarn is asked of its home first (R266). -/
def State.ldtAttempt (s : State) (op : Nat) : State :=
  match s.op? op with
  | none => s
  | some o =>
    match s.block? o.blk, o.elems[o.m % o.elems.length]? with
    | some B, some e =>
      let t := coreTarn B.core
      let ln := lineOf e.pa
      let home := t == lineHome ln
      let m := if o.m = o.elems.length then byteMask 0 4 else ((B.sideOf s).tile (w2Of o.ins).d.toNat).desc'.needs o.m
      if o.kind != OpKind.ldt || !s.clearToAct o e then s
      else if s.shut t e.pa then s.holdUnsent op o e
      else if s.podDown t e.pa then s.ldtOver op B (some (e, causeHomeOffline))
      else
        let s := if o.bypass then s.evictL1 B.core ln else s
        if home && s.dramHeld ln then s
        else if !s.agentHas t ln m then s.askSpan (.op op) t ln m
        else if s.poisonedFor t ln then s.ldtOver op B (some (e, causePoison))
        else if !s.tagsMatch t e.te e.va e.pa (maskBytes m) then s.ldtOver op B (some (e, causeTag))
        else
          let bs := leBytes 64 (s.readLine t ln).toNat
          let s := if home then (s.bringHome ln (cacheOf o.ins == 2)).countRead ln
            else if tarnModule t != tarnModule (lineHome ln) then s.countRead ln else s
          let s := (s.noteMet op o e).observe o e
          s.ldtRead op ((s.op? op).getD o) B e bs
    | _, _ => s

/-- LDT_ATTEMPT (R225). -/
def execLdtAttempt (op : Nat) (s : State) : Out := .next (s.ldtAttempt op)

/-- Data of a tile, as its object holds it. -/
def State.tileData (s : State) (B : Block) (x : Desc) : List Byte := x.dataAt.map fun a => cellGet (B.sideOf s).bytes a

/-- Cut a list of bytes into words of 8. -/
def words8 : (fuel : Nat) → List Byte → List (List Byte)
  | 0, _ => []
  | fuel + 1, bs => if bs.isEmpty then [] else bs.take 8 :: words8 fuel (bs.drop 8)

/-- STT (R226): the tile's words are read as it issues and the tile drains until the first write; `.aon` stages the object and
commits it whole. -/
def execStt (w : W2) (s : State) : Out :=
  match s.ctx? with
  | none => .next s
  | some c =>
    match c.participants w.p w.n with
    | [] => .next (s.advance c 2)
    | l :: ls =>
      withTile s c (l :: ls) w.d.toNat fun T =>
        let x := T.desc'
        let ea := (c.thread l).getPair w.a.toNat
        let size := 64 + x.dataSize
        tileAccess s c l (l :: ls) ea size true (w.x.sub.getLsbD 0) fun s lines =>
          let el (y : BitVec 64 × Nat × Bool) (off size v : Nat) : Elem :=
            { lane := l, va := y.1 + BitVec.ofNat 64 off, pa := y.2.1 + off, size, te := y.2.2, x := BitVec.ofNat 64 v }
          let data := s.tileData c.B x
          let es := match lines with
            | [] => []
            | h :: rest =>
              let ws := words8 (data.length + 1) data
              let body := (ws.zip (List.range ws.length)).filterMap fun p =>
                (rest[p.2 / 8]?).map fun y => el y (8 * (p.2 % 8)) p.1.length (leNat p.1)
              [el h 0 64 x.header] ++ body ++ [el h 0 4 1]
          let o : Op := { c.op .stt (.stt w) (laneMask (l :: ls)) 15 with elems := es }
          (s.setTile c.B w.d.toNat fun T => { T with st := 3 }).issueStep c 2 (s.stampOrder c.Q o)

/-- The tile of an STT has been read. -/
def State.sttRead (s : State) (o : Op) : State :=
  match s.block? o.blk with
  | none => s
  | some B => s.setTile B (w2Of o.ins).d.toNat fun T => if T.st = 3 then { T with st := 2 } else T

/-- The elements of a plain STT that may be written now on a line: the header, then all data, then VER again (R226). -/
def Op.sttNext (o : Op) (ln : Nat) (stages : List Nat) : List Elem :=
  match o.elems with
  | [] => []
  | h :: rest =>
    let body := rest.dropLast
    let pick (es : List Elem) : List Elem := es.filter fun e => stages.contains e.st && lineOf e.pa == ln
    if !h.done then pick [h]
    else if !body.all Elem.done then pick body
    else pick (rest.drop body.length)

/-- An STT of cache code 2 leaves its line in the least recently used place of the home's set (R211). -/
def State.streamHome (s : State) (o : Op) (ln : Nat) : State :=
  if cacheOf o.ins = 2 then s.updTarn (lineHome ln) fun T =>
    { T with slices := match tget? T.slices ln with | some l => tput T.slices ln (l.used true s.clk) | none => T.slices }
  else s

/-- Write some elements of a plain STT at their home (R226): the header and the last write add 1 to VER as one RMW, which reads the
line.  Where a check fails there (R205), nothing further of the object is written. -/
def State.sttWrite (s : State) (id : Nat) (o : Op) (ln : Nat) (es : List Elem) (stamped : Bool) : State :=
  let s := s.sttRead o
  let bad := es.foldl (fun r e => r <|>
    if s.isPoisoned ln && (elemMask es != BitVec.allOnes 64 || e.size == 64 || s.lineRetired ln) then some (e, causePoison)
    else if !s.tagsMatch (lineHome ln) e.te e.va e.pa e.size then some (e, causeTag) else none) none
  match bad with
  | some (e, k) => (s.failElem id e k).mapElems id (fun e => decide (e.st < 2)) fun e => { e with st := 4 }
  | none =>
    let old := takeData ((s.clean (lineHome ln) ln).homeData ln) (match es with | e :: _ => e.pa % 64 | [] => 0) 4
    let one (e : Elem) : BitVec 64 × BitVec 512 :=
      if e.size = 64 then (BitVec.allOnes 64, placeData 0 (e.x.toNat + (old + 1) % 2 ^ 32))
      else if e.size == 4 && o.elems.getLast? == some e then
        (byteMask (e.pa % 64) 4, placeData (e.pa % 64) ((old + 1) % 2 ^ 32))
      else (byteMask (e.pa % 64) e.size, placeData (e.pa % 64) (e.x.toNat % 2 ^ (8 * e.size)))
    let d := es.foldl (fun a e => (a.1 ||| (one e).1, overlay a.2 (one e).2 (one e).1)) (0#64, 0#512)
    let r := s.homeWrite ln d.1 d.2 0 stamped
    (r.1.streamHome o ln).mapElems id (fun e => es.any e.same) fun e => { e with st := if r.2 then 3 else 2 }

/-- A plain STT at a slice: each write goes to its home. -/
def State.sliceStt (s : State) (id : Nat) (o : Op) (ln : Nat) : State :=
  let c := s.coreOf o.blk
  let t := coreTarn c
  if (w2Of o.ins).x.sub.getLsbD 0 then s else
  let es := (o.sttNext ln [0]).filter fun e => s.clearToAct o e
  if es.isEmpty then s
  else
    let s := (s.evictL1 c ln).sttRead o
    if t = lineHome ln then s.sttWrite id o ln es false else s.sendAccess id t ln es

/-- The lines of an `.aon` object with what is written to each: its header with VER advanced by 2, and its data (R226). -/
def aonLines (h : Elem) (rest : List Elem) (v : Nat) : List (Nat × BitVec 64 × BitVec 512) :=
  (lineOf h.pa, BitVec.allOnes 64, placeData 0 (h.x.toNat + (v + 2) % 2 ^ 32)) ::
    ((rest.map fun e => lineOf e.pa).eraseDups.map fun ln => (ln, storeData (rest.filter fun e => lineOf e.pa == ln)))

/-- An `.aon` object is committed at its home as one event; with a fault memory is unchanged (R226). -/
def State.aonCommit (s : State) (op : Nat) (o : Op) (stamped : Bool) : State :=
  let s := s.sttRead o
  match o.elems with
  | [] => s.settle op
  | h :: rest =>
    let rest := rest.dropLast
    let part (e : Elem) : Bool :=
      lineOf e.pa == lineOf h.pa || elemMask (rest.filter fun x => lineOf x.pa == lineOf e.pa) != BitVec.allOnes 64
    let bad := (o.elems.find? fun e => s.podDown (coreTarn (s.coreOf o.blk)) e.pa).map (·, causeHomeOffline)
      <|> (o.elems.find? fun e => s.isPoisoned (lineOf e.pa) && (part e || s.lineRetired (lineOf e.pa))).map (·, causePoison)
      <|> (o.elems.find? fun e => !s.tagsMatch (lineHome (lineOf e.pa)) e.te e.va e.pa e.size).map (·, causeTag)
    match bad with
    | some (e, k) =>
      match (s.failElem op e k).op? op with
      | some o' => (s.setOp op { o' with elems := [] }).settle op
      | none => s
    | none =>
      let ln := lineOf h.pa
      let v := takeData ((s.clean (lineHome ln) ln).homeData ln) 0 4
      (aonLines h rest v).foldl (fun s x =>
        let r := s.homeWrite x.1 x.2.1 x.2.2 0 stamped
        (r.1.streamHome o x.1).mapElems op (fun e => lineOf e.pa == x.1) fun e => { e with st := if r.2 then 3 else 2 }) s

/-- STT_AON_COMMIT (R226): the staged object goes to its home tarn, as one stamped request for another tarn of the module, and is
committed there; where other tarns share its words, its own tarn stamps one request for all of it, at which they lose them (R268). -/
def execSttAonCommit (op : Nat) (s : State) : Out :=
  match s.op? op with
  | none => .next s
  | some o =>
    if o.kind != OpKind.stt || !(w2Of o.ins).x.sub.getLsbD 0 || (o.elems.any fun e => e.st != 0 || !s.clearToAct o e) then
      .next s
    else match o.elems with
      | [] => .next (s.settle op)
      | h :: _ =>
        let t := coreTarn (s.coreOf o.blk)
        if s.shut t h.pa then .next (s.holdUnsent op o h) else
        let s := if o.bypass then (o.elems.map fun e => lineOf e.pa).eraseDups.foldl (fun s ln => s.evictL1 (s.coreOf o.blk) ln) s else s
        let shared := s.routeOf o h == .here && o.elems.any fun e => !(s.spanSharers (lineOf e.pa) (BitVec.allOnes 64) t).isEmpty
        if s.stampedFor o h || shared then .next (s.sendAccess op t (lineOf h.pa) o.elems)
        else if o.elems.any fun e => s.dramHeld (lineOf e.pa) then .next s
        else .next (s.aonCommit op o false).retire

/-! ### QTILE and TRLCK -/

/-- QTILE (R170, R171): the tiles must be ready; a wrong tile, or two that overlap, switch the participants' lanes off.  Its
operation keeps the words of T(A) as it first meets them. -/
def execQtile (w : W2) (s : State) : Out :=
  match s.ctx? with
  | none => .next s
  | some c =>
    match c.participants w.p false with
    | [] => .next (s.advance c 2)
    | l :: ls =>
      let A := (c.B.sideOf s).tile w.a.toNat
      let D := (c.B.sideOf s).tile w.d.toNat
      let a := A.desc'
      let d := D.desc'
      if A.busy || D.busy then .next (s.stall c)
      else if A.st = 0 ∨ a.image = true ∨ a.ty ≠ 9 ∨ a.rows ≠ 64 ∨ a.wcols ≠ 64 then .next ((s.advance c 2).tileFault c (l :: ls) w.a.toNat)
      else if D.st = 0 ∨ d.image = false ∨ d.ty ≠ tyOf w then .next ((s.advance c 2).tileFault c (l :: ls) w.d.toNat)
      else if a.overlaps d then .next ((s.advance c 2).tileFault c (l :: ls) w.a.toNat)
      else
        let s := s.setTile c.B w.a.toNat fun T => { T with st := 3 }
        let s := s.setTile c.B w.d.toNat fun T => { T with st := 1 }
        let o : Op := { c.op .qtile (.qtile w) (laneMask (l :: ls)) (c.flag w.n) with
          bytes := s.tileData c.B a
          elems := (List.range d.rows).map fun r => { lane := l, va := 0#64, pa := d.wordAt r 0, size := 4 * d.wcols } }
        .next (s.issueStep c 2 (s.stampOrder c.Q o))

/-- A command is about to write a word of a side: a QTILE that has not read it yet may do so now (R171). -/
def State.qtileSees (s : State) (B : Block) (o : Nat) : State :=
  s.ops.foldl (fun s (x : Nat × Op) =>
    if x.2.kind != OpKind.qtile || (s.block? x.2.blk).elim true (fun B' => B'.core != B.core || B'.side != B.side) then s
    else
      let i := (((B.sideOf s).tile (w2Of x.2.ins).a.toNat).desc'.dataAt).idxOf (o / 4 * 4)
      if x.2.bytes.length ≤ i then s
      else
        let y := s.draw
        if y.1.getLsbD 0 then y.2.setOp x.1 { x.2 with
          bytes := x.2.bytes.take i ++ readBytes (B.sideOf s).bytes (o / 4 * 4) 4 ++ x.2.bytes.drop (i + 4) }
        else y.2) s

/-- An engine's write of n bytes of a side; the ring header keeps what a write does not change (R6, R7). -/
def State.engineSide (s : State) (B : Block) (o n v : Nat) : State :=
  ((List.range ((n + 3) / 4)).foldl (fun s i => s.qtileSees B (o + 4 * i)) s).updSide B fun S =>
    { S with bytes := B.keepHeader S.bytes (writeLE S.bytes o n v) }

/-- QTILE_COMPLETION (R170, R171): the image of the words of T(A), each as it stood when QTILE read it (log 19). -/
def execQtileCompletion (op : Nat) (s : State) : Out :=
  match s.op? op with
  | none => .next s
  | some o =>
    match s.block? o.blk with
    | none => .next s
    | some B =>
      if o.kind != OpKind.qtile then .next s
      else
        let w := w2Of o.ins
        let a := ((B.sideOf s).tile w.a.toNat).desc'
        let d := ((B.sideOf s).tile w.d.toNat).desc'
        let m := (B.sideOf s).bytes
        let xs := (List.range 4096).map fun i =>
          if (Config.freeValue (s.free + i)).getLsbD 0 then readLE m (a.wordAt (i / 64) (i % 64)) 4
          else leNat ((o.bytes.drop (4 * i)).take 4)
        let s := { s with free := s.free + 4096 }.updSide B fun S =>
          { S with bytes := B.keepHeader S.bytes (scatterBytes S.bytes d.dataAt (quantTile (tyOf w) (rndOf w.x) xs)) }
        let s := s.setTile B w.a.toNat fun T => { T with st := 2 }
        let s := s.setTile B w.d.toNat fun T => { T with st := 2 }
        .next ((s.mapElems op (fun _ => true) fun e => { e with st := 3 }).settle op)

/-- TRLCK (R175). -/
def execTrlck (w : W2) (s : State) : Out :=
  match s.ctx? with
  | none => .next s
  | some c =>
    match c.participants w.p false with
    | [] => .next (s.advance c 2)
    | l :: ls =>
      let A := (c.B.sideOf s).tile w.a.toNat
      if A.busy then .next (s.stall c)
      else if A.st = 0 ∨ A.desc'.image = false then .next ((s.advance c 2).tileFault c (l :: ls) w.a.toNat)
      else
        let s := s.setTile c.B w.a.toNat fun T => { T with st := 3 }
        .next (s.issueStep c 2 { c.op .trlck (.trlck w) (laneMask (l :: ls)) (c.flag w.n) with holdV := [w.d.toNat] })

/-- TRLCK_STATUS_WRITE (R175): the status word to every participant; the tile is ready again. -/
def execTrlckStatusWrite (op : Nat) (s : State) : Out :=
  match s.op? op with
  | none => .next s
  | some o =>
    match s.block? o.blk with
    | none => .next s
    | some B =>
      if o.kind != OpKind.trlck then .next s
      else
        let w := w2Of o.ins
        let st := trailerStatus (s.tileData B ((B.sideOf s).tile w.a.toNat).desc')
        let s := s.mapLanes o.blk o.q (s.opLanes o) fun _ t => t.wr false w.d st
        .next ((s.setTile B w.a.toNat fun T => { T with st := 2 }).finishOp op)

end Sys2Proof.Machine
end

