-- ==== Sys2Proof/Machine/Engine.lean ====
section
/-! DEFINITION. The copy engine (R365 to R375, R379 to R390): entries and their checks, the words a command moves, reductions,
and shadow pages.  An engine reads the words of another tarn through its own tarn's guest slices, writes them there, and sends its
RMWs over the ring (R264, R266, R269). -/

namespace Sys2Proof.Machine

/-! ### Entries (R371) -/

namespace Entry

def f (e : Entry) (hi lo : Nat) : Nat := Machine.bits e.bits.toNat hi lo
def kind (e : Entry) : Nat := e.f 31 24
def scope (e : Entry) : Nat := e.f 23 21
def ty (e : Entry) : Nat := e.f 20 16
def rop (e : Entry) : Nat := e.f 15 13
def isTile (e : Entry) : Bool := e.f 12 12 == 1
/-- The command moves a tile: a COPY or a GATHER with TILE = 1 (R371, R382). -/
def tiled (e : Entry) : Bool := e.isTile && (e.kind == 1 || e.kind == 2)
def dir (e : Entry) : Nat := e.f 11 10
def dst (e : Entry) : Nat := e.f 255 192
def src (e : Entry) : Nat := e.f 191 128
def len (e : Entry) : Nat := e.f 127 96
def stat (e : Entry) : Nat := e.f 95 64
/-- The command writes, or reads, its block's side. -/
def toSide (e : Entry) : Bool := e.dir == 0
def fromSide (e : Entry) : Bool := e.dir == 1
def sideOff (e : Entry) : Nat := (if e.toSide then e.dst else e.src) % 2 ^ 32
def tileNum (e : Entry) : Nat := (if e.toSide then e.dst else e.src) % 64
/-- The sequence number that stands for the entry in its ring: a chained entry's is its LINK's (R373). -/
def place (e : Entry) : Nat := if e.depth = 0 then e.seq else e.link

end Entry

/-- Bits of R371 from fields, for the entries that instructions form. -/
def entryBits (kind scope ty rop : Nat) (tile : Bool) (dir cache dst src len : Nat) : BitVec 256 :=
  BitVec.ofNat 256 (cache * 2 ^ 8 + dir * 2 ^ 10 + (if tile then 2 ^ 12 else 0) + rop * 2 ^ 13 + ty * 2 ^ 16 + scope * 2 ^ 21 +
    kind * 2 ^ 24 + 0xFFFFFFFF * 2 ^ 64 + len * 2 ^ 96 + src * 2 ^ 128 + dst * 2 ^ 192)

/-- An element type of ACPR, with an operation that accepts it (R376, R279). -/
def reduceOk (ty rop : Nat) : Bool :=
  if [0, 3, 4, 7, 8].contains ty then decide (rop ≤ 5) else [9, 12, 13].contains ty && decide (rop ≤ 2)

/-- Element size of a REDUCE. -/
def redSize (e : Entry) : Nat := tyBits e.ty / 8

/-- A field is malformed under R371 (detail 7); a GATHER that reads a tile has no size that agrees with it (log 101). -/
def Entry.malformed (e : Entry) : Bool :=
  let k := e.kind
  let moves := k == 1 || k == 2 || k == 3
  if k = 5 then
    e.f 20 0 != 0 || decide (e.scope < 4) || e.f 127 100 != 0
  else
    decide (5 < k) || decide (e.scope < 2) || (e.stat != 0xFFFFFFFF && e.stat % 8 != 0) || e.f 63 32 != 0 || e.f 7 0 != 0 || e.dir == 3 || e.f 9 8 == 3 ||
    (if k = 3 then !reduceOk e.ty e.rop || e.dir == 2 || e.isTile || decide (65536 < e.len) else e.ty != 0 || e.rop != 0) ||
    (e.isTile && (k == 4 || (moves && (e.dir == 2 || (k == 1 && e.len != 0) || (k == 2 && e.dir != 0) ||
      (if e.toSide then e.f 255 198 != 0 else e.f 191 134 != 0))))) ||
    (moves && !e.isTile && ((e.dir == 0 && e.f 255 224 != 0) || (e.dir == 1 && e.f 191 160 != 0))) ||
    (k == 4 && (decide (e.len < 1) || decide (256 < e.len) || e.f 191 160 != 0))

/-! ### A block's side as the engine reaches it (R366) -/

def Block.ringBytes (B : Block) : Nat := if B.ring = 0 then 0 else 64 + 32 * B.ring

/-- Bytes of the side that a command may name: the ring area and those below SCRATCH, less the ring header (R372). -/
def Block.sideOk (B : Block) (o n : Nat) : Bool :=
  n == 0 || (decide (o + n ≤ max B.scratch B.ringBytes) && (B.ring == 0 || decide (64 ≤ o)))

/-- A word of a block's side. -/
def State.sideWord (s : State) (B : Block) (o : Nat) : Nat := readLE (B.sideOf s).bytes o 4
def State.putSide (s : State) (B : Block) (o n v : Nat) : State := s.updSide B fun S => { S with bytes := writeLE S.bytes o n v }

/-- Words of the ring header (R366): NOTIFY, DONE, HEAD, FSEQ. -/
def State.notify (s : State) (B : Block) : Nat := s.sideWord B 0
def State.ringHead (s : State) (B : Block) : Nat := s.sideWord B 8
/-- The completion word of a ring (R381). -/
def State.doneWord (s : State) (B : Block) (ring : Nat) : Nat :=
  if ring = 0 then B.idone else if B.ring = 0 then 0 else s.sideWord B 4

/-- Entries of the declared ring that are published and not read (R367). -/
def State.unread (s : State) (B : Block) : Nat := (s.notify B + 2 ^ 32 - s.ringHead B) % 2 ^ 32

/-- Every published entry of the declared ring has been read, or the ring has been stopped (R368, R391). -/
def State.allRead (s : State) (B : Block) : Bool := B.ring == 0 || B.dstop || s.unread B == 0

/-- A ring's entries. -/
def Block.entries (B : Block) (ring : Nat) : List Entry := if ring = 0 then B.iring else B.dring
def State.setRing (s : State) (b ring : Nat) (es : List Entry) : State :=
  s.updBlock b fun B => if ring = 0 then { B with iring := es } else { B with dring := es }
def State.updEntry (s : State) (b ring i : Nat) (f : Entry → Entry) : State :=
  match s.block? b with
  | some B => s.setRing b ring ((B.entries ring).modify i f)
  | none => s

/-! ### What a command moves (R379, R382) -/

/-- The index list of a GATHER: k, rb, s and the list's bytes are good (R379). -/
def State.gatherHead (s : State) (B : Block) (X : Nat) : Option (Nat × Nat × Nat) :=
  let k := s.sideWord B X
  let rb := s.sideWord B (X + 4)
  let st := s.sideWord B (X + 8)
  if 1 ≤ k ∧ k ≤ 4096 ∧ rb % 4 = 0 ∧ 4 ≤ rb ∧ rb ≤ 4096 ∧ st % 4 = 0 ∧ s.sideWord B (X + 12) = 0 then some (k, rb, st) else none

/-- Source of row i of a GATHER: an address, or a side offset. -/
def State.gatherRow (s : State) (B : Block) (e : Entry) (st i : Nat) : Nat :=
  (e.src + s.sideWord B (e.len + 16 + 4 * i) * st) % 2 ^ 64

/-- Every fourth member of a list. -/
def everyFourth : List Nat → List Nat
  | a :: _ :: _ :: _ :: l => a :: everyFourth l
  | _ => []

/-- Offsets of the words of a command's side operand, in order. -/
def State.sideWords (s : State) (B : Block) (e : Entry) (n : Nat) : List Nat :=
  if e.isTile then everyFourth ((B.sideOf s).tile e.tileNum).desc'.dataAt
  else (List.range (n / 4)).map fun i => e.sideOff + 4 * i

/-- Bytes of a COPY (R379, R382). -/
def State.copyBytes (s : State) (B : Block) (e : Entry) : Nat :=
  if e.isTile then ((B.sideOf s).tile e.tileNum).desc'.dataSize else e.len

/-- Bytes of a GATHER's rows and their number. -/
def State.gatherRows (s : State) (B : Block) (e : Entry) : Nat × Nat :=
  match s.gatherHead B e.len with | some (k, rb, _) => (rb, k) | none => (0, 0)

/-- The words that a command moves: source and destination of each (R379). -/
def State.workOf (s : State) (B : Block) (e : Entry) : List (Nat × Nat) :=
  let lin (a n : Nat) : List Nat := (List.range (n / 4)).map fun i => (a + 4 * i) % 2 ^ 64
  match e.kind with
  | 1 =>
    let n := s.copyBytes B e
    if e.dir = 0 then (lin e.src n).zip (s.sideWords B e n)
    else if e.dir = 1 then (s.sideWords B e n).zip (lin e.dst n)
    else (lin e.src n).zip (lin e.dst n)
  | 2 =>
    match s.gatherHead B e.len with
    | none => []
    | some (k, rb, st) =>
      ((List.range k).map fun i => (lin (s.gatherRow B e st i) rb).zip
        (if e.isTile then let x := ((B.sideOf s).tile e.tileNum).desc'; (List.range (rb / 4)).map fun c => x.wordAt i c
         else lin ((e.dst + i * rb) % 2 ^ 64) rb)).flatten
  | 3 => (if e.dir = 1 then s.sideWords B e e.len else lin e.src e.len).zip ((List.range (e.len / 4)).map fun i => 4 * i)
  | _ => []

/-! ### Shadows (R383, R384) -/

/-- The shadow registration of a block that holds a virtual address: handle, registration, page index. -/
def Block.shadowAt (B : Block) (va : Nat) : Option (Nat × Shadow × Nat) :=
  B.shadows.findSome? fun h =>
    let k := (va + 2 ^ 64 - h.2.base.toNat) % 2 ^ 64 / 65536
    if k < h.2.pages then some (h.1, h.2, k) else none

/-- A range overlaps a registered region. -/
def Shadow.overlaps (h : Shadow) (va n : Nat) : Bool :=
  n != 0 && (decide ((va + 2 ^ 64 - h.base.toNat) % 2 ^ 64 < h.pages * 65536) || decide ((h.base.toNat + 2 ^ 64 - va) % 2 ^ 64 < n))

/-- The bytes of memory that a COPY or a GATHER writes: address and number. -/
def State.writesAt (s : State) (B : Block) (e : Entry) : Option (Nat × Nat) :=
  if e.toSide then none
  else if e.kind = 1 then some (e.dst, s.copyBytes B e)
  else if e.kind = 2 then let r := s.gatherRows B e; some (e.dst, r.1 * r.2)
  else none

/-- Copy a page's published contents, tags with them, into its shadow frame, which the same tarn homes (R384, log 22), at one
point.  A frame that other tarns still share takes its invalidations from the home (R268); answers the lines that wait for them. -/
def State.copyPage (s : State) (t src dst : Nat) : State × List Nat :=
  (List.range 1024).foldl (fun r i =>
    let a := src * 1024 + i
    let d := dst * 1024 + i
    let bad := r.1.isPoisoned a
    let w := r.1.homeWrite d (BitVec.allOnes 64) (r.1.readLine t a) 0 false
    let s := (d :: w.1.copiesOf d).foldl (fun s x =>
      (s.setTag (x * 64) (s.tagOf (a * 64))).setTag (x * 64 + 32) (s.tagOf (a * 64 + 32))) w.1
    (if bad then s.poisonWrite d else s, if w.2 then r.2 else r.2 ++ [d])) (s, [])

/-- Where a command's write at a virtual address goes: a physical address, `none` for a write that is dropped because its
generation has been discarded (R390); the page is copied into its frame first when it must be (R384), with the lines of it whose
invalidation is under way. -/
def State.shadowWrite (s : State) (b : Nat) (B : Block) (va pa : Nat) : State × Option Nat × List Nat :=
  match B.shadowAt va with
  | none => (s, some pa, [])
  | some (h, S, k) =>
    if S.discarded then (s, none, [])
    else
      let frame := s.remapPage (S.frames.getD k 0)
      let r := if S.written.contains k then (s, [])
        else
          let r := s.copyPage (coreTarn B.core) (pa / 65536) frame
          (r.1.updBlock b fun B => { B with shadows := tput B.shadows h { S with written := S.written ++ [k] } }, r.2)
      (r.1, some (frame * 65536 + pa % 65536), r.2)

/-- The open generation of every region that a command writes is discarded (R390). -/
def State.discardGen (s : State) (b va n : Nat) : State × Bool :=
  match s.block? b with
  | none => (s, false)
  | some B =>
    if B.shadows.any fun h => h.2.overlaps va n then
      (s.setBlock b { B with shadows := B.shadows.map fun h => if h.2.overlaps va n then (h.1, { h.2 with discarded := true }) else h }, true)
    else (s, false)

/-! ### Checks (R372) -/

/-- A failed check: detail and address. -/
abbrev Bad := Option (Nat × Nat)

/-- A COPY or a REDUCE with a plain range of the side. -/
def Entry.flat (e : Entry) : Bool := (e.kind == 1 || e.kind == 3) && e.dir != 2 && !e.isTile

/-- MISALIGNED of the side operand: a LINK's list is a multiple of 32, a GATHER's of 16 (R373, R379). -/
def Entry.sideAlign (e : Entry) : Bad :=
  let link := e.src % 2 ^ 32
  if e.kind == 4 && link % 32 != 0 then some (2, link)
  else if e.kind == 2 && e.len % 16 != 0 then some (2, e.len)
  else if (e.flat || (e.kind == 2 && e.dir != 2 && !e.isTile)) && e.sideOff % (if e.kind = 3 then redSize e else 4) != 0 then some (2, e.sideOff)
  else none

/-- RANGE of the side operand, with a GATHER's list that R379 does not allow (ENTRY). -/
def State.sideRange (s : State) (B : Block) (e : Entry) : Bad :=
  let k := e.kind
  let link := e.src % 2 ^ 32
  let r := s.gatherRows B e
  let rows := (List.range r.2).map fun i => s.gatherRow B e ((s.gatherHead B e.len).elim 0 (·.2.2)) i
  if e.stat != 0xFFFFFFFF && !B.sideOk e.stat 8 then some (5, e.stat)
  else if k == 4 && !B.sideOk link (32 * e.len) then some (5, link)
  else if e.flat && !B.sideOk e.sideOff e.len then some (5, e.sideOff)
  else if k == 2 && !B.sideOk e.len 16 then some (5, e.len)
  else if k == 2 && (s.gatherHead B e.len).isNone then some (7, e.len)
  else if k == 2 && !B.sideOk e.len (16 + 4 * r.2) then some (5, e.len)
  else if k == 2 && e.dir == 0 && !e.isTile && !B.sideOk e.sideOff (r.1 * r.2) then some (5, e.sideOff)
  else if k == 2 && e.dir == 1 && rows.any (fun o => !B.sideOk o r.1) then some (5, (rows.find? fun o => !B.sideOk o r.1).getD 0 % 2 ^ 32)
  else none

/-- TILE of the side operand (R372, R382). -/
def State.sideTile (s : State) (B : Block) (e : Entry) : Bad :=
  if e.isTile && (e.kind == 1 || e.kind == 2) then
    let r := s.gatherRows B e
    let T := (B.sideOf s).tile e.tileNum
    let x := T.desc'
    if T.st = 0 ∨ !(descOk T.desc.toNat B.scratch) then some (6, e.tileNum)
    else if e.kind = 2 ∧ (r.1 ≠ 4 * x.wcols ∨ x.rows < r.2) then some (6, e.tileNum) else none
  else none

/-- The checks of the side operand in the engine's order (R372), with the side offset that fails. -/
def State.sideBad (s : State) (B : Block) (e : Entry) : Bad := e.sideAlign <|> s.sideRange B e <|> s.sideTile B e

/-- The same in a copy instruction's order: RANGE, ALIGN, TILE (R378); a bad index list is left to the engine. -/
def State.sideBadAtIssue (s : State) (B : Block) (e : Entry) : Bad :=
  (s.sideRange B e).filter (·.1 != 7) <|> e.sideAlign <|> s.sideTile B e

/-- The global ranges of a command: address, bytes, whether it writes them. -/
def State.globalRanges (s : State) (B : Block) (e : Entry) : List (Nat × Nat × Bool) :=
  let out := match s.writesAt B e with | some r => [(r.1, r.2, true)] | none => []
  match e.kind with
  | 1 => (if e.fromSide then [] else [(e.src, s.copyBytes B e, false)]) ++ out
  | 2 => (match s.gatherHead B e.len with
    | some (k, rb, st) => if e.fromSide then [] else (List.range k).map fun i => (s.gatherRow B e st i, rb, false)
    | none => []) ++ out
  | 3 => if e.dir = 1 then [(e.dst, e.len, true)] else [(e.src, e.len, false)]
  | _ => []

/-- MISALIGNED of the global operand (LEN is checked here: log 101). -/
def State.globalAlign (s : State) (B : Block) (e : Entry) : Bad :=
  let unit := if e.kind = 3 then redSize e else 4
  let len := (e.kind == 1 || e.kind == 3) && e.len % unit != 0
  ((s.globalRanges B e).find? fun r => r.2.1 != 0 && (r.1 % unit != 0 || len)).map fun r => (2, r.1)

/-- LEASE of the global operand, over every byte; the aperture takes COPY and GATHER (R478). -/
def State.globalLease (s : State) (B : Block) (e : Entry) : Bad :=
  let host (r : Nat × Nat × Bool) : Bool := e.kind == 3 && !s.pagesOk (coreTarn B.core) B.part r.1 r.2.1 fun x va => !inHost (x.pa va)
  ((s.globalRanges B e).find? fun r => r.2.1 != 0 && (!B.mayAccess r.2.2 r.1 r.2.1 || host r)).map fun r => (1, r.1)

/-- CELL-ACCESS of the global operand, over every byte. -/
def State.globalCell (s : State) (B : Block) (e : Entry) : Bad :=
  ((s.globalRanges B e).find? fun r => r.2.1 != 0 && !s.pagesOk (coreTarn B.core) B.part r.1 r.2.1 fun x _ => !x.cell).map fun r => (3, r.1)

/-- The checks of the global operand in the engine's order (R372). -/
def State.globalBad (s : State) (B : Block) (e : Entry) : Bad := s.globalAlign B e <|> s.globalLease B e <|> s.globalCell B e

/-- The same in a copy instruction's order: LEASE, MISALIGNED, CELL-ACCESS (R378). -/
def State.globalBadAtIssue (s : State) (B : Block) (e : Entry) : Bad := s.globalLease B e <|> s.globalAlign B e <|> s.globalCell B e

/-- A REDUCE may not write a shadow-registered region (R372, detail 7). -/
def Block.reduceShadow (B : Block) (e : Entry) : Bool :=
  e.kind == 3 && e.dir == 1 && B.shadows.any fun h => h.2.overlaps e.dst e.len

/-- The checks of R372, in order. -/
def State.entryBad (s : State) (B : Block) (e : Entry) : Bad :=
  if e.malformed || B.reduceShadow e || (e.kind == 4 && decide (4 ≤ e.depth)) then some (7, 0)
  else s.sideBad B e <|> s.globalBad B e

/-- The cause with which a detail ends the task (R447). -/
def detailCause (d : Nat) : Nat × Nat :=
  match d with
  | 1 => (causeLease, 0) | 2 => (causeMisaligned, 0) | 3 => (causeCellAccess, 0) | 4 => (causeTag, 0)
  | 8 => (causeOverrun, 0) | 9 => (causeHomeOffline, 0) | d => (causeCopy, d)

/-! ### Moving words -/

/-- What a transfer answers: done; held for an offline home; waiting for words over the ring or for DRAM; a write that its home does not
acknowledge, nor its retry (R387, R388); or an outcome of its entry. -/
inductive Moved where
  | done
  | held
  | waits
  | lost
  | ends (code detail : Nat) (ea : Nat)
deriving DecidableEq, Repr

/-- A tarn's agent reaches a home by a stamped request (R264). -/
def remoteHome (t pa : Nat) : Bool := t != lineHome (lineOf pa) && tarnModule t == tarnModule (lineHome (lineOf pa))

/-- A 32-bit word, or n bytes within one, from a virtual address, with the writes that the read meets: held while its home is
offline.  `run` bytes of the source lie from it on in one piece, which is asked of another tarn together (R266). -/
def State.engineRead (s : State) (b : Nat) (B : Block) (e : Entry) (va n off run : Nat) : State × Moved × Nat × List Nat :=
  let t := coreTarn B.core
  let me : Asker := .entry b e.ring e.id
  match s.walkAsk me t B.part va with
  | (s, none) => (s, .waits, 0, [])
  | (s, some (.error lv)) => (s, if lv = levelAway then .held else .ends 3 1 va, 0, [])
  | (s, some (.ok x)) =>
    let pa := x.pa va
    let ln := lineOf pa
    if inHost pa then (if s.hostPosted pa n then (s, .waits, 0, []) else (s, .done, s.agentRead t pa n, s.seenAt pa n))
    else if s.shut t pa then (s, .held, 0, [])
    else if s.podDown t pa then (s, .ends 2 0 0, 0, [])
    else if !remoteHome t pa && s.dramHeld ln then (s, .waits, 0, [])
    else if !s.agentHas t ln (byteMask (pa % 64) n) then
      (s.askSpan me t ln (byteMask (pa % 64) (min run (64 - pa % 64))), .waits, 0, [])
    else if s.poisonedFor t ln then (s, .ends 1 off va, 0, [])
    else if !s.tagsMatch t x.te (BitVec.ofNat 64 va) pa n then (s, .ends 3 4 va, 0, [])
    else (if remoteHome t pa then s else s.bringHome ln (e.f 9 8 == 2), .done, s.agentRead t pa n, s.seenAt pa n)

/-- The last word of a line of a command's source has been moved: the read request for it has been served (R212). -/
def State.countSource (s : State) (B : Block) (va : Nat) : State :=
  match (s.walk (coreTarn B.core) B.part va).2 with
  | .ok x => if inHost (x.pa va) || remoteHome (coreTarn B.core) (x.pa va) then s else s.countRead (lineOf (x.pa va))
  | .error _ => s

/-- A write of an entry that is not performed yet joins the operation that stands for such writes (R247, R255). -/
def State.owe (s : State) (b : Nat) (B : Block) (e : Entry) (pa n : Nat) : State × Entry :=
  let el : Elem := { lane := 32, va := 0#64, pa, size := n, st := 2 }
  match e.wop.bind s.op? with
  | some o =>
    let id := e.wop.getD 0
    let es := match o.elems.getLast? with
      | some y => if y.st = 2 ∧ y.pa + y.size = pa ∧ lineOf y.pa = lineOf pa then o.elems.dropLast ++ [{ y with size := y.size + n }] else o.elems ++ [el]
      | none => [el]
    (s.setOp id { o with elems := es }, e)
  | none =>
    (s.newOp { kind := .store, ins := .clauseEntry b 0 0#64, blk := b, q := 0, lanes := 0#32, place := enginePlace B.core, elems := [el]
               prior := e.covers }, { e with wop := some s.next })

/-- Write n bytes at a virtual address, into the shadow where the region is registered; a write of part of a poisoned
line is not acknowledged (log 21), unless the command writes all of the line: its last word makes the line good (R470), and the lines
that TIERMV has moved it to (R474). -/
def State.engineWrite (s : State) (b : Nat) (B : Block) (e : Entry) (va n v : Nat) (whole last : Bool) : State × Moved × Entry :=
  let t := coreTarn B.core
  match s.walkAsk (.entry b e.ring e.id) t B.part va with
  | (s, none) => (s, .waits, e)
  | (s, some (.error lv)) => (s, if lv = levelAway then .held else .ends 3 1 va, e)
  | (s, some (.ok x)) =>
    let pa := x.pa va
    if !inHost pa && s.shut t pa then (s, .held, e)
    else if s.podDown t pa then (s, .ends 2 0 0, e)
    else if inHost pa && s.hostPosted pa n then (s, .waits, e)
    else if !inHost pa && !remoteHome t pa && s.dramHeld (lineOf pa) then (s, .waits, e)
    else if !inHost pa && !s.tagsMatch (lineHome (lineOf pa)) x.te (BitVec.ofNat 64 va) pa n then (s, .ends 3 4 va, e)
    else
      let gen := (B.shadowAt va).map (·.1)
      match s.shadowWrite b B va pa with
      | (s, none, _) => (s, .done, { e with sd := true })
      | (s, some pa, owed) =>
        let (s, e) := owed.foldl (fun (r : State × Entry) d => r.1.owe b B r.2 (d * 64) 64) (s, { e with gen := addNew e.gen gen.toList })
        let ln := lineOf pa
        if inHost pa then ({ s with host := writeLE s.host (pa % 2 ^ 43) n v }, .done, e)
        else if s.isPoisoned ln && (!whole || s.lineRetired ln) then (s, .lost, e)
        else
          let good := if whole && last && !remoteHome t pa then ln :: s.copiesOf ln else []
          let s : State := if good.isEmpty then s else { s with poisoned := s.poisoned.filter fun x => !good.contains x }
          let r := s.engineLine t ln (byteMask (pa % 64) n) (placeData (pa % 64) v)
          if r.2 then (r.1, .done, e) else ((r.1.owe b B e pa n).1, .done, (r.1.owe b B e pa n).2)

/-- Whether a command writes every word of the line of a destination address. -/
def State.wholeLine (s : State) (B : Block) (e : Entry) (a : Nat) : Bool :=
  match s.writesAt B e with
  | some (d, n) => decide (d ≤ a / 64 * 64) && decide (a / 64 * 64 + 64 ≤ d + n)
  | none => false

/-- The bytes of a command's source that lie from an offset of its source stream on in one piece. -/
def State.srcRun (s : State) (B : Block) (e : Entry) (off : Nat) : Nat :=
  if e.kind = 2 then let rb := (s.gatherRows B e).1; rb - off % rb
  else (if e.kind = 1 then s.copyBytes B e else e.len) - off

/-- No other word that is left to move lies in the same line, by the address that a function picks of a word. -/
def Entry.lastOf (e : Entry) (w : Nat × Nat) (at_ : Nat × Nat → Nat) : Bool := !e.work.any fun x => x != w && at_ x / 64 == at_ w / 64

/-- The first word of a command's source stream, of those left to move, that its tarn meets as poisoned: offset and address (R375,
R390). -/
def State.firstBad (s : State) (B : Block) (e : Entry) : Option (Nat × Nat) :=
  if e.fromSide || (s.poisoned.isEmpty && !s.tarns.any fun T => T.2.springs.any (·.2.retired)) then none
  else
    let ws := s.workOf B e
    let bad (w : Nat × Nat) : Bool := e.work.contains w && match (s.walk (coreTarn B.core) B.part w.1).2 with
      | .ok x => !inHost (x.pa w.1) && s.poisonedFor (coreTarn B.core) (lineOf (x.pa w.1))
      | .error _ => false
    (ws.findIdx? bad).map fun i => (4 * i, (ws.getD i (0, 0)).1)

/-- Move one word of a COPY or a GATHER, or stage one of a REDUCE, where no source word up to it is bad. -/
def State.moveGood (s : State) (b : Nat) (B : Block) (e : Entry) (w : Nat × Nat) (off : Nat) : State × Moved × Entry :=
  let r := if e.fromSide then (s, Moved.done, s.sideWord B w.1, s.seenSide b w.1 4) else s.engineRead b B e w.1 4 off (s.srcRun B e off)
  match r with
  | (s, .done, v, seen) =>
    let e' := { e with seen := addNew e.seen seen }
    let m :=
      if e.kind = 3 then
        (s, .done, { e' with staged := (List.range e.staged.length).map fun i =>
          if w.2 ≤ i ∧ i < w.2 + 4 then BitVec.ofNat 8 (v / 256 ^ (i - w.2)) else e.staged.getD i 0#8 })
      else if e.toSide then (s.engineSide B w.2 4 v, .done, e')
      else s.engineWrite b B e' w.2 4 v (s.wholeLine B e w.2) (e.lastOf w (·.2))
    if m.2.1 == Moved.done && !e.fromSide && e.lastOf w (·.1) then (m.1.countSource B w.1, m.2) else m
  | (s, m, _, _) => (s, m, e)

/-- Move one word of a command; `off` is its offset in the source stream.  No word at or after an uncorrectable one is written
(R390). -/
def State.moveWord (s : State) (b : Nat) (B : Block) (e : Entry) (w : Nat × Nat) (off : Nat) : State × Moved × Entry :=
  match s.firstBad B e with
  | some (o, a) => if o ≤ off then (s, .ends 1 o a, e) else s.moveGood b B e w off
  | none => s.moveGood b B e w off

/-- Number of RMWs of a REDUCE (R380): one for each element, two for a packed word written to memory. -/
def redCount (e : Entry) : Nat :=
  let n := e.len / redSize e
  if e.dir = 1 ∧ (e.ty = 12 ∨ e.ty = 13) then 2 * n else n

/-- Element of RMW number k of a REDUCE, whether it is the upper half of a packed word, and whether the words are packed (R380). -/
def redElem (e : Entry) (k : Nat) : Nat × Bool × Bool :=
  let packed := e.dir == 1 && (e.ty == 12 || e.ty == 13)
  (if packed then k / 2 else k, packed && k % 2 == 1, packed)

/-- Virtual address of RMW number k. -/
def redAddr (e : Entry) (k : Nat) : Nat := (e.dst + (redElem e k).1 * redSize e) % 2 ^ 64

/-- RMW number k of a REDUCE at its MAU (R380), of which its home tells a MAU that meets a poisoned line by not confirming it (log
21). -/
def State.reduceHome (s : State) (b : Nat) (B : Block) (e : Entry) (k pa : Nat) (te stamped : Bool) : State × Moved × Entry :=
  let sz := redSize e
  let i := redElem e k
  let x := leNat ((e.staged.drop (i.1 * sz)).take sz)
  let va := redAddr e k
  let ln := lineOf pa
  if s.isPoisoned ln then (s, .ends 2 (i.1 * sz) va, e)
  else if !s.tagsMatch (lineHome ln) te (BitVec.ofNat 64 va) pa sz then (s, .ends 3 4 va, e)
  else
    let old := takeData ((s.clean (lineHome ln) ln).homeData ln) (pa % 64) sz
    let new := combine e.rop e.ty old x 0
    let o := pa % 64 + (if i.2.1 then 2 else 0)
    let n := if i.2.2 then 2 else sz
    let e := { e with seen := addNew e.seen (s.seenAt pa sz) }
    let r := s.homeWrite ln (byteMask o n) (placeData o (if i.2.1 then new / 2 ^ 16 else new % 2 ^ (8 * n))) 0 stamped
    if r.2 then (r.1, .done, e) else ((r.1.owe b B e pa sz).1, .done, (r.1.owe b B e pa sz).2)

/-- An RMW whose request was lost on its way back has been applied all the same (R389). -/
def State.reduceNow (s : State) (b : Nat) (B : Block) (e : Entry) (k : Nat) : State :=
  if e.dir = 0 then
    let sz := redSize e
    let i := (redElem e k).1
    let o := e.sideOff + i * sz
    s.engineSide B o sz (combine e.rop e.ty (readLE (B.sideOf s).bytes o sz) (leNat ((e.staged.drop (i * sz)).take sz)) 0)
  else match (s.walk (coreTarn B.core) B.part (redAddr e k)).2 with
    | .ok p => if s.shut (coreTarn B.core) (p.pa (redAddr e k)) then s else (s.reduceHome b B e k (p.pa (redAddr e k)) p.te true).1
    | .error _ => s

/-- RMW number k of a REDUCE, at its bank or at its MAU; for another tarn of the module it goes as a stamped request, behind the dirty
bytes of its own tarn (R264). -/
def State.reduceStep (s : State) (b : Nat) (B : Block) (e : Entry) (k : Nat) : State × Moved × Entry :=
  let sz := redSize e
  let t := coreTarn B.core
  if e.dir = 0 then (s.reduceNow b B e k, .done, e)
  else if e.sent then (s, .waits, e)
  else match s.walkAsk (.entry b e.ring e.id) t B.part (redAddr e k) with
    | (s, none) => (s, .waits, e)
    | (s, some (.error lv)) => (s, if lv = levelAway then .held else .ends 3 1 (redAddr e k), e)
    | (s, some (.ok p)) =>
      let pa := p.pa (redAddr e k)
      if s.shut t pa then (s, .held, e)
      else if s.podDown t pa then (s, .ends 2 ((redElem e k).1 * sz) 0, e)
      else if remoteHome t pa then
        ((s.sendWriteBack t (lineOf pa)).send (lineHome (lineOf pa)) (.reduce b e.ring e.id pa), .waits, { e with sent := true })
      else if s.dramHeld (lineOf pa) then (s, .waits, e)
      else s.reduceHome b B e k pa p.te false

/-! ### The run of one started entry -/

/-- An entry ends with an outcome; a source error discards the generation it writes and poisons the page of the bad byte (R390). -/
def State.endEntry (s : State) (b ring i code detail ea : Nat) : State :=
  match s.block? b with
  | none => s
  | some B =>
    match (B.entries ring)[i]? with
    | none => s
    | some e =>
      let r := match s.writesAt B e with | some (d, n) => if code = 1 then s.discardGen b d n else (s, false) | none => (s, false)
      let s := if code = 1 ∧ !e.fromSide then
          match (r.1.walk (coreTarn B.core) B.part ea).2 with
          | .ok x => (List.range 1024).foldl (fun s k => s.poisonWrite (x.pa ea / 65536 * 1024 + k)) r.1
          | .error _ => r.1
        else r.1
      s.updEntry b ring i fun e => { e with stage := 2, code, detail, ea := BitVec.ofNat 64 ea, sd := e.sd || r.2, work := [] }

/-- A lasting path error (R388): the command is replayed whole, once; one in the replay completes it PATH. -/
def State.pathLost (s : State) (b ring i : Nat) : State :=
  match s.block? b with
  | none => s
  | some B =>
    match (B.entries ring)[i]? with
    | none => s
    | some e =>
      if e.rp then s.endEntry b ring i 2 0 0
      else s.updEntry b ring i fun e =>
        { e with rp := true, pos := 0, work := s.workOf B e, staged := if e.kind = 3 then List.replicate e.len 0#8 else [] }

/-- A held entry: its supervisor takes a HOME-OFFLINE trap; with HOFF[0] = 0, or at the limit, it completes as FAULT (R456). -/
def State.holdEntry (s : State) (b ring i : Nat) (ea : Nat) : State :=
  match s.block? b with
  | none => s
  | some B =>
    match (B.entries ring)[i]? with
    | none => s
    | some e =>
      let t := coreTarn B.core
      let T := s.tarn t
      match e.since with
      | none =>
        if !T.hoffEn then s.endEntry b ring i 3 9 ea
        else (s.updEntry b ring i fun e => { e with since := some s.clk }).postTrap t { kind := 3, cause := causeHomeOffline, addr := BitVec.ofNat 64 ea, ident := identOf B 0 0, blk := some b }
      | some c0 => if !T.hoffEn || decide (c0 + T.hoffMs * clkPerMs ≤ s.clk) then s.endEntry b ring i 3 9 ea else s

/-- Advance entry i of a ring by one word (index k of those left) or one RMW. -/
def State.advanceEntry (s : State) (b ring i k : Nat) : State :=
  match s.block? b with
  | none => s
  | some B =>
    match (B.entries ring)[i]? with
    | none => s
    | some e =>
      if e.stage != 1 then s
      else match e.work[k]? with
        | some w =>
          let off := (s.workOf B e).idxOf w * 4
          match s.moveWord b B e w off with
          | (s, .done, e') => s.updEntry b ring i fun _ => { e' with work := e.work.eraseIdx k, since := none }
          | (s, .waits, _) => s
          | (s, .held, _) => s.holdEntry b ring i (if e.fromSide then w.2 else w.1)
          | (s, .lost, _) => s.pathLost b ring i
          | (s, .ends c d ea, _) => s.endEntry b ring i c d ea
        | none =>
          if e.kind = 3 ∧ e.work = [] ∧ e.pos < redCount e then
            match s.reduceStep b B e e.pos with
            | (s, .done, e') => s.updEntry b ring i fun _ => { e' with pos := e.pos + 1, since := none }
            | (s, .waits, e') => s.updEntry b ring i fun _ => e'
            | (s, .held, _) => s.holdEntry b ring i e.dst
            | (s, .lost, _) => s.endEntry b ring i 2 ((redElem e e.pos).1 * redSize e) 0
            | (s, .ends c d ea, _) => s.endEntry b ring i c d ea
          else s

/-- The words of a sector that a span read brought are delivered to an entry (R271): it moves those of its source that lie there. -/
def State.deliverEntry (s : State) (b ring id sec : Nat) : State :=
  match s.block? b with
  | none => s
  | some B =>
    match (B.entries ring).findIdx? fun e => e.id == id with
    | none => s
    | some i =>
      match (B.entries ring)[i]? with
      | none => s
      | some e =>
        let here (w : Nat × Nat) : Bool := !e.fromSide && match (s.walk (coreTarn B.core) B.part w.1).2 with
          | .ok x => sectorOf (x.pa w.1) == sec
          | .error _ => false
        (e.work.filter here).foldl (fun s w =>
          match (s.block? b).bind fun B => (B.entries ring)[i]? with
          | some e' => match e'.work.findIdx? (· == w) with | some k => s.advanceEntry b ring i k | none => s
          | none => s) s

/-- An RMW of a REDUCE acts at its home, where its entry is still at it (R263, R389). -/
def State.actReduce (s : State) (b ring id pa : Nat) : State :=
  match s.block? b with
  | none => s
  | some B =>
    match (B.entries ring).findIdx? fun e => e.id == id with
    | none => s
    | some i =>
      match (B.entries ring)[i]? with
      | none => s
      | some e =>
        if e.stage != 1 || !e.sent then s
        else
          let te := match (s.walk (coreTarn B.core) B.part (redAddr e e.pos)).2 with | .ok x => x.te | .error _ => false
          match s.reduceHome b B e e.pos pa te true with
          | (s, .ends c d ea, _) => s.endEntry b ring i c d ea
          | (s, _, e') => s.updEntry b ring i fun _ => { e' with pos := e.pos + 1, sent := false, since := none }

/-- A started entry has nothing left to do; a LINK has none of its own. -/
def Entry.idle (e : Entry) : Bool := e.work.isEmpty && (e.kind != 3 || decide (redCount e ≤ e.pos))

/-- Advance an entry as far as it goes. -/
def State.runEntry (s : State) (b ring i : Nat) : (fuel : Nat) → State
  | 0 => s
  | fuel + 1 => (s.advanceEntry b ring i 0).runEntry b ring i fuel

/-! ### Placing an entry (R369, R378) -/

/-- Place an entry on the block's instruction ring for some lanes, as a release at `.core` (R246); with 16 outstanding the
instruction stalls.  The entry's operation ends with its completion. -/
def State.placeEntry (s : State) (c : Ctx) (kind : OpKind) (ins : Instr) (ls : List Nat) (flag : Nat) (hold : List Nat)
    (e : BitVec 256) : Out :=
  if 16 ≤ c.B.iring.length then .next (s.stall c)
  else
    let o := s.stampOrder c.Q { c.op kind ins (laneMask ls) flag with holdV := hold, rel := 2 }
    let seq := (c.B.iseq + 1) % 2 ^ 32
    let x : Entry := { bits := e, seq, ring := 0, origin := some s.next, clause := c.gr.clause, widx := c.gr.widx,
                       covers := o.covers, id := s.next, ident := identOf c.B c.q (ls.headD 0) }
    let s := s.issueStep c 2 { o with rel := 0, fsc := 0, covers := [] }
    .next (s.updBlock c.b fun B => { B with iring := B.iring ++ [x], iseq := seq })

end Sys2Proof.Machine
end

