-- ==== Sys2Proof/Machine/Integer.lean ====
section
/-! DEFINITION. Integer, bit, compare, select and move instructions, per lane (R121 to R136), and their uniform
counterparts (R137 to R141): each computation stands once, over numbers. -/

namespace Sys2Proof.Machine

/-! ### The computations -/

/-- `.sat` of IADD, ISUB, IMUL, IMAD, IABS, INEG; `.wrap` of the shifts: SUB[0]. -/
def sub0 (w : W2) : Bool := w.x.sub.getLsbD 0

def addN (ty : Nat) (sat : Bool) (a b : Nat) : Nat := reduce ty sat (valOf ty a + valOf ty b)
def subN (ty : Nat) (sat : Bool) (a b : Nat) : Nat := reduce ty sat (valOf ty a - valOf ty b)
def mulN (ty : Nat) (sat : Bool) (a b : Nat) : Nat := reduce ty sat (valOf ty a * valOf ty b)
/-- One exact result, reduced once (R124). -/
def madN (ty : Nat) (sat : Bool) (a b c : Nat) : Nat := reduce ty sat (valOf ty a * valOf ty b + valOf ty c)
/-- High half of the product (R126). -/
def mulHi (ty a b : Nat) : Nat := ofInt (tyBits ty) (valOf ty a * valOf ty b / 2 ^ tyBits ty)
/-- 32 by 32 bits plus a 64-bit addend (R126). -/
def madWide (ty a b c : Nat) : Nat := ofInt 64 (valOf ty a * valOf ty b + c)
def minN (ty a b : Nat) : Nat := if valOf ty a ≤ valOf ty b then a else b
def maxN (ty a b : Nat) : Nat := if valOf ty b ≤ valOf ty a then a else b
def absN (ty : Nat) (sat : Bool) (a : Nat) : Nat := reduce ty sat (valOf ty a).natAbs
def negN (ty : Nat) (sat : Bool) (a : Nat) : Nat := reduce ty sat (-(valOf ty a))
/-- Sum of absolute differences; N8 takes every byte unsigned (R127). -/
def sadN (ty a b c : Nat) : Nat :=
  if ty = 5 then
    ((List.range 4).foldl (fun acc i => acc + ((bits a (8*i+7) (8*i) : Int) - bits b (8*i+7) (8*i)).natAbs) c) % 2 ^ 32
  else ofInt 32 ((valOf ty a - valOf ty b).natAbs + valOf ty c)

/-- Shift count under `.wrap` (R129). -/
def shCount (W : Nat) (wrap : Bool) (n : Nat) : Nat := if wrap then n % W else n
def shlN (W : Nat) (wrap : Bool) (a n : Nat) : Nat := let k := shCount W wrap n; if W ≤ k then 0 else a * 2 ^ k % 2 ^ W
def shrN (W : Nat) (wrap : Bool) (a n : Nat) : Nat := let k := shCount W wrap n; if W ≤ k then 0 else a % 2 ^ W / 2 ^ k
/-- All sign bits when the count reaches the width (R129). -/
def sarN (W : Nat) (wrap : Bool) (a n : Nat) : Nat :=
  let k := shCount W wrap n
  ofInt W (toSigned W a / 2 ^ (if W ≤ k then W else k))
/-- Funnel shift of two words (R130). -/
def shfN (right wrap : Bool) (lo hi n : Nat) : Nat :=
  let x := hi * 2 ^ 32 + lo
  let k := if wrap then n % 32 else min n 32
  if right then x / 2 ^ k % 2 ^ 32 else x * 2 ^ k / 2 ^ 32 % 2 ^ 32

def popcN (W a : Nat) : Nat := ((List.range W).filter fun i => a.testBit i).length
def clzN (W a : Nat) : Nat := if a % 2 ^ W = 0 then W else W - 1 - ilog2 (a % 2 ^ W)
def ctzN (W a : Nat) : Nat := ((List.range W).find? fun i => a.testBit i).getD W
def brevN (W a : Nat) : Nat := (List.range W).foldl (fun acc i => acc + (if a.testBit i then 2 ^ (W - 1 - i) else 0)) 0

/-- Bit-field extract: position b[7:0], length b[15:8] (R132). -/
def bfxN (ty a b : Nat) : Nat :=
  let p := bits b 7 0
  let k := bits b 15 8
  let e := min (p + k) 32
  if 32 ≤ p ∨ k = 0 then 0
  else
    let f := a / 2 ^ p % 2 ^ (e - p)
    if ty = 0 ∨ ty = 7 then f else ofInt 32 (toSigned (e - p) f)
/-- Bit-field insert (R132). -/
def bfiN (a b c : Nat) : Nat :=
  let p := bits b 7 0
  let k := bits b 15 8
  let e := min (p + k) 32
  if p < 32 ∧ 0 < k then
    c % 2 ^ p + (a % 2 ^ (e - p)) * 2 ^ p + c / 2 ^ e * 2 ^ e
  else c

/-- Bitwise table function of three words (R128). -/
def lop3N (t : BitVec 8) (a b c : Nat) : Nat :=
  (List.range 32).foldl (fun acc j =>
    let i := (if a.testBit j then 1 else 0) + (if b.testBit j then 2 else 0) + (if c.testBit j then 4 else 0)
    acc + (if t.getLsbD i then 2 ^ j else 0)) 0

/-- MOVI's value: sign-extended to W, or in bits [31:12] under `.hi` (R134). -/
def moviN (ty : Nat) (mode : BitVec 7) (i : BitVec 20) : Nat :=
  if mode = 1#7 then i.toNat * 4096 else ofInt (tyBits ty) i.toInt

/-- 64-bit address arithmetic (R135). -/
def leaN (ty a b sh : Nat) : Nat :=
  ofInt 64 ((a : Int) + (if ty = 7 then ((b % 2 ^ 32 : Nat) : Int) else toSigned 32 b) * 2 ^ sh)

/-- Byte permute (R136). -/
def prmtN (a b c : Nat) : Nat :=
  let x := c * 2 ^ 32 + a
  (List.range 4).foldl (fun acc i =>
    let s := bits b (8*i+7) (8*i)
    let v := bits x (8 * (s % 8) + 7) (8 * (s % 8))
    let m := bits s 4 3
    let r := if m = 1 then 0 else if m = 2 then 255 else if m = 3 then (if 128 ≤ v then 255 else 0) else v
    acc + r * 2 ^ (8 * i)) 0

/-! ### Shapes -/

/-- One-word f(a, b) over V registers (R47). -/
def bin1 (w : W1) (s : State) (f : Nat → Nat → Nat) : Out :=
  laneStep s 1 w.p w.n fun _ _ t => t.wr false w.d (f (t.rd false w.a) (t.rd false w.b))

/-- Two-word f(a, b) at the width of the type, the immediate extended by type (R122). -/
def bin2 (w : W2) (s : State) (f : Nat → Nat → Nat) : Out :=
  laneStep s 2 w.p w.n fun c _ t =>
    t.wr w.x.w64 w.d (f (t.rd w.x.w64 w.a) (opB c.Q t w w.x.w64 (immByType (tyOf w) w.x.imm20)))

/-- Two-word f(a, b) with a 32-bit operand b whose immediate is zero-extended. -/
def bin2z (w : W2) (s : State) (f : Nat → Nat → Nat) : Out :=
  laneStep s 2 w.p w.n fun c _ t =>
    t.wr w.x.w64 w.d (f (t.rd w.x.w64 w.a) (opB c.Q t w false w.x.imm20.toNat))

/-- Two-word f(a, b, c) with a V operand c, the immediate given. -/
def tern2 (w : W2) (s : State) (imm : Nat) (f : Nat → Nat → Nat → Nat) : Out :=
  laneStep s 2 w.p w.n fun c _ t =>
    t.wr w.x.w64 w.d (f (t.rd w.x.w64 w.a) (opB c.Q t w w.x.w64 imm) (t.rd w.x.w64 (cField w)))

/-- Two-word f(a). -/
def un2 (w : W2) (s : State) (wideD : Bool) (f : Nat → Nat) : Out :=
  laneStep s 2 w.p w.n fun _ _ t => t.wr wideD w.d (f (t.rd w.x.w64 w.a))

/-- One-word f(a, b) over G registers. -/
def gbin1 (w : W1) (s : State) (f : Nat → Nat → Nat) : Out :=
  uniStep s 1 w.p w.n fun q => q.wr false w.d (f (q.rd false w.a) (q.rd false w.b))

/-- Two-word f(a, b) over G registers at the width of the type. -/
def gbin2 (w : W2) (s : State) (f : Nat → Nat → Nat) : Out :=
  uniStep s 2 w.p w.n fun q =>
    q.wr w.x.w64 w.d (f (q.rd w.x.w64 w.a) (opBG q w w.x.w64 (immByType (tyOf w) w.x.imm20)))

def gbin2z (w : W2) (s : State) (f : Nat → Nat → Nat) : Out :=
  uniStep s 2 w.p w.n fun q =>
    q.wr w.x.w64 w.d (f (q.rd w.x.w64 w.a) (opBG q w false w.x.imm20.toNat))

/-! ### L-set integer instructions -/

def execIaddOneWord (w : W1) (s : State) : Out := bin1 w s (addN 0 false)
def execIaddTwoWord (w : W2) (s : State) : Out := bin2 w s (addN (tyOf w) (sub0 w))
def execIsubOneWord (w : W1) (s : State) : Out := bin1 w s (subN 0 false)
def execIsubTwoWord (w : W2) (s : State) : Out := bin2 w s (subN (tyOf w) (sub0 w))
def execImulOneWord (w : W1) (s : State) : Out := bin1 w s (mulN 0 false)
def execImulTwoWord (w : W2) (s : State) : Out := bin2 w s (mulN (tyOf w) (sub0 w))
def execImulh (w : W2) (s : State) : Out := bin2 w s (mulHi (tyOf w))
def execImad (w : W2) (s : State) : Out := tern2 w s (immByType (tyOf w) w.x.imm20) (madN (tyOf w) (sub0 w))
def execImin (w : W2) (s : State) : Out := bin2 w s (minN (tyOf w))
def execImax (w : W2) (s : State) : Out := bin2 w s (maxN (tyOf w))
def execIabs (w : W2) (s : State) : Out := un2 w s w.x.w64 (absN (tyOf w) (sub0 w))
def execIneg (w : W2) (s : State) : Out := un2 w s w.x.w64 (negN (tyOf w) (sub0 w))
def execIsad (w : W2) (s : State) : Out := tern2 w s (immByType (tyOf w) w.x.imm20) (sadN (tyOf w))

/-- IADDC (R125): the carry is read from P(C) and written back to it. -/
def execIaddc (w : W2) (s : State) : Out :=
  laneStep s 2 w.p w.n fun c _ t =>
    let r := addCarry (t.rd false w.a) (opB c.Q t w false (immByType (tyOf w) w.x.imm20)) (t.getP (cField w).toNat)
    (t.wr false w.d r.1).setP (cField w).toNat r.2

/-- ISUBB (R125): the borrow is read from P(C) and written back to it. -/
def execIsubb (w : W2) (s : State) : Out :=
  laneStep s 2 w.p w.n fun c _ t =>
    let r := subBorrow (t.rd false w.a) (opB c.Q t w false (immByType (tyOf w) w.x.imm20)) (t.getP (cField w).toNat)
    (t.wr false w.d r.1).setP (cField w).toNat r.2

/-- IMADW (R126). -/
def execImadw (w : W2) (s : State) : Out :=
  laneStep s 2 w.p w.n fun c _ t =>
    t.wr true w.d (madWide (tyOf w) (t.rd false w.a) (opB c.Q t w false (immByType (tyOf w) w.x.imm20)) (t.rd true (cField w)))

def execAndOneWord (w : W1) (s : State) : Out := bin1 w s (· &&& ·)
def execAndTwoWord (w : W2) (s : State) : Out := bin2z w s (· &&& ·)
def execOrOneWord (w : W1) (s : State) : Out := bin1 w s (· ||| ·)
def execOrTwoWord (w : W2) (s : State) : Out := bin2z w s (· ||| ·)
def execXorOneWord (w : W1) (s : State) : Out := bin1 w s (· ^^^ ·)
def execXorTwoWord (w : W2) (s : State) : Out := bin2z w s (· ^^^ ·)
/-- a and not b (R128). -/
def andnN (a b : Nat) : Nat := a &&& (b ^^^ 0xFFFFFFFF)
def execAndn (w : W2) (s : State) : Out := bin2z w s andnN

/-- LOP3 (R128): its table stands in extension bits [17:10]. -/
def execLop3 (w : W2) (s : State) : Out :=
  laneStep s 2 w.p w.n fun _ _ t =>
    t.wr false w.d (lop3N w.x.lop3Table (t.rd false w.a) (t.rd false w.b) (t.rd false w.x.c))

def execShlOneWord (w : W1) (s : State) : Out := bin1 w s (shlN 32 false)
def execShlTwoWord (w : W2) (s : State) : Out := bin2z w s (shlN (tyBits (tyOf w)) (sub0 w))
def execShrOneWord (w : W1) (s : State) : Out := bin1 w s (shrN 32 false)
def execShrTwoWord (w : W2) (s : State) : Out := bin2z w s (shrN (tyBits (tyOf w)) (sub0 w))
def execSar (w : W2) (s : State) : Out := bin2z w s (sarN (tyBits (tyOf w)) (sub0 w))
/-- SHF (R130): low word V(A), high word V(C). -/
def execShf (w : W2) (s : State) : Out :=
  tern2 w s w.x.imm20.toNat fun a b c => shfN (sub0 w) (w.x.sub.getLsbD 1) a c b

def execPopc (w : W2) (s : State) : Out := un2 w s false (popcN (tyBits (tyOf w)))
def execClz (w : W2) (s : State) : Out := un2 w s false (clzN (tyBits (tyOf w)))
def execCtz (w : W2) (s : State) : Out := un2 w s false (ctzN (tyBits (tyOf w)))
def execBrev (w : W2) (s : State) : Out := un2 w s w.x.w64 (brevN (tyBits (tyOf w)))
def execBfx (w : W2) (s : State) : Out := bin2z w s (bfxN (tyOf w))
def execBfi (w : W2) (s : State) : Out := tern2 w s w.x.imm20.toNat bfiN

/-- ISET (R133): an all-ones or zero word, or with SUB[3] a predicate. -/
def execIset (w : W2) (s : State) : Out :=
  laneStep s 2 w.p w.n fun c _ t =>
    let r := icond (w.x.sub &&& 7#4).toNat (valOf (tyOf w) (t.rd w.x.w64 w.a))
      (valOf (tyOf w) (opB c.Q t w w.x.w64 (immByType (tyOf w) w.x.imm20)))
    if w.x.sub.getLsbD 3 then t.setP w.d.toNat r else t.wr false w.d (boolWord r)

/-- ISEL (R133): a if P(C) is true, else b. -/
def execIsel (w : W2) (s : State) : Out :=
  laneStep s 2 w.p w.n fun c _ t =>
    t.wr w.x.w64 w.d (if t.getP (cField w).toNat then t.rd w.x.w64 w.a
      else opB c.Q t w w.x.w64 (immByType (tyOf w) w.x.imm20))

def execMovOneWord (w : W1) (s : State) : Out := laneStep s 1 w.p w.n fun _ _ t => t.wr false w.d (t.rd false w.a)
def execMovTwoWord (w : W2) (s : State) : Out := un2 w s w.x.w64 id
def execMovi (w : W2) (s : State) : Out :=
  laneStep s 2 w.p w.n fun _ _ t => t.wr w.x.w64 w.d (moviN (tyOf w) w.a w.x.imm20)

/-- LEA (R135): its shift is SUB[2:0] in the modifier form and 0 in the immediate form. -/
def execLea (w : W2) (s : State) : Out :=
  laneStep s 2 w.p w.n fun c _ t =>
    t.wr true w.d (leaN (tyOf w) (t.rd true w.a) (opB c.Q t w false (immByType (tyOf w) w.x.imm20)) w.x.sub.toNat)

def execPrmt (w : W2) (s : State) : Out := tern2 w s w.x.imm20.toNat prmtN

/-! ### Uniform instructions (R138) -/

def execGaddOneWord (w : W1) (s : State) : Out := gbin1 w s (addN 0 false)
def execGaddTwoWord (w : W2) (s : State) : Out := gbin2 w s (addN (tyOf w) (sub0 w))
def execGsubOneWord (w : W1) (s : State) : Out := gbin1 w s (subN 0 false)
def execGsubTwoWord (w : W2) (s : State) : Out := gbin2 w s (subN (tyOf w) (sub0 w))
def execGmulOneWord (w : W1) (s : State) : Out := gbin1 w s (mulN 0 false)
def execGmulTwoWord (w : W2) (s : State) : Out := gbin2 w s (mulN (tyOf w) (sub0 w))
def execGmad (w : W2) (s : State) : Out :=
  uniStep s 2 w.p w.n fun q =>
    q.wr w.x.w64 w.d (madN (tyOf w) (sub0 w) (q.rd w.x.w64 w.a)
      (opBG q w w.x.w64 (immByType (tyOf w) w.x.imm20)) (q.rd w.x.w64 (cField w)))
def execGandOneWord (w : W1) (s : State) : Out := gbin1 w s (· &&& ·)
def execGandTwoWord (w : W2) (s : State) : Out := gbin2z w s (· &&& ·)
def execGorOneWord (w : W1) (s : State) : Out := gbin1 w s (· ||| ·)
def execGorTwoWord (w : W2) (s : State) : Out := gbin2z w s (· ||| ·)
def execGxorOneWord (w : W1) (s : State) : Out := gbin1 w s (· ^^^ ·)
def execGxorTwoWord (w : W2) (s : State) : Out := gbin2z w s (· ^^^ ·)
def execGshlOneWord (w : W1) (s : State) : Out := gbin1 w s (shlN 32 false)
def execGshlTwoWord (w : W2) (s : State) : Out := gbin2z w s (shlN (tyBits (tyOf w)) (sub0 w))
def execGshrOneWord (w : W1) (s : State) : Out := gbin1 w s (shrN 32 false)
def execGshrTwoWord (w : W2) (s : State) : Out := gbin2z w s (shrN (tyBits (tyOf w)) (sub0 w))
def execGsarOneWord (w : W1) (s : State) : Out := gbin1 w s (sarN 32 false)
def execGsarTwoWord (w : W2) (s : State) : Out := gbin2z w s (sarN (tyBits (tyOf w)) (sub0 w))
def execGminOneWord (w : W1) (s : State) : Out := gbin1 w s (minN 0)
def execGminTwoWord (w : W2) (s : State) : Out := gbin2 w s (minN (tyOf w))
def execGmaxOneWord (w : W1) (s : State) : Out := gbin1 w s (maxN 0)
def execGmaxTwoWord (w : W2) (s : State) : Out := gbin2 w s (maxN (tyOf w))
def execGmov (w : W1) (s : State) : Out := uniStep s 1 w.p w.n fun q => q.wr false w.d (q.rd false w.a)
def execGmovi (w : W2) (s : State) : Out :=
  uniStep s 2 w.p w.n fun q => q.wr w.x.w64 w.d (moviN (tyOf w) w.a w.x.imm20)

/-- GSET: as ISET, over GP (R138). -/
def execGset (w : W2) (s : State) : Out :=
  uniStep s 2 w.p w.n fun q =>
    let r := icond (w.x.sub &&& 7#4).toNat (valOf (tyOf w) (q.rd w.x.w64 w.a))
      (valOf (tyOf w) (opBG q w w.x.w64 (immByType (tyOf w) w.x.imm20)))
    if w.x.sub.getLsbD 3 then q.setGP w.d.toNat r else q.wr false w.d (boolWord r)

/-- GSEL: as ISEL, over GP (R138). -/
def execGsel (w : W2) (s : State) : Out :=
  uniStep s 2 w.p w.n fun q =>
    q.wr w.x.w64 w.d (if q.getGP (cField w).toNat then q.rd w.x.w64 w.a
      else opBG q w w.x.w64 (immByType (tyOf w) w.x.imm20))

/-- GPLOP: as PLOP, over GP (R137). -/
def execGplop (w : W2) (s : State) : Out :=
  uniStep s 2 w.p w.n fun q => q.setGP w.d.toNat (lut2 w.x.sub (q.getGP w.a.toNat) (q.getGP w.b.toNat))

/-- G2V (R140): every thread of the issuing group receives G(A). -/
def execG2v (w : W1) (s : State) : Out :=
  match s.ctx? with
  | none => .next s
  | some c =>
    .next ((s.mapLanes c.b c.q (c.uniform w.p w.n) fun _ t => t.wr false w.d (c.Q.rd false w.a)).advance c 1)

/-- V2G (R141): one lane's value to the quire; GP(C) says whether the lane was there. -/
def execV2g (w : W2) (s : State) : Out :=
  match s.ctx? with
  | none => .next s
  | some c =>
    let ls := c.uniform w.p w.n
    let l := if sub0 w then ls.headD 32 else opBG c.Q w false 0
    let ok := ls.contains l
    let s' := if ls.isEmpty then s else s.updQuire c.b c.q fun q =>
      (if ok then q.wr false w.d ((c.thread l).rd false w.a) else q).setGP w.x.c.toNat ok
    .next (s'.advance c 2)

end Sys2Proof.Machine
end

