-- ==== Sys2Proof/Machine/Thread.lean ====
section
/-! DEFINITION. Thread control and cross-lane instructions (R86 to R119), the uniform transfers (R143, R144), and the events
of issue: entry to a clause with its checks (R50, R57, R61 to R64), exchanges of quires (R93, R94), the ageing pick (R91), the
end of a NAP (R105) and the drain of a tracker entry (R101). -/

namespace Sys2Proof.Machine

/-! ### Control transfers -/

/-- The header that follows a group's clause (R54). -/
def Group.nextClause (g : Group) : BitVec 64 := g.clause + BitVec.ofNat 64 (4 * (1 + g.words.length))

/-- The target of a word offset: from the clause header, or from the base word under earlier versions (R55, R66). -/
def Ctx.target (c : Ctx) (fromBase : Bool) (off : Int) : BitVec 64 :=
  (if fromBase then BitVec.ofNat 64 (wordAddr c.gr.clause c.gr.widx) else c.gr.clause) + BitVec.ofInt 64 (4 * off)

/-- Send participants to their targets, each on its own; a target that is not aligned raises sub-cause 0xC (R97 to R99). -/
def State.transfer (s : State) (c : Ctx) (k : Nat) (ls : List Nat) (tgt : Nat → BitVec 64) (f : Nat → Thread → Thread) : State :=
  match ls.find? fun l => (tgt l).toNat % 4 != 0 with
  | some l => s.raise c causeIllegal 0xC l 0#64
  | none => ((s.mapLanes c.b c.q ls fun l t => { f l t with pc := tgt l }).advance c k).leave c ls

def execBra (w : WBr) (s : State) : Out :=
  match s.ctx? with
  | none => .next s
  | some c =>
    .next (s.transfer c 1 (c.participants w.p w.n) (fun _ => c.target (decide (c.B.ver < 4)) w.off.toInt) fun _ t => t)

def execBrx (w : W1) (s : State) : Out :=
  match s.ctx? with
  | none => .next s
  | some c => .next (s.transfer c 1 (c.participants w.p w.n) (fun l => (c.thread l).getPair w.a.toNat) fun _ t => t)

/-- The quire's return-address stack, which predicts the target of RET, after a transfer that some participant takes (R98). -/
def State.predict (s : State) (c : Ctx) (ls : List Nat) (tgt : Nat → BitVec 64) (f : List (BitVec 64) → List (BitVec 64)) : State :=
  if ls.isEmpty || ls.any fun l => (tgt l).toNat % 4 != 0 then s else s.updQuire c.b c.q fun Q => { Q with retStack := f Q.retStack }

/-- A return address enters the stack of 8, and one leaves it (R98). -/
def retPush (a : BitVec 64) (l : List (BitVec 64)) : List (BitVec 64) := (a :: l).take 8
def retPop (l : List (BitVec 64)) : List (BitVec 64) := l.drop 1

def execCall (w : W2) (s : State) : Out :=
  match s.ctx? with
  | none => .next s
  | some c =>
    let ls := c.participants w.p w.n
    let tgt (_ : Nat) : BitVec 64 := c.target (decide (c.B.ver < 3)) w.x.imm20.toInt
    .next ((s.predict c ls tgt (retPush c.gr.nextClause)).transfer c 2 ls tgt fun _ t => t.setPair w.d.toNat c.gr.nextClause)

def execCallx (w : W1) (s : State) : Out :=
  match s.ctx? with
  | none => .next s
  | some c =>
    let ls := c.participants w.p w.n
    let tgt (l : Nat) : BitVec 64 := (c.thread l).getPair w.a.toNat
    .next ((s.predict c ls tgt (retPush c.gr.nextClause)).transfer c 1 ls tgt fun _ t => t.setPair w.d.toNat c.gr.nextClause)

/-- RET: as BRX; its prediction affects fetch alone (R98). -/
def execRet (w : W1) (s : State) : Out :=
  match s.ctx? with
  | none => .next s
  | some c =>
    let ls := c.participants w.p w.n
    let tgt (l : Nat) : BitVec 64 := (c.thread l).getPair w.a.toNat
    .next ((s.predict c ls tgt retPop).transfer c 1 ls tgt fun _ t => t)

/-- GBRA (R143); in a spring handler the offset counts in words from its base word (R427). -/
def execGbra (w : WBr) (s : State) : Out :=
  match s.cur with
  | .spring gs =>
    .next (s.updSpring gs fun sp =>
      { sp with at_ := if guardOk sp.gp w.p w.n then ((sp.at_ : Int) + w.off.toInt).toNat else sp.at_ + 1 })
  | _ =>
    match s.ctx? with
    | none => .next s
    | some c =>
      .next (s.transfer c 1 (c.uniform w.p w.n) (fun _ => c.target (decide (c.B.ver < 4)) w.off.toInt) fun _ t => t)

/-- GLOOP's count: the register after it, and whether the loop is taken (R144). -/
def loopStep (n : Word) : Word × Bool := if n = 0#32 then (n, false) else (n - 1#32, n != 1#32)

/-- GLOOP (R144). -/
def execGloop (w : W2) (s : State) : Out :=
  match s.cur with
  | .spring gs =>
    .next (s.updSpring gs fun sp =>
      if guardOk sp.gp w.p w.n then
        let r := loopStep (regGet sp.g w.d.toNat)
        { sp with g := regPut sp.g w.d.toNat r.1, at_ := if r.2 then ((sp.at_ : Int) + w.x.imm20.toInt).toNat else sp.at_ + 2 }
      else { sp with at_ := sp.at_ + 2 })
  | _ =>
    match s.ctx? with
    | none => .next s
    | some c =>
      if guardOk c.Q.gp w.p w.n then
        let r := loopStep (c.Q.getG w.d.toNat)
        let s := s.updQuire c.b c.q fun q => q.setG w.d.toNat r.1
        .next (if r.2 then
          s.transfer c 2 (c.uniform w.p w.n) (fun _ => c.target (decide (c.B.ver < 3)) w.x.imm20.toInt) fun _ t => t
        else s.advance c 2)
      else .next (s.advance c 2)

/-! ### Ending, yielding, waiting -/

def execNop (w : W1) (s : State) : Out := laneStep s 1 w.p w.n fun _ _ t => t

/-- End some threads (R86, R100): they leave their group, and every QSYNC of the quire is tested (R106). -/
def State.endThreads (s : State) (c : Ctx) (ls : List Nat) : State :=
  (((s.mapLanes c.b c.q ls fun _ t => { t with live := false, wait := .none, acq := none, spin := false }).leave c ls)).updQuire c.b c.q
    Quire.qsyncTest

def execExit (w : W2) (s : State) : Out :=
  match s.ctx? with
  | none => .next s
  | some c => .next ((s.advance c 2).endThreads c (c.participants w.p w.n))

/-- Operations whose destination is the core's scratchpad, operand buffer, accumulator store or a status register (R101). -/
def Op.intoCore (o : Op) : Bool :=
  match o.kind with
  | .ldt | .qtile | .trlck | .copy | .shdw | .publ | .abnd => true
  | .matrix => match o.ins with | .accrd _ => false | _ => true
  | .lds => o.isWrite
  | .sprg => !o.holdV.isEmpty
  | _ => false

/-- Operations that write memory beyond the core (R101). -/
def Op.writesOut (o : Op) : Bool :=
  match o.kind with
  | .store | .atom | .red | .cell | .tagSt | .stt | .poolAtom | .deque | .sigx => !o.kept
  | .sprg => o.holdV.isEmpty
  | _ => false

/-- The numbers of the operations of some threads of a quire with a property. -/
def State.opsOf (s : State) (b q : Nat) (lanes : BitVec 32) (p : Op → Bool) : List Nat :=
  (s.ops.filter fun e => e.2.blk == b && e.2.q == q && e.2.lanes &&& lanes != 0#32 && p e.2).map (·.1)

/-- The lowest free entry of a core's retirement tracker (R101). -/
def Core.freeEntry (C : Core) : Option Nat := (List.range 8).find? fun i => (tget? C.tracker i).isNone

/-- TAIL (R101): its participants end as it issues; its group then stands at it until no result bound for the core is outstanding
and a tracker entry has taken the group's operations that write beyond the core. -/
def execTail (w : W2) (s : State) : Out :=
  match s.ctx? with
  | none => .next s
  | some c =>
    let first := c.gr.ended = 0#32
    let ls := if first then c.participants w.p w.n else laneList c.gr.ended
    let m := laneMask ls
    let ends (s : State) : State := if first then s.endThreads c ls else s
    let wait (s : State) : State := (s.updGroup c.b c.q c.gid fun g => { g with ended := m }).stall c
    let past (s : State) : State := (s.advance c 2).updGroup c.b c.q c.gid fun g => { g with ended := 0#32 }
    if ls.isEmpty then .next (s.advance c 2)
    else if !(s.opsOf c.b c.q m Op.intoCore).isEmpty then .next (ends (wait s))
    else
      let out := s.opsOf c.b c.q (c.gr.lanes ||| m) Op.writesOut
      if out.isEmpty then .next (ends (past s))
      else match (s.core c.B.core).freeEntry with
        | none => .next (ends (wait s))
        | some i => .next (ends (past (s.updCore c.B.core fun C => { C with tracker := tput C.tracker i (c.b, out) })))

/-- TRACKER_ENTRY_DRAIN (R101): an entry is freed when its last operation has completed. -/
def execTrackerEntryDrain (core entry : Nat) (s : State) : Out :=
  match tget? (s.core core).tracker entry with
  | none => .next s
  | some e =>
    .next (if e.2.any fun i => (s.op? i).isSome then s
      else s.updCore core fun C => { C with tracker := tdel C.tracker entry })

/-- YIELD (R104). -/
def execYield (w : W2) (s : State) : Out :=
  match s.ctx? with
  | none => .next s
  | some c =>
    let s' := s.advance c 2
    if (c.participants w.p w.n).isEmpty then .next s'
    else match s.oldestReady c.b c.B with
      | some q => .next (s'.exchange c.b c.q q)
      | none => .next (s'.updQuire c.b c.q fun Q => { Q with skip := true })

/-- NAP (R105). -/
def execNap (w : W2) (s : State) : Out :=
  laneStep s 2 w.p w.n fun c _ t =>
    let n := min (opB c.Q t w false w.x.imm20.toNat) 1048575
    if n = 0 then t else { t with wait := .nap (s.clk + n) (decide (32 ≤ n)) }

/-- NAP_EXPIRY (R105). -/
def execNapExpiry (b q lane : Nat) (s : State) : Out :=
  .next (s.updThread b q lane fun t => match t.wait with
    | .nap til _ => if til ≤ s.clk then { t with wait := .none } else t
    | _ => t)

/-- QSYNC (R106): each participant parks with its mask; the condition is tested at every arrival. -/
def execQsync (w : W2) (s : State) : Out :=
  match s.ctx? with
  | none => .next s
  | some c =>
    let s := s.mapLanes c.b c.q (c.participants w.p w.n) fun l t =>
      { t with wait := .qsync (BitVec.ofNat 32 (opB c.Q t w false 0) ||| BitVec.twoPow 32 l) }
    .next ((s.advance c 2).updQuire c.b c.q Quire.qsyncTest)

/-- BKPT (R117): with DEBUG[0] = 1 it stops the block and raises a DEBUG trap, once the trap queue has room (R443); else it has no
effect. -/
def execBkpt (w : W2) (s : State) : Out :=
  match s.ctx? with
  | none => .next s
  | some c =>
    let t := coreTarn c.B.core
    let s' := s.advance c 2
    match c.participants w.p w.n with
    | [] => .next s'
    | l :: ls =>
      if (s.tarn t).debug then
        if 64 ≤ (s.tarn t).traps.length then .next (s.stall c) else
        let s' := s'.mapLanes c.b c.q (l :: ls) fun _ th => { th with wait := .bkpt }
        let s' := s'.updBlock c.b fun B => { B with st := .debug }
        .next (s'.postTrap t { kind := 7, addr := BitVec.ofNat 64 w.x.imm20.toNat, ident := identOf c.B c.q l, blk := some c.b })
      else .next s'

/-- TRAP (R118): the participants' task ends with USER-TRAP, the code in the effective-address field (R447). -/
def execTrap (w : W2) (s : State) : Out :=
  match s.ctx? with
  | none => .next s
  | some c =>
    match c.participants w.p w.n with
    | [] => .next (s.advance c 2)
    | l :: _ => .next (s.raise c causeUserTrap 0 l (BitVec.ofNat 64 w.x.imm20.toNat))

/-! ### Ranks, predicates, special registers -/

/-- The live lanes of a quire. -/
def Quire.liveLanes (Q : Quire) : List Nat := Q.threads.filterMap fun t => if t.2.live then some t.1 else none

/-- RANK's pair: the live threads of the instance that precede the thread, and all of them (R110). -/
def rankOf (c : Ctx) (scope l : Nat) : Nat × Nat :=
  let own := c.Q.liveLanes
  let before := (own.filter (· < l)).length
  if scope = 0 then (0, 1)
  else if scope = 1 then (before, own.length)
  else
    let count (p : Nat → Bool) := c.B.quires.foldl (fun n q => if p q.1 then n + q.2.liveLanes.length else n) 0
    (count (· < c.q) + before, count fun _ => true)

def execRank (w : W2) (s : State) : Out :=
  laneStep s 2 w.p w.n fun c l t =>
    let r := rankOf c w.x.scope.toNat l
    (t.setV w.d.toNat (BitVec.ofNat 32 r.1)).setV (w.d.toNat + 1) (BitVec.ofNat 32 r.2)

/-- PLOP (R109). -/
def execPlop (w : W2) (s : State) : Out :=
  laneStep s 2 w.p w.n fun _ _ t => t.setP w.d.toNat (lut2 w.x.sub (t.getP w.a.toNat) (t.getP w.b.toNat))

/-- A special register as a thread sees it (R82). -/
def specialReg (s : State) (c : Ctx) (l n : Nat) : Nat :=
  let sh (i : Nat) : Nat := c.B.shape.getD i 1
  let gr (i : Nat) : Nat := c.B.grid.getD i 1
  let t := 32 * c.q + l
  let tarn := coreTarn c.B.core
  match n with
  | 0 => l
  | 1 => c.q
  | 2 => t % sh 0
  | 3 => t / sh 0 % sh 1
  | 4 => t / (sh 0 * sh 1)
  | 5 => c.B.bflat
  | 6 => c.B.bflat % gr 0
  | 7 => c.B.bflat / gr 0 % gr 1
  | 8 => c.B.bflat / (gr 0 * gr 1)
  | 9 => sh 0 + 2 ^ 10 * sh 1 + 2 ^ 20 * sh 2
  | 10 => gr 0
  | 11 => gr 1
  | 12 => gr 2
  | 13 => coreNum c.B.core
  | 14 => coreNum c.B.core / 4
  | 15 => tarn % 12
  | 16 => tarn / 12
  | 17 => (s.tarn tarn).weir
  | 18 => s.coreClk c.B.core % 2 ^ 32
  | 19 => s.coreClk c.B.core / 2 ^ 32 % 2 ^ 32
  | 20 => c.Q.fmask.toNat
  | 21 => c.B.part
  | 22 => bits c.B.frame.toNat 31 0
  | 23 => bits c.B.frame.toNat 63 32
  | _ => 0

/-- S2V (R111). -/
def execS2v (w : W2) (s : State) : Out :=
  laneStep s 2 w.p w.n fun c l t => t.wr false w.d (specialReg s c l w.a.toNat)

/-- S2G (R111): the value of the lowest participant. -/
def execS2g (w : W2) (s : State) : Out :=
  match s.ctx? with
  | none => .next s
  | some c =>
    match c.participants w.p w.n with
    | [] => .next (s.advance c 2)
    | l :: _ => .next ((s.updQuire c.b c.q fun q => q.wr false w.d (specialReg s c l w.a.toNat)).advance c 2)

/-! ### Cross-lane instructions -/

/-- SHFL's source lane and whether it is in range (R112): mode, segment width, lane, lane operand. -/
def shflSrc (mode w l k : Nat) : Nat × Bool :=
  let base := l / w * w
  let j := l - base
  match mode with
  | 0 => (base + k % w, true)
  | 1 =>
    let d : Int := j + toSigned 32 k
    if 0 ≤ d ∧ d < w then (base + d.toNat, true) else (l, false)
  | 2 => (base + (j + k) % w, true)
  | _ => (base + Nat.xor j k % w, true)

def execShfl (w : W2) (s : State) : Out :=
  match s.ctx? with
  | none => .next s
  | some c =>
    let ls := c.participants w.p w.n
    let seg := 32 / 2 ^ (w.x.sub.toNat / 4)
    .next ((s.mapLanes c.b c.q ls fun l t =>
      let r := shflSrc (w.x.sub.toNat % 4) seg l (opB c.Q t w false 0)
      let ok := r.2 && ls.contains r.1
      (t.wr false w.d ((c.thread (if ok then r.1 else l)).rd false w.a)).setP w.x.c.toNat ok).advance c 2)

/-- VOTE's mask (R113). -/
def voteMask (c : Ctx) (ls : List Nat) (pa : Nat) (inv : Bool) : BitVec 32 :=
  laneMask (ls.filter fun l => (c.thread l).getP pa != inv)

def execVote (w : W2) (s : State) : Out :=
  match s.ctx? with
  | none => .next s
  | some c =>
    let ls := c.participants w.p w.n
    let m := voteMask c ls w.a.toNat (w.x.sub.getLsbD 2)
    let pm := laneMask ls
    .next ((s.mapLanes c.b c.q ls fun _ t =>
      if w.x.sub.getLsbD 3 then t.wr false w.d (laneList m).length
      else match w.x.sub.toNat % 4 with
        | 0 => t.wr false w.d m.toNat
        | 1 => t.setP w.d.toNat (m == pm)
        | 2 => t.setP w.d.toNat (m != 0#32)
        | _ => t.setP w.d.toNat (m == 0#32 || m == pm)).advance c 2)

/-- The participants whose value equals a lane's (R114). -/
def matchMask (c : Ctx) (ls : List Nat) (wide : Bool) (a : BitVec 7) (l : Nat) : BitVec 32 :=
  laneMask (ls.filter fun j => (c.thread j).rd wide a == (c.thread l).rd wide a)

def execMatchv (w : W2) (s : State) : Out :=
  match s.ctx? with
  | none => .next s
  | some c =>
    let ls := c.participants w.p w.n
    let pm := laneMask ls
    let e (l : Nat) : BitVec 32 := matchMask c ls w.x.w64 w.a l
    let one := ls.all fun l => e l == pm
    .next ((s.mapLanes c.b c.q ls fun l t =>
      if w.x.sub.getLsbD 0 then (t.wr false w.d (if one then pm.toNat else 0)).setP w.x.c.toNat one
      else if w.x.sub.getLsbD 1 then
        let lead := (laneList (e l)).headD l
        (t.wr false w.d lead).setP w.x.c.toNat (lead == l)
      else (t.wr false w.d (e l).toNat).setP w.x.c.toNat (e l == pm)).advance c 2)

/-! ### Entry to a clause -/

/-- The length check of R49: the last base word of the clause needs an extension word beyond LEN. -/
def badLength : (fuel : Nat) → List Word → Bool
  | 0, _ => false
  | _, [] => false
  | fuel + 1, w :: rest =>
    if isTwoWord w then (match rest with | [] => true | _ :: r => badLength fuel r) else badLength fuel rest

/-- An instruction that a context does not have (R60, R145, R441): sub-cause 0xB. -/
def unavailable (sup : Bool) (i : Instr) : Bool :=
  match i.head with
  | some h =>
    if sup then !h.set || i.isHandlerOnly || (match i with | .g2v _ | .v2g _ | .sysc _ => true | _ => false)
    else i.isHandlerOnly
  | none => false

/-- The checks of R62 on the instructions of a clause in address order: sub-cause and word index of the first failure. -/
def checkWords (B : Block) : (fuel idx : Nat) → List Word → Option (Nat × Nat)
  | 0, _, _ => none
  | _, _, [] => none
  | fuel + 1, idx, ws =>
    match decodeRaw ws with
    | .error .unassignedMinor => some (5, idx + 1)
    | .error _ => some (4, idx)
    | .ok (i, n) =>
      if absentIn B.ver i then some (0xA, idx)
      else if unavailable B.sup i then some (0xB, idx)
      else match staticBad B.ver i with
        | some (sub, k) => some (sub, idx + k)
        | none =>
          match countBad B.vregs B.gregs i with
          | some (sub, k) => some (sub, idx + k)
          | none => if i.isTransfer && !(ws.drop n).isEmpty then some (9, idx) else checkWords B fuel (idx + n) (ws.drop n)

/-- The checks of R61 on a clause with a header mark: header, then each instruction. -/
def checkClause (B : Block) (h : Header) (ws : List Word) : Option (Nat × Nat) :=
  if h.len = 0 || badLength 16 ws then some (2, 0)
  else if h.bad then some (3, 0)
  else checkWords B 16 1 ws

/-- A thread that enters a clause acquires at the flags of its SBARA arrivals that the wait mask names (R326). -/
def Thread.acquireFlags (t : Thread) (m : BitVec 12) : Thread :=
  { t with
    synced := t.owed.foldl (fun a e => if m.getLsbD e.1 then addNew a e.2 else a) t.synced
    owed := t.owed.filter fun e => !m.getLsbD e.1 }

/-- Enter a group into a clause whose words have been fetched and checked. -/
def State.enter (s : State) (b q : Nat) (cl : BitVec 64) (ls : List Nat) (h : Header) (ws : List Word) : State :=
  { s.updQuire b q fun Q =>
      { Q with
        threads := Q.threads.map fun t => if ls.contains t.1 then (t.1, t.2.acquireFlags h.wait) else t
        groups := tput Q.groups s.next { lanes := laneMask ls, clause := cl, words := ws, widx := 1, sfa := h.sfa, sfb := h.sfb, yld := h.yld }
        headAge := tdel Q.headAge cl.toNat } with
    next := s.next + 1 }

/-- Entry to a clause (R50, R57, R61): the ready threads at a header enter together; the clause is fetched, decoded and checked. -/
def enterClause (b q : Nat) (addr : BitVec 64) (s : State) : Out :=
  match s.block? b with
  | none => .next s
  | some B =>
    match tget? B.quires q with
    | none => .next s
    | some Q =>
      let ls := s.readyAt B Q addr
      let part := s.partOf B
      let lane := ls.headD 0
      let bad (cause detail widx : Nat) (ea : BitVec 64) (word : Word := 0#32) : Out := .next (s.faultAt b q addr widx cause detail lane ea word)
      let fetchBad (n : Nat) : Option Out :=
        if !B.mayFetch addr.toNat (4 * (n + 1)) then some (bad causeLease 0 n (BitVec.ofNat 64 (wordAddr addr n)))
        else match s.fetchMissing B addr n with
          | p :: ps => some (.next (s.queueWalks B.core (p :: ps)))
          | [] =>
            [wordAddr addr 0, wordAddr addr n].foldl (fun r va => r <|>
              match s.xlate B.core part (!B.sup) false true va with
              | .ok _ => none
              | .error lv =>
                some (.next ((s.dropNoXlat B.core [va]).faultAt b q addr n
                  (if lv = levelAway then causeHomeOffline else if B.sup then causeTranslation else causeLeaseRevoked)
                  (if lv ≠ levelAway ∧ B.sup = true then lv else 0) lane (BitVec.ofNat 64 va)))) none <|>
            match s.fetchAway B addr n with
            | [] => none
            | l :: ls =>
              match (l :: ls).find? fun ln => s.shut (coreTarn B.core) (ln * 64) with
              | some ln =>
                let r := s.holdAway B.core ln addr (identOf B q lane)
                some (if r.2 then bad causeHomeOffline 0 n (BitVec.ofNat 64 (wordAddr addr n)) else .next r.1)
              | none => some (.next ((l :: ls).foldl (fun s ln => s.fetchAsk B.core ln) s))
      if ls.isEmpty || !s.running b B then .next s
      else if addr.toNat % 4 != 0 then bad causeIllegal 0xC 0 0#64
      else match fetchBad 0 with
        | some r => r
        | none =>
          let hw := (s.fetchWords B addr.toNat 1).headD 0#32
          if !headerMark hw then bad causeIllegal 1 0 0#64 hw
          else
            let h := headerOf B.ver hw
            match fetchBad h.len with
            | some r => r
            | none =>
              let ws := (s.fetchWords B addr.toNat (h.len + 1)).drop 1
              match checkClause B h ws with
              | some (sub, i) => bad causeIllegal sub i 0#64 ((hw :: ws).getD i 0#32)
              | none =>
                let s1 := [wordAddr addr 0, wordAddr addr h.len].foldl (fun s va =>
                  match s.xlate B.core part (!B.sup) false true va with
                  | .ok x => (s.touchTlb B.core part va).icFill B.core (x.pa va)
                  | .error _ => s) s
                .next (s1.enter b q addr ls h ws)

/-- The fetches of a block's clauses, of active and of pending quires (log 134), that are not under way yet are asked for (R57, R92). -/
def State.askFetches (s : State) (b : Nat) (B : Block) : State :=
  (B.active ++ B.pending).foldl (fun s q =>
    match tget? B.quires q with
    | none => s
    | some Q => Q.headers.foldl (fun s cl =>
        if (s.readyAt B Q cl).isEmpty || s.fetchHeld B cl || !s.fetchMiss B cl then s
        else match enterClause b q cl s with | .next s' => s' | _ => s) s) s

/-- A header's threads enter their clause, and their group is what issues next. -/
def enterNamed (b q : Nat) (addr : BitVec 64) (s : State) : Out :=
  match enterClause b q addr s with
  | .next s' => .next { s' with cur := if (s'.groupsOf b q).contains s.next then .group b q s.next else s'.cur }
  | o => o

/-- CLAUSE_ENTRY: entry to a clause at the header that the core's choice falls on (R90, R91). -/
def execClauseEntry (b q : Nat) (addr : BitVec 64) (s : State) : Out :=
  match s.block? b with
  | none => .next s
  | some B =>
    match s.chooseQuire b (B.settled s.clk) with
    | some (q', c) => if q' = q ∧ c.gid = none ∧ c.addr = addr.toNat then enterNamed b q addr s else .next s
    | none => .next s

/-! ### Exchanges and the ageing pick -/

/-- An active quire that is stalled long is exchanged for the oldest ready quire of the pending set (R93). -/
def State.exchangeStalled (s : State) (b q : Nat) : State :=
  match s.block? b with
  | none => s
  | some B =>
    match tget? B.quires q with
    | none => s
    | some Q =>
      if s.running b B && B.active.contains q && s.stalledLong b q B Q then
        match s.oldestReady b B with | some p => s.exchange b q p | none => s
      else s

/-- QUIRE_EXCHANGE (R93). -/
def execQuireExchange (b q : Nat) (s : State) : Out := .next (s.exchangeStalled b q)

/-- At a multiple of 256 of the core's own %clk the oldest ready pending quire displaces the active quire that entered earliest,
unless an exchange is under way (R94). -/
def State.exchangeForced (s : State) (b : Nat) : State :=
  match s.block? b with
  | none => s
  | some B =>
    let busy := B.exch.any fun e => decide (s.clk < e.2)
    let age (q : Nat) : Nat := match tget? B.quires q with | some Q => Q.entered | none => 0
    if s.coreClk B.core % 256 = 0 && s.running b B && !busy then
      match s.oldestReady b B, bestOf (fun x y => decide (age x < age y) || (age x == age y && decide (x ≤ y))) B.active with
      | some p, some q => s.exchange b q p
      | _, _ => s
    else s

/-- FORCED_EXCHANGE (R94). -/
def execForcedExchange (b : Nat) (s : State) : Out := .next (s.exchangeForced b)

/-- AGEING_PICK (R91): where the core's choice falls on a candidate passed over at 1,024 issue cycles of its quire, that is what
issues next: a group; a header's threads enter their clause first. -/
def execAgeingPick (b q : Nat) (s : State) : Out :=
  match s.block? b with
  | none => .next s
  | some B =>
    match s.chooseQuire b (B.settled s.clk) with
    | some (q', c) =>
      if q' = q ∧ 1024 ≤ c.age then
        match c.gid with
        | some g => .next { s with cur := .group b q g }
        | none => enterNamed b q (BitVec.ofNat 64 c.addr) s
      else .next s
    | none => .next s

end Sys2Proof.Machine
end

