-- ==== Sys2Proof/Machine/Ordering.lean ====
section
/-! DEFINITION. FENCE and FSP (R242 to R244). -/

namespace Sys2Proof.Machine

/-- Every earlier read of some threads has returned its value (R243). -/
def State.readsDone (s : State) (c : Ctx) (ls : List Nat) : Bool := (s.opsOf c.b c.q (laneMask ls) Op.isRead).isEmpty

/-- FENCE (R243): kinds 0 `.sc`, 1 `.acq`, 2 `.rel`, 3 `.ar`.  The group stands before it until the waits of its participants
are over; a release waits for the values of earlier reads too, since the writes they return happen before it (R238). -/
def execFence (w : W2) (s : State) : Out :=
  match s.ctx? with
  | none => .next s
  | some c =>
    let ls := c.participants w.p w.n
    let sc := w.x.scope.toNat
    let kind := w.x.sub.toNat % 4
    let acq := if kind = 2 then 0 else sc
    let rel := if kind = 1 then 0 else sc
    let cov := if rel = 0 then [] else s.coversOf c.b c.q c.Q ls
    if ls.isEmpty then .next (s.advance c 2)
    else if acq != 0 && !s.readsDone c ls then .next (s.stall c)
    else if !(cov.all fun i => s.performedAt rel i) then .next ((s.pushBack rel cov).stall c)
    else
      let s := (s.fenceLanes c.b c.q c.Q ls acq rel c.B.core).advance c 2
      .next (if kind = 0 then s.scOrder c.b c.q c.B.core sc ls else s)

/-- Scratchpad writes that have not reached their banks: an STS acts as it issues (log 14), but an atomic may be held back, and the
writes of a QTILE and of an ACCST, which count as their participants' stores (R171, R415), come at the end. -/
def Op.bankOwed (o : Op) : Bool := o.isWrite && o.space == 1 && o.elems.any fun e => e.st == 0

/-- FSP (R244): it waits for the scratchpad writes that have not reached their banks, and empties the matrix operand cache. -/
def execFsp (w : W1) (s : State) : Out :=
  match s.ctx? with
  | none => .next s
  | some c =>
    let ls := c.participants w.p w.n
    if ls.isEmpty then .next (s.advance c 1)
    else if !(s.opsOf c.b c.q (laneMask ls) Op.bankOwed).isEmpty then .next (s.stall c)
    else
      .next ((s.updBlock c.b fun B =>
        { B with handles := B.handles.map fun h => (h.1, { h.2 with cache := none }) }).advance c 1)

end Sys2Proof.Machine
end

