-- ==== Sys2Proof/Machine/Context.lean ====
section
/-! DEFINITION. The saved context (R448 to R451): the image of a block in its save area, what a halt withdraws, and the
restoration of a context from its save area.  What the layout of R450 and R451 does not name (the two sets of quires, phase
numbers, what a thread has observed) stays with the block (log 20). -/

namespace Sys2Proof.Machine

/-- Global core number of R15 within its module: 24 x tarn + core. -/
def gcoreOf (core : Nat) : Nat := coreTarn core % 12 * 24 + coreNum core

/-- A byte list of an exact length. -/
def padTo (n : Nat) (bs : List Byte) : List Byte := (bs ++ List.replicate n 0#8).take n

/-- Bytes of a memory of cells as a list. -/
def cellBytes (m : List Host.Cell) (n : Nat) : List Byte := (List.range n).map fun i => cellGet m i

/-- A memory of cells from bytes. -/
def bytesCells (bs : List Byte) : List Host.Cell :=
  ((List.range bs.length).zip bs).filter fun c => c.2 != 0#8

/-! ### The image -/

/-- Eight bytes of a named barrier: n, a, operation and whether it is fixed, and the accumulator of that operation. -/
def nbImage (p : Phase) : Nat :=
  p.n % 1024 + 2 ^ 10 * (p.a % 1024) + 2 ^ 20 * (p.op.getD 0 % 4) + 2 ^ 22 * (if p.op.isSome then 1 else 0) +
    2 ^ 32 * (p.acc.getD (p.op.getD 0) 0 % 2 ^ 32)

def nbRestore (old : Phase) (v : Nat) : Phase :=
  let k := bits v 21 20
  if bits v 22 22 = 1 then
    { old with n := bits v 9 0, a := bits v 19 10, op := some k, acc := old.acc.set k (bits v 63 32) }
  else { old with n := bits v 9 0, a := bits v 19 10, op := none }

/-- Eight bytes of a convergence register: n, a, SIGNED. -/
def kImage (p : Phase) : Nat := p.n % 1024 + 2 ^ 10 * (p.a % 1024) + 2 ^ 63 * (if p.signed then 1 else 0)
def kRestore (old : Phase) (v : Nat) : Phase := { old with n := bits v 9 0, a := bits v 19 10, signed := bits v 63 63 == 1 }

/-- Sixteen bytes of a handle: record, generation, state. -/
def handleImage (h : Handle) : Nat := h.record.toNat + 2 ^ 64 * h.gen.toNat + 2 ^ 96 * (h.st % 4)
def handleRestore (v : Nat) : Handle :=
  { st := bits v 97 96, record := BitVec.ofNat 64 v, gen := BitVec.ofNat 32 (v / 2 ^ 64), cache := none }

/-- Eight bytes of a tile-table entry: descriptor, state. -/
def tileImage (t : Tile) : Nat := t.desc.toNat + 2 ^ 40 * (t.st % 4)
def tileRestore (v : Nat) : Tile := { st := bits v 41 40, desc := BitVec.ofNat 39 v }

/-- The word of the register file image that holds the GP predicates of the i-th quire, behind every V and G register (log 20). -/
def Block.gpWord (B : Block) (i : Nat) : Nat := B.quires.length * (32 * B.vregs + B.gregs) + i

/-- Sixteen bytes of the i-th quire: lane fault mask, first cause and its offset, and its GP predicates where its register file fills the
whole image (log 20). -/
def quireImage (B : Block) (i : Nat) (Q : Quire) : Nat :=
  Q.fmask.toNat + 2 ^ 32 * ((Q.firstCause.elim 0 (·.1)) % 256) + (if B.gpWord i < 65536 then 0 else 2 ^ 40 * Q.gp.toNat) +
    2 ^ 64 * ((Q.firstCause.elim 0 (·.2)) % 2 ^ 32)

/-- The group and the place within its clause at which a lane stands. -/
def Quire.placeOf (Q : Quire) (l : Nat) : Option Group := (Q.groups.find? fun g => g.2.lanes.getLsbD l).map (·.2)

/-- A thread record (R451).  A thread parked at a QSYNC that ends a clause of 15 words, whose next word index would be 16, is
recorded with index 0 (log 97). -/
def threadImage (Q : Quire) (l : Nat) (t : Thread) : Nat :=
  let g := Q.placeOf l
  let clause := match g with | some g => g.clause | none => t.pc
  let widx := match g with | some g => g.widx | none => 0
  let st := if !t.live then 0 else
    match t.wait with
    | .qsync _ => 3 | .named .. => 4 | .scope .. => 4 | .bkpt => 5
    | _ => if (match g with | some g => g.stage == 1 | none => false) then 2 else 1
  let wscope := match t.wait with | .named .. => 2 | .scope sc _ _ _ => sc | _ => 0
  let wid := match t.wait with | .named k _ _ => k | .scope _ id _ _ => id | _ => 0
  let qm := match t.wait with | .qsync m => m.toNat | _ => 0
  let fl := (List.range 12).foldl (fun a n => a + 2 ^ (6 * n) * (t.flag n % 64)) 0
  qm + 2 ^ 32 * (t.wxrem % 2 ^ 32) + 2 ^ 73 * t.p.toNat + 2 ^ 80 * fl + 2 ^ 160 * (wid % 2 ^ 20) + 2 ^ 180 * (wscope % 8) +
    2 ^ 184 * st + 2 ^ 188 * (widx % 16) + 2 ^ 192 * clause.toNat

/-- Words of a quire in the register file image: lane by lane V0 to V(v-1), then G0 to G(g-1) (log 20). -/
def quireWords (B : Block) (Q : Quire) : List Word :=
  ((List.range 32).map fun l => (List.range B.vregs).map fun r => (tget Q.threads l {}).getV r).flatten ++
    (List.range B.gregs).map fun r => Q.getG r

/-- Operations whose results have yet to land (R451); the flag of an SBARA is saved as it stands (R328). -/
def State.pendOf (s : State) (b : Nat) : Nat :=
  (s.ops.filter fun x => x.2.blk == b && !x.2.drop && x.2.kind != .sbar && (decide (x.2.flag < 12) || !x.2.holdV.isEmpty || !x.2.holdG.isEmpty)).length

/-- The header (R451). -/
def headerImage (B : Block) (status : Nat) (res : Bool) (pend : Nat) : Nat :=
  0x44584358 + 2 ^ 32 * status + 2 ^ 64 * B.code.toNat + 2 ^ 160 * (pend % 2 ^ 32) + 2 ^ 197 * (if res then 1 else 0) +
    2 ^ 198 * (B.side % 2) + 2 ^ 199 * gcoreOf B.core + 2 ^ 208 * (B.part % 16) + 2 ^ 212 * (B.lid % 4096) + 2 ^ 224 * (B.bflat % 2 ^ 32)

/-- The save area of a block, but for its side image (R450). -/
def contextImage (s : State) (b : Nat) (B : Block) (tiles : Tab Tile) (status : Nat) : List Byte :=
  let q (i : Nat) : Quire := tget B.quires i {}
  leBytes 64 (headerImage B status (s.holdsSide b B) (s.pendOf b)) ++
  padTo 4032 (
    ((List.range 32).map fun i => leBytes 8 (nbImage (tget B.nb i {}))).flatten ++
    ((List.range 16).map fun i => leBytes 8 (kImage (tget B.kreg i {}))).flatten ++
    ((List.range 32).map fun i => leBytes 16 (handleImage (tget B.handles i {}))).flatten ++
    ((List.range 64).map fun i => leBytes 8 (tileImage (tget tiles i {}))).flatten ++
    padTo 512 ((B.iring.map fun e => leBytes 32 e.bits.toNat).flatten) ++
    ((List.range 16).map fun i => leBytes 16 (quireImage B i (q i))).flatten) ++
  ((List.range 512).map fun i =>
    leBytes 32 (threadImage (q (i / 32)) (i % 32) (tget (q (i / 32)).threads (i % 32) { live := false }))).flatten ++
  padTo 262144 ((B.quires.map fun x => (quireWords B x.2).map fun w => leBytes 4 w.toNat).flatten.flatten ++
    (B.quires.map fun x => leBytes 4 x.2.gp.toNat).flatten) ++
  cellBytes B.obuf 262144 ++
  ((List.range 131072).map fun i => leBytes 4 (tget B.acc i 0#32).toNat).flatten

/-- Bytes of a save area (R450). -/
def saveBytes : Nat := 1265664

/-- The address of a block's save area while it is stopped. -/
def Block.saveArea (B : Block) : Option (BitVec 64) := match B.st with | .saved a _ => some a | _ => none

/-- The tile table of 512 bytes of a save area. -/
def tilesOf (bs : List Byte) : Tab Tile := (List.range 64).filterMap fun i =>
  let x := tileRestore (leNat ((bs.drop (8 * i)).take 8))
  if x = ({} : Tile) then none else some (i, x)

/-- Write a stopped block's image, by its tarn's supervisor hardware; the tile table of a side that has been saved stays as it stands in
the area. -/
def State.writeContext (s : State) (b : Nat) (B : Block) (a : BitVec 64) : State :=
  let t := coreTarn B.core
  let r := if s.holdsSide b B then (s, (B.sideOf s).tiles) else
    match s.readVa t B.part ((a.toNat + 0x3C0) % 2 ^ 64) 512 with
    | (s, some bs) => (s, tilesOf bs)
    | (s, none) => (s, [])
  r.1.writeVa t B.part a.toNat (contextImage r.1 b B r.2 1)

/-- The header of a save area that is being written (R451): STATUS is 0. -/
def State.openSaveArea (s : State) (b : Nat) (B : Block) (a : BitVec 64) : State :=
  (s.writeVa (coreTarn B.core) B.part a.toNat (leBytes 64 (headerImage B 0 (s.holdsSide b B) (s.pendOf b)))).updBlock b fun B =>
    { B with writing := true }

/-- Results that land in stopped contexts after a turn enter their save areas (R448). -/
def State.syncSaved (s old : State) : State :=
  s.blocks.foldl (fun s x =>
    match x.2.saveArea with
    | some a => if old.block? x.1 == some x.2 && old.pendOf x.1 == s.pendOf x.1 then s else s.writeContext x.1 x.2 a
    | none => s) s

/-! ### Capture -/

/-- Move lanes of a quire into a group of their own that stands before a word of a clause, to reissue it. -/
def Quire.standAt (Q : Quire) (gid : Nat) (ls : BitVec 32) (clause : BitVec 64) (widx : Nat) (words : List Word) (sfa sfb : Nat)
    (yld : Bool) : Quire :=
  let gs := (Q.groups.map fun g => (g.1, { g.2 with lanes := g.2.lanes &&& ~~~ ls })).filter fun g => g.2.lanes != 0#32
  if ls = 0#32 then Q else { Q with groups := gs ++ [(gid, { lanes := ls, clause, words, widx, sfa, sfb, yld, stage := 1 })] }

/-- A halt captures a thread at a long wait at the boundary before the waiting instruction: WAITX with its remaining time, and held
requests (R329, R332, R448, R456); a NAP ends, and its thread goes on as though it had expired (R105). -/
def State.captureLane (s : State) (b q l : Nat) (t : Thread) : State :=
  match s.block? b with
  | none => s
  | some B =>
    let Q := tget B.quires q {}
    let back (s : State) (k rem : Nat) : State :=
      match Q.placeOf l with
      | some g =>
        let s : State := { s.updQuire b q fun Q =>
          (Q.standAt s.next (BitVec.twoPow 32 l) g.clause (g.widx - k) g.words g.sfa g.sfb g.yld) with next := s.next + 1 }
        s.updThread b q l fun t => { t with wait := .none, wxrem := rem }
      | none => s.updThread b q l fun t => { t with wait := .none }
    match t.wait with
    | .nap .. => s.updThread b q l fun t => { t with wait := .none }
    | .offline .. => back s 0 t.wxrem
    | .waitx id =>
      let rem := match s.op? id with
        | some o => (match o.elems.find? fun e => e.lane == l with
          | some e => if e.c = 0#64 then 0 else max 1 ((e.c.toNat - s.clk + clkPerUs - 1) / clkPerUs)
          | none => 0)
        | none => 0
      back s 2 rem
    | _ => s

/-- A parked DWAIT is withdrawn: its thread is captured at the boundary before it (R313). -/
def State.withdrawWaiter (s : State) (id : Nat) (o : Op) : State :=
  let parked := o.elems.filter fun e => e.st == 7
  if o.kind != OpKind.cell || parked.isEmpty then s else
  let ls := laneMask (parked.map (·.lane))
  let s : State := { s with tarns := s.tarns.map fun T => (T.1, { T.2 with waiters := T.2.waiters.filter fun w => w.op != id || !parked.any fun e => e.pa == w.pa }) }
  let s := (s.decFlag o.blk o.q (laneList ls) o.flag)
  let s := s.mapLanes o.blk o.q (laneList ls) fun _ t => if t.acq == some id then { t with acq := none } else t
  let live := ls &&& laneMask (s.opLanes o)
  let s : State := { s.updQuire o.blk o.q fun Q => Q.standAt s.next live o.clause o.widx o.code o.sets.1 o.sets.2 o.yld with next := s.next + 1 }
  let rest := o.elems.filter fun e => e.st != 7
  if rest.isEmpty then s.delOp id else s.setOp id { o with elems := rest, lanes := o.lanes &&& ~~~ ls, m := 0 }

/-- A PUBL or an ABND that still waits is withdrawn: its threads issue it again (R385, R386). -/
def State.withdrawShadow (s : State) (id : Nat) (o : Op) : State :=
  let ls := s.opLanes o
  if !(o.kind == .publ || o.kind == .abnd) || ls.isEmpty then s else
  let s := s.finishOp id
  { s.updQuire o.blk o.q fun Q => Q.standAt s.next (laneMask ls) o.clause o.widx o.code o.sets.1 o.sets.2 o.yld with next := s.next + 1 }

/-- A DWAIT that reaches its cell, and parks there, after its context has been saved is withdrawn as well (R313). -/
def State.withdrawLate (s : State) : State :=
  s.ops.foldl (fun s x =>
    if x.2.kind == .cell && (x.2.elems.any fun e => e.st == 7) && (match s.block? x.2.blk with | some B => B.saveArea.isSome | none => false)
    then s.withdrawWaiter x.1 x.2 else s) s

/-- The operations of a block that a halt withdraws: WAITX, whose threads issue it again (R329). -/
def State.dropWaitx (s : State) (b : Nat) : State :=
  let mine := (s.ops.filter fun x => x.2.blk == b && x.2.kind == .waitx).map (·.1)
  { s with
    ops := s.ops.filter fun x => !mine.contains x.1
    tarns := s.tarns.map fun T => (T.1, { T.2 with monitors := T.2.monitors.filter fun w => !mine.contains w.op }) }

/-- Every thread of a block is captured (R448). -/
def State.captureAll (s : State) (b : Nat) : State :=
  match s.block? b with
  | none => s
  | some B =>
    let s := B.quires.foldl (fun s q => q.2.threads.foldl (fun s t => if t.2.live then s.captureLane b q.1 t.1 t.2 else s) s) s
    let s := s.dropWaitx b
    let s := (s.ops.filter fun x => x.2.blk == b).reverse.foldl (fun s x => (s.withdrawWaiter x.1 x.2).withdrawShadow x.1 x.2) s
    s.updBlock b fun B => { B with quires := B.quires.map fun q => (q.1, { q.2 with groups := q.2.groups.map fun g => (g.1, { g.2 with held := false }) }) }

/-! ### Restoration -/

/-- The place in a save area of thread and register words. -/
def threadRecAt (i : Nat) : Nat := 0x1000 + 32 * i
def regAt (B : Block) (q i : Nat) : Nat := 0x5000 + 4 * (q * (32 * B.vregs + B.gregs) + i)

/-- The wait of a thread in state 4 (R451): the one it was captured in, unless a changed save area names another. -/
def State.restoreWait (s : State) (B : Block) (scope id : Nat) (old : Wait) : Wait :=
  let key := sbarKey B.part scope (instanceOf scope B.core) id
  let named : Wait :=
    if scope = 2 then .named id ((tget B.nb id {}).num + 1) none else .scope scope id key ((tget s.sbar key {}).num + 1)
  match old with
  | .named k _ _ => if scope = 2 ∧ id = k then old else named
  | .scope sc k _ _ => if scope = sc ∧ id = k then old else named
  | _ => named

/-- A thread as its record and the register file image give it. -/
def State.restoreThread (s : State) (B : Block) (img : List Byte) (q l : Nat) (t : Thread) (num : Nat → Nat → Nat) : Thread :=
  let r := num (threadRecAt (32 * q + l)) 32
  let st := bits r 187 184
  let vs := (List.range B.vregs).foldl (fun v n => regPut v n (BitVec.ofNat 32 (leNat ((img.drop (regAt B q (l * B.vregs + n))).take 4)))) []
  let fl := (List.range 12).foldl (fun f n => if bits r (85 + 6 * n) (80 + 6 * n) = 0 then f else tput f n (bits r (85 + 6 * n) (80 + 6 * n))) []
  { t with
    v := vs, p := BitVec.ofNat 7 (bits r 79 73), flags := fl, live := st != 0, pc := BitVec.ofNat 64 (bits r 255 192)
    wxrem := bits r 63 32
    wait := if st = 3 then .qsync (BitVec.ofNat 32 (bits r 31 0)) else if st = 4 then s.restoreWait B (bits r 183 180) (bits r 179 160) t.wait else .none }

/-- The words of a clause from its header on, fetched by the walkers (R57). -/
def State.clauseWords (s : State) (B : Block) (cl : BitVec 64) : Header × List Word :=
  let h := BitVec.ofNat 32 (s.numVa (coreTarn B.core) B.part cl.toNat 4).2
  let hd := headerOf B.ver h
  (hd, (List.range hd.len).map fun i => BitVec.ofNat 32 (s.numVa (coreTarn B.core) B.part ((cl.toNat + 4 * (i + 1)) % 2 ^ 64) 4).2)

/-- Threads with equal CLAUSE and WIDX form one group (R451), which goes on with the clause as it was fetched at entry (R57); a
place that a changed save area names is fetched anew.  A TAIL that has ended its participants stands on. -/
def State.regroup (s : State) (B : Block) (num : Nat → Nat → Nat) (q : Nat) (Q : Quire) (gid : Nat) : Quire :=
  let at? (l : Nat) : Nat × Nat :=
    let r := num (threadRecAt (32 * q + l)) 32
    (bits r 255 192, if bits r 187 184 = 3 ∧ bits r 191 188 = 0 then 16 else bits r 191 188)
  let ls := (List.range 32).filter fun l => (tget Q.threads l { live := false }).live && (at? l).2 != 0
  let keys := (ls.map at?).eraseDups
  let formed : Tab Group := (List.range keys.length).map fun i =>
    let k := keys.getD i (0, 0)
    let cl := BitVec.ofNat 64 k.1
    let mine := ls.filter fun l => at? l == k
    (gid + i, match Q.groups.find? fun g => g.2.clause == cl && g.2.lanes &&& laneMask mine != 0#32 with
      | some g => { g.2 with lanes := laneMask mine, widx := k.2 }
      | none =>
        let w := s.clauseWords B cl
        { lanes := laneMask mine, clause := cl, words := w.2, widx := k.2, sfa := w.1.sfa, sfb := w.1.sfb, yld := w.1.yld })
  let tails := Q.groups.filter fun g => g.2.ended != 0#32 && !formed.any fun f => f.2.ended == g.2.ended
  { Q with groups := formed ++ (List.range tails.length).map fun i =>
      (gid + keys.length + i, { (tails.getD i (0, { lanes := 0#32, clause := 0#64, words := [], widx := 0, sfa := 15, sfb := 15, yld := false })).2 with lanes := 0#32 }) }

/-- A block as its save area gives it (R449, R450). -/
def State.restoreBlock (s : State) (B : Block) (img : List Byte) (gid : Nat) : Block :=
  let num (o n : Nat) : Nat := leNat ((img.drop o).take n)
  let phases (n at_ : Nat) (t : Tab Phase) (f : Phase → Nat → Phase) : Tab Phase := (List.range n).filterMap fun i =>
    let p := f (tget t i {}) (num (at_ + 8 * i) 8)
    if p = ({} : Phase) then none else some (i, p)
  let B : Block := { B with
    nb := phases 32 0x40 B.nb nbRestore
    kreg := phases 16 0x140 B.kreg kRestore
    handles := (List.range 32).filterMap fun i =>
      let h := handleRestore (num (0x1C0 + 16 * i) 16)
      if h = ({} : Handle) then none else some (i, h)
    obuf := bytesCells ((img.drop 0x45000).take 262144)
    acc := (List.range 131072).filterMap fun i =>
      let w := BitVec.ofNat 32 (num (0x85000 + 4 * i) 4)
      if w = 0#32 then none else some (i, w)
    iring := (List.range 16).filterMap fun i =>
      let v := BitVec.ofNat 256 (num (0x5C0 + 32 * i) 32)
      match B.iring[i]? with
      | some e => some { e with bits := v }
      | none => if v = 0#256 then none else some { bits := v, seq := 0, ring := 0 }
    code := BitVec.ofNat 64 (num 8 8)
    st := .running }
  { B with quires := B.quires.map fun q =>
      let Q : Quire := { q.2 with threads := q.2.threads.map fun t => (t.1, s.restoreThread B img q.1 t.1 t.2 num) }
      let w := num (0x7C0 + 16 * q.1) 16
      let i := (B.quires.findIdx? fun x => x.1 == q.1).getD 0
      let gp := if B.gpWord i < 65536 then num (0x5000 + 4 * B.gpWord i) 4 else bits w 46 40
      let Q : Quire := { Q with
        fmask := BitVec.ofNat 32 (bits w 31 0), gp := BitVec.ofNat 7 gp
        firstCause := if bits w 39 32 = 0 then none else some (bits w 39 32, bits w 95 64)
        g := (List.range B.gregs).foldl (fun g r =>
          regPut g r (BitVec.ofNat 32 (num (regAt B q.1 (32 * B.vregs + r)) 4))) [] }
      (q.1, s.regroup B num q.1 Q (gid + 512 * q.1)) }

/-- A free side of a core, side 0 before side 1 (R365). -/
def Core.freeSide (C : Core) : Option Nat := [0, 1].find? fun i => (tget C.sides i {}).owner.isNone

/-- Whether a core's block still occupies it: it has a live thread, or an operation that no tracker entry holds (R102, R350). -/
def State.runBusy (s : State) (c : Nat) : Bool :=
  match (s.core c).run with
  | none => false
  | some b =>
    match s.block? b with
    | none => false
    | some B =>
      let tracked := (s.core c).tracker.foldl (fun a e => if e.2.1 = b then a ++ e.2.2 else a) []
      B.quires.any (fun q => q.2.threads.any fun t => t.2.live) ||
      s.ops.any (fun x => x.2.blk == b && !x.2.kept && !tracked.contains x.1) ||
      B.iring.any (fun e => !(e.origin.any tracked.contains)) || !B.dring.isEmpty || !B.mq.isEmpty

/-- Whether a core holds a block: one that still occupies it, or one that has been restored and waits to run (R350, R449). -/
def State.coreBusy (s : State) (c : Nat) : Bool := s.runBusy c || !(s.core c).waiting.isEmpty

/-- A context that has been restored while a block ran runs when that has gone (R20, R449). -/
def State.startWaiting (s : State) : State :=
  s.cores.foldl (fun s x => match (s.core x.1).waiting with
    | b :: rest => if s.runBusy x.1 then s else s.updCore x.1 fun C => { C with run := some b, waiting := rest }
    | [] => s) s

/-- A context leaves its core. -/
def State.offCore (s : State) (b : Nat) (B : Block) : State :=
  s.updCore B.core fun C => { C with run := if C.run = some b then none else C.run, waiting := C.waiting.filter (· != b) }

/-- A side may be saved: every command of its context has completed (R391). -/
def State.sideDone (s : State) (b : Nat) (B : Block) : Bool :=
  B.iring.isEmpty && B.dring.isEmpty && s.allRead B && B.mq.isEmpty && s.pendOf b == 0

/-- Save the side of a stopped block and free it (R365, R391): its bytes enter the save area, and it is no longer retained. -/
def State.saveSide (s : State) (core side : Nat) (B : Block) (a : BitVec 64) : State :=
  let t := coreTarn core
  let S := tget (s.core core).sides side {}
  let s := s.writeVa t B.part ((a.toNat + 0x105000) % 2 ^ 64) (cellBytes S.bytes 196608)
  let s := s.updCore core fun C => { C with sides := tput C.sides side {} }
  s.writeVa t B.part a.toNat (leBytes 64 (headerImage B 1 false 0))

/-- The block whose context a save area holds, if its header is good (R449): MAGIC, STATUS, partition and tarn. -/
def State.savedBlock (s : State) (t : Nat) (img : List Byte) : Option (Nat × Block) :=
  let h := leNat (img.take 64)
  if bits h 31 0 != 0x44584358 || bits h 63 32 != 1 || bits h 207 199 / 24 != t % 12 then none
  else s.blocks.find? fun x =>
    x.2.part == bits h 211 208 && x.2.lid == bits h 223 212 && x.2.bflat == bits h 255 224 && coreTarn x.2.core == t && x.2.saveArea.isSome

/-- Place a restored context on a core, in a side with the contents given: it runs there, or as soon as the core's block has gone (R20). -/
def State.placeContext (s : State) (core side b : Nat) (B : Block) (S : Side) : State :=
  let run := !s.coreBusy core
  (s.setBlock b { B with core, side }).updCore core fun C =>
    { C with sides := tput C.sides side { S with owner := some b }
             run := if run then some b else C.run, waiting := if run then C.waiting else C.waiting ++ [b] }

/-- Resume a saved context on a core, in its retained side when that is held there, else in a free side, which takes the side
image (R449): the result code, or none while its operations are outstanding.  A side that another core retains is saved first (R391, log
60). -/
def State.resume (s : State) (core : Nat) (part : Nat) (a : BitVec 64) : State × Option Nat :=
  let t := coreTarn core
  match s.readVa t part a.toNat saveBytes with
  | (s, none) => (s, some 2)
  | (s, some img) =>
    match s.savedBlock t img with
    | none => (s, some 2)
    | some (b, B) =>
      let held := s.holdsSide b B
      let kept := held && B.core == core
      let free := (s.core core).freeSide
      if B.part != part then (s, some 2)
      else if s.pendOf b != 0 then (s, none)
      else if s.coreBusy core && free.isNone then (s, some 3)
      else
        match (if kept then some B.side else free) with
        | none => (s, some 1)
        | some side =>
          if held && !kept && !s.sideDone b B then (s, none)
          else
            let B' := s.restoreBlock B img s.next
            let side' : Side := {
              bytes := if held then (B.sideOf s).bytes else bytesCells ((img.drop 0x105000).take 196608)
              tiles := tilesOf ((img.drop 0x3C0).take 512) }
            let s : State := { s with next := s.next + 512 * 16 }
            let s := if held && !kept then s.saveSide B.core B.side B a else s
            (s.placeContext core side b B' side', some 0)

end Sys2Proof.Machine
end

