-- ==== Sys2Proof/Machine/Launch.lean ====
section
/-! DEFINITION. Launches (R336 to R359): records, launch blocks and their acceptance, dependences, task records, placement and
leases, and the end of a launch. -/

namespace Sys2Proof.Machine

/-! ### The launch record (R336) -/

def LRec.f (r : LRec) (hi lo : Nat) : Nat := bits r.toNat hi lo
def LRec.code (r : LRec) : Nat := r.f 63 0
def LRec.frame (r : LRec) : Nat := r.f 127 64
def LRec.rtab (r : LRec) : Nat := r.f 191 128
def LRec.lblk (r : LRec) : Nat := r.f 255 192
def LRec.dep (r : LRec) : Nat := r.f 319 256
def LRec.gx (r : LRec) : Nat := r.f 335 320
def LRec.gy (r : LRec) : Nat := r.f 351 336
def LRec.gz (r : LRec) : Nat := r.f 367 352
def LRec.nt (r : LRec) : List Nat := [r.f 377 368, r.f 387 378, r.f 397 388]
def LRec.mapk (r : LRec) : Nat := r.f 400 398
def LRec.jx (r : LRec) : Nat := r.f 456 449
def LRec.prio (r : LRec) : Nat := r.f 458 457
def LRec.part (r : LRec) : Nat := r.f 462 459
def LRec.gang (r : LRec) : Nat := r.f 478 463
def LRec.flen (r : LRec) : Nat := r.f 494 479
/-- Blocks of the launch and threads of a block (R337). -/
def LRec.n (r : LRec) : Nat := r.gx * r.gy * r.gz
def LRec.t (r : LRec) : Nat := r.nt.foldl (· * ·) 1
/-- Quires of a block (R337). -/
def LRec.q (r : LRec) : Nat := (r.t + 31) / 32

/-! ### The kernel header (R80, R81) -/

structure KHead where
  magic : Nat
  ver : Nat
  vregs : Nat
  gregs : Nat
  scratch : Nat
  ring : Nat
  lcount : Nat
  lmode : Nat
  entry : Nat
  codeLen : Nat
  /-- Every reserved field is 0. -/
  clean : Bool
deriving DecidableEq, Repr

def kheadOf (h : Nat) : KHead :=
  { magic := bits h 31 0, ver := bits h 39 32, vregs := bits h 47 40, gregs := bits h 55 48, scratch := bits h 81 64
    ring := bits h 104 96, lcount := bits h 115 112, lmode := bits h 143 128, entry := bits h 191 160, codeLen := bits h 223 192
    clean := bits h 63 56 == 0 && bits h 95 82 == 0 && bits h 111 105 == 0 && bits h 127 116 == 0 && bits h 159 144 == 0 &&
      bits h 511 224 == 0 }

/-- The checks of R81. -/
def KHead.ok (k : KHead) : Bool :=
  k.magic == 0x44584B48 && decide (2 ≤ k.ver ∧ k.ver ≤ 4) && decide (1 ≤ k.vregs ∧ k.vregs ≤ 128) && decide (k.gregs ≤ 128) &&
    decide (k.scratch ≤ 196608) && [0, 8, 16, 32, 64, 128, 256].contains k.ring && decide (k.lcount ≤ 8) &&
    ((List.range k.lcount).all fun i => decide (bits k.lmode (2 * i + 1) (2 * i) ≤ 1)) && k.clean &&
    k.entry % 4 == 0 && decide (64 ≤ k.entry) && k.codeLen % 4 == 0 && decide (0 < k.codeLen) && decide (k.entry + k.codeLen ≤ 2 ^ 32)

/-- The quire fit of R17; 0 for a header that declares no registers (log 104). -/
def quireFit (v g : Nat) : Nat := min 16 (65536 / (32 * v + g))

/-! ### Launches of a partition -/

/-- An active launch by its LID. -/
def State.launch? (s : State) (p lid : Nat) : Option Launch := tget? (s.part p).launches lid
def State.updLaunch (s : State) (p lid : Nat) (f : Launch → Launch) : State :=
  s.updPart p fun P => match tget? P.launches lid with | some L => { P with launches := tput P.launches lid (f L) } | none => P
def State.task? (s : State) (p lid b : Nat) : Option Task := (s.launch? p lid).bind fun L => tget? L.tasks b
def State.updTask (s : State) (p lid b : Nat) (f : Task → Task) : State :=
  s.updLaunch p lid fun L => match tget? L.tasks b with | some t => { L with tasks := tput L.tasks b (f t) } | none => L
/-- The LID of an active launch by its own number. -/
def State.lidOf (s : State) (p uid : Nat) : Option Nat := ((s.part p).launches.find? fun x => x.2.uid == uid).map (·.1)

/-- A record state that is final (R348). -/
def Task.isFinal (t : Task) : Bool := decide (4 ≤ t.st)

/-- Write a field of a launch block's header (R339), as a release at `.sys`. -/
def State.writeBlk (s : State) (L : Launch) (off n v : Nat) : State :=
  s.writeVa L.ltarn L.part ((L.record.lblk + off) % 2 ^ 64) (leBytes n v)

/-! ### Gangs known on a module (R360) -/

def gangKey (module gnum : Nat) : Nat := module * 65536 + gnum

def State.gangOf (s : State) (p ltarn gnum : Nat) : Option Gang := tget? (s.part p).gangs (gangKey (tarnModule ltarn) gnum)

/-- The decision as a module knows it: 1 undecided, 2 COMMIT, 3 ABORT (R361); a launch outside any gang has none. -/
def State.decisionOf (s : State) (p ltarn gnum : Nat) : Nat := if gnum = 0 then 2 else (s.gangOf p ltarn gnum).elim 1 (·.st)

/-! ### The end of a launch (R355) -/

/-- STATE of a launch whose blocks are all final. -/
def Launch.finalState (L : Launch) (decision : Nat) : Nat :=
  if L.record.gang != 0 && decision == 3 then 5 else if L.nfault != 0 then 3 else if L.ncanc != 0 then 4 else 2

/-- Free gang entries whose decision is known and whose local launches are final (R361). -/
def State.freeGangs (s : State) (p : Nat) : State :=
  s.updPart p fun P => { P with gangs := P.gangs.filter fun g =>
    g.2.st == 1 || P.launches.any fun L => L.2.record.gang != 0 && gangKey (tarnModule L.2.ltarn) L.2.record.gang == g.1 }

/-- When every record is final, and a gang's decision known, STATE is written and the LID freed (R355, R340); a launch with
registrations on their way is kept for them (R345). -/
def State.closeLaunch (s : State) (p lid : Nat) : State :=
  match s.launch? p lid with
  | none => s
  | some L =>
    let d := s.decisionOf p L.ltarn L.record.gang
    if !(L.tasks.all fun t => t.2.isFinal) || d == 1 then s
    else
      let s := s.writeBlk L 0 4 (L.finalState d)
      let awaited := (s.part p).launches.any fun x => x.2.pred == some L.uid && !L.succ.contains x.2.uid
      (s.updPart p fun P => { P with
        launches := tdel P.launches lid
        past := if awaited then tput P.past L.uid L else P.past }).freeGangs p

/-! ### Records and their places (R342) -/

/-- Places of task records in a partition's overflow area: 2,048 in 64 KiB. -/
def Part.ovfRoom (P : Part) : Nat := P.ovfsize.toNat * 2048 - P.ovfUsed.length

/-- The lowest n slots of the overflow area that are free (log 58). -/
def Part.ovfFree (P : Part) (n : Nat) : List Nat :=
  ((List.range (P.ovfUsed.length + n)).filter fun i => !P.ovfUsed.contains i).take n

/-- A task record in the layout of R347; that of a pre-empted block names its saved context (R348). -/
def Task.record (t : Task) (r : LRec) (part : Nat) : BitVec 256 :=
  BitVec.ofNat 256 ((t.resume.elim r.code BitVec.toNat) + 2 ^ 64 * r.frame + 2 ^ 128 * (t.join % 2 ^ 32) + 2 ^ 160 * (t.bflat % 2 ^ 32) +
    2 ^ 192 * r.prio + 2 ^ 194 * (part % 16) + 2 ^ 198 * r.gang + 2 ^ 214 * (t.lid % 4096) + 2 ^ 226 * (if t.resume.isSome then 1 else 0))

/-- A record that is held in the overflow area is written there (R342, R347). -/
def State.keepRecord (s : State) (p lid b : Nat) : State :=
  match s.launch? p lid, s.task? p lid b with
  | some L, some t =>
    match t.spilled with
    | some k => s.writeVa L.ltarn p (((s.part p).ovfbase.toNat + 32 * k) % 2 ^ 64) (leBytes 32 (t.record L.record p).toNat)
    | none => s
  | _, _ => s

/-- A record gives its place up (R342). -/
def State.freePlace (s : State) (p ltarn : Nat) (spilled : Option Nat) : State :=
  match spilled with
  | some k => s.updPart p fun P => { P with ovfUsed := P.ovfUsed.filter (· != k) }
  | none => s.updTarn ltarn fun T => { T with store := T.store - 1 }

/-- Take a record out of its target tarn's ready queues, and give up its lease entries (R350, R354). -/
def State.dequeue (s : State) (t : Task) : State :=
  match t.target with
  | none => s
  | some g => s.updTarn g fun T => { T with
      queues := T.queues.map fun q => (q.1, q.2.filter fun e => !(e.2.1 == t.lid && e.2.2 == t.bflat))
      leaseCnt := T.leaseCnt - t.leases.length }

/-- A report entry (R341): into slot RPTW mod RPTN of the report ring, when there is one; it is counted in any case.  What it holds of a
faulting instruction is 0 where none faulted (log 129). -/
def State.writeReport (s : State) (L : Launch) (lid bflat : Nat) (rep : Option Report) (Q : Nat → Quire) : State :=
  let r1 := s.numVa L.ltarn L.part L.record.lblk 64
  let n := bits r1.2 271 256
  let r := rep.getD { cause := 0, detail := 0, clause := 0#64, widx := 0, lane := 0, ea := 0#64 }
  let img := leBytes 4 bflat ++ leBytes 4 (r.cause + 256 * r.detail) ++ leBytes 8 r.clause.toNat ++ leBytes 1 r.widx ++
    leBytes 1 r.lane ++ leBytes 6 0 ++ leBytes 8 r.ea.toNat ++ leBytes 32 0 ++
    ((List.range 16).map fun i => leBytes 4 (Q i).fmask.toNat).flatten ++
    ((List.range 16).map fun i => leBytes 4 ((Q i).firstCause.elim 0 (·.1)) ++ leBytes 4 ((Q i).firstCause.elim 0 (·.2))).flatten
  let s := if n = 0 then r1.1 else r1.1.writeVa L.ltarn L.part ((bits r1.2 255 192 + L.rptw % n * 256) % 2 ^ 64) img
  let w := min 65535 (L.rptw + 1)
  (s.updLaunch L.part lid fun L => { L with rptw := w }).writeBlk L 34 2 w

/-- Count a block that ended in state 5, 6 or 7 (R339). -/
def State.countEnd (s : State) (p lid st : Nat) : State :=
  match s.launch? p lid with
  | none => s
  | some L =>
    if st = 5 then (s.writeBlk L 12 4 (L.nfault + 1)).updLaunch p lid fun L => { L with nfault := L.nfault + 1, broken := true }
    else (s.writeBlk L 16 4 (L.ncanc + 1)).updLaunch p lid fun L => { L with ncanc := L.ncanc + 1, broken := true }

/-- A record in states 0 to 2 ends without dispatch, in state 5, 6 or 7. -/
def State.endRecord (s : State) (p lid b st : Nat) (rep : Option Report) : State :=
  match s.launch? p lid, s.task? p lid b with
  | some L, some t =>
    if 3 ≤ t.st then s else
    let s := (s.dequeue t).freePlace p L.ltarn t.spilled
    let s := s.updTask p lid b fun t => { t with st, leases := [], ranges := [], report := rep }
    let s := if st = 5 then s.writeReport L lid b rep fun _ => {} else s
    s.countEnd p lid st
  | _, _ => s

/-- Every record of a launch that has not been dispatched is cancelled (R346, R359), with a reason if one is given and there is such a
record. -/
def State.cancelRecords (s : State) (p lid reason st : Nat) : State :=
  match s.launch? p lid with
  | none => s
  | some L =>
    let s := if reason != 0 && L.tasks.any fun t => decide (t.2.st < 3) then s.writeBlk L 20 4 reason else s
    L.tasks.foldl (fun s t => s.endRecord p lid t.1 st none) s

/-- The successors registered with a launch are cancelled, and theirs in turn (R346). -/
def State.cancelSucc (s : State) (p : Nat) : (fuel : Nat) → (L : Launch) → State
  | 0, _ => s
  | fuel + 1, L =>
    L.succ.foldl (fun s u => match s.lidOf p u with
      | none => s
      | some k =>
        match s.launch? p k with
        | none => s
        | some L2 =>
          if L2.tasks.any fun t => decide (t.2.st < 3) then
            ((s.cancelRecords p k 8 6).cancelSucc p fuel L2).closeLaunch p k
          else s) s

/-- A launch has had a faulted, cancelled or gang-aborted block (R346). -/
def State.broke (s : State) (p lid : Nat) : State :=
  match s.launch? p lid with
  | none => s
  | some L => if L.broken then s.cancelSucc p ((s.part p).launches.length + 1) L else s

/-! ### Placement (R349) -/

/-- The declared ranges of block b (R338). -/
def Launch.declared (L : Launch) (b : Nat) : List Lease :=
  match L.ranges with
  | some r => r
  | none => (List.range L.rtab.length).filterMap fun i =>
      match L.rtab[i]? with
      | some (base, len, stride) =>
        if len = 0 then none else some { base := (base + b * stride) % 2 ^ 64, len, mode := bits L.lmode (2 * i + 1) (2 * i) }
      | none => none

/-- The 64 KiB granules that some ranges touch, each once. -/
def granulesOf (rs : List Lease) : List Nat :=
  (rs.map fun r => (List.range ((r.base % 65536 + r.len + 65535) / 65536)).map fun i => (r.base / 65536 + i) % 2 ^ 48).flatten.eraseDups

/-- The tarn that owns most granules of the ranges; a tie goes to the nearest, then to the lower number. -/
def State.place (s : State) (p ltarn : Nat) (rs : List Lease) : Nat :=
  let homes := (granulesOf rs).filterMap fun g =>
    match (s.walk ltarn p (g * 65536)).2 with
    | .ok x =>
      match homeOf (x.pa (g * 65536)) with
      | some h =>
        if tarnModule h == tarnModule ltarn && (s.part p).tarns.contains h && (s.tarn h).st == Online.online then some h else none
      | none => none
    | .error _ => none
  let count (t : Nat) : Nat := (homes.filter (· == t)).length
  (bestOf (fun a b =>
    if count a != count b then decide (count b < count a)
    else if s.hops ltarn a != s.hops ltarn b then decide (s.hops ltarn a < s.hops ltarn b)
    else decide (a ≤ b)) homes.eraseDups).getD ltarn

/-- A record whose counter is 0 becomes ready and is placed, once (R348, R349). -/
def State.makeReady (s : State) (p lid b : Nat) : State :=
  match s.launch? p lid with
  | none => s
  | some L =>
    let rs := L.declared b
    let g := s.place p L.ltarn rs
    s.updTask p lid b fun t => { t with st := 1, target := some g, ranges := rs }

/-- A decrement of a record's counter: the status of JDEC (R358, R359). -/
def State.decrement (s : State) (p lid b : Nat) (covers : List Nat) : State × Nat :=
  match s.task? p lid b with
  | none => (s, 4)
  | some t =>
    if t.isFinal then (s, 7)
    else if t.join = 0 then (s, 5)
    else
      let s := (s.updTask p lid b fun t => { t with join := t.join - 1, covers := addNew t.covers covers }).keepRecord p lid b
      if t.join = 1 then (s.makeReady p lid b, 6) else (s, 0)

/-! ### Dependences (R344, R345) -/

/-- The blocks whose counter predecessor block k decrements (R344). -/
def LRec.mapHits (r : LRec) (k : Nat) : List Nat :=
  match r.mapk with
  | 1 => if k < r.n then [k] else []
  | 2 =>
    let lo : Int := (r.f 416 401 : Nat) * (k : Int) + toSigned 16 (r.f 432 417)
    (List.range r.n).filter fun b => decide (lo ≤ (b : Int)) && decide ((b : Int) < lo + (r.f 448 433 : Nat))
  | 3 => (List.range r.n).filter fun b => b / r.gx == k
  | 4 => if k < r.gx then (List.range r.n).filter fun b => b % r.gx == k else []
  | 5 => List.range r.n
  | _ => []

/-- Predecessor block k has completed: the decrements it sends a registered successor (R345). -/
def State.sendDecrements (s : State) (p : Nat) (uid k : Nat) (covers : List Nat) : State :=
  match s.lidOf p uid with
  | none => s
  | some lid =>
    match s.launch? p lid with
    | none => s
    | some L =>
      (L.record.mapHits k).foldl (fun s b => s.updTask p lid b fun t => { t with pend := t.pend + 1, covers := addNew t.covers covers }) s

/-- REGISTRATION (R345): the predecessor's command processor acts on a registration: a block that has failed cancels the
successor, and each block already complete sends its decrements. -/
def execRegistration (part succ : Nat) (s : State) : Out :=
  match s.launch? part succ with
  | none => .next s
  | some L =>
    match L.pred with
    | none => .next s
    | some u =>
      let act (P : Launch) (s : State) : State :=
        let s := if P.broken then
            ((s.cancelRecords part succ 8 6).broke part succ).closeLaunch part succ
          else s
        P.tasks.foldl (fun s t => if t.2.st = 4 then s.sendDecrements part L.uid t.1 [] else s) s
      match s.lidOf part u with
      | some k =>
        match s.launch? part k with
        | some P =>
          if P.succ.contains L.uid then .next s
          else .next (act P (s.updLaunch part k fun P => { P with succ := P.succ ++ [L.uid] }))
        | none => .next s
      | none =>
        match tget? (s.part part).past u with
        | some P =>
          if P.succ.contains L.uid then .next s
          else
            let s := s.updPart part fun X => { X with past := tput X.past u { P with succ := P.succ ++ [L.uid] } }
            .next (act P s)
        | none => .next s

/-- JOIN_DECREMENT (R345): a decrement reaches the successor's launching tarn. -/
def execJoinDecrement (part lid blk : Nat) (s : State) : Out :=
  match s.task? part lid blk with
  | none => .next s
  | some t =>
    if t.pend = 0 then .next s
    else .next ((s.updTask part lid blk fun t => { t with pend := t.pend - 1 }).decrement part lid blk []).1

/-! ### Acceptance (R342, R343) -/

/-- The checks of R343 on a record that a partition submits to a launching tarn: the reason of the first that fails.  A SPAWN
gives its ranges itself. -/
def State.refuse (s : State) (p ltarn : Nat) (r : LRec) (spawn : Bool) : Nat :=
  let codeOk := r.code % 64 == 0 && s.pagesOk ltarn p r.code 64 (userPage false true)
  let k := kheadOf (s.numVa ltarn p r.code 64).2
  let ranged := !spawn && codeOk && k.lcount != 0
  let depOk := r.dep % 64 == 0 && s.pagesOk ltarn p r.dep 4 (userPage false false)
  let depState := (s.numVa ltarn p r.dep 4).2
  let rt := (List.range (min k.lcount 15)).map fun i => bits (s.numVa ltarn p ((r.rtab + 32 * i) % 2 ^ 64) 32).2 127 64
  if r.f 511 495 != 0 || r.gx == 0 || r.gy == 0 || r.gz == 0 || r.nt.any (fun n => n == 0 || decide (512 < n)) || decide (512 < r.t) ||
      decide (2 ^ 24 < r.n) || decide (5 < r.mapk) || ((r.mapk == 0) != (r.dep == 0)) || r.lblk % 64 != 0 || r.frame % 64 != 0 ||
      (ranged && r.rtab % 32 != 0) then 1
  else if r.part != p then 2
  else if !codeOk then 4
  else if decide (quireFit k.vregs k.gregs < r.q) then 3
  else if r.mapk != 0 && (!depOk || depState == 0 || decide (7 < depState) ||
      (depState == 1 && !((s.part p).launches.any fun x => x.2.record.lblk == r.dep))) then 5
  else if r.gang != 0 && (s.gangOf p ltarn r.gang).isNone then 6
  else if (ranged && (!s.pagesOk ltarn p r.rtab (32 * k.lcount) (userPage false false) || rt.any fun n => decide (2 ^ 40 < n))) ||
      (r.flen != 0 && !s.pagesOk ltarn p r.frame (64 * r.flen) (userPage false false)) then 7
  else 0

/-- The launch block of a record, for a launch that is refused. -/
def bareLaunch (p ltarn : Nat) (r : LRec) : Launch := { record := r, uid := 0, part := p, ltarn }

/-- The task records of an accepted launch, with the decrements that each awaits (R342, R344, R348). -/
def acceptTasks (r : LRec) (lid n1 room : Nat) (slots covers : List Nat) : Tab Task :=
  (List.range r.n).map fun b =>
    (b, { lid, bflat := b, join := r.jx + ((List.range n1).filter fun k => (r.mapHits k).contains b).length
          spilled := if room ≤ b then slots[b - room]? else none, covers })

/-- The launch as it is accepted under a LID (R342): its predecessor, its range table, its records; and STATE of the predecessor. -/
def State.newLaunch (s : State) (p ltarn : Nat) (r : LRec) (ranges : Option (List Lease)) (covers : List Nat) (lid room : Nat) :
    Launch × Nat :=
  let k := kheadOf (s.numVa ltarn p r.code 64).2
  let depState := if r.mapk = 0 then 2 else (s.numVa ltarn p r.dep 4).2
  let pred : Option Launch := if r.mapk != 0 && depState == 1 then
      ((s.part p).launches.find? fun x => x.2.record.lblk == r.dep).map (·.2) else none
  let rtab := if ranges.isSome then [] else (List.range (min k.lcount 8)).map fun i =>
    let e := (s.numVa ltarn p ((r.rtab + 32 * i) % 2 ^ 64) 32).2
    (bits e 63 0, bits e 127 64, bits e 191 128)
  ({ record := r, uid := s.next, part := p, ltarn, tasks := acceptTasks r lid (pred.elim 0 (·.record.n)) room ((s.part p).ovfFree (r.n - room)) covers
     pred := pred.map (·.uid), ranges, rtab, lcount := k.lcount, lmode := k.lmode, codeEnd := k.entry + k.codeLen }, depState)

/-- An accepted launch is entered: LID and STATE are written, its records take their places, those for which the store has none in the
overflow area, and a gang's member acknowledges (R342,
R361). -/
def State.enterLaunch (s : State) (L : Launch) (lid room : Nat) : State :=
  let n := L.record.n
  let s : State := { (s.writeBlk L 4 4 lid).writeBlk L 0 4 1 with next := s.next + 1 }
  let slots := (s.part L.part).ovfFree (n - room)
  let s := s.updPart L.part fun P => { P with launches := tput P.launches lid L, ovfUsed := slots.foldl insNat P.ovfUsed }
  let s := (List.range (n - room)).foldl (fun s i => s.keepRecord L.part lid (room + i)) s
  let s := s.updTarn L.ltarn fun T => { T with store := T.store + min room n }
  let s := if room < n then s.postTrap L.ltarn { kind := 2, detail := 1 } else s
  if L.record.gang = 0 then s else
  s.updPart L.part fun P => match tget? P.gangs (gangKey (tarnModule L.ltarn) L.record.gang) with
    | some g => { P with gangs := tput P.gangs (gangKey (tarnModule L.ltarn) L.record.gang) { g with acked := true } }
    | none => P

/-- What follows at once: the records of a launch whose predecessor has failed are cancelled, those of an aborted gang ended, and
those that await nothing become ready (R342, R345, R346, R363). -/
def State.firstReady (s : State) (L : Launch) (lid depState : Nat) : State :=
  if decide (3 ≤ depState ∧ depState ≤ 5) then (s.cancelRecords L.part lid 8 6).closeLaunch L.part lid
  else if L.record.gang != 0 && s.decisionOf L.part L.ltarn L.record.gang == 3 then
    (s.cancelRecords L.part lid 0 7).closeLaunch L.part lid
  else L.tasks.foldl (fun s t => if t.2.join = 0 then s.makeReady L.part lid t.1 else s) s

/-- Acceptance of a launch (R342): status, LID and reason (R358). -/
def State.accept (s : State) (p ltarn : Nat) (r : LRec) (ranges : Option (List Lease)) (covers : List Nat) : State × Nat × Nat :=
  let L0 := bareLaunch p ltarn r
  let reason := s.refuse p ltarn r ranges.isSome
  if reason != 0 then (((s.writeBlk L0 20 4 reason).writeBlk L0 0 4 6), 2, reason)
  else
    let room := 256 - (s.tarn ltarn).store
    match (List.range 4096).find? fun i => (s.launch? p i).isNone with
    | none => (s.writeBlk L0 0 4 7, 1, 0)
    | some lid =>
      if room + (s.part p).ovfRoom < r.n then (s.writeBlk L0 0 4 7, 1, 0)
      else
        let x := s.newLaunch p ltarn r ranges covers lid room
        ((s.enterLaunch x.1 lid room).firstReady x.1 lid x.2, 0, lid)

/-! ### Leases (R352 to R354) -/

/-- The leases of a block (R352). -/
def Launch.leasesOf (L : Launch) (rs : List Lease) : List Lease :=
  rs ++ [{ base := L.record.code, len := L.codeEnd, mode := 2 }] ++
    (if L.record.flen = 0 then [] else [{ base := L.record.frame, len := 64 * L.record.flen, mode := 0 }])

/-- The checks of R203 at grant, granule by granule. -/
def State.leaseOk (s : State) (t p : Nat) (l : Lease) : Bool :=
  s.pagesOk t p l.base l.len fun x va =>
    userPage false false x va && (l.mode != 1 || userPage true false x va) && (l.mode != 2 || userPage false true x va)

/-- Queue a record behind those granted before it, and in the same cycle by LID and block number (R350). -/
def queueInsert (e : Nat × Nat × Nat) : List (Nat × Nat × Nat) → List (Nat × Nat × Nat)
  | [] => [e]
  | x :: l =>
    let after := if x.1 = 0 ∨ x.1 != e.1 then decide (x.1 ≤ e.1) else decide (x.2.1 < e.2.1 ∨ (x.2.1 = e.2.1 ∧ x.2.2 < e.2.2))
    if after then x :: queueInsert e l else e :: x :: l

/-- LEASE_GRANT (R352): a ready record's leases are granted and it is queued at its target tarn, or it ends LEASE-DENIED, with a
report that names no instruction (log 130). -/
def execLeaseGrant (part lid blk : Nat) (s : State) : Out :=
  match s.launch? part lid, s.task? part lid blk with
  | some L, some t =>
    match t.st, t.target with
    | 1, some g =>
      let ls := L.leasesOf t.ranges
      match ls.find? fun l => !s.leaseOk g part l with
      | some l =>
        let s := s.endRecord part lid blk 5
          (some { cause := causeLeaseDenied, detail := 0, clause := 0#64, widx := 0, lane := 0, ea := BitVec.ofNat 64 l.base })
        .next ((s.broke part lid).closeLaunch part lid)
      | none =>
        let s := s.updTask part lid blk fun t => { t with st := 2, leases := ls }
        let full := decide (1024 < (s.tarn g).leaseCnt + ls.length)
        let s := s.updTarn g fun T => { T with
          leaseCnt := T.leaseCnt + ls.length
          queues := tput T.queues L.record.prio (queueInsert (max 1 s.clk, lid, blk) (tget T.queues L.record.prio [])) }
        .next (if full then s.postTrap g { kind := 2, detail := 2 } else s)
    | _, _ => .next s
  | _, _ => .next s

/-! ### Dispatch (R350, R351) -/

/-- The head of the highest-priority queue of a tarn that is not empty (R350). -/
def Tarn.queueHead (T : Tarn) : Option (Nat × Nat × Nat × Nat) :=
  [3, 2, 1, 0].findSome? fun k => ((tget T.queues k []).head?).map fun e => (k, e)

/-- The threads of a block's quires at its first dispatch (R337, R351). -/
def freshQuires (r : LRec) (pc : BitVec 64) (covers : List Nat) : Tab Quire :=
  (List.range r.q).map fun q =>
    (q, { threads := (List.range (min 32 (r.t - 32 * q))).map fun l => (l, { pc, synced := covers }) })

/-- A block at its first dispatch (R351). -/
def freshBlock (L : Launch) (t : Task) (core side : Nat) (k : KHead) : Block :=
  { core, part := L.part, lid := t.lid, bflat := t.bflat, ltarn := L.ltarn
    code := BitVec.ofNat 64 L.record.code, frame := BitVec.ofNat 64 L.record.frame, entry := k.entry, codeLen := k.codeLen
    ver := k.ver, vregs := k.vregs, gregs := k.gregs, scratch := k.scratch, ring := k.ring, shape := L.record.nt
    grid := [L.record.gx, L.record.gy, L.record.gz], ranges := t.ranges, leases := t.leases, gang := L.record.gang, side
    quires := freshQuires L.record (BitVec.ofNat 64 (L.record.code + k.entry)) t.covers
    active := List.range (min 8 L.record.q), pending := (List.range L.record.q).drop 8 }

/-- A core is idle (R350): it holds no block, or only tracker entries, and a side is free. -/
def State.coreIdle (s : State) (c : Nat) : Bool := !s.coreBusy c && (s.core c).freeSide.isSome

/-- A lower-numbered core of the tarn became idle in the same cycle and has not popped yet (R350). -/
def State.idleBefore (s : State) (core : Nat) : Bool :=
  (List.range (coreNum core)).any fun c =>
    s.coreIdle (coreTarn core * 25 + c) && (s.core (coreTarn core * 25 + c)).idleAt == (s.core core).idleAt

/-- BLOCK_DISPATCH (R350, R351, R81): an idle core with a free side pops the head of its tarn's highest queue; a RESUME record
resumes as CTXGO does.  The record of an unsupported version carries no failing word (log 123). -/
def execBlockDispatch (core : Nat) (s : State) : Out :=
  let t := coreTarn core
  let T := s.tarn t
  if coreNum core = 24 ∨ T.st ≠ Online.online ∨ s.coreBusy core ∨ s.idleBefore core then .next s else
  match T.queueHead with
  | none => .next s
  | some (prio, e) =>
    let part := match s.parts.find? fun p => p.2.tarns.contains t with | some p => p.1 | none => 0
    match s.launch? part e.2.1, s.task? part e.2.1 e.2.2 with
    | some L, some rec =>
      let pop (s : State) : State := s.updTarn t fun T => { T with queues := tput T.queues prio ((tget T.queues prio []).drop 1) }
      match rec.resume with
      | some a =>
        if s.vaShut t part a.toNat saveBytes then .next s else
        let r := s.resume core part a
        .next (match r.2 with
          | some 0 => ((pop r.1).updTask part e.2.1 e.2.2 fun x => { x with resume := none }).freePlace part t rec.spilled
          | _ => r.1)
      | none =>
        if s.vaShut t part L.record.code 64 then .next s else
        match (s.core core).freeSide with
        | none => .next s
        | some side =>
          let s := (pop s).freePlace part L.ltarn rec.spilled
          let s := s.updTask part e.2.1 e.2.2 fun x => { x with st := 3 }
          let r := s.numVa t part L.record.code 64
          let k := kheadOf r.2
          let b := r.1.next
          let B := freshBlock L rec core side k
          let s : State := { r.1.setBlock b B with next := b + 1 }
          let s := s.updCore core fun C => { C with run := some b, sides := tput C.sides side { owner := some b } }
          .next (if k.ok then s
            else s.endTask b 5 (some { cause := causeIllegal, detail := 0xD, clause := B.code, widx := 0, lane := 0, ea := 0#64 }))
    | _, _ => .next s

/-! ### Completion (R102, R355) -/

/-- A block is complete (R102): no live thread, nothing outstanding, no tracker entry. -/
def State.blockComplete (s : State) (b : Nat) (B : Block) : Bool :=
  !B.sup && !B.quires.any (fun q => q.2.threads.any fun t => t.2.live) && !s.ops.any (fun x => x.2.blk == b && !x.2.kept) &&
    !(s.core B.core).tracker.any (fun e => e.2.1 == b) && B.iring.isEmpty && B.dring.isEmpty && s.allRead B && B.mq.isEmpty &&
    (match B.st with | .stopping .. => false | _ => true)

/-- A block leaves its core and gives up its leases and shadow frames; its side drains (R353, R365). -/
def State.leaveCore (s : State) (b : Nat) (B : Block) : State :=
  let s := s.updTarn (coreTarn B.core) fun T => { T with leaseCnt := T.leaseCnt - B.leases.length }
  let fr := (B.shadows.map fun h => h.2.frames).flatten
  let s := s.updPart B.part fun P => { P with shUsed := P.shUsed.filter fun x => !fr.contains x }
  { s.offCore b B with blocks := tdel s.blocks b }

/-- BLOCK_COMPLETION (R355): bitmap bit and NDONE, leases released, decrements sent; or the end of a failed block: its report,
its count, and the cancellation of successors (R346). -/
def execBlockCompletion (b : Nat) (s : State) : Out :=
  match s.block? b with
  | none => .next s
  | some B =>
    if !s.blockComplete b B then .next s
    else
      match s.launch? B.part B.lid with
      | none => .next (s.leaveCore b B)
      | some L =>
        if s.vaShut L.ltarn L.part L.record.lblk (64 + (L.record.n + 63) / 64 * 8) then .next s else
        let Q (i : Nat) : Quire := tget B.quires i {}
        let lanes := B.quires.any fun q => q.2.fmask != 0#32
        match B.st with
        | .ending st =>
          let s := if st = 5 then s.writeReport L B.lid B.bflat B.report Q else s
          let s := (s.updTask B.part B.lid B.bflat fun t => { t with st, leases := [] }).countEnd B.part B.lid st
          .next (((s.leaveCore b B).broke B.part B.lid).closeLaunch B.part B.lid)
        | _ =>
          let s := if lanes then s.writeReport L B.lid B.bflat none Q else s
          let at_ := (L.record.lblk + 64 + B.bflat / 8) % 2 ^ 64
          let r := s.numVa L.ltarn B.part at_ 1
          let s := r.1.writeVa L.ltarn B.part at_ (leBytes 1 (r.2 ||| 2 ^ (B.bflat % 8)))
          let s := s.writeBlk L 8 4 (L.ndone + 1)
          let s := s.updLaunch B.part B.lid fun L => { L with ndone := L.ndone + 1 }
          let s := s.updTask B.part B.lid B.bflat fun t => { t with st := 4, leases := [] }
          let s := s.leaveCore b B
          let s := L.succ.foldl (fun s u => s.sendDecrements B.part u B.bflat []) s
          .next (s.closeLaunch B.part B.lid)

/-- SIDE_DRAIN (R365, R351): the side of a block that has gone is zeroed and freed; that of a stopped block whose commands are
complete is saved first (R391). -/
def execSideDrain (core side : Nat) (s : State) : Out :=
  let S := tget (s.core core).sides side {}
  match S.owner with
  | none => .next s
  | some b =>
    match s.block? b with
    | none => .next (s.updCore core fun C => { C with sides := tput C.sides side {} })
    | some B =>
      match B.saveArea with
      | some a =>
        if !s.sideDone b B || s.vaShut (coreTarn core) B.part a.toNat saveBytes then .next s else .next (s.saveSide core side B a)
      | none => .next s

end Sys2Proof.Machine
end

