-- ==== Sys2Proof/Machine/Command.lean ====
section
/-! DEFINITION. The launch and task instructions as they issue, and as a command processor acts on them (R356 to R359); gangs
(R360 to R363); the deadlock watchdog (R334, R335). -/

namespace Sys2Proof.Machine

/-! ### Issue (R357) -/

/-- A launch or task instruction issues: its operand values go with it to a command processor, which LAUNCH_ACCEPTANCE stands
for; `rel` is the release it makes, `acq` the acquire (R356, R359). -/
def commandIssue (ins : Instr) (w : W2) (pair : Bool) (rel : Nat) (va x c' : Ctx → Nat) (s : State) (acq : Nat := 0) : Out :=
  match s.ctx? with
  | none => .next s
  | some c =>
    let ls := c.uniform w.p false
    let o : Op := { c.op .launch ins (laneMask ls) (c.flag w.n) with
      holdG := destRegs w.d pair
      rel, acq
      elems := [{ lane := ls.headD 0, va := BitVec.ofNat 64 (va c), pa := 0, size := 0, x := BitVec.ofNat 64 (x c), c := BitVec.ofNat 64 (c' c) }] }
    .next ((s.issueStep c 2 (s.stampOrder c.Q o)).holdAcquire c ls acq s.next)

/-- A 64-byte record or descriptor that an instruction names: a read lease, aligned to 64 bytes (R359). -/
def withRecord (w : W2) (s : State) (f : State → Out) : Out :=
  match s.ctx? with
  | none => .next s
  | some c =>
    match s.checkAccess c ((c.uniform w.p false).take 1) (fun _ => c.Q.getGPair w.a.toNat) 64 64 false noCell with
    | .wait s => .next s
    | .fault s => .next s
    | .ok s _ => f s

def pairA (w : W2) (c : Ctx) : Nat := (c.Q.getGPair w.a.toNat).toNat
def wordA (w : W2) (c : Ctx) : Nat := (c.Q.getG w.a.toNat).toNat

/-- LAUNCH (R359). -/
def execLaunch (w : W2) (s : State) : Out :=
  withRecord w s fun s => commandIssue (.launch w) w true 5 (pairA w) (fun _ => 0) (fun _ => 0) s
/-- SPAWN (R359). -/
def execSpawn (w : W2) (s : State) : Out :=
  commandIssue (.spawn w) w true 5 (fun c => (c.Q.getGPair w.x.c.toNat).toNat) (pairA w) (fun c => opBG c.Q w true 0) s
/-- JDEC (R359): the block number of the immediate form is zero-extended. -/
def execJdec (w : W2) (s : State) : Out :=
  commandIssue (.jdec w) w false 5 (fun _ => 0) (wordA w) (fun c => opBG c.Q w false w.x.imm20.toNat) s
/-- TSTAT (R359): without `.blk` an acquire at `.pkg` of what the blocks it counts have written, all of which has been performed
(R355). -/
def execTstat (w : W2) (s : State) : Out :=
  commandIssue (.tstat w) w true 0 (fun _ => 0) (wordA w)
    (fun c => if w.x.sub.getLsbD 0 then opBG c.Q w false w.x.imm20.toNat else 0) s (acq := if w.x.sub.getLsbD 0 then 0 else 5)
/-- TCANCEL (R359). -/
def execTcancel (w : W2) (s : State) : Out := commandIssue (.tcancel w) w false 0 (fun _ => 0) (wordA w) (fun _ => 0) s
/-- GANG (R361): `.open` names a descriptor, `.qry` and `.abort` a gang number. -/
def execGang (w : W2) (s : State) : Out :=
  if w.x.sub.toNat % 4 = 0 then
    withRecord w s fun s => commandIssue (.gang w) w true 0 (pairA w) (fun _ => 0) (fun _ => 0) s
  else commandIssue (.gang w) w true 0 (fun _ => 0) (wordA w) (fun _ => 0) s

/-! ### Gangs (R360 to R363) -/

/-- Descriptor fields (R360). -/
def gMembers (d : BitVec 512) : Nat := bits d.toNat 511 256
def gTmo (d : BitVec 512) : Nat := if bits d.toNat 159 128 = 0 then 200 else bits d.toNat 159 128
def gInit (d : BitVec 512) : Nat := bits d.toNat 119 112
def gNum (d : BitVec 512) : Nat := bits d.toNat 111 96
def gGen (d : BitVec 512) : Nat := bits d.toNat 93 64
def gCell (d : BitVec 512) : Nat := bits d.toNat 63 0

/-- A malformed descriptor, or an issuing module outside MEMBERS (R361). -/
def gangBad (d : BitVec 512) (m : Nat) : Bool :=
  bits d.toNat 255 160 != 0 || bits d.toNat 127 120 != 0 || bits d.toNat 95 94 != 0 || gNum d == 0 || gCell d % 16 != 0 ||
    !(gMembers d).testBit (gInit d) || !(gMembers d).testBit m

/-- The lowest tarn of a partition on a module. -/
def State.moduleTarn (s : State) (p m : Nat) : Nat := ((s.part p).tarns.find? fun t => tarnModule t == m).getD (m * 12)

/-- The physical address of a gang's cell, as a supervisor of the partition on some module finds it: a CELL page. -/
def State.gangCell (s : State) (p m : Nat) (d : BitVec 512) : Option Nat :=
  let t := s.moduleTarn p m
  match (s.walk t p (gCell d)).2 with
  | .ok x => if x.cell && !s.homeOffline (x.pa (gCell d)) then some (x.pa (gCell d)) else none
  | .error _ => none

/-- The identity of the supervisor core that proposes for a module (R299). -/
def supIdent (t : Nat) : Nat := t / 12 * 2 ^ 24 + t % 12 * 2 ^ 20 + 24 * 2 ^ 15

/-- The home of a gang's cell is offline: a proposal to it is not sent (R456). -/
def State.gangAway (s : State) (p m : Nat) (d : BitVec 512) : Bool :=
  let t := s.moduleTarn p m
  match (s.walk t p (gCell d)).2 with | .ok x => x.cell && s.homeOffline (x.pa (gCell d)) | .error _ => false

/-- A proposal acts on the gang's cell, as a PROP at `.sys` does (R306, R307, R213). -/
def State.gangAt (s : State) (pa : Nat) (d : BitVec 512) (value ident : Nat) : State :=
  let ln := lineOf pa
  let s := { s with next := s.next + 1 }.updTarn (lineHome ln) fun T =>
    { T with cellClk := tput T.cellClk (sliceOf pa) (s.clk, 2 ^ 80 + s.next), cellFrames := insNat T.cellFrames (pa / 65536) }
  let s := if s.lineRetired ln then s else (if s.isPoisoned ln then s.poisonCells ln else s).dropCount ln
  if s.lineRetired ln then s
  else match (cellStep .prop (s.cellAt pa) (gGen d) value ident).write with
    | some c => (s.writeCell pa c true).wakeCell pa c outDecided
    | none => s

/-- A gang's earliest proposal that waits acts at its cell's home, once that is online and its slice can take it (R307, R317, R456). -/
def State.gangSend (s : State) (p key : Nat) : State :=
  let m := key / 65536
  match tget? (s.part p).gangs key with
  | none => s
  | some g =>
    match g.prop, s.gangCell p m g.desc with
    | v :: vs, some pa =>
      if s.cellHeld 0 pa (s.clk, 2 ^ 80 + s.next) || s.cellLate pa (2 ^ 80 + s.next) || s.dramHeld (lineOf pa) then s
      else (s.updPart p fun P => { P with gangs := tput P.gangs key { g with prop := vs } }).gangAt pa g.desc v (supIdent (s.moduleTarn p m))
    | _, _ => s

/-- A proposal to a gang cell at GEN (R362): behind those of its gang that wait; for an offline home the proposing supervisor takes a
HOME-OFFLINE trap (R456). -/
def State.gangPropose (s : State) (p m : Nat) (d : BitVec 512) (value : Nat) : State :=
  let s := s.updPart p fun P => match tget? P.gangs (gangKey m (gNum d)) with
    | some g => { P with gangs := tput P.gangs (gangKey m (gNum d)) { g with prop := g.prop ++ [value] } }
    | none => P
  let t := s.moduleTarn p m
  if s.gangAway p m d && (s.tarn t).hoffEn then
    s.postTrap t { kind := 3, cause := causeHomeOffline, addr := BitVec.ofNat 64 (gCell d), ident := BitVec.ofNat 32 (supIdent t) }
  else s.gangSend p (gangKey m (gNum d))

/-- The decision that a gang cell holds: 2 COMMIT, 3 ABORT, 1 while it is open. -/
def State.gangDecided (s : State) (p m : Nat) (d : BitVec 512) : Nat :=
  match s.gangCell p m d with
  | none => 1
  | some pa =>
    let c := s.cellAt pa
    if cellState c = 1 ∧ cellGen c = gGen d then (if cellValue c = 1 then 2 else 3) else 1

/-- A module learns the decision (R362): on ABORT every record not dispatched is gang-aborted (R363). -/
def State.gangLearn (s : State) (p key : Nat) : State :=
  match tget? (s.part p).gangs key with
  | none => s
  | some g =>
    let st := s.gangDecided p (key / 65536) g.desc
    if g.st != 1 || st == 1 then s
    else
      let s := s.updPart p fun P => { P with gangs := tput P.gangs key { g with st, timer := none } }
      let mine := ((s.part p).launches.filter fun L => L.2.record.gang != 0 && gangKey (tarnModule L.2.ltarn) L.2.record.gang == key).map (·.1)
      let s := mine.foldl (fun s lid =>
        let s := if st = 3 then ((s.cancelRecords p lid 0 7).broke p lid) else s
        s.closeLaunch p lid) s
      s.freeGangs p

/-- GANG_DECISION (R362): a proposal that waits is sent, and a module's supervisor is woken by its DWAIT. -/
def execGangDecision (part gang : Nat) (s : State) : Out := .next ((s.gangSend part gang).gangLearn part gang)

/-- GANG_ACKNOWLEDGE (R362): a member's acknowledgement reaches the initiator; the last one has it propose COMMIT. -/
def execGangAcknowledge (part gang member : Nat) (s : State) : Out :=
  match tget? (s.part part).gangs gang, tget? (s.part part).gangs (gangKey member (gang % 65536)) with
  | some g, some mg =>
    if gInit g.desc != gang / 65536 || !mg.acked || g.acks.contains member || !(gMembers g.desc).testBit member then .next s
    else
      let acks := insNat g.acks member
      let s := s.updPart part fun P => { P with gangs := tput P.gangs gang { g with acks } }
      .next (if (List.range 256).all fun m => !(gMembers g.desc).testBit m || acks.contains m
        then s.gangPropose part (gang / 65536) g.desc 1 else s)
  | _, _ => .next s

/-- GANG_TIMEOUT (R362): the initiator's timer expires: it proposes ABORT. -/
def execGangTimeout (part gang : Nat) (s : State) : Out :=
  match tget? (s.part part).gangs gang with
  | none => .next s
  | some g =>
    match g.timer with
    | none => .next s
    | some t0 =>
      if s.clk < t0 + gTmo g.desc * clkPerUs then .next s
      else .next ((s.updPart part fun P => { P with gangs := tput P.gangs gang { g with timer := none } }).gangPropose part (gang / 65536) g.desc 2)

/-- GANG at the command processor (R361): the result pair.  A second word the spec gives no value is a free value (log 2); the state of a gang that
is not open is 0 (log 133).  An abort whose proposal has been made only waits for the decision. -/
def State.gangAct (s : State) (p t sub : Nat) (d : BitVec 512) (num : Nat) (again : Bool := false) : State × Nat × Nat :=
  let m := tarnModule t
  let key := gangKey m (if sub = 0 then gNum d else num)
  let g := tget? (s.part p).gangs key
  match sub with
  | 0 =>
    if gangBad d m then (s, 2, 1)
    else if g.isSome then (s, 2, 2)
    else if 64 ≤ ((s.part p).gangs.filter fun x => x.1 / 65536 == m).length then (s, 2, 3)
    else
      (s.updPart p fun P => { P with gangs := tput P.gangs key { desc := d, timer := if gInit d = m then some s.clk else none } }, 0, 0)
  | 1 =>
    match g with
    | some x => if gInit x.desc = m then (s, x.st, x.acks.length) else (s.draw.2, x.st, s.draw.1.toNat % 2 ^ 32)
    | none => (s.draw.2, 0, s.draw.1.toNat % 2 ^ 32)
  | _ =>
    match g with
    | some x =>
      let s := if again then s.gangSend p key else s.gangPropose p m x.desc 2
      let st := if x.st = 1 then s.gangDecided p m x.desc else x.st
      let s := s.gangLearn p key
      (s.draw.2, st, s.draw.1.toNat % 2 ^ 32)
    | none => (s.draw.2, 0, s.draw.1.toNat % 2 ^ 32)

/-! ### Acts of a command processor -/

/-- TCANCEL (R359). -/
def State.tcancel (s : State) (p lid : Nat) (stop : Bool) : State × Nat :=
  match s.launch? p lid with
  | none => (s, 3)
  | some L =>
    let mine := (s.blocks.filter fun b => b.2.part == p && b.2.lid == lid && !b.2.sup).map (·.1)
    let s := if stop && !mine.isEmpty then s.writeBlk L 20 4 9 else s
    let s := s.cancelRecords p lid 9 6
    let s := if !stop then s else
      mine.foldl (fun s b =>
        match s.block? b with
        | some B =>
          let s := match s.task? p lid B.bflat with
            | some t => if t.resume.isSome then ((s.dequeue { t with target := some (coreTarn B.core), leases := [] }).freePlace p (coreTarn B.core) t.spilled).updTask p lid B.bflat fun t => { t with resume := none } else s
            | none => s
          s.endTask b 6 none
        | none => s) s
    (((s.broke p lid).closeLaunch p lid), 0)

/-- The leases that LAUNCH and SPAWN need on the launch block and, for LAUNCH, on the range table (R359): the first address that
fails. -/
def State.launchLease (s : State) (B : Block) (r : LRec) (spawn : Bool) : Option Nat :=
  let k := kheadOf (s.numVa (coreTarn B.core) (s.partOf B) r.code 64).2
  let codeOk := r.code % 64 == 0 && s.pagesOk (coreTarn B.core) (s.partOf B) r.code 64 (userPage false true)
  if !B.mayAccess true r.lblk 64 then some r.lblk
  else if decide (0 < r.n ∧ r.n ≤ 2 ^ 24) && !B.mayAccess true ((r.lblk + 64) % 2 ^ 64) ((r.n + 63) / 64 * 8) then some ((r.lblk + 64) % 2 ^ 64)
  else if !spawn && codeOk && k.lcount != 0 && !B.mayAccess false r.rtab (32 * k.lcount) then some r.rtab
  else none

/-- The record that SPAWN submits (R359). -/
def spawnRecord (L : LRec) (sub code frame lblk : Nat) : LRec :=
  BitVec.ofNat 512 (code + 2 ^ 64 * frame + 2 ^ 192 * lblk + 2 ^ 320 + 2 ^ 336 + 2 ^ 352 + 2 ^ 368 * L.f 397 368 +
    2 ^ 449 * sub + 2 ^ 457 * L.f 494 457)

/-- Write the result of a command to its G register or pair (R357). -/
def State.writeG (s : State) (o : Op) (v1 v2 : Nat) : State :=
  if o.drop then s else
  s.updQuire o.blk o.q fun Q => match o.holdG with
    | [d] => Q.setG d (BitVec.ofNat 32 v1)
    | [d, d'] => (Q.setG d (BitVec.ofNat 32 v1)).setG d' (BitVec.ofNat 32 v2)
    | _ => Q

/-- LAUNCH and SPAWN at the command processor: a missing lease ends the task, else the record is accepted or refused.  The submitter of
a supervisor core's is its tarn's partition. -/
def State.actLaunch (s : State) (id : Nat) (o : Op) (B : Block) (r : LRec) (ranges : Option (List Lease)) : State :=
  match s.launchLease B r ranges.isSome with
  | some a => (s.finishOp id).faultAt o.blk o.q o.clause o.widx causeLease 0 ((laneList o.lanes).headD 0) (BitVec.ofNat 64 a)
  | none =>
    let x := s.accept (s.partOf B) (coreTarn B.core) r ranges o.covers
    (x.1.writeG o x.2.1 x.2.2).finishOp id

/-- The launching tarn of a launch window: number 16 x module + partition, the lowest tarn of the partition on that module (R480). -/
def State.windowTarn (s : State) (win : Nat) : Option Nat := (s.part (win % 16)).tarns.find? fun t => tarnModule t == win / 16

/-- What acceptance reads besides the record is at hand: the kernel header, DEP's state, the range table; and the launch block's home takes
writes (R342, R264, R456). -/
def State.launchReads (s : State) (id : Nat) (o : Op) (t p : Nat) (r : LRec) (spawn : Bool) : State × Bool :=
  if s.vaShut t p r.lblk 64 then s.opReads id o t p [(r.lblk, 64)]
  else
    let g := s.opReads id o t p ((r.code, 64) :: if r.mapk = 0 then [] else [(r.dep, 4)])
    if !g.2 || spawn then g
    else g.1.opReads id o t p [(r.rtab, 32 * min (kheadOf (g.1.numVa t p r.code 64).2).lcount 15)]

/-- The host's record names a place whose home is offline: it waits (R456). -/
def State.hostRecordShut (s : State) (t p : Nat) (r : LRec) : Bool :=
  s.vaShut t p r.lblk 64 || s.vaShut t p r.code 64 || (r.mapk != 0 && s.vaShut t p r.dep 4) || s.vaShut t p r.rtab 480

/-- LAUNCH_ACCEPTANCE: a command processor acts on a launch or task instruction, or on a record of the host (R342, R359, R480).
One that is a release waits until what it releases is performed at `.pkg` (R356); the host's records are taken in their order. -/
def execLaunchAcceptance (op : Nat) (s : State) : Out :=
  match s.op? op with
  | none => .next s
  | some o =>
    if o.kind != OpKind.launch then .next s
    else if !s.released o then .next (s.pushBack o.rel o.covers)
    else
      match o.ins with
      | .lwin win rec _ =>
        let first := s.ops.any fun x => decide (x.1 < op) && (match x.2.ins with | .lwin w _ _ => w == win | _ => false)
        if first || s.hostRecordShut ((s.windowTarn win).getD 0) (win % 16) rec then .next s
        else .next ((s.accept (win % 16) ((s.windowTarn win).getD 0) rec none []).1.delOp op)
      | i =>
        match s.block? o.blk, o.elems.head? with
        | some B, some e =>
          let t := coreTarn B.core
          let p := s.partOf B
          let fin (r : State × Nat × Nat) : Out := .next (((r.1.writeG o r.2.1 r.2.2).endAcquire o op (laneList o.lanes)).finishOp op)
          match i with
          | .launch _ =>
            let g := s.opReads op o t p [(e.va.toNat, 64)]
            if !g.2 then .next g.1
            else
              let r := g.1.numVa t p e.va.toNat 64
              let g := r.1.launchReads op o t p (BitVec.ofNat 512 r.2) false
              .next (if g.2 then g.1.actLaunch op o B (BitVec.ofNat 512 r.2) none else g.1)
          | .spawn w =>
            match s.launch? p B.lid with
            | some L =>
              let r := spawnRecord L.record w.x.sub.toNat e.x.toNat e.c.toNat e.va.toNat
              let g := s.launchReads op o t p r true
              .next (if g.2 then g.1.actLaunch op o B r (some B.ranges) else g.1)
            | none => .next (s.finishOp op)
          | .jdec _ =>
            match s.launch? p e.x.toNat with
            | none => fin (s, 3, 0)
            | some L =>
              if L.record.n ≤ e.c.toNat then fin (s, 4, 0)
              else
                let r := s.decrement p e.x.toNat e.c.toNat o.covers
                fin (r.1, r.2, 0)
          | .tstat w =>
            match s.launch? p e.x.toNat with
            | none => fin (s, 3, 0)
            | some L =>
              if w.x.sub.getLsbD 0 then
                if L.record.n ≤ e.c.toNat then fin (s, 4, 0)
                else match tget? L.tasks e.c.toNat with
                  | some k => fin (s, k.st, k.join)
                  | none => fin (s, 4, 0)
              else fin (s, 0, L.ndone + L.nfault + L.ncanc)
          | .tcancel w =>
            let r := s.tcancel p e.x.toNat (w.x.sub.getLsbD 0)
            fin (r.1, r.2, 0)
          | .gang w =>
            let sub := w.x.sub.toNat % 4
            let away := match tget? (s.part p).gangs (gangKey (tarnModule t) e.x.toNat) with
              | some g => 2 ≤ sub && g.st == 1 && s.gangAway p (tarnModule t) g.desc | none => false
            if away then .next (s.holdUnsent op o e) else
            let g := if sub = 0 then s.opReads op o t p [(e.va.toNat, 64)] else (s, true)
            if !g.2 then .next g.1 else
            let r := if sub = 0 then g.1.numVa t p e.va.toNat 64 else (g.1, 0)
            let a := r.1.gangAct p t sub (BitVec.ofNat 512 r.2) e.x.toNat (o.m == 1)
            if 2 ≤ sub ∧ a.2.1 = 1 then .next (a.1.setOp op { o with m := 1 }) else fin a
          | _ => .next s
        | _, _ => .next s

/-! ### The watchdog (R334, R335) -/

/-- An MMAQ that waits for its partners (R412). -/
def MCmd.unmatched (m : MCmd) : Bool := m.stage == 0 && (match m.ins with | .mmaq _ => true | _ => false)

/-- A group stands before an instruction whose wait counts as stuck: CWAIT on a completion word that does not satisfy it (R381), MMA
or MMAQ on a phase that is not signed (R408). -/
def State.stuckBefore (s : State) (B : Block) (Q : Quire) (g : Group) : Bool :=
  match g.nextInstr with
  | some (.cwait w, _) =>
    let done := s.doneWord B (w.x.sub.toNat % 2)
    (laneList g.lanes).any fun l =>
      let t := tget Q.threads l {}
      t.live && guardOk t.p w.p w.n && decide (2 ^ 31 ≤ (done + 2 ^ 32 - opB Q t w false 0) % 2 ^ 32)
  | some (.mma w, _) => !(tget B.kreg w.x.c.toNat {}).signed
  | some (.mmaq w, _) => !(tget B.kreg w.x.c.toNat {}).signed
  | _ => false

/-- A thread stands at a stuck wait (R334, R381, R408, R412). -/
def State.stuckWait (s : State) (b q : Nat) (B : Block) (Q : Quire) (l : Nat) (t : Thread) : Bool :=
  let parked (o : Op) : Bool :=
    (o.kind == .sbar || (o.kind == .cell && o.m == 1) || (o.kind == .matrix && B.mq.any fun m => m.unmatched && some o == s.op? m.op)) &&
      o.blk == b && o.q == q && o.lanes.getLsbD l
  match t.wait with
  | .named .. => true
  | .scope .. => true
  | .qsync _ => true
  | .none => t.spin || (match Q.placeOf l with | some g => s.stuckBefore B Q g | none => false) ||
      ((s.ops.any fun x => parked x.2) &&
      (match Q.placeOf l with
        | some g => !s.groupReady b q Q { g with held := false }
        | none => !(s.readyAt B Q t.pc).contains l))
  | _ => false

/-- An operation that may be outstanding in a deadlocked context (R334). -/
def State.idleOp (s : State) (o : Op) : Bool :=
  let spinning := (laneList o.lanes).all fun l =>
    match s.block? o.blk with | some B => (tget (tget B.quires o.q {}).threads l {}).spin | none => false
  o.kept || o.kind == .sbar || (o.kind == .cell && o.m == 1) || o.kind == .matrix ||
    (spinning && (match o.ins with | .taket _ => true | .takeh _ => true | _ => o.kind == .alu || o.kind == .trans || o.kind == .load || o.kind == .lds || o.kind == .ldp))

/-- A context is deadlocked (R334): no supervisor has a trap on its behalf waiting or in hand. -/
def State.deadlocked (s : State) (b : Nat) (B : Block) : Bool :=
  (B.quires.all fun q => q.2.threads.all fun t => !t.2.live || s.stuckWait b q.1 B q.2 t.1 t.2) &&
    (s.ops.all fun x => x.2.blk != b || s.idleOp x.2) && !(s.core B.core).tracker.any (fun e => e.2.1 == b) &&
    B.iring.isEmpty && B.dring.isEmpty && B.mq.all MCmd.unmatched &&
    (match s.launch? B.part B.lid with
      | some L => L.tasks.all fun t => !(t.2.st == 1 || t.2.st == 2 || t.2.resume.isSome)
      | none => true) &&
    !s.tarns.any fun T => (T.2.traps.any fun x => x.blk == some b) || (T.2.intrap && T.2.behalf == some b)

/-- The report of a deadlock: the lowest live thread's wait, with the barrier number or object id and the arrival count
(R335, R445). -/
def State.deadlockReport (s : State) (b : Nat) (B : Block) : Report :=
  let ts := (B.quires.map fun q => (q.2.threads.filter fun t => t.2.live).map fun t => (q.1, q.2, t)).flatten
  match ts with
  | [] => { cause := causeDeadlock, detail := 0, clause := 0#64, widx := 0, lane := 0, ea := 0#64 }
  | (q, Q, l, t) :: _ =>
    let scopeOf (id key : Nat) : Nat := id % 2 ^ 20 + 2 ^ 32 * ((tget s.sbar key {}).a % 2 ^ 20)
    let flagged := (s.ops.find? fun x => x.2.blk == b && x.2.q == q && x.2.kind == .sbar &&
      x.2.elems.any fun e => e.lane == l && !e.done).map fun x => x.2.m
    let g := Q.placeOf l
    let parkedWait := match t.wait with | .none => false | _ => true
    let ea := match t.wait with
      | .named k _ _ => k + 2 ^ 32 * ((tget B.nb k {}).a % 2 ^ 20)
      | .scope _ id key _ => scopeOf id key
      | .none => (match flagged with | some key => scopeOf key key | none => 0)
      | _ => 0
    let place := match g with
      | some g => (g.clause, if parkedWait then g.widx - 2 else g.widx)
      | none => if parkedWait then t.waitAt.getD (t.pc, 0) else (t.pc, 0)
    { cause := causeDeadlock, detail := 0, lane := l, ea := BitVec.ofNat 64 ea
      clause := place.1
      widx := place.2 }

/-- WATCHDOG_CHECK (R335): every 1 ms; its clock stands still while the context is stopped. -/
def execWatchdogCheck (b : Nat) (s : State) : Out :=
  match s.block? b with
  | none => .next s
  | some B =>
    let per := (s.part B.part).wdper
    if s.clk % clkPerMs != 0 || B.sup || per == 0 then .next s
    else if !s.running b B then .next (s.setBlock b { B with stuck := B.stuck.map (· + clkPerMs) })
    else if !s.deadlocked b B then .next (s.setBlock b { B with stuck := none })
    else match B.stuck with
      | none => .next (s.setBlock b { B with stuck := some s.clk })
      | some t0 => .next (if t0 + per * clkPerMs ≤ s.clk then s.endTask b 5 (some (s.deadlockReport b B)) else s)

end Sys2Proof.Machine
end

