-- ==== Sys2Proof/Machine/Springs.lean ====
section
/-! DEFINITION. Springs (R420 to R436): messages and their way to a spring, handler images, handlers and their instructions. -/

namespace Sys2Proof.Machine

/-! ### Rows (R420) -/

/-- Line x of the row of a granule at a spring: its line number. -/
def rowLine (granule slice x : Nat) : Nat := granule * 1024 + x * 64 + Nat.xor slice (granule % 64)

/-- A message is accepted into the queue; the full queue holds it at the slice, in order of arrival (R263, R426). -/
def Spring.accept (sp : Spring) (m : Msg) : Spring :=
  if sp.queue.length < 64 && sp.held.isEmpty then { sp with queue := sp.queue ++ [m] } else { sp with held := sp.held ++ [m] }

/-- Messages leave the queue, and those held at the slice take their places (R426). -/
def Spring.leave (sp : Spring) (queue : List Msg) : Spring :=
  { sp with queue := queue ++ sp.held.take (64 - queue.length), held := sp.held.drop (64 - queue.length) }

/-! ### Outcomes (R433) -/

def outReplied : Nat := 0
def outSteps : Nat := 1
def outEnd : Nat := 2
def outNoHandler : Nat := 3
def outDisabled : Nat := 4
def outMoved : Nat := 5
def outPoison : Nat := 6

/-- Change the entry that sent a message. -/
def State.updSender (s : State) (m : Msg) (f : Entry → Entry) : State :=
  match s.block? m.src.1 with
  | none => s
  | some B => s.setRing m.src.1 m.src.2.1 ((B.entries m.src.2.1).map fun e => if e.id = m.src.2.2 then f e else e)

/-- A message completes: its entry is done, with reply, outcome and steps (R425). -/
def State.messageDone (s : State) (m : Msg) (code detail : Nat) (reply : Word) (outcome steps : Nat) : State :=
  s.updSender m fun e => { e with stage := 2, code, detail, reply, outcome := BitVec.ofNat 32 (outcome + 2 ^ 12 * steps) }

/-- The running handler ends with an outcome (R433).  Its completion releases what it has read, and waits until the invalidations
that its writes sent have been acted on (R247, R252, R268): its entry keeps the lines of the row. -/
def State.endHandler (s : State) (gs : Nat) (code detail : Nat) (reply : Word) (outcome : Nat) : State :=
  let sp := s.spring gs
  match sp.run with
  | none => s
  | some m =>
    let s := s.messageDone m code detail reply outcome sp.steps
    let s := s.updSender m fun e => { e with
      seen := addNew e.seen sp.seen, work := (List.range 16).map fun x => (rowLine (m.pa / 65536) (gs % 64) x, 0) }
    s.updSpring gs fun sp => { sp with run := none, seen := [] }

/-! ### Sending a message (R424) -/

def Entry.mAddr (e : Entry) : Nat := e.f 95 32
def Entry.mSlot (e : Entry) : Nat := e.f 99 96
def Entry.mArg0 (e : Entry) : Nat := e.f 191 128
def Entry.mArg1 (e : Entry) : Nat := e.f 255 192

/-- The checks of a SPRING entry (R424, in the order of R372), and the physical line. -/
def State.springCheck (s : State) (B : Block) (e : Entry) : Except (Nat × Nat) Nat :=
  let a := e.mAddr
  let x := (s.walk (coreTarn B.core) B.part a).2
  let tier := match x with | .ok x => inTier (x.pa a) | .error _ => false
  if e.malformed || tier then .error (7, a)
  else if a % 64 != 0 then .error (2, a)
  else if !B.mayAccess true a 64 then .error (1, a)
  else match x with
    | .error _ => .error (1, a)
    | .ok x => if inHost (x.pa a) then .error (1, a) else if x.cell then .error (3, a) else .ok (x.pa a)

/-- The message of an entry goes towards the spring of its line: an operation that carries it, and for another tarn of the
module a request on the ring (R264). -/
def State.sendMessage (s : State) (b ring : Nat) (B : Block) (e : Entry) (pa : Nat) : State :=
  let o : Op := { kind := .msg, ins := .clauseEntry b 0 0#64, blk := b, q := 0, lanes := 0#32, n := ring, m := e.id
                  elems := [{ lane := 0, va := BitVec.ofNat 64 e.mAddr, pa, size := 64 }] }
  let t := coreTarn B.core
  let id := s.next
  let s := s.newOp o
  let h := (homeOf pa).getD 0
  if h = t ∨ tarnModule h ≠ tarnModule t then s
  else (s.sendWriteBack t (lineOf pa)).send h (.access id 0)

/-- An operation that carries a spring message. -/
def Op.isMessage (o : Op) : Bool := o.kind == .msg

/-- A message for a granule marked MOVING is rejected: the engine starts its entry once more, with a new walk and every check of R424,
HOME-OFFLINE too; a second time it completes MOVED (R434). -/
def State.rejectMoved (s : State) (m : Msg) : State :=
  match s.block? m.src.1 with
  | none => s
  | some B =>
    match (B.entries m.src.2.1).find? fun e => e.id == m.src.2.2 with
    | none => s
    | some e =>
      if e.pos != 0 then s.messageDone m 0 0 0#32 outMoved 0
      else s.updSender m fun e => { e with stage := 0, pos := 1, since := none }

/-- Mark a granule MOVING at the springs of its home tarn: every message for it that is queued, or held there, is rejected (R434). -/
def State.markMoving (s : State) (gran : Nat) : State :=
  match homeOf (gran * 65536) with
  | none => s
  | some h => (List.range 64).foldl (fun s k =>
      let ms := ((s.spring (h * 64 + k)).queue ++ (s.spring (h * 64 + k)).held).filter fun m => m.pa / 65536 == gran
      let s := s.updSpring (h * 64 + k) fun sp => { sp with
        moving := insNat sp.moving gran, held := sp.held.filter fun m => m.pa / 65536 != gran }.leave
          (sp.queue.filter fun m => m.pa / 65536 != gran)
      ms.foldl (fun s m => s.rejectMoved m) s) s

/-- Take the marks of a granule away. -/
def State.unmarkMoving (s : State) (gran : Nat) : State :=
  match homeOf (gran * 65536) with
  | none => s
  | some h => (List.range 64).foldl (fun s k =>
      s.updSpring (h * 64 + k) fun sp => { sp with moving := sp.moving.filter (· != gran) }) s

/-- A handler runs on a granule. -/
def State.handlerOn (s : State) (gran : Nat) : Bool :=
  match homeOf (gran * 65536) with
  | none => false
  | some h => (List.range 64).any fun k => match (s.spring (h * 64 + k)).run with | some m => m.pa / 65536 == gran | none => false

/-- The place of a message among those that reach a spring in one cycle (R426): the tarn's own by core, then those of the pod port,
then stamped ones. -/
def State.msgRank (s : State) (o : Op) (e : Elem) : Nat :=
  if s.routeOf o e == .pod then 2 ^ 40 else if s.stampedFor o e then 2 ^ 41 else s.coreOf o.blk

/-- An unstamped message cannot arrive yet (R426): a stamped message is due before it, or it would come before one that has arrived in
this cycle. -/
def State.msgHeld (s : State) (o : Op) (e : Elem) : Bool :=
  let gs := springOf e.pa
  let sp := s.spring gs
  (sp.last.1 == s.clk && decide (s.msgRank o e < sp.last.2)) ||
    s.ring.any fun r => match r.2.req, r.2.cycle with
      | .access op _, some k => decide (k + 96 < s.clk) && (match s.op? op with
        | some x => x.isMessage && x.elems.any fun e' => springOf e'.pa == gs
        | none => false)
      | _, _ => false

/-- A message arrives at its spring (R426). -/
def State.messageArrives (s : State) (id : Nat) (o : Op) : State :=
  match o.elems.head?, s.block? o.blk with
  | some el, some B =>
    match (B.entries o.n).find? fun e => e.id == o.m with
    | none => s.delOp id
    | some e =>
      let gs := springOf el.pa
      let sp := s.spring gs
      let rank := s.msgRank o el
      let s := s.delOp id
      let m : Msg := { pa := el.pa, slot := e.mSlot, arg0 := BitVec.ofNat 64 e.mArg0, arg1 := BitVec.ofNat 64 e.mArg1
                       sender := e.ident, src := (o.blk, o.n, e.id), scope := e.scope }
      if sp.retired then s.messageDone m 1 0 0#32 outPoison 0
      else if sp.moving.contains (el.pa / 65536) then s.rejectMoved m
      else s.updSpring gs fun sp => { sp.accept m with last := (s.clk, rank) }
  | _, _ => s.delOp id

/-- The oldest message of a ring that does not travel as a stamped request and can arrive: those to one spring keep their order
(R426). -/
def State.nextMessage (s : State) (b ring : Nat) : Option (Nat × Op) :=
  s.ops.find? fun x => x.2.isMessage && x.2.blk == b && x.2.n == ring &&
    x.2.elems.all fun e => !s.stampedFor x.2 e && !s.shut (coreTarn (s.coreOf b)) e.pa && !s.msgHeld x.2 e

/-- A request that goes out through a tarn's pod port is counted there (R486). -/
def State.countFlit (s : State) (o : Op) (e : Elem) : State :=
  let t := coreTarn (s.coreOf o.blk)
  if s.routeOf o e == .pod then { s with flits := tput s.flits t (tget s.flits t 0 + 1) } else s

/-- SPRING_MESSAGE_ARRIVAL (R426): a message that does not travel as a stamped request arrives; its pod port may be down, or must
take a new key first (R486). -/
def execSpringMessageArrival (b ring : Nat) (s : State) : Out :=
  match s.nextMessage b ring with
  | none => .next s
  | some x =>
    match x.2.elems.head?, s.block? b with
    | some el, some B =>
      let t := coreTarn B.core
      if s.podDown t el.pa then
        .next ((s.delOp x.1).setRing b ring ((B.entries ring).map fun e =>
          if e.id = x.2.m then { e with stage := 2, code := 3, detail := 9, ea := el.va } else e))
      else if s.routeOf x.2 el == .pod && decide (2 ^ 32 ≤ tget s.flits t 0) then .next s
      else .next ((s.countFlit x.2 el).messageArrives x.1 x.2)
    | _, _ => .next s

/-! ### SPRG and SPRGW (R423 to R425) -/

/-- SPRG or SPRGW issues: the entry takes its place on the instruction ring, and the engine makes the checks when it starts it (R424). -/
def sprgIssue (ins : Instr) (w : W2) (flag : Ctx → Nat) (hold : List Nat) (neg : Bool) (s : State) : Out :=
  match s.ctx? with
  | none => .next s
  | some c =>
    match c.participants w.p neg with
    | [] => .next (s.advance c 2)
    | l :: ls =>
      let ea := (c.thread l).getPair w.a.toNat
      let arg0 := opB c.Q (c.thread l) w true 0
      let arg1 := (c.thread l).getPair w.x.c.toNat
      s.placeEntry c .sprg ins (l :: ls) (flag c) hold
        (BitVec.ofNat 256 (w.x.scope.toNat * 2 ^ 21 + 5 * 2 ^ 24 + ea.toNat * 2 ^ 32 + w.x.sub.toNat * 2 ^ 96 + arg0 * 2 ^ 128 +
          arg1.toNat * 2 ^ 192))

def execSprg (w : W2) (s : State) : Out := sprgIssue (.sprg w) w (fun _ => 15) [] w.n s
def execSprgw (w : W2) (s : State) : Out :=
  sprgIssue (.sprgw w) w (fun c => c.flag w.n) [w.d.toNat, w.d.toNat + 1, w.d.toNat + 2, w.d.toNat + 3] false s

/-! ### Handler images (R427, R428) -/

/-- The word places at which an instruction of an image starts. -/
def imageStarts : (fuel idx : Nat) → List Word → List Nat
  | 0, _, _ => []
  | _, _, [] => []
  | fuel + 1, idx, ws => idx :: imageStarts fuel (idx + if isTwoWord (ws.headD 0#32) then 2 else 1) (ws.drop (if isTwoWord (ws.headD 0#32) then 2 else 1))

/-- The target of a handler's branch. -/
def handlerTarget (idx : Nat) : Instr → Option Int
  | .gbra w => some (idx + w.off.toInt)
  | .gloop w => some (idx + w.x.imm20.toInt)
  | _ => none

/-- The checks of HINST on an image's words: sub-cause and image word of the first failure (word 0 holds the length). -/
def imageBad (starts : List Nat) : (fuel idx : Nat) → List Word → Option (Nat × Nat)
  | 0, _, _ => none
  | _, _, [] => none
  | fuel + 1, idx, ws =>
    match decodeRaw ws with
    | .error .unassignedMinor => some (5, idx + 1)
    | .error _ => some (4, idx)
    | .ok (i, n) =>
      if !i.inHandler then some (0xB, idx)
      else match staticBad 4 i with
        | some (sub, k) => some (sub, idx + k)
        | none =>
          match countBad 64 64 i with
          | some (sub, k) => some (sub, idx + k)
          | none =>
            match handlerTarget (idx - 1) i with
            | some t => if t < 0 ∨ !(starts.contains t.toNat) then some (1, idx) else imageBad starts fuel (idx + n) (ws.drop n)
            | none => imageBad starts fuel (idx + n) (ws.drop n)

/-- The springs of a tarn that a mask names. -/
def maskSprings (t : Nat) (m : Nat) : List Nat := ((List.range 64).filter m.testBit).map fun k => t * 64 + k

/-- HINST or HDROP issues (R428), for the slot in bits [3:0] of its operand (log 64); its work is done at its completion. -/
def handlerIssue (kind : OpKind) (ins : Instr) (w : W2) (s : State) : Out :=
  privileged s w.p false 2 fun c =>
    let ls := c.uniform w.p false
    let slot := opBG c.Q w false 0
    let img := (c.Q.getGPair w.a.toNat).toNat
    let go (s : State) : Out :=
      .next (s.issueStep c 2 { c.op kind ins (laneMask ls) (c.flag w.n) with
        holdG := [w.d.toNat], n := slot % 16
        elems := [{ lane := 0, va := BitVec.ofNat 64 img, pa := 0, size := 0, x := c.Q.getGPair w.x.c.toNat }] })
    if ls.isEmpty then .next (s.advance c 2)
    else match kind with
      | .hinst =>
        (match s.checkAccess c (ls.take 1) (fun _ => BitVec.ofNat 64 img) 4 4 false noCell with
          | .wait s => .next s
          | .fault s => .next s
          | .ok s _ => go s)
      | _ => go s

def execHinst (w : W2) (s : State) : Out := handlerIssue .hinst (.hinst w) w s
def execHdrop (w : W2) (s : State) : Out := handlerIssue .hdrop (.hdrop w) w s

/-- Write the status of a G-set operation and finish it. -/
def State.finishG (s : State) (id : Nat) (o : Op) (v : Nat) : State :=
  let s := if o.drop then s else s.updQuire o.blk o.q fun Q => match o.holdG with
    | [d] => Q.setG d (BitVec.ofNat 32 v)
    | d :: _ => Q.setGPair d (BitVec.ofNat 64 v)
    | [] => Q
  s.finishOp id

/-- Bits of a mask for springs. -/
def springMask (gs : List Nat) : Nat := gs.foldl (fun m g => m ||| 2 ^ (g % 64)) 0

/-- Do an operation's work at each spring of its mask that is ready, and keep the others in the mask; with none left it ends with 0. -/
def State.atSprings (s : State) (id : Nat) (o : Op) (e : Elem) (busy : Spring → Bool) (work : State → Nat → State) : State :=
  let gs := maskSprings o.blk e.x.toNat
  let rest := gs.filter fun g => busy (s.spring g)
  let s := (gs.filter fun g => !busy (s.spring g)).foldl work s
  if rest.isEmpty then s.finishG id o 0 else s.setOp id { o with elems := [{ e with x := BitVec.ofNat 64 (springMask rest) }] }

/-- The checks of HINST on its image, with word 0 the length (log 64): sub-cause and word. -/
def imageCheck (n : Nat) (ws : List Word) : Option (Nat × Nat) :=
  if n = 0 ∨ 64 < n then some (2, 0) else if badLength 65 ws then some (2, n) else imageBad (imageStarts 65 0 ws) 65 1 ws

/-- Install a good image in the masked springs' slots, each between handlers. -/
def State.install (s : State) (id : Nat) (o : Op) (e : Elem) (ws : List Word) : State :=
  s.atSprings id { o with m := 1, code := ws } e (fun sp => sp.run.isSome) fun s g =>
    s.updSpring g fun sp => { sp with slots := tput sp.slots o.n (1, ws) }

/-- Completion of HINST (R428): a failed image, or one for a slot that is not EMPTY, installs nothing; each masked spring takes a good
one between handlers. -/
def State.hinstDone (s : State) (id : Nat) (o : Op) : State :=
  match o.elems.head? with
  | none => s.finishOp id
  | some e =>
    if o.m = 1 then s.install id o e o.code else
    let t := o.blk
    let p := match s.parts.find? fun p => p.2.tarns.contains t with | some p => p.1 | none => 0
    let g := s.opReads id o t p [(e.va.toNat, 4)]
    if !g.2 then g.1 else
    let r := g.1.numVa t p e.va.toNat 4
    let g := r.1.opReads id o t p [((e.va.toNat + 4) % 2 ^ 64, 4 * min r.2 64)]
    if !g.2 then g.1 else
    match g.1.readVa t p ((e.va.toNat + 4) % 2 ^ 64) (4 * min r.2 64) with
    | (s, none) => (s.finishOp id).ownTrap o.blk o.q o.clause o.widx causeTranslation 4 e.va 0#32
    | (s, some bs) =>
      match imageCheck r.2 (wordsOfBytes bs) with
      | some (sub, i) => s.finishG id o (1 + 16 * i + 4096 * sub)
      | none =>
        if (maskSprings t e.x.toNat).any fun g => (tget? (s.spring g).slots o.n).isSome then s.finishG id o 2
        else s.install id o e (wordsOfBytes bs)

/-- Completion of HDROP (R428): at each masked spring that does not run the slot's handler the slot becomes EMPTY and its queued
messages complete NOHANDLER. -/
def State.hdropDone (s : State) (id : Nat) (o : Op) : State :=
  match o.elems.head? with
  | none => s.finishOp id
  | some e =>
    s.atSprings id o e (fun sp => match sp.run with | some m => m.slot == o.n | none => false) fun s g =>
      let ms := (s.spring g).queue.filter fun m => m.slot == o.n
      let s := s.updSpring g fun sp => { sp with slots := tdel sp.slots o.n, alerts := tdel sp.alerts o.n }.leave
        (sp.queue.filter fun m => m.slot != o.n)
      ms.foldl (fun s m => s.messageDone m 0 0 0#32 outNoHandler 0) s

/-! ### Handlers (R429 to R433) -/

/-- HANDLER_START (R429): the handler of the oldest queued message, with a fresh context; a message whose slot holds no loaded
handler is rejected (R433). -/
def execHandlerStart (spring : Nat) (s : State) : Out :=
  let sp := s.spring spring
  if sp.run.isSome || sp.retrain || sp.mitig.any (fun m => decide (s.clk < m.2)) then .next s
  else match sp.queue with
    | [] => .next s
    | m :: ms =>
      let s := s.updSpring spring fun sp => sp.leave ms
      match tget? sp.slots m.slot with
      | none => .next (s.messageDone m 0 0 0#32 outNoHandler 0)
      | some (st, _) =>
        if st = 2 then .next (s.messageDone m 0 0 0#32 outDisabled 0)
        else
          let q : Quire := { g := [] }
          let q := ((q.setGPair 0 m.arg0).setGPair 2 m.arg1).setG 4 (BitVec.ofNat 32 (m.pa / 4096 % 16))
          .next (s.updSpring spring fun sp =>
            { sp with run := some m, at_ := 0, steps := 0, g := (q.setG 5 m.sender).g, gp := 0#7, rb := [], seen := [] })

/-- STEP_LIMIT (R433): a 257th step would run. -/
def execStepLimit (spring : Nat) (s : State) : Out :=
  let sp := s.spring spring
  .next (match sp.run with
    | some m =>
      let n := match tget? sp.slots m.slot with | some (_, ws) => ws.length | none => 0
      if 256 ≤ sp.steps ∧ sp.at_ < n then s.endHandler spring 0 0 0#32 outSteps else s
    | none => s)

/-- A step of a handler that changes its own context only. -/
def springStep (s : State) (p : BitVec 3) (neg : Bool) (f : Spring → Spring) : Out :=
  match s.cur with
  | .spring gs => .next (s.updSpring gs fun sp =>
      let sp' := if guardOk sp.gp p neg then f sp else sp
      { sp' with at_ := sp.at_ + 2 })
  | _ => .next s

/-- A word of the row buffer. -/
def rbGet (sp : Spring) (i : Nat) : Word := regGet sp.rb (i % 256)

/-- The step of a held row access has not run. -/
def State.unstep (s : State) (gs : Nat) : State := s.updSpring gs fun sp => { sp with steps := sp.steps - 1 }

/-- ROWRD (R431): the 16 lines of the row as one act; a poisoned line ends the handler. -/
def execRowrd (w : W2) (s : State) : Out :=
  match s.cur with
  | .spring gs =>
    let sp := s.spring gs
    if !guardOk sp.gp w.p w.n then .next (s.updSpring gs fun sp => { sp with at_ := sp.at_ + 2 })
    else match sp.run with
      | none => .next s
      | some m =>
        let g := m.pa / 65536
        let lines := (List.range 16).map fun x => rowLine g (gs % 64) x
        if s.rowHeld gs g || lines.any s.dramHeld then .next (s.unstep gs)
        else
          let s := s.activate gs g (some m.slot)
          match (List.range 16).find? fun x => s.isPoisoned (rowLine g (gs % 64) x) with
          | some x => .next (s.endHandler gs 1 (64 * x) 0#32 outPoison)
          | none =>
            let s := lines.foldl (fun s ln => s.clean (lineHome ln) ln) s
            let rb := (List.range 256).foldl (fun rb i =>
              regPut rb i (BitVec.ofNat 32 (takeData (s.homeData (rowLine g (gs % 64) (i / 16))) (i % 16 * 4) 4))) []
            let seen := lines.foldl (fun a ln => addNew a (s.seenAt (ln * 64) 64)) sp.seen
            .next (s.updSpring gs fun sp => { sp with rb, seen, at_ := sp.at_ + 2 })
  | _ => .next s

/-- ROWWR (R431): the masked lines are written whole, as one act. -/
def execRowwr (w : W2) (s : State) : Out :=
  match s.cur with
  | .spring gs =>
    let sp := s.spring gs
    if !guardOk sp.gp w.p w.n then .next (s.updSpring gs fun sp => { sp with at_ := sp.at_ + 2 })
    else match sp.run with
      | none => .next s
      | some m =>
        let g := m.pa / 65536
        if s.rowHeld gs g then .next (s.unstep gs)
        else
          let s := s.activate gs g (some m.slot)
          let mask := (regGet sp.g w.a.toNat).toNat
          let s := (List.range 16).foldl (fun s x =>
            if mask.testBit x then
              let d := leNat ((List.range 64).map fun k => BitVec.ofNat 8 ((rbGet sp (16 * x + k / 4)).toNat / 256 ^ (k % 4)))
              (s.homeWrite (rowLine g (gs % 64) x) (BitVec.allOnes 64) (BitVec.ofNat 512 d) 0 false).1
            else s) s
          .next (s.updSpring gs fun sp => { sp with at_ := sp.at_ + 2 })
  | _ => .next s

/-- ROWRED (R430): a reduction over the row buffer, or with `.upd` an update of it. -/
def execRowred (w : W2) (s : State) : Out :=
  springStep s w.p w.n fun sp =>
    let q : Quire := { g := sp.g, gp := sp.gp }
    let a := (regGet sp.g w.a.toNat).toNat
    let s0 := a % 256
    let n := a / 256 % 256 + 1
    let b := opBG q w false w.x.imm20.toNat
    let op := w.x.sub.toNat % 8
    let ty := tyOf w
    if w.x.sub.getLsbD 3 then
      { sp with
        g := regPut sp.g w.d.toNat (rbGet sp s0)
        rb := (List.range n).foldl (fun rb i =>
          regPut rb ((s0 + i) % 256) (BitVec.ofNat 32 (combine op ty (regGet rb ((s0 + i) % 256)).toNat b 0))) sp.rb }
    else
      { sp with g := regPut sp.g w.d.toNat (BitVec.ofNat 32 ((List.range n).foldl (fun x i => combine op ty x (rbGet sp (s0 + i)).toNat 0) b)) }

/-- LINERD and LINEWR (R430). -/
def execLinerd (w : W2) (s : State) : Out :=
  springStep s w.p w.n fun sp =>
    let x := (regGet sp.g w.a.toNat).toNat % 16
    { sp with g := (List.range 16).foldl (fun g y => regPut g (w.d.toNat + y) (rbGet sp (16 * x + y))) sp.g }

def execLinewr (w : W2) (s : State) : Out :=
  springStep s w.p w.n fun sp =>
    let x := (regGet sp.g w.a.toNat).toNat % 16
    { sp with rb := (List.range 16).foldl (fun rb y => regPut rb (16 * x + y) (regGet sp.g (w.d.toNat + y))) sp.rb }

/-- REPLY (R430): the handler ends with its reply value. -/
def execReply (w : W2) (s : State) : Out :=
  match s.cur with
  | .spring gs =>
    let sp := s.spring gs
    if guardOk sp.gp w.p w.n then .next (s.endHandler gs 0 0 (regGet sp.g w.a.toNat) outReplied)
    else .next (s.updSpring gs fun sp => { sp with at_ := sp.at_ + 2 })
  | _ => .next s

end Sys2Proof.Machine
end

