-- ==== Sys2Proof/Machine/Copy.lean ====
section
/-! DEFINITION. The copy instructions (R376 to R386) and the events of the copy engine (R367 to R374, R385 to R390). -/

namespace Sys2Proof.Machine

/-! ### ACP, ACPG, ACPR (R378) -/

/-- A copy instruction with the entry it would form for its lowest participant: the side operand's failure switches the
participants off, the global operand's ends the task.  While its tile is FILLING or DRAINING it waits (R221). -/
def copyIssue (ins : Instr) (w : W2) (entry : Ctx → Nat → BitVec 256) (s : State) : Out :=
  match s.ctx? with
  | none => .next s
  | some c =>
    match c.participants w.p false with
    | [] => .next (s.advance c 2)
    | l :: ls =>
      let e : Entry := { bits := entry c l, seq := 0, ring := 0 }
      if e.isTile && ((c.B.sideOf s).tile e.tileNum).busy then .next (s.stall c) else
      let side := if e.malformed && !(e.kind == 3 && decide (65536 < e.len)) then none else
        match s.sideBadAtIssue c.B e with
        | some (2, o) => some (2, o)
        | some (5, o) => some (1, o)
        | some (_, n) => some (3, n)
        | none => none
      match side with
      | some (cause, off) => .next ((s.advance c 2).laneFault c.b c.q (l :: ls) cause off)
      | none =>
        match s.globalBadAtIssue c.B e with
        | some (d, a) => .next (s.raise c (detailCause d).1 (detailCause d).2 l (BitVec.ofNat 64 a))
        | none => s.placeEntry c .copy ins (l :: ls) (c.flag w.n) [w.d.toNat, w.d.toNat + 1] e.bits

/-- The two operands of ACP and ACPR: a pair, or a side offset, or a tile number. -/
def copyOperand (c : Ctx) (l : Nat) (n : BitVec 7) (side tile : Bool) : Nat :=
  if !side then ((c.thread l).getPair n.toNat).toNat else if tile then n.toNat else (c.thread l).rd false n

def execAcp (w : W2) (s : State) : Out :=
  copyIssue (.acp w) w (fun c l =>
    let d := w.x.sub.toNat % 4
    let tile := w.x.sub.getLsbD 2
    entryBits 1 w.x.scope.toNat 0 0 tile d w.x.cache.toNat (copyOperand c l w.a (d == 0) tile) (copyOperand c l w.b (d == 1) tile)
      (if tile then 0 else (c.thread l).rd false w.x.c)) s

def execAcpg (w : W2) (s : State) : Out :=
  copyIssue (.acpg w) w (fun c l =>
    let tile := w.x.sub.getLsbD 2
    entryBits 2 w.x.scope.toNat 0 0 tile 0 w.x.cache.toNat (copyOperand c l w.a true tile) (copyOperand c l w.b false false)
      ((c.thread l).rd false w.x.c)) s

def execAcpr (w : W2) (s : State) : Out :=
  copyIssue (.acpr w) w (fun c l =>
    let d := w.x.sub.toNat % 2
    entryBits 3 w.x.scope.toNat (tyOf w) (w.x.sub.toNat / 2) false d 0 (copyOperand c l w.a (d == 0) false)
      (copyOperand c l w.b (d == 1) false) ((c.thread l).rd false w.x.c)) s

/-! ### CWAIT (R381) -/

/-- CWAIT: the group stands before it until the completion word satisfies every participant; the read is an acquire at SCOPE. -/
def execCwait (w : W2) (s : State) : Out :=
  match s.ctx? with
  | none => .next s
  | some c =>
    let ls := c.participants w.p w.n
    let done := s.doneWord c.B (w.x.sub.toNat % 2)
    if ls.all fun l => decide ((done + 2 ^ 32 - opB c.Q (c.thread l) w false 0) % 2 ^ 32 < 2 ^ 31) then
      .next (((s.meetDone c (w.x.sub.toNat % 2) w.x.scope.toNat ls).mapLanes c.b c.q ls fun _ t => t.wr false w.d done).advance c 2)
    else .next (s.stall c)

/-! ### Shadows (R383, R385, R386) -/

/-- The page that page tables name, of a physical page that now stands for it. -/
def State.unmapPage (s : State) (p : Nat) : Nat := match s.remap.find? fun x => x.2 == p with | some x => x.1 | none => p

/-- Reserve, for each page, a frame of the partition's shadow area on the page's home tarn (log 22). -/
def State.reserveFrames (s : State) (t part : Nat) : List Nat → List Nat → Option (List Nat)
  | [], _ => some []
  | pg :: pgs, used =>
    let P := s.part part
    match (List.range P.shsize.toNat).findSome? fun i =>
      match (s.walk t part ((P.shbase.toNat + i * 65536) % 2 ^ 64)).2 with
      | .ok x =>
        let f := s.unmapPage (x.pa x.va / 65536)
        if x.sz = 16 ∧ used.contains f = false ∧ homeOf (s.remapPage f * 65536) = homeOf (pg * 65536) then some f else none
      | .error _ => none with
    | none => none
    | some f => (s.reserveFrames t part pgs (f :: used)).map fun fs => f :: fs

/-- SHDW (R383): once for the group, with the operands of the lowest participant. -/
def execShdw (w : W2) (s : State) : Out :=
  match s.ctx? with
  | none => .next s
  | some c =>
    match c.participants w.p false with
    | [] => .next (s.advance c 2)
    | l :: ls =>
      let base := ((c.thread l).getPair w.a.toNat).toNat
      let n := opB c.Q (c.thread l) w false w.x.imm20.toNat
      let t := coreTarn c.B.core
      let bad := decide (n < 1) || decide (4096 < n) || base % 65536 != 0 || !c.B.mayAccess true base (n * 65536) ||
        !s.pagesOk t c.B.part base (n * 65536) fun x va => x.sz == 16 && !x.cell && !inHost (x.pa va)
      if bad then .next (s.raise c causeLease 0 l (BitVec.ofNat 64 base))
      else
        let phys := (List.range n).filterMap fun i =>
          match (s.walk t c.B.part ((base + i * 65536) % 2 ^ 64)).2 with | .ok x => some (x.pa x.va / 65536) | .error _ => none
        let free := [0, 1, 2, 3].find? fun h => (tget? c.B.shadows h).isNone
        let fin (s : State) (v : Nat) : Out :=
          .next (s.issueStep c 2 { c.op .shdw (.shdw w) (laneMask (l :: ls)) (c.flag w.n) with
            holdV := [w.d.toNat]
            elems := (l :: ls).map fun k => { Elem.result k v with st := 3 } })
        match free with
        | none => fin s (2 ^ 28)
        | some h =>
          match s.reserveFrames t c.B.part phys (s.part c.B.part).shUsed with
          | none => fin s (2 * 2 ^ 28)
          | some fs =>
            if c.B.shadows.any fun x => x.2.overlaps base (n * 65536) then fin s (3 * 2 ^ 28)
            else
              let S : Shadow := { base := BitVec.ofNat 64 base, pages := n, own := phys.map s.unmapPage, frames := fs }
              let s := s.updPart c.B.part fun P => { P with shUsed := P.shUsed ++ fs }
              fin (s.updBlock c.b fun B => { B with shadows := tput B.shadows h S }) h

/-- PUBL or ABND issues (R385, R386): it will wait for the commands placed before it. -/
def shadowIssue (kind : OpKind) (ins : Instr) (w : W2) (s : State) : Out :=
  match s.ctx? with
  | none => .next s
  | some c =>
    match c.participants w.p false with
    | [] => .next (s.advance c 2)
    | l :: ls =>
      let sc := w.x.scope.toNat
      if kind = .publ ∧ 6 ≤ sc ∧ s.gangGate c.B = 1 then .next (s.stall c)
      else if kind = .publ ∧ 6 ≤ sc ∧ s.gangGate c.B = 3 then .next (s.endTask c.b 7 none)
      else
        let o : Op := { c.op kind ins (laneMask (l :: ls)) (c.flag w.n) with
          holdV := [w.d.toNat]
          rel := if kind = .publ then sc else 0
          n := c.B.iseq
          m := if c.B.ring = 0 then 0 else s.notify c.B
          elems := (l :: ls).map fun k => { lane := k, va := 0#64, pa := 0, size := 0, st := 7, x := BitVec.ofNat 64 ((c.thread l).rd false w.a) } }
        .next (s.issueStep c 2 (s.stampOrder c.Q o))

def execPubl (w : W2) (s : State) : Out := shadowIssue .publ (.publ w) w s
def execAbnd (w : W2) (s : State) : Out := shadowIssue .abnd (.abnd w) w s

/-- The sequence number a is not after b (modulo 2^32). -/
def seqLe (a b : Nat) : Bool := decide ((b + 2 ^ 32 - a % 2 ^ 32) % 2 ^ 32 < 2 ^ 31)

/-- An entry was placed before a PUBL or ABND. -/
def Op.covers_ (o : Op) (e : Entry) : Bool := if e.ring = 0 then seqLe e.place o.n else seqLe e.place o.m

/-- An entry writes a shadow registration's region. -/
def State.writesRegion (s : State) (B : Block) (e : Entry) (S : Shadow) : Bool :=
  match s.writesAt B e with | some (a, n) => S.overlaps a n | none => false

/-- The shadow that a PUBL or ABND names. -/
def Op.handle (o : Op) : Nat := o.elems.head?.elim 0 (·.x.toNat)

/-- A LINK's chained ring (R373): its entries, which stand in its place before it once it has started. -/
def State.chainEntries (s : State) (B : Block) (e : Entry) : List Entry :=
  (List.range e.len).map fun i =>
    { bits := BitVec.ofNat 256 (readLE (B.sideOf s).bytes (e.src % 2 ^ 32 + 32 * i) 32), seq := 0, ring := e.ring, id := s.next + i
      covers := e.covers, depth := e.depth + 1, link := e.place, ident := e.ident }

/-- A command, or one that a LINK still to start chains to it, writes a region. -/
def State.chainWrites (s : State) (B : Block) (S : Shadow) : (fuel : Nat) → Entry → Bool
  | 0, e => s.writesRegion B e S
  | fuel + 1, e =>
    if e.kind = 4 then e.stage == 0 && (s.chainEntries B e).any (s.chainWrites B S fuel) else s.writesRegion B e S

/-- A PUBL or ABND still waits for a command whose destination overlaps its region (R385). -/
def State.shadowBusy (s : State) (o : Op) (B : Block) (S : Shadow) : Bool :=
  (B.iring ++ B.dring).any (fun e => o.covers_ e && s.chainWrites B S 4 e) ||
    (B.ring != 0 && !B.dstop && !seqLe o.m (s.ringHead B))

/-- Its status to every participant (R375). -/
def State.shadowDone (s : State) (id : Nat) (o : Op) (code : Nat) : State :=
  let d := o.holdV.headD 0
  (s.mapLanes o.blk o.q (s.opLanes o) fun _ t => t.setV d (BitVec.ofNat 32 (code * 2 ^ 28))).finishOp id

/-- Exchange two pages in the shadow table (R385). -/
def State.swapPages (s : State) (a b : Nat) : State :=
  let x := s.remapPage a
  let y := s.remapPage b
  let put (t : Tab Nat) (k v : Nat) : Tab Nat := if k = v then tdel t k else tput t k v
  { s with remap := put (put s.remap a y) b x }

/-- Every TLB of an instance of a scope takes a region's page at its new place (R250). -/
def State.switchTlbs (s : State) (sc core part va page : Nat) : State :=
  { s with cores := s.cores.map fun C =>
      if sameInstance (max 2 sc) (enginePlace C.1) (enginePlace core) then
        (C.1, { C.2 with tlb := C.2.tlb.map fun x =>
          if x.part = part ∧ x.sz = 16 ∧ x.va = va then
            { x with pte := BitVec.ofNat 64 (x.pte.toNat - bits x.pte.toNat 55 16 * 65536 + page * 65536) } else x })
      else C }

/-- The engine's writes of a block that are not performed yet. -/
def State.engineOwes (s : State) (b : Nat) (B : Block) : List Nat :=
  (s.ops.filter fun x => x.2.kind == .store && x.2.blk == b && x.2.place == enginePlace B.core).map (·.1)

/-- PUBL's write of the pages it has published (R250): a release of what it covers, for those who read them. -/
def State.publWrite (s : State) (o : Op) (B : Block) (S : Shadow) : State :=
  let cov := s.withPrior (addNew o.covers (s.engineOwes o.blk B))
  if cov.isEmpty then s
  else s.newOp { o with
    kind := .store, flag := 15, holdV := [], after_ := [], rel := 0, covers := cov, prior := cov, fsc := o.rel
    elems := S.written.map fun k => { lane := 32, va := 0#64, pa := s.remapPage (S.own.getD k 0) * 65536, size := 65536, st := 3 } }

/-- An access to a page of a region that this generation has written is still to act: it was translated before the exchange, and acts
before it (R250). -/
def State.regionRead (s : State) (o : Op) (B : Block) (S : Shadow) : Bool :=
  let pages := S.written.map fun k => s.remapPage (S.own.getD k 0)
  s.ops.any fun x => x.2.accesses && x.2.kind != .cell && !x.2.kept &&
    sameInstance (max 2 o.rel) (enginePlace (s.coreOf x.2.blk)) (enginePlace B.core) &&
    x.2.elems.any fun e => !e.acted && !e.done && pages.contains (e.pa / 65536)

/-- PUBL_EXCHANGE (R385): one write of every location of the region, and a release at its scope. -/
def execPublExchange (op : Nat) (s : State) : Out :=
  match s.op? op with
  | none => .next s
  | some o =>
    match s.block? o.blk with
    | none => .next s
    | some B =>
      if o.kind != OpKind.publ then .next s
      else match tget? B.shadows o.handle with
        | none => .next (s.shadowDone op o 6)
        | some S =>
          if s.shadowBusy o B S then .next s
          else if s.regionRead o B S then .next s
          else if !s.released o then .next (s.pushBack o.rel o.covers)
          else if !(s.engineOwes o.blk B).all fun i => s.performedAt o.rel i then .next (s.pushBack o.rel (s.engineOwes o.blk B))
          else
            let fresh (s : State) : State := s.updBlock o.blk fun B =>
              { B with shadows := tput B.shadows o.handle { S with written := [], discarded := false } }
            if S.discarded then .next ((fresh s).shadowDone op o 5)
            else
              let s := S.written.foldl (fun s k =>
                let s := s.swapPages (S.own.getD k 0) (S.frames.getD k 0)
                s.switchTlbs o.rel B.core B.part ((S.base.toNat + k * 65536) % 2 ^ 64) (s.remapPage (S.own.getD k 0))) s
              let s := (fresh s).publWrite o B S
              .next (s.shadowDone op o 0)

/-- ABND_DISCARD (R386): the open generation is discarded, the handle unregistered, its frames returned. -/
def execAbndDiscard (op : Nat) (s : State) : Out :=
  match s.op? op with
  | none => .next s
  | some o =>
    match s.block? o.blk with
    | none => .next s
    | some B =>
      if o.kind != OpKind.abnd then .next s
      else match tget? B.shadows o.handle with
        | none => .next (s.shadowDone op o 6)
        | some S =>
          if s.shadowBusy o B S then .next s
          else
            let s := s.updPart B.part fun P => { P with shUsed := P.shUsed.filter fun x => !S.frames.contains x }
            let s := s.updBlock o.blk fun B => { B with shadows := tdel B.shadows o.handle }
            .next (s.shadowDone op o 0)

/-! ### The declared ring (R367, R368) -/

/-- What the writes of NOTIFY release to the engine (R246): its first access for a command is an acquire at `.core`. -/
def State.notifyCovers (s : State) (b : Nat) (B : Block) : List Nat :=
  let ws := s.ops.filter fun x => x.2.kind == .sts && x.2.blk == b && x.2.elems.any fun e => decide (e.pa < 4) && decide (0 < e.pa + e.size)
  acquired 2 (enginePlace B.core) (releasesOf ws)

/-- A declared ring that is read no further has completed every entry that was read: FSEQ is set and the task ends (R368). -/
def State.overrun (s : State) (b : Nat) : State :=
  match s.block? b with
  | none => s
  | some B =>
    if B.dstop && B.dring.isEmpty && (match B.st with | .ending _ => false | _ => true) then
      (s.putSide B 12 4 ((s.ringHead B + 1) % 2 ^ 32)).endTask b 5
        (some { cause := causeOverrun, detail := 0, clause := 0#64, widx := 0, lane := 0, ea := 0#64 })
    else s

/-- ENTRY_READ (R367): the engine reads the next published entry whole, and adds 1 to HEAD; with a NOTIFY too far ahead it reads the
ring no further (R368).  An entry that is read once its task has ended is ABORTED (R392). -/
def execEntryRead (b : Nat) (s : State) : Out :=
  match s.block? b with
  | none => .next s
  | some B =>
    if B.ring = 0 ∨ B.dstop = true ∨ s.holdsSide b B = false then .next s
    else
      let h := s.ringHead B
      let ahead := s.unread B
      if ahead = 0 then .next s
      else if B.ring < ahead then .next ((s.updBlock b fun B => { B with dstop := true }).overrun b)
      else
        let o := 64 + 32 * (h % B.ring)
        let e : Entry := { bits := BitVec.ofNat 256 (readLE (B.sideOf s).bytes o 32), seq := (h + 1) % 2 ^ 32, ring := 1, id := s.next
                           covers := s.notifyCovers b B
                           ident := BitVec.ofNat 32 (coreTarn B.core / 12 * 2 ^ 24 + coreTarn B.core % 12 * 2 ^ 20) }
        let e := match B.st with | .ending _ => e.abort | _ => e
        let s : State := { s.putSide B 8 4 ((h + 1) % 2 ^ 32) with next := s.next + 1 }
        .next (s.updBlock b fun B => { B with dring := B.dring ++ [e] })

/-! ### Starting entries (R370, R372) -/

/-- Staging bytes in use on a core (R380). -/
def State.staging (s : State) (core : Nat) : Nat :=
  s.blocks.foldl (fun n x =>
    if x.2.core = core then (x.2.iring ++ x.2.dring).foldl (fun n e => if e.stage = 1 then n + e.staged.length else n) n else n) 0

/-- Entries of a core in flight. -/
def State.inFlight (s : State) (core : Nat) : Nat :=
  s.blocks.foldl (fun n x => if x.2.core = core then n + ((x.2.iring ++ x.2.dring).filter fun e => e.stage == 1).length else n) 0

/-- An entry can start: what it must see is performed, its tile is not busy, its staging fits, and no PUBL or ABND placed before
it is still to act on its region (R246, R370, R385). -/
def State.canStart (s : State) (b : Nat) (B : Block) (e : Entry) : Bool :=
  let sc := if e.kind = 5 then e.scope else 2
  let bad := e.kind != 5 && (s.entryBad B e).isSome
  (e.covers.all fun i => s.performedAt sc i) && decide (s.inFlight B.core < 16) &&
    (bad || (!(e.tiled && ((B.sideOf s).tile e.tileNum).busy) &&
      (e.kind != 3 || decide (s.staging B.core + e.len ≤ 65536)) &&
      !(s.ops.any fun x => x.2.blk == b && (x.2.kind == .publ || x.2.kind == .abnd) && !x.2.covers_ e &&
        (match tget? B.shadows x.2.handle with | some S => s.writesRegion B e S | none => false))))

/-- The next entry of a ring to start, if it can (R370). -/
def State.nextStart (s : State) (b ring : Nat) : Option (Nat × Entry) :=
  match s.block? b with
  | none => none
  | some B =>
    let es := B.entries ring
    match es.findIdx? fun e => e.stage == 0 with
    | some i => (match es[i]? with | some e => if s.canStart b B e then some (i, e) else none | none => none)
    | none => none

/-- The block and ring that the engine of a core serves next: the other side before the same, the other ring before the same
(R370). -/
def State.engineChoice (s : State) (core : Nat) : Option (Nat × Nat) :=
  let C := s.core core
  let side (i : Nat) : Option (Nat × Nat) :=
    match (tget C.sides i {}).owner with
    | none => none
    | some b =>
      let r := 1 - C.engRing.getD i 1
      if (s.nextStart b r).isSome then some (b, r) else if (s.nextStart b (1 - r)).isSome then some (b, 1 - r) else none
  side (1 - C.engSide) <|> side C.engSide

/-- Start entry i of a ring: the checks of R372, then its work. -/
def State.startEntry (s : State) (b ring i : Nat) (B : Block) (e : Entry) : State :=
  if e.kind = 5 then
    match s.springCheck B e with
    | .error (d, a) => s.updEntry b ring i fun e => { e with stage := 2, code := 3, detail := d, ea := BitVec.ofNat 64 a }
    | .ok pa =>
      if s.shut (coreTarn B.core) pa then s.holdEntry b ring i e.mAddr
      else (s.updEntry b ring i fun e => { e with stage := 1, ran := true, since := none }).sendMessage b ring B e pa
  else
    match s.entryBad B e with
    | some (d, a) => s.updEntry b ring i fun e => { e with stage := 2, code := 3, detail := d, ea := BitVec.ofNat 64 a }
    | none =>
      if e.kind = 4 then
        let ch := s.chainEntries B e
        let s : State := { s with next := s.next + ch.length }
        s.setRing b ring ((B.entries ring).take i ++ ch ++ { e with stage := 1, ran := true } :: (B.entries ring).drop (i + 1))
      else
        let s := if e.tiled then s.setTile B e.tileNum fun T => { T with st := if e.toSide then 1 else 3 } else s
        s.updEntry b ring i fun e =>
          { e with stage := 1, ran := true, work := s.workOf B e, staged := if e.kind = 3 then List.replicate e.len 0#8 else [] }

/-- ENGINE_START (R370, R372): the engine starts the entry it serves next; with words named, it moves words of started entries
instead, in any order: number k + i x 2^32 is word k left of entry i of the ring (R249, R370). -/
def execEngineStart (b ring : Nat) (words : List Nat) (s : State) : Out :=
  match s.block? b with
  | none => .next s
  | some B =>
    match words with
    | [] =>
      if s.engineChoice B.core = some (b, ring) then
        match s.nextStart b ring with
        | none => .next s
        | some (i, e) =>
          let s := s.startEntry b ring i B e
          .next (s.updCore B.core fun C => { C with engSide := B.side, engRing := C.engRing.set B.side ring })
      else
        match (B.entries ring).find? fun e => e.stage == 0 with
        | some e => .next (s.pushBack (if e.kind = 5 then e.scope else 2) e.covers)
        | none => .next s
    | ws => .next (ws.foldl (fun s n => s.advanceEntry b ring (n / 2 ^ 32) (n % 2 ^ 32)) s)

/-! ### Completion (R370, R374) -/

/-- The status word of R374. -/
def Entry.status (e : Entry) : Nat :=
  e.code * 2 ^ 28 + (if e.tr then 2 ^ 27 else 0) + (if e.rp then 2 ^ 26 else 0) + (if e.sd then 2 ^ 25 else 0) +
    (if e.depth = 0 then e.seq % 2 ^ 24 else 0)

/-- What an entry's completion releases, and those before it on its ring (R247, R248): the outstanding writes that happen before it. -/
def State.completionRel (s : State) (B : Block) (e : Entry) : List (Nat × Nat × Nat) :=
  let old := B.doneRel.filter fun r => r.1 == e.ring && (s.op? r.2.2).isSome
  let ids := s.withPrior (addNew (addNew e.covers e.seen) e.wop.toList)
  (old.map fun r => (e.ring, max r.2.1 e.scope, r.2.2)) ++ ids.map fun i => (e.ring, e.scope, i)

/-- A shadow generation that a command wrote into has been discarded (R374). -/
def Block.lostGen (B : Block) (e : Entry) : Bool :=
  e.gen.any fun h => match tget? B.shadows h with | some S => S.discarded | none => false

/-- The completion of an entry is written: status, completion word, tile state, flag; a fault then ends the task (R372).  The write of
a status register is an acquire by the issuing threads (R247). -/
def State.writeCompletion (s : State) (b : Nat) (B : Block) (e : Entry) : State :=
  let s := if e.tiled && e.ran then s.setTile B e.tileNum fun T => { T with st := 2 } else s
  let e := { e with sd := e.sd || B.lostGen e }
  let rel := s.completionRel B e
  let s := s.updBlock b fun B => { B with doneRel := (B.doneRel.filter fun r => r.1 != e.ring) ++ rel }
  let lane := match e.origin.bind s.op? with | some o => (laneList o.lanes).headD 0 | none => 0
  let s :=
    if e.ring = 0 then
      let s := s.updBlock b fun B => { B with idone := e.seq }
      match e.origin with
      | none => s
      | some id =>
        match s.op? id with
        | none => s
        | some o =>
          let s := match o.holdV with
            | [d, d'] => s.mapLanes o.blk o.q (s.opLanes o) fun _ t => (t.setV d (BitVec.ofNat 32 e.status)).setV d' (BitVec.ofNat 32 e.detail)
            | [d, d1, d2, d3] => s.mapLanes o.blk o.q (s.opLanes o) fun _ t =>
                (((t.setV d (BitVec.ofNat 32 e.status)).setV d1 (BitVec.ofNat 32 e.detail)).setV d2 e.reply).setV d3 e.outcome
            | _ => s
          let s := if o.holdV.isEmpty then s else s.mapLanes o.blk o.q (s.opLanes o) fun _ t =>
            t.meet e.scope o.place [] (rel.map fun r => (r.2.1, enginePlace B.core, r.2.2))
          s.finishOp id
    else
      let s := if e.kind != 5 && e.stat != 0xFFFFFFFF && e.stat % 8 == 0 && B.sideOk e.stat 8 then
          (s.putSide B e.stat 8 (e.status + 2 ^ 32 * e.detail)).updBlock b fun B =>
            { B with statRel := (B.statRel.filter fun r => r.1 != e.stat && (s.op? r.2.2).isSome) ++ rel.map fun r => (e.stat, r.2) }
        else s
      let s := if e.depth = 0 then s.putSide B 4 4 e.seq else s
      if e.code = 3 ∧ s.sideWord B 12 = 0 then s.putSide B 12 4 e.place else s
  if e.code = 3 then
    s.endTask b 5 (some { cause := (detailCause e.detail).1, detail := (detailCause e.detail).2, clause := e.clause, widx := e.widx, lane, ea := e.ea })
  else s

/-- What an entry has written of memory is performed as its completion needs it: at a scope of `.quad` or wider by the homes (R247,
R255); a message's row has no invalidation under way (R268). -/
def State.entryPerformed (s : State) (e : Entry) : Bool :=
  (decide (e.scope < 3) || e.wop.all fun i => s.performedAt e.scope i) &&
    (e.kind != 5 || e.work.all fun w => !s.ring.any fun r => match r.2.req with | .inval sec _ _ => sec == w.1 / 4 | _ => false)

/-- COMMAND_COMPLETION (R370): the first entry of a ring completes, once what is left of its work is done and performed. -/
def execCommandCompletion (b ring : Nat) (s : State) : Out :=
  match s.block? b with
  | none => .next s
  | some B0 =>
    match B0.entries ring with
    | [] => .next s
    | e0 :: _ =>
      let s := if e0.stage = 1 ∧ e0.kind ≠ 5 then s.runEntry b ring 0 (e0.work.length + redCount e0 + 1) else s
      match s.block? b with
      | none => .next s
      | some B =>
        match B.entries ring with
        | [] => .next s
        | e :: es =>
          if e.stage = 0 then .next s
          else if e.stage = 1 ∧ (e.kind = 5 ∨ e.idle = false) then .next s
          else
            let s := s.pushBack 3 e.wop.toList
            if !s.entryPerformed e then .next s else .next (((s.setRing b ring es).writeCompletion b B e).overrun b)

/-! ### Errors (R387 to R390) -/

/-- The started commands of a ring that satisfy a condition, with their places. -/
def Block.moving (B : Block) (ring : Nat) (p : Entry → Bool) : List (Nat × Entry) :=
  ((List.range (B.entries ring).length).zip (B.entries ring)).filter fun x => x.2.stage == 1 && x.2.kind != 5 && x.2.kind != 4 && p x.2

/-- The started command of a ring that an error strikes, as a free value chooses (log 21). -/
def Block.movingEntry (B : Block) (ring : Nat) (p : Entry → Bool) (k : Nat) : Option (Nat × Entry) :=
  (B.moving ring p)[k % (B.moving ring p).length]?

/-- A command still has a transfer to make. -/
def Entry.transfers (e : Entry) : Bool := !e.idle

/-- PATH_ERROR (R388, R389): a failed transfer is retried once; a lasting error replays the command once, and the next one
completes it PATH.  In the RMW phase of a REDUCE it is not replayed: whether the unconfirmed RMW was applied is a free value. -/
def execPathError (b ring : Nat) (retryFails : Bool) (s : State) : Out :=
  match s.block? b with
  | none => .next s
  | some B =>
    let d := s.draw
    match B.movingEntry ring Entry.transfers d.1.toNat with
    | none => .next s
    | some (i, e) =>
      let s := d.2
      if !retryFails then .next (s.updEntry b ring i fun e => { e with tr := true })
      else if e.kind = 3 ∧ e.work = [] then
        let d := s.draw
        let s := if d.1.getLsbD 0 then d.2.reduceNow b B e e.pos else d.2
        .next (s.endEntry b ring i 2 ((redElem e e.pos).1 * redSize e) 0)
      else .next (s.pathLost b ring i)

/-- UNCORRECTABLE_SOURCE_ERROR (R390): a source byte of the command is uncorrectable, and none from it on has been moved. -/
def execUncorrectableSourceError (b ring off : Nat) (s : State) : Out :=
  match s.block? b with
  | none => .next s
  | some B =>
    let d := s.draw
    let open_ (e : Entry) : Bool := !e.fromSide && decide (off / 4 < (s.workOf B e).length) && ((s.workOf B e).drop (off / 4)).all e.work.contains
    match B.movingEntry ring open_ d.1.toNat with
    | none => .next s
    | some (i, e) => .next (d.2.endEntry b ring i 1 off ((s.workOf B e).getD (off / 4) (0, 0)).1)

end Sys2Proof.Machine
end

