-- ==== Sys2Proof/Machine/Float.lean ====
section
/-! DEFINITION. Floating-point vector instructions (R179 to R193), conversions and quantisation between registers (R159 to
R176), and QRED (R115, R116). -/

namespace Sys2Proof.Machine

/-! ### Arithmetic (R182) -/

/-- `.ftz`, `.nb` and `.nc`. -/
def ftzOf (w : W2) : Bool := w.x.sub.getLsbD 0
/-- Flip the sign bit at a position. -/
def flipAt (on : Bool) (bit x : Nat) : Nat := if on then Nat.xor x (2 ^ bit) else x

/-- An FP32 instruction f(a, b) with the modifiers of R182 and R181. -/
def fbin (w : W2) (s : State) (f : Rnd → Nat → Nat → Nat) : Out :=
  laneStep s 2 w.p w.n fun c _ t =>
    let z := ftzOf w
    let x := flush z (t.rd false w.a)
    let y := flipAt (w.x.sub.getLsbD 1) 31 (flush z (opB c.Q t w false (immPlaced w.x.imm20)))
    t.wr false w.d (flush z (f (rndOf w.x) x y))

def execFaddOneWord (w : W1) (s : State) : Out :=
  laneStep s 1 w.p w.n fun _ _ t => t.wr false w.d (addBits .fp32 .rne (t.rd false w.a) (t.rd false w.b))
def execFaddTwoWord (w : W2) (s : State) : Out := fbin w s (addBits .fp32)
def execFmulOneWord (w : W1) (s : State) : Out :=
  laneStep s 1 w.p w.n fun _ _ t => t.wr false w.d (mulBits .fp32 .rne (t.rd false w.a) (t.rd false w.b))
def execFmulTwoWord (w : W2) (s : State) : Out := fbin w s (mulBits .fp32)

/-- FFMA (R182): one exact result, rounded once. -/
def execFfma (w : W2) (s : State) : Out :=
  laneStep s 2 w.p w.n fun c _ t =>
    let f := ftzOf w
    let x := flush f (t.rd false w.a)
    let y := flipAt (w.x.sub.getLsbD 1) 31 (flush f (opB c.Q t w false (immPlaced w.x.imm20)))
    let z := flipAt (w.x.sub.getLsbD 2) 31 (flush f (t.rd false (cField w)))
    t.wr false w.d (flush f (fmaBits .fp32 (rndOf w.x) x y z))

/-- FMIN and FMAX (R185). -/
def fminmax (w : W2) (s : State) (isMax : Bool) : Out :=
  laneStep s 2 w.p w.n fun c _ t =>
    t.wr false w.d (minMaxBits .fp32 isMax (flush (ftzOf w) (t.rd false w.a))
      (flush (ftzOf w) (opB c.Q t w false (immPlaced w.x.imm20))))
def execFmin (w : W2) (s : State) : Out := fminmax w s false
def execFmax (w : W2) (s : State) : Out := fminmax w s true

/-- FSET (R186): an all-ones or zero word, or with SUB[3] a predicate. -/
def execFset (w : W2) (s : State) : Out :=
  laneStep s 2 w.p w.n fun c _ t =>
    let r := fcond (w.x.sub &&& 7#4).toNat (t.rd false w.a) (opB c.Q t w false (immPlaced w.x.imm20))
    if w.x.sub.getLsbD 3 then t.setP w.d.toNat r else t.wr false w.d (boolWord r)

/-- FCLASS (R187): the immediate form is the predicate form. -/
def execFclass (w : W2) (s : State) : Out :=
  laneStep s 2 w.p w.n fun c _ t =>
    let k := fclassOf (t.rd false w.a)
    if w.x.isImm || w.x.sub.getLsbD 3 then
      t.setP w.d.toNat ((opB c.Q t w false w.x.imm20.toNat % 2 ^ 10).testBit k)
    else t.wr false w.d (2 ^ k)

def execFrnd (w : W2) (s : State) : Out :=
  laneStep s 2 w.p w.n fun _ _ t =>
    t.wr false w.d (flush (ftzOf w) (frndBits (rndOf w.x) (flush (ftzOf w) (t.rd false w.a))))

def execFscl (w : W2) (s : State) : Out :=
  laneStep s 2 w.p w.n fun c _ t =>
    t.wr false w.d (flush (ftzOf w) (fsclBits (rndOf w.x) (flush (ftzOf w) (t.rd false w.a))
      (toSigned 32 (opB c.Q t w false (ofInt 32 (immSigned w.x.imm20))))))

/-! ### Packed halves (R184) -/

/-- A function of two 16-bit elements applied to each half of two words. -/
def halves (f : Nat → Nat → Nat) (a b : Nat) : Nat := f (bits a 15 0) (bits b 15 0) + 2 ^ 16 * f (bits a 31 16) (bits b 31 16)

/-- A packed instruction f(a, b) per element. -/
def hbin (w : W2) (s : State) (f : Fmt → Rnd → Nat → Nat → Nat) : Out :=
  laneStep s 2 w.p w.n fun c _ t =>
    t.wr false w.d (halves (fun x y => f (if tyOf w = 13 then .fp16 else .bf16) (rndOf w.x) x (flipAt (w.x.sub.getLsbD 1) 15 y))
      (t.rd false w.a) (opB c.Q t w false 0))
def execHadd2 (w : W2) (s : State) : Out := hbin w s addBits
def execHmul2 (w : W2) (s : State) : Out := hbin w s mulBits

def execHfma2 (w : W2) (s : State) : Out :=
  laneStep s 2 w.p w.n fun c _ t =>
    let a := t.rd false w.a
    let b := opB c.Q t w false 0
    let z := t.rd false w.x.c
    let f (k : Nat) : Nat :=
      fmaBits (if tyOf w = 13 then .fp16 else .bf16) (rndOf w.x) (bits a (16*k+15) (16*k))
        (flipAt (w.x.sub.getLsbD 1) 15 (bits b (16*k+15) (16*k))) (flipAt (w.x.sub.getLsbD 2) 15 (bits z (16*k+15) (16*k)))
    t.wr false w.d (f 0 + 2 ^ 16 * f 1)

def execHmnx2 (w : W2) (s : State) : Out :=
  laneStep s 2 w.p w.n fun c _ t =>
    t.wr false w.d (halves (minMaxBits (if tyOf w = 13 then .fp16 else .bf16) (w.x.sub.getLsbD 0))
      (t.rd false w.a) (opB c.Q t w false 0))

/-! ### Transcendentals (R190 to R193) -/

/-- A transcendental by its minor issues: its result is formed from the operand at issue and written at its completion. -/
def transIssue (ins : Instr) (minor : Nat) (w : W2) (s : State) : Out :=
  match s.ctx? with
  | none => .next s
  | some c =>
    let ls := c.participants w.p false
    .next (s.issueStep c 2 { c.op .trans ins (laneMask ls) (c.flag w.n) with
      holdV := [w.d.toNat]
      elems := ls.map fun l => .result l (transcend minor (rndOf w.x) (ftzOf w) ((c.thread l).rd false w.a)) })

def execFrcp (w : W2) (s : State) : Out := transIssue (.frcp w) 0 w s
def execFrsq (w : W2) (s : State) : Out := transIssue (.frsq w) 1 w s
def execFsqrt (w : W2) (s : State) : Out := transIssue (.fsqrt w) 2 w s
def execFex2 (w : W2) (s : State) : Out := transIssue (.fex2 w) 3 w s
def execFlg2 (w : W2) (s : State) : Out := transIssue (.flg2 w) 4 w s
def execFsin (w : W2) (s : State) : Out := transIssue (.fsin w) 5 w s
def execFcos (w : W2) (s : State) : Out := transIssue (.fcos w) 6 w s

/-- Write each element's returned value to a register of its lane, if the thread still takes results. -/
def State.writeElems (s : State) (o : Op) (wide : Bool) (d : BitVec 7) (es : List Elem) : State :=
  let live := s.opLanes o
  es.foldl (fun s e =>
    if live.contains e.lane then s.mapLanes o.blk o.q [e.lane] fun _ t => t.wr wide d e.r.toNat else s) s

/-- TRANSCENDENTAL_COMPLETION (R192). -/
def execTranscendentalCompletion (op : Nat) (s : State) : Out :=
  match s.op? op with
  | none => .next s
  | some o =>
    if o.kind == OpKind.trans then
      .next ((s.writeElems o false (BitVec.ofNat 7 (o.holdV.headD 0)) o.elems).finishOp op)
    else .next s

/-! ### Conversions -/

/-- A source value by its code (R160). -/
def srcValue (code x : Nat) : Fp :=
  match code with
  | 0 => decodeFp .fp32 (x % 2 ^ 32)
  | 1 => decodeFp .fp16 (x % 2 ^ 16)
  | 2 => decodeFp .bf16 (x % 2 ^ 16)
  | 3 => decodeFp .e4m3 (x % 2 ^ 8)
  | 4 => decodeFp .e5m2 (x % 2 ^ 8)
  | _ => decodeScale x

/-- Width in bits of an integer type code 1 to 8 (R12). -/
def intBits (ty : Nat) : Nat := match ty with | 1 | 5 => 8 | 2 | 6 => 16 | 4 | 8 => 64 | _ => 32
/-- Signed or zero extension of an integer of a type code. -/
def intVal (ty n : Nat) : Int := if ty ≤ 4 then toSigned (intBits ty) n else (n % 2 ^ intBits ty : Nat)

/-- CVT (R162). -/
def execCvt (w : W2) (s : State) : Out :=
  laneStep s 2 w.p w.n fun _ _ t =>
    let x := srcValue (w.x.sub &&& 7#4).toNat (t.rd false w.a)
    t.wr false w.d (if tyOf w = 16 then toScale (rndOf w.x) x
      else convert (fmtOfType (tyOf w)) (rndOf w.x) (w.x.sub.getLsbD 3) x)

/-- CVTP (R164). -/
def execCvtp (w : W2) (s : State) : Out :=
  laneStep s 2 w.p w.n fun c _ t =>
    let f := fmtOfType (tyOf w)
    let a := convert f (rndOf w.x) (w.x.sub.getLsbD 3) (decodeFp .fp32 (t.rd false w.a))
    let b := convert f (rndOf w.x) (w.x.sub.getLsbD 3) (decodeFp .fp32 (opB c.Q t w false 0))
    if tyOf w < 14 then t.wr false w.d (a + 2 ^ 16 * b)
    else
      let h := if w.x.sub.getLsbD 0 then 16 else 0
      let v := t.rd false w.x.c
      t.wr false w.d (v % 2 ^ h + (a + 2 ^ 8 * b) * 2 ^ h + v / 2 ^ (h + 16) * 2 ^ (h + 16))

/-- CVTX (R165). -/
def execCvtx (w : W2) (s : State) : Out :=
  laneStep s 2 w.p w.n fun c _ t =>
    let n := if tyOf w < 14 then 2 else 4
    let i := opB c.Q t w false w.x.imm20.toNat % n
    let k := 32 / n
    let e := t.rd false w.a / 2 ^ (k * i) % 2 ^ k
    t.wr false w.d (convert .fp32 .rne false (if tyOf w = 16 then decodeScale e else decodeFp (fmtOfType (tyOf w)) e))

/-- F2I of a value (R166). -/
def f2i (ty : Nat) (mode : Rnd) (x : Fp) : Nat :=
  let W := if intBits ty = 64 then 64 else 32
  let lo : Int := if ty ≤ 4 then -(2 ^ (intBits ty - 1)) else 0
  let hi : Int := if ty ≤ 4 then 2 ^ (intBits ty - 1) - 1 else 2 ^ intBits ty - 1
  match x with
  | .nan => 0
  | .inf n => ofInt W (if n then lo else hi)
  | .num n m e => ofInt W (clampInt (roundInt mode n m e) lo hi)

def execF2i (w : W2) (s : State) : Out :=
  laneStep s 2 w.p w.n fun _ _ t =>
    t.wr (intBits (tyOf w) == 64) w.d (f2i (tyOf w) (rndOf w.x) (srcValue (w.x.sub &&& 7#4).toNat (t.rd false w.a)))

/-- I2F (R167). -/
def execI2f (w : W2) (s : State) : Out :=
  laneStep s 2 w.p w.n fun _ _ t =>
    let ty := w.x.sub.toNat
    let v := intVal ty (t.rd (intBits ty == 64) w.a)
    t.wr false w.d (convert (fmtOfType (tyOf w)) (rndOf w.x) false (.num (decide (v < 0)) v.natAbs 0))

/-- QBLK (R168): the participants form the block. -/
def execQblk (w : W2) (s : State) : Out :=
  match s.ctx? with
  | none => .next s
  | some c =>
    let ls := c.participants w.p w.n
    let e := blockScale (tyOf w) (ls.map fun l => (c.thread l).rd false w.a)
    .next ((s.mapLanes c.b c.q ls fun _ t =>
      let r := blockElem (tyOf w) (rndOf w.x) e (t.rd false w.a)
      t.wr false w.d (r.1 + 256 * e + (if r.2 then 65536 else 0))).advance c 2)

/-- UNQ (R172). -/
def execUnq (w : W2) (s : State) : Out :=
  laneStep s 2 w.p w.n fun c _ t =>
    let k := (w.x.sub &&& 3#4).toNat
    let x := bits (t.rd false w.a) (8 * k + 7) (8 * k)
    let e := opB c.Q t w false w.x.imm20.toNat % 256
    t.wr false w.d (convert .fp32 (rndOf w.x) false (elemValue (tyOf w) x e))

/-- PLX (R173). -/
def execPlx (w : W2) (s : State) : Out :=
  match s.ctx? with
  | none => .next s
  | some c =>
    let ls := c.participants w.p w.n
    .next ((s.mapLanes c.b c.q ls fun _ t =>
      let j := opB c.Q t w false w.x.imm20.toNat % 8
      t.wr false w.d (laneMask (ls.filter fun k => ((c.thread k).rd false w.a).testBit (7 - j))).toNat).advance c 2)

/-- PLI (R174). -/
def execPli (w : W2) (s : State) : Out :=
  match s.ctx? with
  | none => .next s
  | some c =>
    let ls := c.participants w.p w.n
    let p := if tyOf w = 0 then 8 else bpPlanes (tyOf w)
    .next ((s.mapLanes c.b c.q ls fun l t =>
      let y := (List.range p).foldl (fun y j =>
        if ls.contains j && ((c.thread j).rd false w.a).testBit l then y + 2 ^ (7 - j) else y) 0
      t.wr false w.d (ofInt 32 (toSigned 8 y))).advance c 2)

/-- SCLX on one pair of scales (R176). -/
def sclxByte (mode a b : Nat) : Nat :=
  if a = 255 ∨ b = 255 then 255
  else match mode with
    | 0 => (clampInt ((a : Int) + b - 127) 0 254).toNat
    | 1 => (clampInt ((a : Int) - b + 127) 0 254).toNat
    | 2 => max a b
    | _ => min a b

def execSclx (w : W2) (s : State) : Out :=
  laneStep s 2 w.p w.n fun c _ t =>
    let a := t.rd false w.a
    let b := opB c.Q t w false w.x.imm20.toNat
    t.wr false w.d ((List.range 4).foldl (fun r i =>
      r + sclxByte (w.x.sub &&& 3#4).toNat (bits a (8*i+7) (8*i)) (bits b (8*i+7) (8*i)) * 2 ^ (8 * i)) 0)

/-! ### QRED (R115, R116) -/

/-- The reduction of some words by operation and type. -/
def qredN (op ty : Nat) (mode : Rnd) (xs : List Nat) : Nat :=
  match xs with
  | [] => 0
  | x :: r =>
    if ty = 9 then
      if op = 0 then finishTerms .fp32 mode (xs.map (decodeFp .fp32))
      else
        let v := r.foldl (fun a b => minMaxBits .fp32 (op == 2) a b) x
        if (decodeFp .fp32 v).isNan then Fmt.fp32.nanCode else v
    else r.foldl (fun a b => combine op ty a b 0) x

def execQred (w : W2) (s : State) : Out :=
  match s.ctx? with
  | none => .next s
  | some c =>
    let ls := c.participants w.p w.n
    let v := qredN (w.x.sub &&& 7#4).toNat (tyOf w) (rndOf w.x) (ls.map fun l => (c.thread l).rd false w.a)
    .next ((if ls.isEmpty then s
      else if w.x.sub.getLsbD 3 then s.updQuire c.b c.q fun q => q.wr false w.d v
      else s.mapLanes c.b c.q ls fun _ t => t.wr false w.d v).advance c 2)

end Sys2Proof.Machine
end

