-- ==== Sys2Proof/Machine/Matrix.lean ====
section
/-! DEFINITION. The matrix unit (R394 to R419): reservations, fills, convergence registers, multiplications alone and over a
quad, and the accumulator. -/

namespace Sys2Proof.Machine

/-! ### Reservation records (R395, R396) -/

/-- An operand's place and shape. -/
structure HRec where
  base : Nat
  size : Nat
  ty : Nat
  blk : Bool
  klen : Nat
  vec : Nat
  soff : Nat
deriving DecidableEq, Repr

def hrecOf (x : Nat) : HRec :=
  { base := 256 * bits x 9 0, size := 256 * (bits x 19 10 + 1), ty := bits x 24 20, blk := bits x 25 25 == 1
    klen := 32 * (bits x 32 26 + 1), vec := 64 * (bits x 35 33 + 1), soff := 256 * bits x 45 36 }

namespace HRec

/-- Element width in bits (R396). -/
def width (r : HRec) : Nat := if 17 ≤ r.ty then bpPlanes r.ty else if r.ty = 14 ∨ r.ty = 15 then 8 else 16

/-- Bytes of the elements and of the scales. -/
def dataBytes (r : HRec) : Nat := r.vec * r.klen * r.width / 8
def scaleBytes (r : HRec) : Nat := r.vec * r.klen / 32

/-- The record is well formed (R396). -/
def ok (r : HRec) (x : Nat) : Bool :=
  bits x 63 46 == 0 && (r.ty == 10 || r.ty == 11 || r.ty == 14 || r.ty == 15 || decide (17 ≤ r.ty ∧ r.ty ≤ 23)) &&
  (r.blk || decide (r.ty < 17)) && !(r.blk && decide (r.ty < 14)) && decide (r.base + r.size ≤ 262144) &&
  (if r.blk then decide (r.dataBytes ≤ r.soff) && decide (r.soff + r.scaleBytes ≤ r.size)
   else r.soff == 0 && decide (r.dataBytes ≤ r.size))

/-- Two reserved ranges meet. -/
def overlaps (r q : HRec) : Bool := decide (r.base < q.base + q.size) && decide (q.base < r.base + r.size)

/-- Byte of element (v, k) of a format of whole bytes; of plane j of run k / 32 of a BP format; and of a scale (log 23). -/
def elemAt (r : HRec) (v k : Nat) : Nat := r.base + (v * r.klen + k) * (r.width / 8)
def planeAt (r : HRec) (v k j : Nat) : Nat := r.base + ((v * (r.klen / 32) + k / 32) * r.width + j) * 4
def scaleAt (r : HRec) (v k : Nat) : Nat := r.base + r.soff + v * (r.klen / 32) + k / 32

/-- The exact value of an element (R410). -/
def value (r : HRec) (m : List Host.Cell) (v k : Nat) : Fp :=
  let e := readLE m (r.scaleAt v k) 1
  if 17 ≤ r.ty then
    elemValue r.ty (unplane ((List.range r.width).map fun j => readLE m (r.planeAt v k j) 4) (k % 32)) e
  else
    let c := readLE m (r.elemAt v k) (r.width / 8)
    if r.blk then elemValue r.ty c e else decodeFp (fmtOfType r.ty) c

end HRec

def Block.handle (B : Block) (h : Nat) : Handle := tget B.handles h {}
def Handle.rec_ (h : Handle) : HRec := hrecOf h.record.toNat

/-- Change a handle. -/
def State.updHandle (s : State) (b h : Nat) (f : Handle → Handle) : State :=
  s.updBlock b fun B => { B with handles := tput B.handles h (f (B.handle h)) }

/-- Details of a MATRIX fault (R416). -/
def mxHandle : Nat := 1
def mxReserve : Nat := 2
def mxGeometry : Nat := 3
def mxShape : Nat := 4
def mxRefused : Nat := 5
def mxQuad : Nat := 6

/-! ### Commands in the queue (R401) -/

/-- The position of a core in its quad (R411). -/
def quadPos (core : Nat) : Nat := coreNum core % 4

/-- The handles a command names as operands, and the handle it fills. -/
def MCmd.reads (m : MCmd) (core : Nat) : List Nat :=
  let w := w2Of m.ins
  match m.ins with
  | .mma _ => [w.d.toNat, w.a.toNat]
  | .mmaq _ => [if quadPos core < 2 then w.d.toNat else w.a.toNat]
  | _ => []
def MCmd.fills (m : MCmd) : List Nat :=
  match m.ins with
  | .obld w => if m.hit then [] else [w.d.toNat]
  | .obldg w => [w.d.toNat]
  | _ => []

/-- A command of the load pipe. -/
def MCmd.isLoad (m : MCmd) : Bool := match m.ins with | .obld _ | .obldg _ => true | _ => false
/-- MMA or MMAQ. -/
def MCmd.isMul (m : MCmd) : Bool := match m.ins with | .mma _ | .mmaq _ => true | _ => false

/-- Fields of a region word (R413). -/
def rowOf (r : Nat) : Nat := bits r 7 0
def colOf (r : Nat) : Nat := bits r 16 8
def zRows (r : Nat) : Nat := 64 * (bits r 18 17 + 1)
def zCols (r : Nat) : Nat := 64 * (bits r 21 19 + 1)

/-- Rows and elements per row of a GRID tile. -/
def Desc.elemBytes (x : Desc) : Nat := if x.ty = 9 then 4 else if x.ty = 10 ∨ x.ty = 11 then 2 else 1
def Desc.elems (x : Desc) : Nat := 4 * x.wcols / x.elemBytes

/-- The accumulator cells of a command: first row and column, rows and columns, and whether it writes them.  What an MMAQ's
partners bring is not known before they match. -/
def MCmd.cells (m : MCmd) (B : Block) (S : Side) : Nat × Nat × Nat × Nat × Bool :=
  let r := m.vb.toNat
  let w := w2Of m.ins
  match m.ins with
  | .mma _ => (rowOf r, colOf r, (B.handle w.d.toNat).rec_.vec, (B.handle w.a.toNat).rec_.vec, true)
  | .mmaq _ => (rowOf r, colOf r, 256, 512, true)
  | .accz _ => (rowOf r, colOf r, zRows r, zCols r, true)
  | .accst _ => (rowOf r, colOf r, (S.tile w.d.toNat).desc'.rows, (S.tile w.d.toNat).desc'.elems, false)
  | .accrd _ => (rowOf r, colOf r, 1, 32, false)
  | _ => (0, 0, 0, 0, false)

/-- Two commands share a handle or a cell that at least one of them writes.  A multiplication that accumulates may follow the
one before it. -/
def MCmd.conflicts (x y : MCmd) (B : Block) (S : Side) : Bool :=
  let hs (a b : MCmd) : Bool := a.fills.any fun h => (b.fills ++ b.reads B.core).contains h
  let (r1, c1, m1, n1, w1) := x.cells B S
  let (r2, c2, m2, n2, w2) := y.cells B S
  let cells := (w1 || w2) && decide (r1 < r2 + m2 ∧ r2 < r1 + m1 ∧ c1 < c2 + n2 ∧ c2 < c1 + n1)
  hs x y || hs y x || (cells && !(x.isMul && y.isMul && x.stage == 1 && !(w2Of y.ins).x.sub.getLsbD 0))

/-- Whether a queued command may start now (R401): 4 clk after its issue, behind its pipe, and behind every unfinished command
with which it conflicts; the bank reads of a load come after what happened before its issue (R417). -/
def State.mayStart (s : State) (B : Block) (m : MCmd) : Bool :=
  let before := B.mq.takeWhile fun x => x.num != m.num
  let S := B.sideOf s
  m.stage == 0 && !m.hit &&
  (match s.op? m.op with | some o => decide (o.due ≤ s.clk) && (!m.isLoad || o.before_.all fun i => s.performedAt 2 i) | none => true) &&
  before.all fun x =>
    (x.isLoad != m.isLoad || x.hit || (x.stage == 1 && !m.isLoad)) && !x.conflicts m B S

/-- Change a queued command, or take it out. -/
def State.updCmd (s : State) (b num : Nat) (f : MCmd → MCmd) : State :=
  s.updBlock b fun B => { B with mq := B.mq.map fun m => if m.num = num then f m else m }
def State.delCmd (s : State) (b num : Nat) : State :=
  s.updBlock b fun B => { B with mq := B.mq.filter fun m => m.num != num }

/-- A matrix instruction acts once for its group, with the operands of the lowest participant (R400). -/
def matrixOnce (w : W2) (neg : Bool) (s : State) (f : Ctx → Nat → List Nat → Out) : Out :=
  match s.ctx? with
  | none => .next s
  | some c =>
    match c.participants w.p neg with
    | [] => .next (s.advance c 2)
    | l :: ls => f c l (l :: ls)

/-- A matrix command: it stalls while the queue's 8 entries are in use (R401, log 23). -/
def matrixCommand (w : W2) (s : State) (f : Ctx → Nat → List Nat → Out) : Out :=
  matrixOnce w false s fun c l ls => if 8 ≤ c.B.mq.length then .next (s.stall c) else f c l ls

/-- A MATRIX fault of the issuing group. -/
def State.matrixFault (s : State) (c : Ctx) (l detail : Nat) : Out := .next (s.raise c causeMatrix detail l 0#64)

/-- The scratchpad bytes that a command writes for its participants (R415). -/
def tileElems (x : Desc) (l : Nat) : List Elem :=
  (List.range x.rows).map fun r => { lane := l, va := 0#64, pa := x.wordAt r 0, size := 4 * x.wcols }

/-- Enter a command in the queue: a release at `.core` of what happens before it (R417). -/
def State.enqueue (s : State) (c : Ctx) (w : W2) (ins : Instr) (ls : List Nat) (holdV : List Nat) (vb vc : Word)
    (rows : List (Nat × Word)) (hit : Bool) : State :=
  let es := match ins with | .accst _ => tileElems ((c.B.sideOf s).tile w.d.toNat).desc' (ls.headD 0) | _ => []
  let o : Op := { s.stampOrder c.Q { c.op .matrix ins (laneMask ls) (c.flag w.n) with holdV, elems := es } with
    due := s.clk + 4, before_ := s.coversOf c.b c.q c.Q ls }
  let m : MCmd := { ins, num := s.next, op := s.next, vb, vc, rows, hit, clause := c.gr.clause, widx := c.gr.widx }
  ((s.issueOp o).updBlock c.b fun B => { B with mq := B.mq ++ [m] }).advance c 2

/-- Operand b of a lane as a word. -/
def wordB (c : Ctx) (w : W2) (l : Nat) : Word := BitVec.ofNat 32 (opB c.Q (c.thread l) w false w.x.imm20.toNat)

/-! ### Reservations (R402) -/

/-- Bytes that earlier fills left in reserved units appear in the new operand's elements in no stated place (R402, log 2). -/
def staleUnits (m : List Host.Cell) (draw : Nat) (r : HRec) : List Host.Cell :=
  if m.any fun e => decide (r.base ≤ e.1 ∧ e.1 < r.base + r.size) then
    (List.range r.size).foldl (fun a i => cellPut a (r.base + i) (cellGet m (r.base + Config.staleByte draw i % r.size))) m
  else m

/-- OBRES (R402). -/
def execObres (w : W2) (s : State) : Out :=
  matrixOnce w w.n s fun c l _ =>
    let h := w.d.toNat
    let x := (c.thread l).getPair w.a.toNat
    let r := hrecOf x.toNat
    if (c.B.handle h).st != 0 then s.matrixFault c l mxHandle
    else if !r.ok x.toNat || c.B.handles.any (fun e => e.2.st != 0 && e.2.rec_.overlaps r) then s.matrixFault c l mxReserve
    else
      let s : State := { s.updHandle c.b h fun H => { st := 1, record := x, gen := H.gen + 1#32, cache := none } with free := s.free + 1 }
      .next ((s.updBlock c.b fun B => { B with obuf := staleUnits B.obuf s.free r }).advance c 2)

/-- OBREL (R402). -/
def execObrel (w : W2) (s : State) : Out :=
  matrixOnce w w.n s fun c l _ =>
    let h := w.d.toNat
    if (c.B.handle h).st = 0 then s.matrixFault c l mxHandle
    else if c.B.mq.any fun m => (m.reads c.B.core ++ (match m.ins with | .obld w => [w.d.toNat] | _ => m.fills)).contains h then
      .next (s.stall c)
    else .next ((s.updHandle c.b h fun H => { H with st := 0, gen := H.gen + 1#32, cache := none }).advance c 2)

/-! ### Fills (R403 to R406) -/

/-- The tile is of a type and layout that a fill can read. -/
def fillable (x : Desc) (chk : Bool) : Bool := x.image || (!chk && [10, 11, 14, 15].contains x.ty)

/-- The tile and the record form a pair of R403 in a direction. -/
def fillPair (x : Desc) (r : HRec) (col : Bool) : Bool :=
  if x.image then !col && r.blk && (if x.ty = 23 then decide (17 ≤ r.ty) else r.ty == x.ty) else r.ty == x.ty && !r.blk

/-- Rows and elements per row that a fill reads of a tile. -/
def fillRows (x : Desc) : Nat := if x.image then 64 else x.rows
def fillElems (x : Desc) : Nat := if x.image then 64 else x.elems

/-- The geometry checks of R403: vectors and elements written, and the alignment of runs. -/
def fillFits (x : Desc) (r : HRec) (col : Bool) (vEnd k0 kLen : Nat) : Bool :=
  fillPair x r col && decide (vEnd ≤ r.vec) && decide (k0 + kLen ≤ r.klen) && (!r.blk || k0 % 32 == 0)

/-- The bytes that tile row `row` puts into an operand: as elements k0 on of vector v, or under `.col` as element k0 + row of
the vectors from v on. -/
def fillRow (m : List Host.Cell) (x : Desc) (r : HRec) (col : Bool) (v k0 row : Nat) : List (Nat × Byte) :=
  let copy (dst src n : Nat) : List (Nat × Byte) := (List.range n).map fun i => (dst + i, cellGet m (src + i))
  if x.image then
    ((List.range 2).map fun j =>
      let b := 2 * row + j
      (r.scaleAt v (k0 + 32 * j), cellGet m (x.imageAt (4096 + b))) ::
      (if x.ty = 23 then ((List.range r.width).map fun p => copy (r.planeAt v (k0 + 32 * j) p) (x.imageAt (32 * b + 4 * p)) 4).flatten
       else ((List.range 32).map fun i => copy (r.elemAt v (k0 + 32 * j + i)) (x.imageAt (32 * b + i)) 1).flatten)).flatten
  else
    let n := x.elemBytes
    ((List.range x.elems).map fun c =>
      copy (if col then r.elemAt (v + c) (k0 + row) else r.elemAt v (k0 + c)) (x.wordAt row 0 + c * n) n).flatten

/-- Write bytes into the operand buffer. -/
def Block.putObuf (B : Block) (bs : List (Nat × Byte)) : Block :=
  { B with obuf := bs.foldl (fun m x => cellPut m x.1 x.2) B.obuf }

/-- Placement word: first vector and first element (R398). -/
def placeV (p : Word) : Nat := bits p.toNat 15 0
def placeK (p : Word) : Nat := bits p.toNat 31 16

/-- The tag of an operand-cache entry (R404), but for the generation. -/
def obldTag (w : W2) (T : Tile) (p : Word) (gen : BitVec 32) : Nat × BitVec 39 × Nat × BitVec 32 × BitVec 32 :=
  (w.a.toNat, T.desc, if w.x.sub.getLsbD 0 then 1 else 0, p, gen)

/-- OBLD (R403, R404, R405). -/
def execObld (w : W2) (s : State) : Out :=
  matrixCommand w s fun c l ls =>
    let chk := w.x.sub.getLsbD 1
    let col := w.x.sub.getLsbD 0
    withTile s c ls w.a.toNat fun T =>
      let x := T.desc'
      let H := c.B.handle w.d.toNat
      let p := wordB c w l
      if !fillable x chk then .next ((s.advance c 2).tileFault c ls w.a.toNat)
      else if H.st = 0 then s.matrixFault c l mxHandle
      else if !fillFits x H.rec_ col (placeV p + (if col then fillElems x else fillRows x)) (placeK p)
          (if col then fillRows x else fillElems x) then s.matrixFault c l mxGeometry
      else
        let hit := !chk && H.cache == some (obldTag w T p H.gen) && !c.B.mq.any fun m => m.fills.contains w.d.toNat
        let s := if hit then s else s.setTile c.B w.a.toNat fun T => { T with st := 3 }
        .next (s.enqueue c w (.obld w) ls (if chk then [w.x.c.toNat] else []) p 0#32 [] hit)

/-- OBLDG (R406): a lane whose row index is beyond the tile is switched off. -/
def execObldg (w : W2) (s : State) : Out :=
  matrixCommand w s fun c l ls =>
    withTile s c ls w.a.toNat fun T =>
      let x := T.desc'
      let H := c.B.handle w.d.toNat
      let p := (c.thread l).getV w.x.c.toNat
      if !fillable x false then .next ((s.advance c 2).tileFault c ls w.a.toNat)
      else if H.st = 0 then s.matrixFault c l mxHandle
      else if !fillFits x H.rec_ false (placeV p + ls.getLastD 0 + 1) (placeK p) (fillElems x) then s.matrixFault c l mxGeometry
      else
        let idx (l : Nat) : Word := (c.thread l).getV w.b.toNat
        let bad := ls.filter fun l => decide (fillRows x ≤ (idx l).toNat)
        let good := ls.filter fun l => !bad.contains l
        if good.isEmpty then
          .next (((s.updHandle c.b w.d.toNat fun H => { H with cache := none }).advance c 2).tileFault c bad w.a.toNat)
        else
          let s := s.setTile c.B w.a.toNat fun T => { T with st := 3 }
          .next ((s.enqueue c w (.obldg w) good [] 0#32 p (good.map fun l => (l, idx l)) false).tileFault c bad w.a.toNat)

/-- A fill reads the tile and writes its operand as it starts; a refused `.chk` writes nothing (R403 to R406). -/
def State.startFill (s : State) (b : Nat) (B : Block) (m : MCmd) : State :=
  let w := w2Of m.ins
  let h := w.d.toNat
  let T := (B.sideOf s).tile w.a.toNat
  let x := T.desc'
  let mem := (B.sideOf s).bytes
  let r := (B.handle h).rec_
  match m.ins with
  | .obldg _ =>
    let bs := (m.rows.map fun y => fillRow mem x r false (placeV m.vc + y.1) (placeK m.vc) y.2.toNat).flatten
    (s.updBlock b fun B => B.putObuf bs).updHandle b h fun H => { H with st := 1, gen := H.gen + 1#32, cache := none }
  | _ =>
    let col := w.x.sub.getLsbD 0
    let st := if w.x.sub.getLsbD 1 then trailerStatus (s.tileData B x) else 1
    let s := match s.op? m.op with | some o => s.setOp m.op { o with n := st } | none => s
    if st % 2 = 0 then s.updHandle b h fun H => { H with st := 2, gen := H.gen + 1#32, cache := none }
    else
      let bs := ((List.range (fillRows x)).map fun i =>
        fillRow mem x r col (placeV m.vb + (if col then 0 else i)) (placeK m.vb) i).flatten
      (s.updBlock b fun B => B.putObuf bs).updHandle b h fun H =>
        { H with st := 1, gen := H.gen + 1#32, cache := some (obldTag w T m.vb (H.gen + 1#32)) }

/-! ### Convergence (R407, R408) -/

/-- MSIGN (R407): the participants go on; their arrivals wait for their fills. -/
def execMsign (w : W2) (s : State) : Out :=
  matrixOnce w w.n s fun c _ ls =>
    match barBad ls (fun l => (wordB c w l).toNat) (fun _ => 0) 512 with
    | some (l, k) => .next (s.raise c k 0 l 0#64)
    | none =>
      let o : Op := { c.op .msign (.msign w) (laneMask ls) 15 with
        rel := 2
        n := (wordB c w (ls.headD 0)).toNat
        m := w.a.toNat
        elems := ls.map fun l => { lane := l, va := 0#64, pa := 0, size := 0 } }
      let fills := (c.B.mq.filter MCmd.isLoad).map (·.op)
      .next (s.issueStep c 2 { s.stampOrder c.Q o with after_ := fills })

/-- Count the arrivals held at a convergence register, in order, until a phase completes (R407). -/
def State.countHeld (s : State) (b k : Nat) : (fuel : Nat) → State
  | 0 => s
  | fuel + 1 =>
    match s.block? b with
    | none => s
    | some B =>
      let p := tget B.kreg k {}
      match p.heldArr with
      | [] => s
      | key :: rest =>
        if p.signed then s
        else
          let set (s : State) (p : Phase) : State := s.updBlock b fun B => { B with kreg := tput B.kreg k p }
          match s.op? (key / 32) with
          | none => (set s { p with heldArr := rest }).countHeld b k fuel
          | some o =>
            if p.mismatch o.n none then
              let s := (set s { p with heldArr := rest.filter fun y => y / 32 != key / 32 }).delOp (key / 32)
              (if o.drop then s else s.faultAt b o.q o.clause o.widx causeBarMismatch 0 (key % 32) 0#64).countHeld b k fuel
            else
              let r := p.arrive o.n none 0 o.covers
              let p' : Phase := { r.1 with heldArr := rest }
              let s := set s (if r.2 then { p' with a := 0, num := p'.num + 1, signed := true } else p')
              let s := s.mapElems (key / 32) (fun e => e.lane == key % 32) fun e => { e with st := 3 }
              let s := match s.op? (key / 32) with
                | some o => if o.elems.all Elem.done then s.delOp (key / 32) else s
                | none => s
              s.countHeld b k fuel

/-- The lanes of an MSIGN whose fills are done and whose arrivals have not taken effect. -/
def State.freeArrivals (s : State) (o : Op) : List Nat :=
  let free (l : Nat) : Bool := o.after_.all fun i => match s.op? i with | some f => f.q != o.q || !f.lanes.getLsbD l | none => true
  (o.elems.filter fun e => e.st == 0 && free e.lane).map (·.lane)

/-- The arrivals of an MSIGN that take effect next: of those whose fills are done, in lane order, up to one that another MSIGN of the quire
has for the same register; in one cycle they come by increasing quire and then lane. -/
def State.nextArrivals (s : State) (op : Nat) (o : Op) : List Nat :=
  let others := (s.ops.filter fun x => x.1 != op && x.2.kind == .msign && x.2.blk == o.blk && x.2.q == o.q && x.2.m == o.m && s.released x.2).flatMap
    fun x => s.freeArrivals x.2
  match s.block? o.blk with
  | none => []
  | some B =>
    let free := (s.freeArrivals o).filter fun l => !(tget B.kreg o.m {}).late s.clk (arrivalRank B.core o.q l)
    match free with
    | [] => []
    | l :: _ => free.takeWhile fun x => !others.any fun y => decide (l < y ∧ y < x)

/-- MSIGN_ARRIVAL (R407, R524): the arrivals of the threads whose fills are done, in lane order; those of one cycle come by
increasing quire and then lane. -/
def execMsignArrival (op : Nat) (s : State) : Out :=
  match s.op? op with
  | none => .next s
  | some o =>
    let now := s.nextArrivals op o
    if o.kind != OpKind.msign || now.isEmpty || !s.released o then .next s
    else
      let s := s.mapElems op (fun e => now.contains e.lane && e.st == 0) fun e => { e with st := 1 }
      let s := s.updBlock o.blk fun B =>
        let p := tget B.kreg o.m {}
        { B with kreg := tput B.kreg o.m { p with heldArr := p.heldArr ++ now.map fun l => op * 32 + l, last := (s.clk, arrivalRank B.core o.q (now.getLastD 0)) } }
      let n := match s.block? o.blk with | some B => (tget B.kreg o.m {}).heldArr.length | none => 0
      .next (s.countHeld o.blk o.m (n + 1))

/-- A multiplication issues: it consumes the phase, which its threads acquire, and held arrivals are counted (R408). -/
def State.consumePhase (s : State) (c : Ctx) (ls : List Nat) (k : Nat) : State :=
  let p := tget c.B.kreg k {}
  let s := s.mapLanes c.b c.q ls fun _ t => t.acquireCovers p.covers
  let s := s.updBlock c.b fun B => { B with kreg := tput B.kreg k { tget B.kreg k {} with signed := false, covers := [] } }
  s.countHeld c.b k (p.heldArr.length + 1)

/-! ### Multiplying (R409, R410) -/

/-- Elements summed at once (R410). -/
def groupLen (a b : HRec) : Nat := if a.ty = 10 ∨ a.ty = 11 ∨ b.ty = 10 ∨ b.ty = 11 then 16 else 32

/-- The cell of a row of a and a column of b, from what it held (R409); `z`: the first group is written without an addition. -/
def mulCell (ma mb : List Host.Cell) (a b : HRec) (z : Bool) (i j old : Nat) : Nat :=
  let g := groupLen a b
  ((List.range (a.klen / g)).foldl (fun (acc : Bool × Nat) n =>
    let s := finishTerms .fp32 .rne ((List.range g).map fun k => mulFp (a.value ma i (g * n + k)) (b.value mb j (g * n + k)))
    (false, if acc.1 then s else addBits .fp32 .rne acc.2 s)) (z, old)).2

/-- The accumulator after a multiplication. -/
def mulAcc (acc : Tab Word) (ma mb : List Host.Cell) (a b : HRec) (z : Bool) (row col : Nat) : Tab Word :=
  (List.range a.vec).foldl (fun acc i => (List.range b.vec).foldl (fun acc j =>
    let at_ := (row + i) * 512 + col + j
    regPut acc at_ (BitVec.ofNat 32 (mulCell ma mb a b z i j (regGet acc at_).toNat))) acc) acc

/-- The shape checks of R409 on the two operands and the region word. -/
def shapeOk (a b : HRec) (r : Nat) : Bool :=
  a.klen == b.klen && decide (a.vec ≤ 256 ∧ b.vec ≤ 512) && rowOf r % 64 == 0 && colOf r % 64 == 0 &&
  decide (rowOf r + a.vec ≤ 256 ∧ colOf r + b.vec ≤ 512) && bits r 31 17 == 0

/-- MMA (R408, R409). -/
def execMma (w : W2) (s : State) : Out :=
  matrixCommand w s fun c l ls =>
    let A := c.B.handle w.d.toNat
    let H := c.B.handle w.a.toNat
    let r := wordB c w l
    if !(tget c.B.kreg w.x.c.toNat {}).signed then .next (s.stall c)
    else if A.st = 0 ∨ H.st = 0 then s.matrixFault c l mxHandle
    else if !shapeOk A.rec_ H.rec_ r.toNat then s.matrixFault c l mxShape
    else .next ((s.consumePhase c ls w.x.c.toNat).enqueue c w (.mma w) ls [] r 0#32 [] false)

/-- The half that a position supplies fits its own quadrant at a region word (R409, R411): position 0 supplies its rows, 2 and 3 their
columns; position 1's half is not in its own quadrant. -/
def ownFits (pos : Nat) (h : HRec) (r : Nat) : Bool :=
  if pos = 0 then decide (h.vec ≤ 256) && decide (rowOf r + h.vec ≤ 256) else pos == 1 || decide (colOf r + h.vec ≤ 512)

/-- MMAQ (R411, R412): what concerns its partners is checked as the quad step starts. -/
def execMmaq (w : W2) (s : State) : Out :=
  matrixCommand w s fun c l ls =>
    let H := c.B.handle (if quadPos c.B.core < 2 then w.d.toNat else w.a.toNat)
    let r := wordB c w l
    if !(tget c.B.kreg w.x.c.toNat {}).signed then .next (s.stall c)
    else if H.st = 0 then s.matrixFault c l mxHandle
    else if rowOf r.toNat % 64 != 0 || colOf r.toNat % 64 != 0 || bits r.toNat 31 17 != 0 || !ownFits (quadPos c.B.core) H.rec_ r.toNat then
      s.matrixFault c l mxShape
    else .next ((s.consumePhase c ls w.x.c.toNat).enqueue c w (.mmaq w) ls [] r 0#32 [] false)

/-- A command that faults at its start writes nothing; its block's task ends (R416). -/
def State.failCmd (s : State) (b : Nat) (m : MCmd) (detail : Nat) : State :=
  match s.op? m.op with
  | some o =>
    let s := (s.finishOp m.op).delCmd b m.num
    if o.drop then s else s.faultAt b o.q m.clause m.widx causeMatrix detail ((laneList o.lanes).headD 0) 0#64
  | none => s.delCmd b m.num

/-! ### The accumulator (R413 to R415) -/

/-- ACCZ (R414). -/
def execAccz (w : W2) (s : State) : Out :=
  matrixCommand w s fun c l ls =>
    let r := wordB c w l
    if bits r.toNat 31 22 != 0 || decide (256 < rowOf r.toNat + zRows r.toNat) || decide (512 < colOf r.toNat + zCols r.toNat) then
      s.matrixFault c l mxShape
    else .next (s.enqueue c w (.accz w) ls [] r 0#32 [] false)

/-- ACCRD (R414). -/
def execAccrd (w : W2) (s : State) : Out :=
  matrixCommand w s fun c l ls =>
    let r := wordB c w l
    if bits r.toNat 31 17 != 0 || decide (512 < colOf r.toNat + 32) then s.matrixFault c l mxShape
    else .next (s.enqueue c w (.accrd w) ls [w.d.toNat] r 0#32 [] false)

/-- ACCST (R415). -/
def execAccst (w : W2) (s : State) : Out :=
  matrixCommand w s fun c l ls =>
    withTile s c ls w.d.toNat fun T =>
      let x := T.desc'
      let r := wordB c w l
      if x.image || x.ty != tyOf w then .next ((s.advance c 2).tileFault c ls w.d.toNat)
      else if bits r.toNat 31 17 != 0 || decide (256 < rowOf r.toNat + x.rows) || decide (512 < colOf r.toNat + x.elems) then
        s.matrixFault c l mxShape
      else .next ((s.setTile c.B w.d.toNat fun T => { T with st := 1 }).enqueue c w (.accst w) ls [] r 0#32 [] false)

/-- The bytes that ACCST writes into its tile (R415, R157). -/
def accBytes (B : Block) (x : Desc) (r : Nat) (mode : Rnd) (sat : Bool) : List (Nat × Byte) :=
  let n := x.elemBytes
  ((List.range x.rows).map fun i => ((List.range x.elems).map fun j =>
    let c := (regGet B.acc ((rowOf r + i) * 512 + colOf r + j)).toNat
    let v := if x.ty = 9 then c else convert (fmtOfType x.ty) mode sat (decodeFp .fp32 c)
    ((leBytes n v).zip (List.range n)).map fun y => (x.wordAt i 0 + j * n + y.2, y.1)).flatten).flatten

/-! ### Start and completion -/

/-- What a command of one core does as it starts. -/
def State.startCmd (s : State) (b : Nat) (B : Block) (m : MCmd) : State :=
  let w := w2Of m.ins
  let r := m.vb.toNat
  let go (s : State) : State := s.updCmd b m.num fun m => { m with stage := 1 }
  match m.ins with
  | .obld _ | .obldg _ => go (s.startFill b B m)
  | .mma _ =>
    let A := B.handle w.d.toNat
    let H := B.handle w.a.toNat
    if A.st = 2 ∨ H.st = 2 then s.failCmd b m mxRefused
    else go (s.updBlock b fun B =>
      { B with acc := mulAcc B.acc B.obuf B.obuf A.rec_ H.rec_ (w.x.sub.getLsbD 0) (rowOf r) (colOf r) })
  | .accz _ =>
    go (s.updBlock b fun B => { B with acc := B.acc.filter fun (e : Nat × Word) =>
        !(decide (rowOf r ≤ e.1 / 512 ∧ e.1 / 512 < rowOf r + zRows r ∧ colOf r ≤ e.1 % 512 ∧ e.1 % 512 < colOf r + zCols r)) })
  | .accrd _ =>
    go (match s.op? m.op with
      | some o =>
        let es := (laneList o.lanes).map fun l => Elem.result l (regGet B.acc (rowOf r * 512 + colOf r + l)).toNat
        s.setOp m.op { o with elems := es }
      | none => s)
  | .accst _ =>
    let bs := accBytes B ((B.sideOf s).tile w.d.toNat).desc' r (rndOf w.x) (w.x.sub.getLsbD 3)
    go (s.updSide B fun S => { S with bytes := B.keepHeader S.bytes (bs.foldl (fun m x => cellPut m x.1 x.2) S.bytes) })
  | _ => s

/-- MATRIX_COMMAND_START (R401). -/
def execMatrixCommandStart (b num : Nat) (s : State) : Out :=
  match s.block? b with
  | none => .next s
  | some B =>
    match B.mq.find? fun m => m.num == num with
    | none => .next s
    | some m =>
      let quad := match m.ins with | .mmaq _ => true | _ => false
      .next (if quad || !s.mayStart B m then s else s.startCmd b B m)

/-- MATRIX_COMMAND_COMPLETION (R417, R419): a started command ends: its registers are written, its tile is READY, its flag goes
down, and its threads acquire what it released; an operand-cache hit ends 4 clk after its issue (R404). -/
def execMatrixCommandCompletion (b num : Nat) (s : State) : Out :=
  match s.block? b with
  | none => .next s
  | some B =>
    match B.mq.find? fun m => m.num == num with
    | none => .next s
    | some m =>
      match s.op? m.op with
      | none => .next s
      | some o =>
        if !(m.stage == 1 || (m.hit && decide (o.due ≤ s.clk))) then .next s
        else
          let w := w2Of m.ins
          let ready (n : Nat) : State := s.setTile B n fun T => if T.busy then { T with st := 2 } else T
          let live := s.opLanes o
          let s := match m.ins with
            | .obld _ =>
              let s := if m.hit then s else ready w.a.toNat
              if w.x.sub.getLsbD 1 then s.mapLanes o.blk o.q live fun _ t => t.wr false w.x.c o.n else s
            | .obldg _ => ready w.a.toNat
            | .accst _ => ready w.d.toNat
            | .accrd _ => o.elems.foldl (fun (s : State) (e : Elem) =>
                if live.contains e.lane then s.updThread o.blk o.q e.lane fun t => t.wr false w.d e.r.toNat else s) s
            | _ => s
          let s := s.mapLanes o.blk o.q live fun _ t => t.acquireCovers ((m.op :: o.before_).filter fun i => (s.op? i).isSome)
          .next (((s.delCmd b num).mapElems m.op (fun _ => true) fun e => { e with st := 3 }).settle m.op)

/-! ### Quad steps (R411, R412) -/

/-- A member of a quad step: its block and its command. -/
structure QuadMem where
  b : Nat
  B : Block
  m : MCmd

/-- The oldest unmatched MMAQ of a launch on a core, when it meets its own start conditions. -/
def State.quadMember (s : State) (core lid : Nat) : Option QuadMem :=
  match (s.core core).run with
  | none => none
  | some b =>
    match s.block? b with
    | none => none
    | some B =>
      match B.mq.find? fun m => m.stage == 0 && (match m.ins with | .mmaq _ => true | _ => false) with
      | some m => if B.lid = lid ∧ s.mayStart B m = true then some ⟨b, B, m⟩ else none
      | none => none

/-- The operand that a member supplies (R411). -/
def QuadMem.operand (q : QuadMem) : Handle := q.B.handle ((q.m.reads q.B.core).headD 0)
/-- The member's `.z`. -/
def QuadMem.z (q : QuadMem) : Bool := (w2Of q.m.ins).x.sub.getLsbD 0

/-- The two halves of one operand agree in type and vectors (R412). -/
def halvesAgree (x y : QuadMem) : Bool := x.operand.rec_.ty == y.operand.rec_.ty && x.operand.rec_.vec == y.operand.rec_.vec

/-- One member of a quad step multiplies its quadrant, under the checks of R409 (R411, R412); a refused handle stops every member that
names it (R405). -/
def State.quadMul (s : State) (x a b : QuadMem) : State :=
  let ra := a.operand.rec_
  let rb := b.operand.rec_
  let r := x.m.vb.toNat
  if x.operand.st = 2 ∨ a.operand.st = 2 ∨ b.operand.st = 2 then s.failCmd x.b x.m mxRefused
  else if !shapeOk ra rb r then s.failCmd x.b x.m mxShape
  else (s.updBlock x.b fun B =>
    { B with acc := mulAcc B.acc a.B.obuf b.B.obuf ra rb x.z (rowOf r) (colOf r) }).updCmd x.b x.m.num fun m => { m with stage := 1 }

/-- QUAD_STEP_START (R412): when the members disagree, each ends with MATRIX QUAD. -/
def execQuadStepStart (tarn quad lid : Nat) (s : State) : Out :=
  let mem (i : Nat) : Option QuadMem := s.quadMember (tarn * 25 + quad * 4 + i) lid
  match mem 0, mem 1, mem 2, mem 3 with
  | some q0, some q1, some q2, some q3 =>
    let agree := halvesAgree q0 q1 && halvesAgree q2 q3 && [q1, q2, q3].all fun q =>
      q.z == q0.z && q.operand.rec_.klen == q0.operand.rec_.klen
    if !agree then .next ([q0, q1, q2, q3].foldl (fun s q => s.failCmd q.b q.m mxQuad) s)
    else
      let s := s.quadMul q0 q0 q2
      let s := s.quadMul q1 q0 q3
      let s := s.quadMul q2 q1 q2
      .next (s.quadMul q3 q1 q3)
  | _, _, _, _ => .next s

/-! ### Pre-emption (R418) -/

/-- An MMAQ that waits for partners is withdrawn: the phase it consumed is signed again, and its threads are captured before it,
before the earliest of several. -/
def State.withdrawMmaq (s : State) (b : Nat) : State :=
  match s.block? b with
  | none => s
  | some B =>
    (B.mq.filter fun m => m.stage == 0 && (match m.ins with | .mmaq _ => true | _ => false)).reverse.foldl (fun s m =>
      match s.op? m.op with
      | none => s.delCmd b m.num
      | some o =>
        let k := (w2Of m.ins).x.c.toNat
        let live := laneMask (s.opLanes o)
        let s := (s.finishOp m.op).delCmd b m.num
        let s := s.updBlock b fun B => { B with kreg := tput B.kreg k { tget B.kreg k {} with signed := true } }
        { s.updQuire b o.q fun Q => Q.standAt s.next live m.clause m.widx o.code o.sets.1 o.sets.2 o.yld with next := s.next + 1 }) s

end Sys2Proof.Machine
end

