-- ==== Sys2Proof/Machine/System.lean ====
section
/-! DEFINITION. System registers, service calls and traps (R438 to R447), pre-emption (R448, R449), translation and revocation
(R454, R455), offline homes (R456), the cap of the weir and the triad's counters (R453, R460), warm reset and key loads as
they issue (R457, R462). -/

namespace Sys2Proof.Machine

/-- A privileged instruction that acts as it issues: on the quire's registers, and what else its guard lets it do. -/
def sysOnce (w : W2) (s : State) (f : Ctx → Out) : Out :=
  privileged s w.p w.n 2 fun c => if (c.uniform w.p w.n).isEmpty then .next (s.advance c 2) else f c

/-- An illegal operand of the supervisor core's instruction. -/
def State.illegal (s : State) (c : Ctx) (sub : Nat) : Out := .next (s.raise c causeIllegal sub (c.members.headD 0) 0#64)

/-- Write a word to G(D) and go on. -/
def State.replyG (s : State) (c : Ctx) (d : BitVec 7) (v : Nat) : State :=
  (s.updQuire c.b c.q fun Q => Q.setG d.toNat (BitVec.ofNat 32 v)).advance c 2

/-! ### System registers (R439) -/

/-- A system register of a tarn by number; none for a number not listed. -/
def Tarn.sysReg (T : Tarn) (n : Nat) : Option (BitVec 64) :=
  let bit (x : Bool) : Nat := if x then 1 else 0
  match n with
  | 0 => some 1#64
  | 1 => some T.tvec
  | 2 => some T.epc
  | 3 => some T.tcause
  | 4 => some T.taddr
  | 5 => some T.tsrc
  | 6 => some T.sysret
  | 7 => some T.root
  | 8 => some (BitVec.ofNat 64 (bit T.wpol))
  | 9 => some (BitVec.ofNat 64 (T.weir % 8 + 16 * (T.cap % 8) + 256 * (T.temp % 256)))
  | 10 => some (BitVec.ofNat 64 (bit T.hoffEn + 65536 * (T.hoffMs % 65536)))
  | 11 => some (BitVec.ofNat 64 (bit T.debug))
  | 12 => some (BitVec.ofNat 64 (bit T.intrap))
  | _ => none

/-- A write of a system register; a read-only one keeps its value, and bits that are given as 0 stay 0. -/
def Tarn.setSysReg (T : Tarn) (n : Nat) (v : BitVec 64) : Tarn :=
  match n with
  | 1 => { T with tvec := v }
  | 2 => { T with epc := v }
  | 6 => { T with sysret := v }
  | 7 => { T with root := BitVec.ofNat 64 (v.toNat / 2 ^ 15 * 2 ^ 15) }
  | 8 => { T with wpol := v.getLsbD 0 }
  | 10 => { T with hoffEn := v.getLsbD 0, hoffMs := bits v.toNat 31 16 }
  | 11 => { T with debug := v.getLsbD 0 }
  | _ => T

/-- SRRD (R439). -/
def execSrrd (w : W2) (s : State) : Out :=
  sysOnce w s fun c =>
    match (s.tarn (coreTarn c.B.core)).sysReg w.x.imm20.toNat with
    | some v => .next ((s.updQuire c.b c.q fun Q => Q.setGPair w.d.toNat v).advance c 2)
    | none => s.illegal c 7

/-- SRWR (R439). -/
def execSrwr (w : W2) (s : State) : Out :=
  sysOnce w s fun c =>
    let t := coreTarn c.B.core
    if ((s.tarn t).sysReg w.x.imm20.toNat).isNone then s.illegal c 7
    else .next ((s.updTarn t fun T => T.setSysReg w.x.imm20.toNat (c.Q.getGPair w.a.toNat)).advance c 2)

/-! ### Service calls and traps (R441 to R444) -/

/-- SYSC (R441, R442): the group parks, behind its release at `.tarn`, and its trap joins the queue. -/
def execSysc (w : WSysc) (s : State) : Out :=
  match s.ctx? with
  | none => .next s
  | some c =>
    match c.uniform w.p w.n with
    | [] => .next (s.advance c 1)
    | l :: ls =>
      let t := coreTarn c.B.core
      let cov := s.coversOf c.b c.q c.Q (l :: ls)
      if c.B.sup then s.illegal c 0xB
      else if 64 ≤ (s.tarn t).traps.length then .next (s.stall c)
      else if !(cov.all fun i => s.performedAt 4 i) then .next ((s.pushBack 4 cov).stall c)
      else
        let s := s.fenceLanes c.b c.q c.Q (l :: ls) 0 4 c.B.core
        let s := s.mapLanes c.b c.q (l :: ls) fun _ th => { th with pc := c.gr.nextClause, wait := .sysc }
        let s := (s.advance c 1).leave c (l :: ls)
        .next (s.postTrap t { kind := 1, ident := identOf c.B c.q l, service := w.service.toNat
                              blk := some c.b, caller := some (c.b, c.q, (laneMask (l :: ls)).toNat) })

/-- A caller's service call is a release at `.tarn`, which the handler acquires as it takes the trap (R442). -/
def State.hearCaller (s : State) (t : Nat) (tr : Trap) : State :=
  match tr.caller with
  | none => s
  | some (b, q, lanes) =>
    let cov := (laneList (BitVec.ofNat 32 lanes)).foldl (fun a l => addNew a (match s.threadAt b q l with | some (th : Thread) => th.fenced | none => [])) []
    s.updThread t 0 0 fun th => { th with synced := addNew th.synced cov }

/-- The delivery of SYSRET is an acquire of the handler's accesses by the callers (R442). -/
def State.tellCaller (s : State) (t : Nat) : State :=
  match (s.tarn t).caller, s.threadAt t 0 0 with
  | some (b, q, lanes), some h =>
    s.mapLanes b q (laneList (BitVec.ofNat 32 lanes)) fun _ th =>
      if th.wait == Wait.sysc then { th with synced := addNew th.synced (s.happenBefore t 0 0 h) } else th
  | _, _ => s

/-- ERET (R443): with INTRAP = 0 it is illegal. -/
def execEret (w : W1) (s : State) : Out :=
  privileged s w.p w.n 1 fun c =>
    let t := coreTarn c.B.core
    match c.uniform w.p w.n with
    | [] => .next (s.advance c 1)
    | l :: ls =>
      if !(s.tarn t).intrap then s.illegal c 0xB
      else .next ((((s.advance c 1).leave c (l :: ls)).tellCaller t).returnTrap t)

/-- The supervisor core is between clauses, and has not halted. -/
def State.supFree (s : State) (t : Nat) : Bool :=
  !(s.tarn t).supHalt &&
  match s.block? t with
  | some B => (match tget? B.quires 0 with | some Q => Q.groups.all fun g => g.2.lanes == 0#32 | none => true)
  | none => true

/-- TRAP_ENTRY (R443): the head of the queue. -/
def execTrapEntry (tarn : Nat) (s : State) : Out :=
  let T := s.tarn tarn
  match T.traps with
  | [] => .next s
  | tr :: rest =>
    if T.intrap || !T.own.isEmpty || !s.supFree tarn then .next s
    else .next (((s.updTarn tarn fun T => { T with traps := rest }).takeTrap tarn tr).hearCaller tarn tr)

/-- OWN_TRAP (R443, R444): ahead of every queued trap. -/
def execOwnTrap (tarn : Nat) (s : State) : Out :=
  match (s.tarn tarn).own with
  | [] => .next s
  | tr :: rest =>
    if (s.tarn tarn).intrap || !s.supFree tarn then .next s
    else .next ((s.updTarn tarn fun T => { T with own := rest }).takeTrap tarn tr)

/-! ### Pre-emption (R448, R449) -/

/-- A context begins to stop: its threads issue nothing further (R448). -/
def State.beginStop (s : State) (b : Nat) (save : BitVec 64) (rq : Bool) : State :=
  s.updBlock b fun B => match B.st with
    | .running => { B with st := .stopping save rq }
    | .debug => { B with st := .stopping save rq }
    | _ => B

/-- CTXSTOP (R448): IDLE and BUSY at once; else the save area's completion ends it.  A core number above 23 names no core that
holds a block (log 24). -/
def execCtxstop (w : W2) (s : State) : Out :=
  privileged s w.p false 2 fun c =>
    let t := coreTarn c.B.core
    match c.uniform w.p false with
    | [] => .next (s.advance c 2)
    | l :: ls =>
      let n := (c.Q.getG w.a.toNat).toNat
      let save := c.Q.getGPair w.b.toNat
      if save.toNat % 65536 != 0 then .next (s.raise c causeMisaligned 0 l save)
      else match (if n < 24 then (s.core (t * 25 + n)).run else none) with
        | none => .next (s.replyG c w.d 1)
        | some b =>
          if !(match s.block? b with | some B => B.st == BlkSt.running || B.st == BlkSt.debug | none => false) then .next (s.replyG c w.d 2)
          else
            let s := s.beginStop b save (w.x.sub.getLsbD 0)
            .next (s.issueStep c 2 { c.op .ctxstop (.ctxstop w) (laneMask (l :: ls)) (c.flag w.n) with holdG := [w.d.toNat], n := b })

/-- A block has a thread parked at SYSC, whose call completes before the context is saved (R442). -/
def Block.atSysc (B : Block) : Bool := B.quires.any fun q => q.2.threads.any fun t => t.2.live && t.2.wait == Wait.sysc

/-- A context has no transcendental or MSIGN arrival on its way, and no matrix command but an MMAQ that waits (R193, R418). -/
def State.drained (s : State) (b : Nat) (B : Block) : Bool :=
  !(s.ops.any fun x => x.2.blk == b && (x.2.kind == .trans || (x.2.kind == .msign && x.2.elems.any fun e => e.st == 0))) &&
    B.mq.all MCmd.unmatched

/-- There is a place for one more record, in the tarn's store or in the partition's overflow area (R342). -/
def State.hasPlace (s : State) (t part : Nat) : Bool :=
  decide ((s.tarn t).store < 256) || ((s.part part).ovfFree 1).any fun k => decide (k < (s.part part).ovfsize.toNat * 2048)

/-- A RESUME record at its tarn, ahead of every record that has never been dispatched (R348). -/
def State.placeResume (s : State) (B : Block) (a : BitVec 64) : State :=
  let t := coreTarn B.core
  let room := decide ((s.tarn t).store < 256)
  let prio := match s.launch? B.part B.lid with | some L => L.record.prio | none => 0
  let slot := if room then none else ((s.part B.part).ovfFree 1).head?
  let s := s.updTask B.part B.lid B.bflat fun x => { x with resume := some a, spilled := slot }
  let s := match slot with
    | some k => (s.updPart B.part fun P => { P with ovfUsed := insNat P.ovfUsed k }).keepRecord B.part B.lid B.bflat
    | none => s
  s.updTarn t fun T => { T with
    store := if room then T.store + 1 else T.store
    queues := tput T.queues prio (queueInsert (0, B.lid, B.bflat) (tget T.queues prio [])) }

/-- SAVE_AREA_COMPLETE (R448, R450): the area is opened, STATUS 0; then every thread is captured, the save area is written, the core is free, the RESUME record of
`.rq` is placed, for which it waits until there is a place (log 136), and CTXSTOP's flag goes down.  An MMAQ that waits for partners at the head of the compute pipe is withdrawn first, so
that the commands behind it complete (R418).  A context that DEBUG stopped gets no record (R449). -/
def execSaveAreaComplete (b : Nat) (s : State) : Out :=
  match s.block? b with
  | none => .next s
  | some B =>
    match B.st with
    | .stopping a rq =>
      let waits := match B.mq.find? fun m => !m.isLoad with | some m => m.unmatched && s.mayStart B m | none => false
      if B.atSysc then .next s
      else if !s.drained b B then .next (if waits then (s.captureAll b).withdrawMmaq b else s)
      else if s.vaShut (coreTarn B.core) B.part a.toNat saveBytes then .next s
      else if !B.writing then .next (s.openSaveArea b B a)
      else
        let dbg := B.quires.any fun q => q.2.threads.any fun t => t.2.wait == Wait.bkpt
        if rq && !dbg && !s.hasPlace (coreTarn B.core) B.part then .next s else
        let s := (s.captureAll b).withdrawMmaq b
        let s := s.updBlock b fun B => { B with st := .saved a rq, writing := false }
        let s := match s.block? b with | some B => s.writeContext b B a | none => s
        let s := s.offCore b B
        let s := if rq && !dbg then s.placeResume B a else s
        .next (s.ops.foldl (fun s x => if x.2.kind == .ctxstop && x.2.n == b then s.finishG x.1 x.2 0 else s) s)
    | _ => .next s

/-- CTXGO (R449): it waits while results are still to land, or the save area's home is offline (R456).  A core number above 23 has no free side (log 24). -/
def execCtxgo (w : W2) (s : State) : Out :=
  sysOnce w s fun c =>
    let n := (c.Q.getG w.a.toNat).toNat
    let t := coreTarn c.B.core
    if 24 ≤ n then .next (s.replyG c w.d 1)
    else if s.vaShut t (s.partOf c.B) (c.Q.getGPair w.b.toNat).toNat saveBytes then .next (s.stall c)
    else
      let r := s.resume (t * 25 + n) (s.partOf c.B) (c.Q.getGPair w.b.toNat)
      match r.2 with
      | none => .next (r.1.stall c)
      | some k => .next (r.1.replyG c w.d k)

/-! ### Translation (R454) -/

/-- A page overlaps n granules from a virtual address. -/
def Xlat.meets (x : Xlat) (va n : Nat) : Bool :=
  let v := va / 65536 * 65536
  decide (x.va < v + n * 65536) && decide (v < x.va + 2 ^ x.sz)

/-- The tarns whose TLBs a TLBINV names, and whether all their cores (R454). -/
def State.tlbTarns (s : State) (sc t part : Nat) : List Nat := if sc = 5 then (s.part part).tarns else [t]

/-- TLBINV (R454): every TLB and table cache in scope; with `.cell`, the decision caches of the module (R311). -/
def execTlbinv (w : W2) (s : State) : Out :=
  sysOnce w s fun c =>
    let t := coreTarn c.B.core
    let part := s.partOf c.B
    let sc := if w.x.isImm then tyOf w % 8 else w.x.scope.toNat
    let va := (c.Q.getGPair w.a.toNat).toNat
    let n := opBG c.Q w false w.x.imm20.toNat
    let gone (x : Xlat) : Bool := x.part == part && (w.x.tlbAll || x.meets va n)
    let ts := s.tlbTarns sc t part
    let cores := if sc = 2 then [c.B.core] else (ts.map fun u => (List.range 25).map fun k => u * 25 + k).flatten
    let s := { s with cores := s.cores.map fun (e : Nat × Core) =>
      if cores.contains e.1 then (e.1, { e.2 with tlb := e.2.tlb.filter fun x => !gone x, noXlat := [] }) else e }
    let s := ts.foldl (fun s u => s.updTarn u fun T => { T with tcache := [] }) s
    let pa := (c.Q.getGPair (cField w).toNat).toNat % 2 ^ 56 / 65536 * 65536
    let s := if w.x.tlbCell then
        s.purgeDecisions (tarnModule t) fun a => decide (pa ≤ a ∧ a < pa + n * 65536)
      else s
    .next (s.advance c 2)

/-! ### Revocation (R455) -/

/-- A report of a task that ends with no faulting instruction: its place is not stated (log 2). -/
def State.freeReport (s : State) (cause : Nat) : Report × State :=
  let f (k : Nat) : BitVec 64 := Config.freeValue (s.free + k)
  ({ cause, detail := 0, clause := f 0, widx := (f 1).toNat % 256, lane := (f 2).toNat % 256, ea := 0#64 }, { s with free := s.free + 3 })

/-- A lease overlaps n granules from a virtual address. -/
def Lease.meets (l : Lease) (va n : Nat) : Bool :=
  let v := va / 65536 * 65536
  decide (l.base < v + n * 65536) && decide (v < l.base + l.len)

/-- Take a stopped context's RESUME record away. -/
def State.dropResume (s : State) (B : Block) : State :=
  match s.task? B.part B.lid B.bflat with
  | some t =>
    if t.resume.isNone then s
    else
      let g := coreTarn B.core
      let s := s.updTarn g fun T => { T with queues := T.queues.map fun q => (q.1, q.2.filter fun e => !(e.1 == 0 && e.2.1 == B.lid && e.2.2 == B.bflat)) }
      (s.freePlace B.part g t.spilled).updTask B.part B.lid B.bflat fun t => { t with resume := none }
  | none => s

/-- End a context from outside its instructions, with a cause (R455, R461). -/
def State.endContext (s : State) (b cause : Nat) : State :=
  match s.block? b with
  | none => s
  | some B =>
    let r := s.freeReport cause
    (r.2.dropResume B).endTask b 5 (some r.1)

/-- Steps 1 to 3 of R455: the granules, the contexts ended, and how many tasks ended. -/
def State.revoke (s : State) (t part va n : Nat) : State × List Nat × List Nat × Nat :=
  let grans := (List.range n).filterMap fun i =>
    match (s.walk t part ((va / 65536 + i) * 65536 % 2 ^ 64)).2 with
    | .ok x => some (x.pa ((va / 65536 + i) * 65536 % 2 ^ 64) / 65536)
    | .error _ => none
  let s := grans.foldl (fun s g => s.markMoving g) s
  let held := (s.blocks.filter fun x => x.2.part == part && !x.2.sup && x.2.leases.any (fun l => l.meets va n) &&
    (match x.2.st with | .ending _ => false | _ => true)).map (·.1)
  let s := held.foldl (fun s b => s.endContext b causeLeaseRevoked) s
  let queued := ((s.part part).launches.map fun L =>
    (L.2.tasks.filter fun k => k.2.st == 2 && k.2.leases.any fun l => l.meets va n).map fun k => (L.1, k.1)).flatten
  let s := queued.foldl (fun s k =>
    let r := s.freeReport causeLeaseRevoked
    ((r.2.endRecord part k.1 k.2 5 (some r.1)).broke part k.1).closeLaunch part k.1) s
  (s, grans, held, held.length + queued.length)

/-- LREV (R455). -/
def execLrev (w : W2) (s : State) : Out :=
  privileged s w.p false 2 fun c =>
    match c.uniform w.p false with
    | [] => .next (s.advance c 2)
    | l :: ls =>
      let t := coreTarn c.B.core
      let r := s.revoke t (s.partOf c.B) (c.Q.getGPair w.a.toNat).toNat (opBG c.Q w false w.x.imm20.toNat)
      let el (k v : Nat) : Elem := { lane := 0, va := 0#64, pa := v, size := k }
      .next (r.1.issueStep c 2 { c.op .lrev (.lrev w) (laneMask (l :: ls)) (c.flag w.n) with
        holdG := [w.d.toNat], n := r.2.2.2, elems := r.2.1.map (el 0) ++ r.2.2.1.map (el 1) })

/-- Completion of LREV (R455): the ended tasks' accesses, commands and tracker entries, and running handlers, have finished. -/
def State.lrevDone (s : State) (id : Nat) (o : Op) : State :=
  let waits := o.elems.any fun e =>
    if e.size = 0 then s.handlerOn e.pa
    else s.ops.any (fun x => x.2.blk == e.pa && !x.2.kept) || (s.cores.any fun C => C.2.tracker.any fun k => k.2.1 == e.pa) ||
      match s.block? e.pa with | some B => !B.iring.isEmpty || !B.dring.isEmpty || !s.allRead B || !B.mq.isEmpty | none => false
  if waits then s
  else (o.elems.foldl (fun s e => if e.size = 0 then s.unmarkMoving e.pa else s) s).finishG id o o.n

/-! ### Offline homes (R456) -/

/-- HOFF_LIMIT_EXPIRY (R456). -/
def execHoffLimitExpiry (b q gid : Nat) (s : State) : Out :=
  match s.block? b with
  | none => .next s
  | some B =>
    match tget? B.quires q with
    | none => .next s
    | some Q =>
      match tget? Q.groups gid with
      | none => .next s
      | some g =>
        let T := s.tarn (coreTarn B.core)
        let late := (laneList g.lanes).findSome? fun l =>
          match (tget Q.threads l {}).wait with
          | .offline since _ ea => if !T.hoffEn || decide (since + T.hoffMs * clkPerMs ≤ s.clk) then some (l, ea) else none
          | _ => none
        match late with
        | some (l, ea) => .next (s.faultAt b q g.clause g.widx causeHomeOffline 0 l ea)
        | none => .next s

/-! ### The weir's cap and the triad's counters (R453, R460) -/

/-- WCAP (R460). -/
def execWcap (w : W2) (s : State) : Out :=
  sysOnce w s fun c =>
    let t := coreTarn c.B.core
    let v := opBG c.Q w false w.x.imm20.toNat
    if 8 ≤ v then s.illegal c 6
    else .next ((s.updTarn t fun T => { T with cap := v }).replyG c w.d (s.tarn t).cap)

/-- A counter of a plane (R453). -/
def Plane.counter (p : Plane) (k : Nat) : Nat :=
  if k < 4 then p.cnt.getD k 0 else if k = 4 then p.mode else if k = 5 then p.last else 0

/-- TRIQ (R453). -/
def execTriq (w : W2) (s : State) : Out :=
  sysOnce w s fun c =>
    let t := coreTarn c.B.core
    let b := opBG c.Q w false w.x.imm20.toNat
    if bits b 19 5 != 0 then s.illegal c 6
    else
      let v := (tget (s.tarn t).planes (b % 4) {}).counter (bits b 4 2)
      .next ((s.updQuire c.b c.q fun Q => Q.setGPair w.d.toNat (BitVec.ofNat 64 v)).advance c 2)

/-- Change a plane of a tarn's triad. -/
def State.updPlane (s : State) (t k : Nat) (f : Plane → Plane) : State :=
  s.updTarn t fun T => { T with planes := tput T.planes k (f (tget T.planes k {})) }
def Plane.add (p : Plane) (k : Nat) : Plane := { p with cnt := p.cnt.set k ((p.cnt.getD k 0 + 1) % 2 ^ 64) }

/-- TRIRS (R453): `.clr` and `.sync`, whose dissent is counted once the copy is resynchronised. -/
def execTrirs (w : W2) (s : State) : Out :=
  sysOnce w s fun c =>
    let t := coreTarn c.B.core
    let b := opBG c.Q w false w.x.imm20.toNat
    let sub := if w.x.isImm then tyOf w % 4 else w.x.sub.toNat % 4
    if sub = 1 then .next ((s.updPlane t (b % 4) fun p => { p with cnt := [0, 0, 0, 0] }).replyG c w.d 0)
    else if (tget (s.tarn t).planes (b % 4) {}).mode = 2 then .next (s.replyG c w.d 1)
    else .next ((s.updPlane t (b % 4) fun p => { p with mode := 1, syncing := p.syncing ++ [some (bits b 6 5)] }).replyG c w.d 0)

/-! ### Warm reset and keys, as they issue (R457, R462) -/

/-- The ring of a module is folded, or a tarn of it is leaving. -/
def State.ringFolded (s : State) (module : Nat) : Bool :=
  (List.range 12).any fun u => (s.tarn (module * 12 + u)).st != Online.online

/-- The contexts of a tarn begin to stop (R457). -/
def State.stopTarn (s : State) (t : Nat) : State :=
  (List.range 24).foldl (fun s k => ((s.core (t * 25 + k)).run.toList ++ (s.core (t * 25 + k)).waiting).foldl (fun s b =>
    match s.block? b with | some B => s.beginStop b (Config.resetSave B.part (t * 25 + k)) true | none => s) s) s

/-- TWRST (R457): REFUSED at once; a number that names no other tarn of the partition is refused too (log 24). -/
def execTwrst (w : W2) (s : State) : Out :=
  privileged s w.p false 2 fun c =>
    match c.uniform w.p false with
    | [] => .next (s.advance c 2)
    | l :: ls =>
      let t := coreTarn c.B.core
      let n := (c.Q.getG w.a.toNat).toNat
      let g := tarnModule t * 12 + n
      if 12 ≤ n ∨ g = t ∨ s.ringFolded (tarnModule t) = true ∨ (s.part (s.partOf c.B)).tarns.contains g = false then
        .next (s.replyG c w.d 1)
      else
        let s := (s.stopTarn g).updTarn g fun T => { T with st := .leaving }
        .next (s.issueStep c 2 { c.op .twrst (.twrst w) (laneMask (l :: ls)) (c.flag w.n) with
          holdG := [w.d.toNat], n := g
          elems := [{ lane := 0, va := 0#64, pa := 0, size := 0, x := c.Q.getGPair w.b.toNat }] })

/-- KEYLD (R462): the blob is read as it completes; `.clear` at once. -/
def execKeyld (w : W2) (s : State) : Out :=
  privileged s w.p false 2 fun c =>
    match c.uniform w.p false with
    | [] => .next (s.advance c 2)
    | l :: ls =>
      let slot := opBG c.Q w false w.x.imm20.toNat
      let clear := if w.x.isImm then false else w.x.sub.getLsbD 0
      let blob := c.Q.getGPair w.a.toNat
      let go (s : State) : Out := .next (s.issueStep c 2 { c.op .keyld (.keyld w) (laneMask (l :: ls)) (c.flag w.n) with
        holdG := [w.d.toNat], n := slot, m := if clear then 1 else 0
        elems := [{ lane := 0, va := blob, pa := 0, size := 96 }] })
      if clear then go s
      else match s.checkAccess c [l] (fun _ => blob) 96 32 false noCell with
        | .wait s => .next s
        | .fault s => .next s
        | .ok s _ => go s

/-- The data of a partition's tarns was written under an earlier key (R462). -/
def State.rekeyTarns (s : State) (ts : List Nat) : State :=
  { s with
    rekey := ts.foldl (fun m t => tput m t s.free) s.rekey
    rewritten := s.rewritten.filter fun ln => !ts.contains (lineHome ln)
    free := s.free + 1 }

/-- Completion of KEYLD (R462): 0 OK, 1 AUTH, 2 SLOT, 3 REPLAY.  The authenticated bytes hold the partition, the slot and the
counter in that order (log 25); a slot above 63 is none of the partition's (log 24). -/
def State.keyldDone (s : State) (id : Nat) (o : Op) : State :=
  match s.block? o.blk, o.elems.head? with
  | some B, some e =>
    let t := coreTarn B.core
    let part := s.partOf B
    let k := tarnModule t * 64 + o.n
    let slot := tget? s.keys k
    let foreign := decide (64 ≤ o.n) || (match slot with | some x => x.part != part | none => false)
    if o.m = 1 then
      if foreign then s.finishG id o 2 else ({ s with keys := tdel s.keys k }).finishG id o 0
    else
      let g := s.opReads id o t part [(e.va.toNat, 96)]
      if !g.2 then g.1 else
      match g.1.readVa t part e.va.toNat 96 with
      | (s, none) => s.finishG id o 1
      | (s, some bs) =>
        let blob := leNat bs
        let counter := bits blob 767 704
        if !((s.part part).session.any fun k => Config.keyAuth part k (BitVec.ofNat 768 blob)) || bits blob 671 640 != part || bits blob 703 672 != o.n then s.finishG id o 1
        else if foreign then s.finishG id o 2
        else if (match slot with | some x => decide (counter ≤ x.counter.toNat) | none => false) then s.finishG id o 3
        else
          let slot : KeySlot := { part, counter := BitVec.ofNat 64 counter, key := Config.keyPlain part ((s.part part).session.getD 0) (BitVec.ofNat 768 blob) }
          let s := { s with keys := tput s.keys k slot }
          (s.rekeyTarns (s.part part).tarns).finishG id o 0
  | _, _ => s.finishOp id

end Sys2Proof.Machine
end

