-- ==== Sys2Proof/Machine/Reset.lean ====
section
/-! DEFINITION. Tarns that leave the ring and come back (R274 to R276, R457, R458, R461), the control triad's events (R452), the
governor of the weir (R460), and module reset. -/

namespace Sys2Proof.Machine

/-! ### Leaving the ring (R276) -/

/-- The lines that the caches of a tarn hold. -/
def State.linesOf (s : State) (t : Nat) : List Nat :=
  (((s.tarn t).slices.map (·.1)) ++ ((tarnCores t).map fun c => (s.core c).l1.map (·.1)).flatten).eraseDups

/-- Drop every copy of a line that a tarn holds. -/
def State.dropLine (s : State) (t ln : Nat) : State :=
  ((s.dropOthers t ln 0xFFFFFF).delDir t ln).updTarn t fun T => { T with slices := tdel T.slices ln }

/-- The remote lines that a departing tarn's leaving concerns: those of other tarns homed on it, and its own of other homes, with the
tarn that holds them. -/
def State.leaveLines (s : State) (t : Nat) : List (Nat × Nat) :=
  (List.range 12).flatMap fun u =>
    let g := tarnModule t * 12 + u
    ((s.linesOf g).filter fun ln => if g = t then lineHome ln != t else lineHome ln == t).map fun ln => (g, ln)

/-- Steps 1 and 3 of R276: the dirty bytes of those lines are sent home. -/
def State.leaveBacks (s : State) (t : Nat) : State := (s.leaveLines t).foldl (fun s x => s.sendWriteBack x.1 x.2) s

/-- Those write-backs have all been applied, and no other request for the tarn is on the ring. -/
def State.leftRing (s : State) (t : Nat) : Bool :=
  (s.ring.all fun r => r.2.home != t && (match r.2.req with | .writeBack u _ _ _ => u != t | .spanRead u _ _ _ _ => u != t | _ => true)) &&
    (s.leaveLines t).all fun x => ((s.clean x.1 x.2).slice x.1 x.2).dirty == 0#64

/-- Step 2 of R276, and the end of step 3: the spans go with what they held, and the departing tarn's own lines are written to its
DRAM. -/
def State.leaveRing (s : State) (t : Nat) : State :=
  let s := (s.leaveLines t).foldl (fun s x => s.dropLine x.1 x.2) s
  let s := (s.linesOf t).foldl (fun s ln => (s.cleanHome ln).dropLine t ln) s
  let s := (List.range 12).foldl (fun s u => s.updTarn (tarnModule t * 12 + u) fun T => { T with
    mySpans := T.mySpans.filter fun x => homeOf (x.1 * 256) != some t
    spans := T.spans.filter fun x => x.1 % 16 != t % 12 }) s
  s.updTarn t fun T => { T with mySpans := [], spans := [], dir := [] }

/-- The sides of the stopped contexts of a tarn are saved, as R391 gives. -/
def State.saveSides (s : State) (t : Nat) : State :=
  s.blocks.foldl (fun s x =>
    if coreTarn x.2.core != t || !s.holdsSide x.1 x.2 then s
    else match x.2.saveArea with
      | some a =>
        let s := s.writeVa t x.2.part ((a.toNat + 0x105000) % 2 ^ 64) (cellBytes (x.2.sideOf s).bytes 196608)
        let s := s.updSide x.2 fun _ => {}
        s.writeContext x.1 x.2 a
      | none => s) s

/-- A tarn's logic after its reset (R457, R443, R460): what stands in DRAM or at the module stays (log 26). -/
def Tarn.afterReset (T : Tarn) : Tarn :=
  { st := T.st, cleared := T.cleared, store := T.store, queues := T.queues, leaseCnt := T.leaseCnt, waiters := T.waiters,
    monitors := T.monitors, root := T.root, temp := T.temp, fwVer := T.fwVer,
    springs := T.springs.map fun x => (x.1, { queue := x.2.queue, held := x.2.held, moving := x.2.moving, retired := x.2.retired }) }

/-- Step 3 of R457: the logic of a tarn is reset. -/
def State.resetTarn (s : State) (t : Nat) : State :=
  let s := s.saveSides t
  let s : State := { s with
    cores := s.cores.filter fun x => coreTarn x.1 != t
    blocks := tdel s.blocks t
    ops := s.ops.filter fun x => x.2.blk != t || (x.2.kind == .twrst && x.2.n == t) }
  s.updTarn t Tarn.afterReset

/-- A stopped tarn leaves the ring: the ring folds around it and its logic is reset, or it becomes a forwarding stop when the ring
is already folded (R274, R275). -/
def State.goOffline (s : State) (t : Nat) : State :=
  let folded := (List.range 12).any fun u =>
    let g := tarnModule t * 12 + u
    g != t && (s.tarn g).st == Online.folded
  let s := s.leaveRing t
  if folded then s.updTarn t fun T => { T with st := .forwarding, cleared := false }
  else (s.updTarn t fun T => { T with st := .folded, cleared := false }).resetTarn t

/-- A tarn has quiesced (R457): its contexts are stopped and what they issued is done, no request that is stamped, served or run at
it is under way, and no tarn owes it bytes or is owed bytes by it (R276). -/
def State.quiet (s : State) (t : Nat) : Bool :=
  ((List.range 24).all fun k => (s.core (t * 25 + k)).run.isNone && (s.core (t * 25 + k)).waiting.isEmpty) &&
  (s.ops.all fun x =>
    (x.2.kept || x.2.onlyWaits || x.2.blk == t || coreTarn (s.coreOf x.2.blk) != t) &&
      x.2.elems.all fun e => e.st != 6 || homeOf e.pa != some t || x.2.kind == .sbar) &&
  (s.blocks.all fun x => coreTarn x.2.core != t || (x.2.iring.isEmpty && x.2.dring.isEmpty)) && s.leftRing t &&
  (List.range 64).all fun k => (s.spring (t * 64 + k)).run.isNone

/-- The outcome of loading a firmware image (R457, R484): the version loaded, or none. -/
def State.loadImage (s : State) (t : Nat) (img : BitVec 64) : Option Nat :=
  let v := Config.imageVersion img s.free
  if Config.imageOk img s.free && decide ((s.tarn t).fwVer ≤ v) then some v else none

/-- TWRST goes on (R457): the bytes that are owed go home, and steps 2 and 3 follow once the tarn is quiet.  A halt that no TWRST
asked for ends there. -/
def State.twrstDone (s : State) (id : Nat) (o : Op) : State :=
  if o.m != 0 then s
  else if !s.quiet o.n then s.leaveBacks o.n
  else
    let img := match o.elems with | e :: _ => e.x | [] => 0#64
    let s := s.goOffline o.n
    if o.lanes = 0#32 then s.delOp id
    else if img = 0#64 then s.setOp id { o with m := 1, due := 0 }
    else
      let r := s.loadImage o.n img
      let s : State := { s with free := s.free + 1 }
      match r with
      | some v => (s.updTarn o.n fun T => { T with fwVer := v }).setOp id { o with m := 1, due := 0 }
      | none => s.setOp id { o with m := 1, due := 2 }

/-- A tarn that halts by itself is taken offline by the same steps. -/
def State.haltTarn (s : State) (t : Nat) : State :=
  let s := (s.stopTarn t).updTarn t fun T => { T with st := .leaving, cleared := false }
  s.newOp { kind := .twrst, ins := .clauseEntry t 0 0#64, blk := t, q := 0, lanes := 0#32, n := t }

/-! ### Readmission (R457, R456, R275) -/

/-- A tarn is on the ring again, and the requests held for it are sent as though newly issued (R456). -/
def State.readmit (s : State) (t : Nat) : State :=
  let s := s.updTarn t fun T => { T with st := .online, cleared := true }
  { s with
    cores := s.cores.map fun x => (x.1, { x.2 with away := x.2.away.filter fun a => decide (a.1 < awayPage 0) && homeOf (a.1 * 64) != some t })
    ops := s.ops.map fun x => if x.2.since.isSome && x.2.elems.any fun e => e.st == 0 && homeOf e.pa == some t then
        (x.1, { x.2 with since := none }) else x
    blocks := s.blocks.map fun b => (b.1, { b.2 with quires := b.2.quires.map fun q =>
      (q.1, { q.2 with threads := q.2.threads.map fun th => match th.2.wait with
        | .offline _ h _ => if h = t then (th.1, { th.2 with wait := .none }) else th
        | _ => th }) }) }

/-- A tarn comes back with empty caches, directory, spans, TLBs and table cache (R202, R276, R457). -/
def State.emptyCaches (s : State) (t : Nat) : State :=
  { s with
    cores := s.cores.map fun x => if coreTarn x.1 = t then (x.1, { x.2 with l1 := [], icache := [], tlb := [], dec := [] }) else x
    tarns := s.tarns.map fun x => if x.1 = t then
        (x.1, { x.2 with slices := [], dir := [], spans := [], mySpans := [], dec := [], tcache := [] }) else x }

/-- Once a folded tarn is back, a forwarding stop follows: readmitted when its cause is cleared, else the ring folds around it, and
the requests that it has stamped and not served are held unsent (R275, R456). -/
def State.settleForwarding (s : State) (module : Nat) : State :=
  match (List.range 12).find? fun u => (s.tarn (module * 12 + u)).st == Online.forwarding with
  | none => s
  | some u =>
    let g := module * 12 + u
    if (s.tarn g).cleared then (s.emptyCaches g).readmit g
    else
      let s := (s.updTarn g fun T => { T with st := .folded }).resetTarn g
      { s with ring := s.ring.map fun r => if r.2.home = g then (r.1, { r.2 with cycle := none }) else r }

/-- TARN_READMISSION (R457, R461): management has cleared the cause; the links retrain, or the tarn stays offline.  A tarn that
was too hot has cooled below 95 degrees. -/
def execTarnReadmission (tarn : Nat) (s : State) : Out :=
  let T := s.tarn tarn
  let cool (s : State) : State :=
    if T.temp < 95 then s else { s.updTarn tarn fun T => { T with temp := (Config.freeValue s.free).toNat % 95 } with free := s.free + 1 }
  match T.st with
  | .folded =>
    let ops := s.ops.filter fun x => x.2.kind == .twrst && x.2.n == tarn && x.2.m == 1
    let ok := Config.retrainOk s.free
    let s : State := { cool s with free := s.free + 2 }
    let s := ops.foldl (fun s x => s.finishG x.1 x.2 (if ok then x.2.due else 3)) s
    .next (if ok then (s.readmit tarn).settleForwarding (tarnModule tarn) else s)
  | .forwarding => .next ((cool s).updTarn tarn fun T => { T with cleared := true })
  | _ => .next s

/-- DRAM_THERMAL_HALT (R461). -/
def execDramThermalHalt (tarn : Nat) (s : State) : Out :=
  if (s.tarn tarn).st != Online.online then .next s
  else
    let s := s.updTarn tarn fun T => { T with temp := 105 }
    let mine := (s.blocks.filter fun x => coreTarn x.2.core == tarn && !x.2.sup).map (·.1)
    let s := mine.foldl (fun s b => s.endContext b causeThermal) s
    let s := s.haltTarn tarn
    let others := match s.parts.find? fun p => p.2.tarns.contains tarn with | some p => p.2.tarns | none => []
    match others.find? fun g => g != tarn && (s.tarn g).st == Online.online with
    | some g => .next (s.postTrap g { kind := 5 })
    | none => .next s

/-! ### The control triad (R452) -/

/-- Clk in a second. -/
def clkPerS : Nat := 2500000000

/-- The copy that is being resynchronised. -/
def Plane.resyncing (p : Plane) : Option Nat :=
  match p.syncing with | some c :: _ => some c | none :: _ => some p.last | [] => none

/-- TRIAD_DISSENT (R452): the copy is resynchronised, or on its second dissent within 1 s the plane runs duplex and the
supervisor takes a TRIAD trap.  In a duplex plane, and of the two copies that compare while one is resynchronised, it is a mismatch that
the retry settles. -/
def execTriadDissent (tarn plane copy : Nat) (s : State) : Out :=
  let p := tget (s.tarn tarn).planes plane {}
  if p.mode = 2 then .next (s.updPlane tarn plane fun p => p.add 2)
  else if p.mode = 1 then .next (if p.resyncing = some copy then s else s.updPlane tarn plane fun p => p.add 2)
  else
    let lasting := match tget? p.when_ copy with | some k => decide (s.clk ≤ k + clkPerS) | none => false
    let p' := { p.add 0 with last := copy, when_ := tput p.when_ copy s.clk }
    if lasting then
      .next ((s.updPlane tarn plane fun _ => { p'.add 3 with mode := 2 }).postTrap tarn { kind := 4, detail := plane })
    else .next (s.updPlane tarn plane fun _ => { p' with mode := 1, syncing := [none] })

/-- A resynchronisation ends: it is counted, and one that TRIRS asked for is a dissent of its copy (R453). -/
def Plane.synced (p : Plane) : Plane :=
  let q := p.add 1
  let q := match p.syncing with | some copy :: _ => { q.add 0 with last := copy } | _ => q
  { q with syncing := p.syncing.tail, mode := if p.syncing.tail.isEmpty then 0 else 1 }

/-- TRIAD_RESYNC_COMPLETE (R452, R453). -/
def execTriadResyncComplete (tarn plane : Nat) (s : State) : Out :=
  .next (if (tget (s.tarn tarn).planes plane {}).mode = 1 then s.updPlane tarn plane Plane.synced else s)

/-- DUPLEX_MISMATCH (R452): of the two copies of a duplex plane, or that compare while one is resynchronised; one that recurs on its
retry in a duplex plane halts the tarn, one that does not recur is counted.  What one that recurs during a resynchronisation does is not
stated (log 137). -/
def execDuplexMismatch (tarn plane : Nat) (recurs : Bool) (s : State) : Out :=
  let mode := (tget (s.tarn tarn).planes plane {}).mode
  .next (if mode == 0 || (mode == 1 && recurs) then s
    else if !recurs then s.updPlane tarn plane fun p => p.add 2
    else if (s.tarn tarn).st == Online.online then s.haltTarn tarn else s)

/-! ### The weir (R459, R460) -/

/-- The ladder of a policy (R460). -/
def weirLadder (bandwidth : Bool) : List Nat := if bandwidth then [0, 1, 2, 5, 6, 7] else [0, 3, 4, 6, 7]

/-- The place of a state on a ladder: its own, or the first with at most its duty and at least its refresh factor. -/
def weirPlace (l : List Nat) (w : Nat) : Nat :=
  match l.findIdx? (· == w) with
  | some i => i
  | none => (l.findIdx? fun v => decide (weirDuty v ≤ weirDuty w) && decide (weirRefresh w ≤ weirRefresh v)).getD (l.length - 1)

/-- One step of the governor: from a state that is not on the ladder to its place there, else one place up or down, never earlier
than the cap's place, and towards it from before it. -/
def weirStep (bandwidth : Bool) (w cap : Nat) (up : Bool) : Nat :=
  let l := weirLadder bandwidth
  let i := weirPlace l w
  let lo := weirPlace l cap
  if l.contains w = false then l.getD i 7
  else if up || decide (i < lo) then l.getD (min (i + 1) (l.length - 1)) 7
  else if lo < i then l.getD (i - 1) 0 else w

/-- WEIR_STEP (R460): the new duty takes effect at a cycle whose %clk is a multiple of 8. -/
def execWeirStep (tarn : Nat) (up : Bool) (s : State) : Out :=
  .next (if s.modClk (tarnModule tarn) % 8 != 0 then s
    else s.updTarn tarn fun T => { T with weir := weirStep T.wpol T.weir T.cap up })

/-! ### Module reset -/

/-- The module of a scope-barrier object's instance, for scopes within a module. -/
def sbarModule (key : Nat) : Option Nat :=
  let sc := key / 2 ^ 40 % 8
  let inst := key / 2 ^ 20 % 2 ^ 20
  if sc = 3 then some (inst / 72) else if sc = 4 then some (inst / 12) else if sc = 5 then some inst else none

/-- MODULE_RESET: everything of the module stands as after reset (log 26). -/
def execModuleReset (module : Nat) (s : State) : Out :=
  let inMod (t : Nat) : Bool := tarnModule t == module
  let dead (b : Nat) : Bool := match s.block? b with | some B => inMod (coreTarn B.core) | none => false
  .next { s with
    cur := .idle
    resetAt := tput s.resetAt module s.clk
    blocks := s.blocks.filter fun x => !dead x.1
    cores := s.cores.filter fun x => !inMod (coreTarn x.1)
    tarns := s.tarns.filter fun x => !inMod x.1
    parts := s.parts.map fun x => if x.2.tarns.any inMod then (x.1, { tarns := x.2.tarns }) else x
    ops := s.ops.filter fun x => !dead x.2.blk
    ring := s.ring.filter fun x => !inMod x.2.home
    flits := s.flits.filter fun x => !inMod x.1
    sbar := s.sbar.filter fun x => sbarModule x.1 != some module
    sbarDone := s.sbarDone.filter fun x => sbarModule x.1 != some module
    keys := s.keys.filter fun x => x.1 / 64 != module
    mem := s.mem.filter fun x => paModule x.1 != module
    rekey := s.rekey.filter fun x => !inMod x.1
    rewritten := s.rewritten.filter fun ln => paModule (ln * 64) != module
    tags := s.tags.filter fun x => paModule (x.1 * 32) != module
    poisoned := s.poisoned.filter fun ln => paModule (ln * 64) != module
    remap := s.remap.filter fun x => paModule (x.1 * 65536) != module
    moves := s.moves.filter fun x => paModule (x.1 * 65536) != module }

end Sys2Proof.Machine
end

