-- ==== Sys2Proof/Machine/Host.lean ====
section
/-! DEFINITION. The host's events: launches, registers and memory through its windows (R479 to R481), TDISP and SPDM (R482,
R483), and the halt of a module (R275). -/

namespace Sys2Proof.Machine

/-- A free value for the part of a register write that the spec does not give a meaning to (log 27). -/
def State.freeNat (s : State) : Nat := (Config.freeValue s.free).toNat

/-- A host read's answer: 1 for the SPDM mailbox, 2 for BAR2, else BAR0, with the offset; a poisoned completion has bit 512 set. -/
def State.answer (s : State) (part space off v : Nat) : State :=
  { s with hostRead := (part * 2 ^ 40 + space * 2 ^ 36 + off, v) :: s.hostRead }

/-- LWIN (R480): a whole record in a window of a running partition waits for its acceptance, in order of arrival; any other write
is dropped and counted. -/
def execLwin (win : Nat) (rec : BitVec 512) (whole : Bool) (s : State) : Out :=
  if whole && (s.part (win % 16)).tdisp == Tdisp.run && (s.windowTarn win).isSome then
    .next { s.newOp { kind := .launch, ins := .lwin win rec whole, blk := s.next, q := 0, lanes := 0#32 } with next := s.next + 1 }
  else .next (s.updPart (win % 16) fun P => { P with lwdrop := (P.lwdrop + 1) % 2 ^ 64 })

/-- What a host read of a register of BAR0 returns, by the access codes of R6 and R479: a WO register reads 0.  What an offset without a
register reads is not stated. -/
def Part.bar0 (P : Part) (off free : Nat) : Nat :=
  match off with
  | 0x40 => P.lwdrop
  | 0x48 => P.xwtmo
  | 0x50 => P.wdper
  | 0x58 => P.ovfbase.toNat
  | 0x60 => P.ovfsize.toNat
  | 0x68 => P.shbase.toNat
  | 0x70 => P.shsize.toNat
  | 0x78 => P.hwbase.toNat
  | _ => if off < 0x40 then 0 else free

/-- A host read of BAR0 (R479): the one RC register is cleared once it has been read (R6). -/
def State.readBar0 (s : State) (part off : Nat) : State :=
  let s1 := (s.answer part 0 off ((s.part part).bar0 off s.freeNat)).updPart part fun P => if off = 0x40 then { P with lwdrop := 0 } else P
  { s1 with free := s1.free + 1 }

/-- LWDROP_READ (R6, R479): the host reads a register of BAR0; LWDROP's count is returned and cleared. -/
def execLwdropRead (reg : Nat) (s : State) : Out := .next (s.readBar0 (reg % 16) (if reg < 16 then 0x40 else reg / 16 - 1))

/-- A value of a register that is aligned to 64 KiB; what a write sets below is not stated. -/
def aligned64K (v : BitVec 64) (free : Nat) : BitVec 64 :=
  if v.toNat % 65536 = 0 then v else BitVec.ofNat 64 (v.toNat / 65536 * 65536 + free % 65536)

/-- A write of a register of BAR0 (R479).  A watchdog period above 65,535 ms is not stated. -/
def Part.setBar0 (P : Part) (off : Nat) (v : BitVec 64) (free : Nat) : Part :=
  match off with
  | 0x48 => { P with xwtmo := v.toNat }
  | 0x50 => { P with wdper := if v.toNat < 65536 then v.toNat else free % 65536 }
  | 0x58 => { P with ovfbase := aligned64K v free }
  | 0x60 => { P with ovfsize := v }
  | 0x68 => { P with shbase := aligned64K v free }
  | 0x70 => { P with shsize := v }
  | 0x78 => { P with hwbase := aligned64K v free }
  | _ => P

/-- BAR0_REGISTER_WRITE (R479, R483): from LOCKED on, only XWTMO and WDPER take a write. -/
def execBar0RegisterWrite (part off : Nat) (val : BitVec 64) (s : State) : Out :=
  let P := s.part part
  let frozen := (P.tdisp == .locked || P.tdisp == .run) && off != 0x48 && off != 0x50
  .next (if frozen then s
    else { s.updPart part fun P => P.setBar0 off val s.freeNat with free := s.free + 1 })

/-- BAR2_ACCESS (R479, R470): without lease or tag checks; a read that meets a poisoned line is answered with EP set.  An address
without a translation takes no write, and its read has a free value. -/
def execBar2Access (part off n : Nat) (write : Bool) (data : BitVec 512) (s : State) : Out :=
  let P := s.part part
  let t := P.tarns.headD 0
  let va := (P.hwbase.toNat + off) % 2 ^ 64
  let parts := pieces va n
  let pas := parts.filterMap fun p => match (s.walk t part p.1).2 with
    | .ok x => if x.permits true write false p.1 then some (x.pa p.1, p.2) else none
    | .error _ => none
  if P.tarns.isEmpty || n = 0 || decide (64 < n) || decide (2 ^ 36 < off + n) then .next s
  else if pas.any fun p => !inHost p.1 && s.homeOffline p.1 then .next s
  else if pas.length != parts.length then
    .next (if write then s else { s.answer part 2 off (s.freeNat % 2 ^ (8 * n)) with free := s.free + 1 })
  else
    let lines (p : Nat × Nat) : List Nat := (List.range ((p.1 % 64 + p.2 + 63) / 64)).map fun i => lineOf p.1 + i
    let bad := (pas.map lines).flatten.any fun ln => !inHost (ln * 64) && s.isPoisoned ln
    if (pas.map lines).flatten.any fun ln => !inHost (ln * 64) && s.dramHeld ln then .next s
    else if write then
      let whole := n = 64 && va % 64 = 0
      if bad && !whole then .next s
      else .next (s.writeVa t part va (leBytes n data.toNat))
    else
      match s.readVa t part va n with
      | (s, some bs) => .next (s.answer part 2 off (leNat bs + (if bad then 2 ^ 512 else 0)))
      | (s, none) => .next s

/-! ### TDISP (R483) -/

/-- TDISP_STATE_TRANSITION (R483): 1 to LOCKED, 2 to RUN, 0 back to unlocked, along the order of the TDISP standard (log 28). -/
def execTdispStateTransition (part target : Nat) (s : State) : Out :=
  .next (s.updPart part fun P => match P.tdisp, target with
    | .unlocked, 1 => { P with tdisp := .locked }
    | .locked, 2 => { P with tdisp := .run }
    | _, 0 => { P with tdisp := .unlocked }
    | _, _ => P)

/-- Entry to ERROR (R483): every context of the partition stops, and its key slots are zeroed. -/
def State.tdispError (s : State) (part : Nat) : State :=
  let ts := (s.part part).tarns
  let s := ts.foldl (fun s t => s.stopTarn t) s
  { s.updPart part fun P => { P with tdisp := .error } with keys := s.keys.filter fun k => k.2.part != part }

/-- TDISP_ERROR. -/
def execTdispError (part : Nat) (s : State) : Out := .next (s.tdispError part)

/-- FORWARDING_STOP_FAILURE (R275): the module halts; every partition that holds one of its tarns stops as on entry to ERROR. -/
def execForwardingStopFailure (tarn : Nat) (s : State) : Out :=
  if (s.tarn tarn).st != Online.forwarding then .next s
  else
    let ps := (s.parts.filter fun p => p.2.tarns.any fun t => tarnModule t == tarnModule tarn).map (·.1)
    .next (ps.foldl (fun s p => s.tdispError p) s)

/-! ### SPDM (R482) -/

/-- A partition answers an SPDM request: its session goes from a step to another, and the answer's contents are free (log 8). -/
def spdmAnswer (part request arg : Nat) (f : Part → Part) (s : State) : Out :=
  .next { (s.answer part 1 request (Config.spdmResponse part request arg s.free)).updPart part f with free := s.free + 1 }

def execGetVersion (part : Nat) (s : State) : Out := spdmAnswer part 1 0 (fun P => { P with spdm := 1, session := none }) s
def execGetCapabilities (part : Nat) (s : State) : Out := spdmAnswer part 2 0 (fun P => if P.spdm = 1 then { P with spdm := 2 } else P) s
def execNegotiateAlgorithms (part : Nat) (s : State) : Out := spdmAnswer part 3 0 (fun P => if P.spdm = 2 then { P with spdm := 3 } else P) s
def execGetDigests (part : Nat) (s : State) : Out := spdmAnswer part 4 0 id s
def execGetCertificate (part : Nat) (s : State) : Out := spdmAnswer part 5 0 id s
def execChallenge (part nonce : Nat) (s : State) : Out := spdmAnswer part 6 nonce id s
def execGetMeasurements (part nonce : Nat) (s : State) : Out := spdmAnswer part 7 nonce id s
/-- KEY_EXCHANGE opens the handshake of a session. -/
def execKeyExchange (part share : Nat) (s : State) : Out :=
  spdmAnswer part 8 share (fun P => if 3 ≤ P.spdm then { P with spdm := 4, session := none } else P) s
/-- FINISH: the session key is established when the message authenticates. -/
def execFinish (part mac : Nat) (s : State) : Out :=
  spdmAnswer part 9 mac (fun P => if P.spdm = 4 then { P with spdm := 3, session := if Config.finishOk part mac then some s.free else none } else P) s

end Sys2Proof.Machine
end

