-- ==== Sys2Proof/Machine/MemSys.lean ====
section
/-! DEFINITION. The memory system's control (R464 to R476) and what arrives at a slice: requests of the tarn's own cores
(R260), stamped requests (R262 to R264, R268), pod requests (R485, R486), host completions (R478), page walks (R202), and the
completion of operations whose data have arrived (R209). -/

namespace Sys2Proof.Machine

/-! ### Errors of the arrays and the transfers (R464 to R469) -/

/-- Enter an event of a pseudo-channel into its tarn's transfer log (R467). -/
def State.logTransfer (s : State) (gs pa kind : Nat) : State :=
  s.updTarn (gs / 64) fun T =>
    { T with tlog := logInto T.tlog { time := s.modClk (tarnModule (gs / 64)), count := 1, bytes := 0, kind, pc := gs % 64, pa } }

/-- A line decodes with some bad bytes as it is read from DRAM: up to 3 are corrected; 4 to 7 make it uncorrectable, and it
waits for its second read; more stand for a pattern that decodes to another codeword, whose value is free.  Answers whether
the line is served. -/
def State.readErrors (s : State) (ln bad : Nat) : State × Bool :=
  if bad = 0 ∨ s.isPoisoned ln = true then (s, true)
  else if bad ≤ 3 then (s.logArray ln bad 1, true)
  else if bad ≤ 7 then ({ s with reread := insNat s.reread ln }, false)
  else
    let f (k : Nat) : Nat := (Config.freeValue (s.free + k)).toNat
    let s := (s.setLine ln (Config.staleLine s.free ln)).logArray ln (1 + f 1 % 3) 1
    ({ (s.setTag (ln * 64) (f 2 % 16)).setTag (ln * 64 + 32) (f 3 % 16) with free := s.free + 4 }, true)

/-- The lines of a table of the page tables that hold anything. -/
def State.tableLines (s : State) (table : Nat) : List Nat :=
  let here (ln : Nat) : Bool := decide (table / 64 ≤ ln ∧ ln < table / 64 + 512)
  (((s.mem.filterMap fun (c : Host.Cell) => if here (c.1 / 64) then some (c.1 / 64) else none) ++
    (s.tarns.flatMap fun (T : Nat × Tarn) => T.2.slices.filterMap fun l => if here l.1 then some l.1 else none) ++
    s.cores.flatMap fun (C : Nat × Core) => C.2.l1.filterMap fun l => if here l.1 then some l.1 else none).eraseDups)

/-- A leaf whose ATTR is CELL maps a frame (R199, R298). -/
def State.cellLeaf (s : State) (lv e frame : Nat) : Bool :=
  let sz := levelShift lv
  bits e 59 56 == 1 && (if sz = 16 then s.remapPage (bits e 55 16) == frame else e % 2 ^ 56 / 2 ^ sz == frame * 65536 / 2 ^ sz)

/-- The page tables below a table map a frame as a page of cells (R198, R199). -/
def State.tablesCell (s : State) (frame : Nat) : (fuel lv table : Nat) → Bool
  | 0, _, _ => false
  | fuel + 1, lv, table => (s.tableLines table).any fun ln => (List.range 8).any fun i =>
      let e := takeData ((s.clean (lineHome ln) ln).homeData ln) (8 * i) 8
      !pteBad lv e && (if bits e 1 1 = 1 then s.cellLeaf lv e frame else s.tablesCell frame fuel (lv + 1) (e % 2 ^ 56 / 2 ^ 15 * 2 ^ 15))

/-- A frame is one of a CELL page (R298): by the page tables of a tarn, or a translation that a TLB holds. -/
def State.cellFrame (s : State) (frame : Nat) : Bool :=
  (s.tarns.any fun T => s.tablesCell frame 4 1 (s.rootTable T.1)) ||
    s.cores.any fun C => C.2.tlb.any fun x => x.cell && decide (x.pa x.va / 65536 ≤ frame ∧ frame < x.pa x.va / 65536 + 2 ^ (x.sz - 16))

/-- The page of a line is one of cells: by the page tables, or as the cell operations that have reached it show (log 99). -/
def State.cellLine (s : State) (ln : Nat) : Bool :=
  s.cellFrame (ln / 1024) || (s.tarn (lineHome ln)).cellFrames.contains (ln / 1024) || ((s.tarn (lineHome ln)).waiters.any fun w => lineOf w.pa == ln) ||
    s.ops.any fun x => x.2.kind == .cell && x.2.elems.any fun e => lineOf e.pa == ln

/-- UNCORRECTABLE_REREAD (R466): the one further read of a line that decoded as uncorrectable. -/
def execUncorrectableReread (line : Nat) (lasting : Bool) (s : State) : Out :=
  if (homeOf (line * 64)).isNone || s.homeOffline (line * 64) || s.isPoisoned line then .next s
  else if !s.reread.contains line && (s.slice (lineHome line) line).valid == BitVec.allOnes 64 then .next s
  else
    let s : State := { s with reread := s.reread.filter (· != line) }
    .next (if !lasting then s.logArray line 255 2
      else
        let s := s.logArray line 255 3
        if s.cellLine line then s.poisonCells line else s.poisonLine line)

/-- Retirement of a pseudo-channel (R476): its lines are poisoned, dirty data for them is discarded, its spring's messages and
its cells' waiters are answered POISONED. -/
def State.retirePc (s : State) (gs : Nat) : State :=
  let mine (ln : Nat) : Bool := !inTier (ln * 64) && homeOf (ln * 64) == some (gs / 64) && sliceOf (ln * 64) == gs % 64
  let s : State := { s with
    cores := s.cores.map fun e => (e.1, { e.2 with l1 := e.2.l1.filter fun x => !mine x.1 })
    tarns := s.tarns.map fun e => (e.1, { e.2 with
      slices := e.2.slices.filter fun x => !mine x.1
      dir := e.2.dir.filter fun x => !mine x.1 }) }
  let s := { s.markStores (fun _ x => mine (lineOf x.pa)) 2 3 with reread := s.reread.filter fun ln => !mine ln }
  let ms := (s.spring gs).queue ++ (s.spring gs).held
  let s := s.updSpring gs fun sp => { sp with retired := true, retrain := false, queue := [], held := [] }
  let s := ms.foldl (fun s m => s.messageDone m 1 0 0#32 outPoison 0) s
  let cs := ((s.tarn (gs / 64)).waiters.filter fun w => mine (lineOf w.pa)).map (·.pa)
  cs.foldl (fun s pa => s.wakeCell pa (mkCell 2 0 0 0) outPoisoned) s

/-- TSV_PARITY_ERROR (R465, R468): a transfer is repeated up to 2 times; when both fail the error is lasting and the line is
read again, and one within 1 ms after retraining retires the pseudo-channel. -/
def execTsvParityError (spring pa fails : Nat) (s : State) : Out :=
  if inTier pa || homeOf pa != some (spring / 64) || springOf pa != spring || s.homeOffline pa then .next s
  else
    let row := pa / 64 * 64
    if fails < 2 then .next (s.logTransfer spring row 1)
    else
      let s := s.logTransfer spring row 2
      let s := s.updSpring spring fun sp => { sp with parity := s.clk :: sp.parity.filter fun k => decide (s.clk ≤ k + clkPerMs) }
      match (s.spring spring).trained with
      | some k =>
        if s.clk ≤ k + clkPerMs then .next ((s.logTransfer spring row 4).retirePc spring)
        else .next { s with reread := insNat s.reread (lineOf pa) }
      | none => .next { s with reread := insNat s.reread (lineOf pa) }

/-- LPDDR6_LINK_CRC_ERROR (R465): the tier's bursts are repeated under the same rule; the tier has no pseudo-channel to name in
the entry, which holds a free value there (log 2). -/
def execLpddr6LinkCrcError (tarn pa fails : Nat) (s : State) : Out :=
  if !inTier pa || homeOf pa != some tarn || s.homeOffline pa then .next s
  else
    let pc := (Config.freeValue s.free).toNat % 64
    let s := { s with free := s.free + 1 }.logTransfer (tarn * 64 + pc) (pa / 64 * 64) (if fails < 2 then 1 else 2)
    .next (if fails < 2 then s else { s with reread := insNat s.reread (lineOf pa) })

/-- TSV_RETRAINING (R468): 4 lasting errors within 1 ms. -/
def execTsvRetraining (spring : Nat) (s : State) : Out :=
  let sp := s.spring spring
  .next (if 4 ≤ (sp.parity.filter fun k => decide (s.clk ≤ k + clkPerMs)).length ∧ sp.retired = false
    then s.updSpring spring fun sp => { sp with retrain := true, parity := [] } else s)

/-- RETRAINING_COMPLETE (R468): which line the entry names is not stated (log 2). -/
def execRetrainingComplete (spring : Nat) (ok : Bool) (s : State) : Out :=
  if !(s.spring spring).retrain then .next s
  else
    let pa := (Config.freeValue s.free).toNat % 2 ^ 56
    let s : State := { s with free := s.free + 1 }
    .next (if ok then
      (s.logTransfer spring pa 3).updSpring spring fun sp => { sp with retrain := false, trained := some s.clk }
    else (s.logTransfer spring pa 4).retirePc spring)

/-- ACTIVATION_ALERT (R469, R435, R436): a row's count has reached 4,096 and a mitigation window opens; a row may be activated by each
access to it (log 103).  The alert is that of the last access: the event names its slot, or none.  The eighth alert of a slot within
1 ms disables it, and its queued messages complete DISABLED. -/
def execActivationAlert (spring row : Nat) (slot : Option Nat) (s : State) : Out :=
  let a := tget (s.spring spring).acts row {}
  if a.may < 4096 ∨ slot ≠ a.slot then .next s else
  let s := s.updSpring spring fun sp => { sp with mitig := sp.mitig ++ [(row, s.clk + 400)], acts := tdel sp.acts row }
  let e : LogEntry := { time := s.modClk (tarnModule (spring / 64)), count := 1, bytes := 0, kind := 4, slot := slot.getD 0
                        pc := spring % 64, pa := rowLine row (spring % 64) 0 * 64 }
  let s := s.updTarn (spring / 64) fun T => { T with alog := logInto T.alog e }
  match slot with
  | none => .next s
  | some k =>
    let al := s.clk :: (tget (s.spring spring).alerts k []).filter fun c => decide (s.clk ≤ c + clkPerMs)
    let s := s.updSpring spring fun sp => { sp with alerts := tput sp.alerts k al }
    if al.length < 8 then .next s
    else
      let ms := (s.spring spring).queue.filter fun m => m.slot == k
      let s := s.updSpring spring fun sp => { sp with
        slots := match tget? sp.slots k with | some x => tput sp.slots k (2, x.2) | none => sp.slots
        alerts := tdel sp.alerts k }.leave (sp.queue.filter fun m => m.slot != k)
      let s := ms.foldl (fun s m => s.messageDone m 0 0 0#32 outDisabled 0) s
      .next (s.postTrap (spring / 64) { kind := 6, detail := spring % 64 })

/-- MITIGATION_WINDOW_END (R469): the counted row's count is clear, and requests to its bank go on. -/
def execMitigationWindowEnd (spring row : Nat) (s : State) : Out :=
  .next (if (s.spring spring).mitig.any fun m => m.1 == row && decide (m.2 ≤ s.clk) then
    s.updSpring spring fun sp => { sp with
      mitig := sp.mitig.filter fun m => !(m.1 == row && decide (m.2 ≤ s.clk))
      acts := tdel sp.acts row }
  else s)

/-! ### The memory-system instructions (R472 to R476) -/

/-- The code of a run of n units of a size from a physical address: 0 OK, 1 RANGE, 2 ALIGN; RANGE comes first (R472). -/
def State.runCode (s : State) (part pa n unit most : Nat) : Nat :=
  let ts := (s.part part).tarns
  let inside (a : Nat) : Bool := match homeOf a with | some h => ts.contains h | none => false
  if n < 1 ∨ most < n ∨ decide (2 ^ 56 ≤ pa) = true then 1
  else if !((List.range n).all fun i => inside (pa + i * unit)) || !inside (pa + n * unit - 1) then 1
  else if pa % unit != 0 then 2 else 0

/-- A memory-system instruction that works line by line: its operation holds the start, the count of granules, a second start,
and the code. -/
def lineWork (kind : OpKind) (ins : Instr) (w : W2) (c : Ctx) (ls : List Nat) (pa n dst code : Nat) (s : State) : State :=
  s.issueStep c 2 { c.op kind ins (laneMask ls) (c.flag w.n) with
    holdG := [w.d.toNat, w.d.toNat + 1]
    elems := [{ lane := 0, va := BitVec.ofNat 64 pa, pa := 0, size := 0, x := BitVec.ofNat 64 n, c := BitVec.ofNat 64 dst, r := BitVec.ofNat 64 code }] }

/-- SCRUB (R473). -/
def execScrub (w : W2) (s : State) : Out :=
  privileged s w.p false 2 fun c =>
    match c.uniform w.p false with
    | [] => .next (s.advance c 2)
    | l :: ls =>
      let pa := (c.Q.getGPair w.a.toNat).toNat
      let n := opBG c.Q w false w.x.imm20.toNat
      .next (lineWork .scrub (.scrub w) w c (l :: ls) pa n 0 (s.runCode (s.partOf c.B) pa n 65536 4096) s)

/-- Every cached copy and recorded span of a granule is invalidated (R474). -/
def State.dropGranule (s : State) (g : Nat) : State :=
  let s : State := { s with
    cores := s.cores.map fun e => (e.1, { e.2 with l1 := e.2.l1.filter fun x => x.1 / 1024 != g })
    tarns := s.tarns.map fun e => (e.1, { e.2 with
      slices := e.2.slices.filter fun x => x.1 / 1024 != g
      dir := e.2.dir.filter fun x => x.1 / 1024 != g
      spans := e.2.spans.filter fun x => x.1 / 4096 != g
      mySpans := e.2.mySpans.filter fun x => x.1 / 256 != g }) }
  s.markStores (fun _ x => x.pa / 65536 == g) 2 3

/-- TIERMV (R474): step 1 as it issues; the lines move one by one. -/
def execTiermv (w : W2) (s : State) : Out :=
  privileged s w.p false 2 fun c =>
    match c.uniform w.p false with
    | [] => .next (s.advance c 2)
    | l :: ls =>
      let src := (c.Q.getGPair w.a.toNat).toNat
      let dst := (c.Q.getGPair w.x.c.toNat).toNat
      let k (a : Nat) : Nat := s.runCode (s.partOf c.B) a 1 65536 1
      let code := if k src = 1 ∨ k dst = 1 then 1 else if k src = 2 ∨ k dst = 2 then 2 else if src = dst then 3 else 0
      let s := if code = 0 then { s.dropGranule (dst / 65536) with moves := s.moves ++ [(src / 65536, dst / 65536, 0)] } else s
      .next (lineWork .tiermv (.tiermv w) w c (l :: ls) src 1 dst code s)

/-- POISON (R475): it sets no flag, and the group's next instruction issues when every line is poisoned. -/
def execPoison (w : W2) (s : State) : Out :=
  sysOnce w s fun c =>
    let pa := (c.Q.getGPair w.a.toNat).toNat
    let n := opBG c.Q w false w.x.imm20.toNat
    let line := !w.x.isImm && w.x.sub.getLsbD 0
    let code := if line then s.runCode (s.partOf c.B) pa n 64 1024 else s.runCode (s.partOf c.B) pa n 65536 4096
    if code != 0 then .next (s.replyG c w.d code)
    else
      let o : Op := { c.op .poison (.poison w) (laneMask (c.uniform w.p w.n)) 15 with
        holdG := [w.d.toNat]
        elems := [{ lane := 0, va := BitVec.ofNat 64 pa, pa := 0, size := 0, x := BitVec.ofNat 64 (if line then n else 1024 * n) }] }
      .next ((s.issueStep c 2 o).mapLanes c.b c.q c.members fun _ t => { t with wait := .work s.next })

/-- RETIRE (R476); a number that names no tarn of the partition on the ring, or no pseudo-channel, gives RANGE. -/
def execRetire (w : W2) (s : State) : Out :=
  privileged s w.p false 2 fun c =>
    match c.uniform w.p false with
    | [] => .next (s.advance c 2)
    | l :: ls =>
      .next (s.issueStep c 2 { c.op .retire (.retire w) (laneMask (l :: ls)) (c.flag w.n) with
        holdG := [w.d.toNat], n := (c.Q.getG w.a.toNat).toNat, m := opBG c.Q w false w.x.imm20.toNat })

/-- Completion of RETIRE. -/
def State.retireDone (s : State) (id : Nat) (o : Op) : State :=
  match s.block? o.blk with
  | none => s.finishOp id
  | some B =>
    let t := tarnModule (coreTarn B.core) * 12 + o.n
    if 12 ≤ o.n ∨ 64 ≤ o.m ∨ (s.part (s.partOf B)).tarns.contains t = false ∨ (s.tarn t).st ≠ .online then s.finishG id o 1
    else if (s.spring (t * 64 + o.m)).retired then s.finishG id o 2
    else (s.retirePc (t * 64 + o.m)).finishG id o 0

/-- The start, count, second start and code of line work. -/
def Op.work (o : Op) : Nat × Nat × Nat × Nat :=
  match o.elems with
  | e :: _ => (e.va.toNat, e.x.toNat, e.c.toNat, e.r.toNat)
  | [] => (0, 0, 0, 1)

/-- The lines of line work: of SCRUB and TIERMV its granules', of POISON as it counts them. -/
def Op.workLines (o : Op) : Nat := if o.kind = .poison then o.work.2.1 else 1024 * o.work.2.1

/-- The line that line work acts on next: of TIERMV the source's, and once that is read the destination's (R474). -/
def Op.workLine (o : Op) : Nat := (if o.kind = .tiermv ∧ o.m ≠ 0 then o.work.2.2.1 else o.work.1) / 64 + o.n

/-- A tarn of a line's module other than its home holds dirty bytes of it, or they are on their way home. -/
def State.dirtyAway (s : State) (ln : Nat) : Bool :=
  s.backUnderWay ln || (List.range 12).any fun u =>
    let t := tarnModule (lineHome ln) * 12 + u
    t != lineHome ln && (s.slice t ln).dirty != 0#64

/-- Line work goes on to its next line, its counts with it. -/
def State.workNext (s : State) (id fixed lost : Nat) : State :=
  match s.op? id with
  | some o => s.setOp id { o with
      n := o.n + 1, due := o.due + lost, m := if o.kind = .tiermv then 0 else o.m + fixed }
  | none => s

/-- SCRUB at one line (R473): corrected and written back; a line dirty in a tarn cache is written back, a guest's bytes by way of its
home.  Its writes invalidate the L1 copies (R259) and the spans (R268). -/
def State.scrubLine (s : State) (id ln bad : Nat) (stamped : Bool) : State :=
  if s.isPoisoned ln then s.workNext id 0 1
  else if s.dirtyAway ln then s.callBack ln
  else
    let dirty := (s.slice (lineHome ln) ln).dirty != 0#64
    let r := s.readErrors ln bad
    if !r.2 then r.1
    else
      let s := if dirty || bad != 0 then
          let s := r.1.recall (lineHome ln) ln
          if stamped then s.dropSpans ln (BitVec.allOnes 64) 0xFFFFFF else (s.ownInval ln (BitVec.allOnes 64)).1
        else r.1
      (if dirty then s.cleanHome ln else s).workNext id (if bad = 0 then 0 else 1) 0

/-- TIERMV at one line (R474): the source's home recalls M and O data and reads the line; then it is written to the destination with its
tags, as it stands at the source by then, and an uncorrectable one as poisoned. -/
def State.moveLine (s : State) (id : Nat) (o : Op) (ln bad : Nat) : State :=
  let src := o.work.1 / 64 + o.n
  let read (s : State) : State := s.setOp id { o with m := 1 }
  if o.m = 0 then
    if s.isPoisoned ln then read s
    else
      let r := s.readErrors ln bad
      if r.2 then read (r.1.clean (lineHome ln) ln) else r.1
  else
    let moved (s : State) (lost : Nat) : State :=
      let s := (s.setTag (ln * 64) (s.tagOf (src * 64))).setTag (ln * 64 + 32) (s.tagOf (src * 64 + 32))
      { s.workNext id 0 lost with
        moves := s.moves.map fun m => if m.1 == o.work.1 / 65536 && m.2.1 == o.work.2.2.1 / 65536 then (m.1, m.2.1, o.n + 1) else m }
    if s.isPoisoned src then moved (s.poisonLine ln) 1
    else
      let s := s.clean (lineHome src) src
      moved ((s.putHome ln (BitVec.allOnes 64) (s.homeData src) 0).dropSpans ln (BitVec.allOnes 64) 0xFFFFFF) 0

/-- Line work at one line's home (R473 to R475). -/
def State.lineAct (s : State) (id : Nat) (o : Op) (ln bad : Nat) (stamped : Bool) : State :=
  let o := { o with elems := o.elems.map fun e => { e with st := 0, pa := 0 } }
  let s := s.setOp id o
  match o.kind with
  | .scrub => s.scrubLine id ln bad stamped
  | .tiermv => s.moveLine id o ln bad
  | .poison => (s.poisonWrite ln).workNext id 0 0
  | _ => s

/-- Line work goes on at its next line: at its own tarn's slice, which may have to wait for its DRAM (R466 to R469), or by a stamped request to
another tarn of the module (R264); for an offline home it is held (R456). -/
def State.lineTurn (s : State) (id : Nat) (o : Op) (ln bad : Nat) : State :=
  match o.elems with
  | [] => s
  | e :: _ =>
    let t := coreTarn (s.coreOf o.blk)
    if e.r != 0#64 || ln != o.workLine || decide (o.workLines ≤ o.n) || e.st != 0 then s
    else if s.shut t (ln * 64) then s.holdUnsent id o e
    else if t != lineHome ln && tarnModule t == tarnModule (lineHome ln) then
      ((s.setOp id { o with elems := [{ e with pa := ln * 64 }] }).sendAccess id t ln [{ e with pa := ln * 64 }])
    else if s.dramHeld ln then s
    else s.lineAct id o ln bad false

/-- A count of lines that fits its field; one that does not is not stated (log 2). -/
def State.field16 (s : State) (n : Nat) : Nat := if n < 65536 then n else (Config.freeValue s.free).toNat % 65536

/-- SCRUB or TIERMV is over: its result is written. -/
def State.workDone (s : State) (id : Nat) (o : Op) : State :=
  let k := o.work
  if k.2.2.2 = 0 ∧ o.n < o.workLines then s
  else
    let v := s.field16 o.due
    let s : State := { s with free := s.free + 1 }
    match o.kind with
    | .scrub => s.finishG id o (o.m + v * 2 ^ 32 + k.2.2.2 * 2 ^ 48)
    | .poison => (s.mapLanes o.blk o.q (List.range 32) fun _ t => if t.wait == Wait.work id then { t with wait := .none } else t).finishG id o 0
    | _ =>
      { s.finishG id o (k.2.2.2 + v * 2 ^ 32) with
        moves := s.moves.filter fun m => k.2.2.2 != 0 || m.1 != k.1 / 65536 || m.2.1 != k.2.2.1 / 65536 }

/-! ### Requests of a tarn's own cores at its slice (R260) -/

/-- The elements of an operation that a slice may act on for a line. -/
def State.sliceElems (s : State) (o : Op) (ln : Nat) : List Elem :=
  match o.kind with
  | .stt => if (w2Of o.ins).x.sub.getLsbD 0 then []
    else (o.sttNext ln [0]).filter fun e => s.routeOf o e == .here && s.clearToAct o e
  | .cctl => o.elems.filter fun e => e.st == 0 && lineOf e.pa == ln && s.clearToAct o e
  | .load | .fetch | .store | .tagSt => s.lineElems o ln
  | _ => []

/-- A slice reads a line that it does not hold from DRAM for a request of another kind, with its errors (R464, R466): an event of its own
ahead of the request's act (log 132). -/
def State.dramRead (s : State) (ln bad : Nat) : State :=
  if (homeOf (ln * 64)).isNone || s.homeOffline (ln * 64) || s.dramHeld ln || (s.slice (lineHome ln) ln).valid == BitVec.allOnes 64 then s
  else (s.readErrors ln bad).1

/-- SLICE_REQUEST (R260); a prefetch to an offline home is dropped (R228): with the replacements that capacity makes, and the bad bytes that a read of the DRAM meets. -/
def execSliceRequest (op line : Nat) (evict : List (Nat × Nat)) (badBytes : Nat) (s : State) : Out :=
  let s := evict.foldl (fun s e => s.replace e) s
  match s.op? op with
  | none => .next (if op = 0 then s.dramRead line badBytes else s)
  | some o =>
    if o.kind = .scrub ∨ o.kind = .tiermv ∨ o.kind = .poison then .next (s.lineTurn op o line badBytes)
    else
      let t := coreTarn (s.coreOf o.blk)
      let home := t == lineHome line
      let es := s.sliceElems o line
      if es.isEmpty then .next s
      else if s.shut t (line * 64) then
        .next (if o.kind = .fetch then (s.mapElems op (fun e => es.any e.same) fun e => { e with st := 3 }).retire
          else match es with | e :: _ => s.holdUnsent op o e | [] => s)
      else if !s.released o then .next (s.pushBack o.rel o.covers)
      else if home && s.dramHeld line then .next s
      else
        let reads := home && (o.kind == .load || o.kind == .fetch) && (s.slice t line).valid != BitVec.allOnes 64
        let r := if reads then s.readErrors line badBytes else (s, true)
        if !r.2 then .next r.1
        else
          let s := match o.kind with
            | .load => r.1.sliceLoad op o line es
            | .fetch => r.1.slicePref op o line es
            | .store => r.1.sliceStore op o line es
            | .tagSt => if home then r.1.homeTags op line es false else r.1.sendAccess op t line es
            | .stt => r.1.sliceStt op o line
            | .cctl =>
              if es.any (fun e => s.routeOf o e == Route.here) || (w2Of o.ins).x.sub.toNat % 4 == 2 then r.1.sliceCctl op o line es
              else r.1.mapElems op (fun e => es.any e.same) fun e => { e with st := 3 }
            | _ => r.1
          .next s.retire

/-- WRITE_BACK_DEADLINE (R269). -/
def execWriteBackDeadline (tarn line : Nat) (s : State) : Out := .next (s.sendWriteBack tarn line)

/-- CLEAN_SPAN_WORD_DROP (R267): a guest slice drops a clean word of a sector. -/
def execCleanSpanWordDrop (tarn sector word : Nat) (s : State) : Out :=
  let ln := sector * 4 + word / 16
  if tarn = lineHome ln ∨ 64 ≤ word then .next s
  else
    let sl := s.slice tarn ln
    .next (s.putSlice tarn ln { sl with valid := sl.valid &&& (~~~ (byteMask (word % 16 * 4) 4) ||| sl.dirty ||| s.underWay tarn ln) })

/-! ### Stamped requests (R262 to R264) -/

/-- The elements that a request on the ring carries. -/
def State.carried (s : State) (r : RingReq) (op lane : Nat) : List Elem :=
  match s.op? op with
  | none => []
  | some o =>
    let sent (e : Elem) : Bool := e.st == 1 || o.kind == .msg
    match o.elems.find? fun e => e.lane == lane && sent e && lineHome (lineOf e.pa) == r.home with
    | some e => o.elems.filter fun x => sent x &&
        if o.kind == .stt && (w2Of o.ins).x.sub.getLsbD 0 then true
        else if o.atMau || o.kind == .cell then springOf x.pa == springOf e.pa else lineOf x.pa == lineOf e.pa
    | none => []

/-- The lines that a request reads or writes at its home; a span read, those of the run that it returns (R266). -/
def State.reqLines (s : State) (r : RingReq) : List Nat :=
  match r.req with
  | .spanRead t sec lo hi _ =>
    let u := match tget? (s.tarn r.home).spans (sec * 16 + t % 12) with | some (a, b) => (min a lo, max b hi) | none => (lo, hi)
    (List.range 4).filterMap fun j => if u.1 ≤ j * 16 + 15 ∧ j * 16 ≤ u.2 then some (sec * 4 + j) else none
  | .writeBack _ ln _ _ => [ln]
  | .inval sec lo hi => (List.range 4).filterMap fun j => if lo ≤ j * 16 + 15 ∧ j * 16 ≤ hi then some (sec * 4 + j) else none
  | .access op lane => ((s.carried r op lane).map fun e => lineOf e.pa).eraseDups
  | .reduce _ _ _ pa => [lineOf pa]

/-- The stop that sent a request, and the sector it is for. -/
def State.sentBy (s : State) (r : RingReq) : Option (Nat × Nat) :=
  match r.req with
  | .spanRead t sec _ _ _ => some (t, sec)
  | .writeBack t ln _ _ => some (t, ln / 4)
  | .inval sec _ _ => some (r.home, sec)
  | .access op lane =>
    match s.op? op, s.carried r op lane with
    | some o, e :: _ => some (coreTarn (s.coreOf o.blk), sectorOf e.pa)
    | _, _ => none
  | .reduce b _ _ pa => some (coreTarn (s.coreOf b), sectorOf pa)

/-- The ring of a block that sent a request's message, and the spring to which it goes. -/
def State.messagePath (s : State) (r : RingReq) : Option (Nat × Nat × Nat) :=
  match r.req with
  | .access op lane =>
    match s.op? op, s.carried r op lane with
    | some o, e :: _ => if o.isMessage then some (o.blk, o.n, springOf e.pa) else none
    | _, _ => none
  | _ => none

/-- A request has an earlier one before it on the same path: of the same stop for the same sector (log 94), or a message of the same
ring to the same spring (R426). -/
def State.behind (s : State) (req : Nat) (r : RingReq) : Bool :=
  s.ring.any fun x => decide (x.1 < req) && x.2.cycle.isNone &&
    ((s.sentBy r).isSome && s.sentBy x.2 == s.sentBy r || (s.messagePath r).isSome && s.messagePath x.2 == s.messagePath r)

/-- A stop stamps what is homed on it: one that has not left the ring, a forwarding stop too (R262, R275). -/
def State.stamps (s : State) (t : Nat) : Bool := (s.tarn t).st != Online.folded

/-- REQUEST_STAMP (R262): a stop stamps at most one request per ring cycle. -/
def execRequestStamp (req : Nat) (s : State) : Out :=
  match tget? s.ring req with
  | none => .next s
  | some r =>
    if r.cycle.isSome || !s.stamps r.home || (s.tarn r.home).stamp == some s.clk || s.behind req r then .next s
    else .next ({ s with ring := tput s.ring req { r with cycle := some s.clk } }.updTarn r.home fun T => { T with stamp := some s.clk })

/-- A cell act that a stamped request has brought to a line is still to be made there (R317). -/
def State.cellWaits (s : State) (ln : Nat) : Bool :=
  s.ops.any fun x => x.2.kind == .cell && x.2.elems.any fun e => e.st == 6 && lineOf e.pa == ln && s.stampedFor x.2 e

/-- A resource that serves requests at a home (R263): a line, a DRAM bank, a pseudo-channel, a MAU, or the stop.  A spring's full queue
holds its messages itself (Spring.accept). -/
inductive Resource where
  | line (ln : Nat)
  | bank (gs bank : Nat)
  | channel (gs : Nat)
  | mau (gs : Nat)
  | stop (home : Nat)
deriving DecidableEq, Repr

/-- What serves the lines of a request: each line and, where its slice does not hold it whole, its bank and its pseudo-channel. -/
def State.lineUses (s : State) (lns : List Nat) : List Resource :=
  lns.flatMap fun ln =>
    .line ln :: if inTier (ln * 64) || (s.slice (lineHome ln) ln).valid == BitVec.allOnes 64 then [] else
      [.bank (springOf (ln * 64)) (rowBank (ln / 1024)), .channel (springOf (ln * 64))]

/-- Of those, the ones that cannot take it now (R466, R468, R469). -/
def State.lineHeldBy (s : State) (lns : List Nat) : List Resource :=
  lns.flatMap fun ln =>
    if !s.dramHeld ln then []
    else if s.reread.contains ln then [.line ln]
    else if (s.spring (springOf (ln * 64))).retrain then [.channel (springOf (ln * 64))]
    else [.bank (springOf (ln * 64)) (rowBank (ln / 1024))]

/-- The resources that serve a request (R263). -/
def State.reqUses (s : State) (r : RingReq) : List Resource :=
  .stop r.home :: match r.req with
  | .access op lane =>
    match s.op? op, (s.carried r op lane).head? with
    | some o, some e =>
      if o.kind == .msg then []
      else if o.atMau then .mau (springOf e.pa) :: s.lineUses (s.reqLines r) else s.lineUses (s.reqLines r)
    | _, _ => []
  | .reduce _ _ _ pa => .mau (springOf pa) :: s.lineUses [lineOf pa]
  | .inval .. => (s.reqLines r).map .line
  | _ => s.lineUses (s.reqLines r)

/-- Those of them that cannot take it now (R263); a stop that is off the ring serves nothing (R275).  Cell requests take their place among
the acts of their slice (R317). -/
def State.reqHeldBy (s : State) (r : RingReq) : List Resource :=
  (match (s.tarn r.home).st with | .online => [] | .leaving => [] | _ => [.stop r.home]) ++
  match r.req with
  | .access op lane =>
    match s.op? op, (s.carried r op lane).head? with
    | some o, some e =>
      if o.kind == .msg then []
      else if o.kind == .cell then s.lineHeldBy (s.reqLines r)
      else s.lineHeldBy (s.reqLines r) ++ ((s.reqLines r).filter s.cellWaits).map .line ++
        if o.atMau && s.mauHeld op e.pa then [.mau (springOf e.pa)] else []
    | _, _ => []
  | .reduce _ _ _ pa =>
    s.lineHeldBy [lineOf pa] ++ ([lineOf pa].filter s.cellWaits).map .line ++ if s.mauHeld 0 pa then [.mau (springOf pa)] else []
  | .inval .. => []
  | _ => s.lineHeldBy (s.reqLines r) ++ ((s.reqLines r).filter s.cellWaits).map .line

/-- A resource that serves a request cannot take it now (R263). -/
def State.reqHeld (s : State) (r : RingReq) : Bool := !(s.reqHeldBy r).isEmpty

/-- One stamp is before another in stamp order. -/
def RingReq.before (x y : RingReq) : Bool :=
  match x.cycle, y.cycle with
  | some a, some b => decide (a < b) || (a == b && decide (x.home % 12 < y.home % 12))
  | _, _ => false

/-- Insert a request into a list in stamp order. -/
def stampInsert (r : RingReq) : List RingReq → List RingReq
  | [] => [r]
  | x :: l => if r.before x then r :: x :: l else x :: stampInsert r l

/-- The resources at which the requests of a list in stamp order are held: each is held by its own, or behind an earlier one that needs one
of them (R263); none when some request of the list is not held and is still to act. -/
def State.heldUses (s : State) (rs : List RingReq) : Option (List Resource) :=
  rs.foldl (fun a x => match a with
    | none => none
    | some l =>
      let own := s.reqHeldBy x
      if own.isEmpty && !(s.reqUses x).any l.contains then none
      else some (l ++ own ++ (s.reqLines x).map .line)) (some [])

/-- It is a request's turn (R263): its cycle + 96 has come, and every earlier stamp of the module has been acted on, but for those
that wait for a resource this one does not use. -/
def State.reqTurn (s : State) (req : Nat) (r : RingReq) : Bool :=
  (match r.cycle with | some c => decide (c + 96 ≤ s.clk) | none => false) &&
  let first := (s.ring.filter fun x => x.1 != req && tarnModule x.2.home == tarnModule r.home && x.2.before r).map (·.2)
  match s.heldUses (first.foldl (fun l x => stampInsert x l) []) with
  | some l => !(s.reqUses r).any l.contains
  | none => false

/-- The effect of an invalidation that a home sent for itself (R268): the sharers lose their spans, and the writes that waited for
it are performed, unless another invalidation of their words is under way. -/
def State.actInval (s : State) (home sec lo hi : Nat) : State :=
  let s := (List.range 12).foldl (fun s u => match tget? (s.tarn home).spans (sec * 16 + u) with
    | some (l, h) => if l ≤ hi ∧ lo ≤ h then s.dropSpan sec u else s
    | none => s) s
  let busy (a b : Nat) : Bool := s.ring.any fun r => match r.2.req with
    | .inval sec' lo' hi' => sec' == sec && decide (lo' ≤ b) && decide (a ≤ hi')
    | _ => false
  s.markStores (fun c x => sectorOf x.pa == sec && (coreTarn c == home || tarnModule (coreTarn c) != tarnModule home) &&
    !busy (x.pa % 256 / 4) ((x.pa % 256 + x.size - 1) / 4)) 2 3

/-- The context that a core runs. -/
def State.coreBlock (s : State) (core : Nat) : Option Block :=
  s.block? (if coreNum core = 24 then coreTarn core else ((s.core core).run.getD 0))
/-- The partition for which a core translates, and the identity in whose name it walks. -/
def State.corePart (s : State) (core : Nat) : Nat := match s.coreBlock core with | some B => s.partOf B | none => 0
def State.coreIdent (s : State) (core : Nat) : BitVec 32 := match s.coreBlock core with | some B => identOf B 0 0 | none => 0#32

/-- One of some askers accesses under cache code 2 (R211). -/
def State.streams (s : State) (l : List Asker) : Bool :=
  l.any fun a => match a with
    | .op id => (match s.op? id with | some o => cacheOf o.ins == 2 | none => false)
    | _ => false

/-- A page that waits is walked, and its entry fills the TLB; an entry that stands there may be read again (R385).  A walk whose next
entry is on its way from another tarn goes on later (R264); one that meets an offline home is held (R456). -/
def State.pageWalk (s : State) (core vpn : Nat) : State :=
  let part := s.corePart core
  let va := vpn * 65536
  let C := s.core core
  if !C.walks.contains vpn && (C.tlbHit part va).isNone then s
  else
    match s.walkAsk (.walk core vpn) (coreTarn core) part va with
    | (s, none) => s
    | (s, some r) =>
      let away := match r with | .error lv => C.walks.contains vpn && lv == levelAway | .ok _ => false
      let h := if away then s.holdAway core (awayPage vpn) (BitVec.ofNat 64 va) (s.coreIdent core) else (s, true)
      if !h.2 then h.1 else
      h.1.updCore core fun C =>
        let C := { C with walks := C.walks.filter (· != vpn), away := tdel C.away (awayPage vpn) }
        match r with
        | .ok x => C.tlbFill x
        | .error lv =>
          if C.walks.length != (s.core core).walks.length then { C with noXlat := C.noXlat ++ [(vpn, lv)] }
          else if lv = levelAway then C
          else { C with tlb := C.tlb.filter fun x => !x.covers part va }

/-- The words of a sector that a span read returns are delivered to what waits for them (R266, R271). -/
def State.serveWaiting (s : State) (l : List Asker) (sec : Nat) : State :=
  l.foldl (fun s a => match a with
    | .op id =>
      (match s.op? id with
      | none => s
      | some o =>
        match o.kind with
        | .load | .fetch => s.serveLoad id o sec
        | .ldt => s.ldtAttempt id
        | .waitx => s.waitxWake id
        | .hinst => s.hinstDone id o
        | .keyld => s.keyldDone id o
        | .launch => (match execLaunchAcceptance id s with | .next s => s | _ => s)
        | _ => s)
    | .fetch c => (List.range 4).foldl (fun s j =>
        if s.agentHas (coreTarn c) (sec * 4 + j) (BitVec.allOnes 64) then s.icFill c ((sec * 4 + j) * 64) else s) s
    | .walk c vpn => s.pageWalk c vpn
    | .entry b ring id => s.deliverEntry b ring id sec) s

/-- A request, of a number, acts at its home. -/
def State.actRequest (s : State) (req : Nat) (r : RingReq) : State :=
  match r.req with
  | .spanRead t sec lo hi ops => (s.serveSpan t sec lo hi (s.streams ops)).serveWaiting ops sec
  | .writeBack t ln m d => (s.applyWriteBack req t ln m d).cctlDone
  | .inval sec lo hi => s.actInval r.home sec lo hi
  | .reduce b ring id pa => s.actReduce b ring id pa
  | .access op lane =>
    match s.op? op with
    | none => s
    | some o =>
      let es := s.carried r op lane
      match es with
      | [] => s
      | e :: _ =>
        let ln := lineOf e.pa
        match o.kind with
        | .load => s.serveReads op ln es fun e => s.tagOf e.pa
        | .cctl => s.cctlClean op ln es
        | .store => s.homeStore op o ln es true
        | .tagSt => s.homeTags op ln es true
        | .stt => if (w2Of o.ins).x.sub.getLsbD 0 then s.aonCommit op o true else s.sttWrite op o ln es true
        | .scrub | .tiermv | .poison => s.lineAct op o ln 0 true
        | .fetch => (s.bringHome ln).mapElems op (fun x => es.any x.same) fun x => { x with st := 3 }
        | .cell => (s.cellArrive op es true).dinitDone op
        | .msg => s.messageArrives op o
        | _ => if o.atMau then s.mauArrive op es true else s

/-- STAMPED_REQUEST_ACT (R263). -/
def execStampedRequestAct (req : Nat) (s : State) : Out :=
  match tget? s.ring req with
  | none => .next s
  | some r =>
    if !s.reqTurn req r || s.reqHeld r then .next s
    else .next (({ s with ring := tdel s.ring req }.actRequest req r).retire)

/-! ### Pod ports (R485, R486) -/

/-- The elements that the next request of an operation over the pod carries: one line's, of an online home if it has
one (R456). -/
def State.podElems (s : State) (o : Op) : List Elem :=
  let go (e : Elem) : Bool := e.st == 0 && s.routeOf o e == .pod && s.laneClear o e
  let es (ln : Nat) : List Elem :=
    if o.atMau || o.kind == .cell then ((o.elems.filter fun e => go e && lineOf e.pa == ln).head?).elim [] (s.sliceGroup o)
    else if o.kind == .stt then (if (w2Of o.ins).x.sub.getLsbD 0 then [] else (o.sttNext ln [0]).filter go)
    else o.elems.filter fun e => go e && lineOf e.pa == ln
  let ls := (((o.elems.filter go).map fun e => lineOf e.pa).eraseDups.map es).filter fun l => !l.isEmpty
  ((ls.find? fun l => l.all fun e => !s.homeOffline e.pa) <|> ls.head?).getD []

/-- The requests of an operation fail because a port is down: their task ends with HOME-OFFLINE. -/
def State.podFail (s : State) (id : Nat) (es : List Elem) : State := es.foldl (fun s e => s.failElem id e causeHomeOffline) s

/-- POD_REQUEST_DELIVERY (R485, R307): a request acts at its home as one of the home tarn's own. -/
def execPodRequestDelivery (op : Nat) (s : State) : Out :=
  match s.op? op with
  | none => .next s
  | some o =>
    let t := coreTarn (s.coreOf o.blk)
    let es := s.podElems o
    match es with
    | [] => .next s
    | e :: _ =>
      let ln := lineOf e.pa
      let h := lineHome ln
      if o.kind == .cctl || decide (2 ^ 32 ≤ tget s.flits t 0) then .next s
      else if s.homeOffline e.pa then .next (s.holdUnsent op o e)
      else if s.podDown t e.pa then .next ((s.podFail op es).retire)
      else if !s.released o then .next (s.pushBack o.rel o.covers)
      else if s.dramHeld ln || (o.kind == .cell && s.cellLate e.pa (s.cellRank o e)) || (o.atMau && s.mauHeld op e.pa) then .next s
      else
        let s : State := { s with flits := tput s.flits t (tget s.flits t 0 + 1) }
        let s := match o.kind with
          | .load =>
            (match o.ins with
            | .tagld _ => s.serveReads op ln es fun e => s.tagOf e.pa
            | _ =>
              let s := (s.clean h ln).bringHome ln (cacheOf o.ins == 2)
              (s.serveReads op ln es fun e => takeData (s.homeData ln) (e.pa % 64) e.size).countRead ln)
          | .store => s.homeStore op o ln es false
          | .tagSt => s.homeTags op ln es false
          | .stt => s.sttWrite op o ln es false
          | .cell => (s.cellArrive op es false).dinitDone op
          | _ => if o.atMau then s.mauArrive op es false else s
        .next s.retire

/-- A pod port goes down (R486): the requests that travel by it fail. -/
def State.portDown (s : State) (tarn : Nat) : State :=
  let s := s.updTarn tarn fun T => { T with port := false }
  (s.ops.foldl (fun s (x : Nat × Op) =>
    let t := coreTarn (s.coreOf x.2.blk)
    let es := x.2.elems.filter fun e => (e.st == 0 || (e.st == 7 && x.2.kind == .cell)) && s.routeOf x.2 e == .pod && s.podDown t e.pa
    if x.2.kind = .msg ∨ x.2.kind = .waitx ∨ x.2.kind = .ldt ∨ x.2.kind = .cctl ∨ es.isEmpty = true then s
    else
      let s := es.foldl (fun s e => s.updTarn (lineHome (lineOf e.pa)) fun T =>
        { T with waiters := T.waiters.filter fun w => !(w.op == x.1 && w.pa == e.pa) }) s
      s.podFail x.1 es) s).retire

/-- FLIT_FAILURE (R486): resent once; a lasting failure takes the port down. -/
def execFlitFailure (tarn : Nat) (lasting : Bool) (s : State) : Out := .next (if lasting then s.portDown tarn else s)

/-- POD_REKEY (R486): a rekey that fails takes the port down. -/
def execPodRekey (tarn : Nat) (ok : Bool) (s : State) : Out :=
  .next (if ok then { s with flits := tdel s.flits tarn } else s.portDown tarn)

/-! ### The host port (R478, R481) -/

/-- An earlier access has posted a write of some bytes of host memory that has not arrived there (R239, log 110). -/
def State.hostAhead (s : State) (id : Nat) (e : Elem) : Bool :=
  s.ops.any fun x => decide (x.1 < id) && x.2.isWrite && x.2.space == 0 && x.2.elems.any fun y => inHost y.pa && y.st == 1 &&
    decide (y.pa % 2 ^ 43 < e.pa % 2 ^ 43 + e.size) && decide (e.pa % 2 ^ 43 < y.pa % 2 ^ 43 + y.size)

/-- An earlier write of a thread to host memory has not taken effect: they do so in issue order (R481); of one ST, the bytes that a
lower lane writes too are its own first (R210).  A posted write of its bytes by any thread comes first. -/
def State.hostBehind (s : State) (id : Nat) (o : Op) (e : Elem) : Bool :=
  s.hostAhead id e ||
  (o.elems.any fun y => !y.done && inHost y.pa && decide (y.lane < e.lane ∧ y.pa < e.pa + e.size ∧ e.pa < y.pa + y.size)) ||
  s.ops.any fun x => decide (x.1 < id) && x.2.kind == .store && x.2.blk == o.blk && x.2.q == o.q &&
    x.2.elems.any fun y => !y.done && inHost y.pa && x.2.lanesOf y &&& o.lanesOf e != 0#32

/-- HOST_COMPLETION (R478): a read, a posted write, or an AtomicOp at the host's completer, whatever tarn 0 does (log 105). -/
def execHostCompletion (op lane : Nat) (unsupported : Bool) (s : State) : Out :=
  match s.op? op with
  | none => .next s
  | some o =>
    match o.elems.find? fun e => e.lane == lane && decide (e.st < 2) && inHost e.pa with
    | none => .next s
    | some e =>
      if !s.clearToAct o e then .next s
      else if !s.released o then .next (s.pushBack o.rel o.covers)
      else
        let a := e.pa % 2 ^ 43
        let old := readLE s.host a e.size
        match o.kind with
        | .load => .next (if s.hostAhead op e then s else s.capture op e old)
        | .store =>
          if s.hostBehind op o e then .next s
          else .next (({ s with host := writeLE s.host a e.size e.x.toNat }.mapElems op e.same fun x => { x with st := 3 }).retire)
        | .atom | .sigx =>
          if unsupported then .next ((s.failElem op e causeHostAtomic).retire)
          else
            if s.hostBehind op o e then .next s else
            let fails := rmwFails o.ins old e
            let s := (s.noteMet op o e).observe o e
            let s : State := if fails then s
              else { s.inherit op e with host := writeLE s.host a e.size (rmwNew o.ins old e) }
            .next ((s.mapElems op e.same fun x => { x with r := BitVec.ofNat 64 old, st := 3, quiet := fails }).retire)
        | _ => .next s

/-! ### Page walks (R202) -/

/-- PAGE_WALK (R198, R202). -/
def execPageWalk (core vpn : Nat) (s : State) : Out := .next (s.pageWalk core vpn)

/-! ### Completion (R209, R50) -/

/-- LOAD_COMPLETION: a read whose values are all there writes its destination; and the completion of the other flag-setting
operations that have no event of their own (R111, R215, R223, R288, R383, R428, R448, R455, R457, R462, R473, R474, R476). -/
def execLoadCompletion (op : Nat) (s : State) : Out :=
  match s.op? op with
  | none => .next s
  | some o =>
    let read (s : State) : State :=
      match s.op? op with
      | some o => if o.elems.all Elem.done then s.completeRead op else s
      | none => s
    .next (match o.kind with
      | .load => read (s.l1Hits op o)
      | .atom | .ldp | .shdw => read s
      | .lds => read (s.scratchRmw op)
      | .hinst => s.hinstDone op o
      | .hdrop => s.hdropDone op o
      | .lrev => s.lrevDone op o
      | .twrst => s.twrstDone op o
      | .keyld => s.keyldDone op o
      | .scrub | .tiermv | .poison => s.workDone op o
      | .retire => s.retireDone op o
      | .ctxstop =>
        (match s.block? o.n with
        | some B => (match B.st with | .stopping .. => s | _ => s.finishG op o 1)
        | none => s.finishG op o 1)
      | _ => s.retire)

end Sys2Proof.Machine
end

