-- ==== Sys2Proof/Machine/Dispatch.lean ====
section
/-! DEFINITION. What each instruction and event does: one arm per row of the opcode table. -/

namespace Sys2Proof.Machine

def exec (i : Instr) (s : State) : Host.Outcome State Fault Refusal :=
  match i with
  | .bra w => Sys2Proof.Machine.execBra w s
  | .brx w => Sys2Proof.Machine.execBrx w s
  | .call w => Sys2Proof.Machine.execCall w s
  | .callx w => Sys2Proof.Machine.execCallx w s
  | .ret w => Sys2Proof.Machine.execRet w s
  | .nop w => Sys2Proof.Machine.execNop w s
  | .exit w => Sys2Proof.Machine.execExit w s
  | .tail w => Sys2Proof.Machine.execTail w s
  | .yield w => Sys2Proof.Machine.execYield w s
  | .nap w => Sys2Proof.Machine.execNap w s
  | .qsync w => Sys2Proof.Machine.execQsync w s
  | .bkpt w => Sys2Proof.Machine.execBkpt w s
  | .trap w => Sys2Proof.Machine.execTrap w s
  | .rank w => Sys2Proof.Machine.execRank w s
  | .plop w => Sys2Proof.Machine.execPlop w s
  | .s2v w => Sys2Proof.Machine.execS2v w s
  | .s2g w => Sys2Proof.Machine.execS2g w s
  | .shfl w => Sys2Proof.Machine.execShfl w s
  | .vote w => Sys2Proof.Machine.execVote w s
  | .matchv w => Sys2Proof.Machine.execMatchv w s
  | .qred w => Sys2Proof.Machine.execQred w s
  | .iaddOneWord w => Sys2Proof.Machine.execIaddOneWord w s
  | .iaddTwoWord w => Sys2Proof.Machine.execIaddTwoWord w s
  | .iaddc w => Sys2Proof.Machine.execIaddc w s
  | .isubOneWord w => Sys2Proof.Machine.execIsubOneWord w s
  | .isubTwoWord w => Sys2Proof.Machine.execIsubTwoWord w s
  | .isubb w => Sys2Proof.Machine.execIsubb w s
  | .imulOneWord w => Sys2Proof.Machine.execImulOneWord w s
  | .imulTwoWord w => Sys2Proof.Machine.execImulTwoWord w s
  | .imulh w => Sys2Proof.Machine.execImulh w s
  | .imad w => Sys2Proof.Machine.execImad w s
  | .imadw w => Sys2Proof.Machine.execImadw w s
  | .imin w => Sys2Proof.Machine.execImin w s
  | .imax w => Sys2Proof.Machine.execImax w s
  | .iabs w => Sys2Proof.Machine.execIabs w s
  | .ineg w => Sys2Proof.Machine.execIneg w s
  | .isad w => Sys2Proof.Machine.execIsad w s
  | .andOneWord w => Sys2Proof.Machine.execAndOneWord w s
  | .andTwoWord w => Sys2Proof.Machine.execAndTwoWord w s
  | .orOneWord w => Sys2Proof.Machine.execOrOneWord w s
  | .orTwoWord w => Sys2Proof.Machine.execOrTwoWord w s
  | .xorOneWord w => Sys2Proof.Machine.execXorOneWord w s
  | .xorTwoWord w => Sys2Proof.Machine.execXorTwoWord w s
  | .andn w => Sys2Proof.Machine.execAndn w s
  | .lop3 w => Sys2Proof.Machine.execLop3 w s
  | .shlOneWord w => Sys2Proof.Machine.execShlOneWord w s
  | .shlTwoWord w => Sys2Proof.Machine.execShlTwoWord w s
  | .shrOneWord w => Sys2Proof.Machine.execShrOneWord w s
  | .shrTwoWord w => Sys2Proof.Machine.execShrTwoWord w s
  | .sar w => Sys2Proof.Machine.execSar w s
  | .shf w => Sys2Proof.Machine.execShf w s
  | .popc w => Sys2Proof.Machine.execPopc w s
  | .clz w => Sys2Proof.Machine.execClz w s
  | .ctz w => Sys2Proof.Machine.execCtz w s
  | .brev w => Sys2Proof.Machine.execBrev w s
  | .bfx w => Sys2Proof.Machine.execBfx w s
  | .bfi w => Sys2Proof.Machine.execBfi w s
  | .iset w => Sys2Proof.Machine.execIset w s
  | .isel w => Sys2Proof.Machine.execIsel w s
  | .movOneWord w => Sys2Proof.Machine.execMovOneWord w s
  | .movTwoWord w => Sys2Proof.Machine.execMovTwoWord w s
  | .movi w => Sys2Proof.Machine.execMovi w s
  | .lea w => Sys2Proof.Machine.execLea w s
  | .prmt w => Sys2Proof.Machine.execPrmt w s
  | .faddOneWord w => Sys2Proof.Machine.execFaddOneWord w s
  | .faddTwoWord w => Sys2Proof.Machine.execFaddTwoWord w s
  | .fmulOneWord w => Sys2Proof.Machine.execFmulOneWord w s
  | .fmulTwoWord w => Sys2Proof.Machine.execFmulTwoWord w s
  | .ffma w => Sys2Proof.Machine.execFfma w s
  | .fmin w => Sys2Proof.Machine.execFmin w s
  | .fmax w => Sys2Proof.Machine.execFmax w s
  | .fset w => Sys2Proof.Machine.execFset w s
  | .fclass w => Sys2Proof.Machine.execFclass w s
  | .frnd w => Sys2Proof.Machine.execFrnd w s
  | .fscl w => Sys2Proof.Machine.execFscl w s
  | .frcp w => Sys2Proof.Machine.execFrcp w s
  | .frsq w => Sys2Proof.Machine.execFrsq w s
  | .fsqrt w => Sys2Proof.Machine.execFsqrt w s
  | .fex2 w => Sys2Proof.Machine.execFex2 w s
  | .flg2 w => Sys2Proof.Machine.execFlg2 w s
  | .fsin w => Sys2Proof.Machine.execFsin w s
  | .fcos w => Sys2Proof.Machine.execFcos w s
  | .hadd2 w => Sys2Proof.Machine.execHadd2 w s
  | .hmul2 w => Sys2Proof.Machine.execHmul2 w s
  | .hfma2 w => Sys2Proof.Machine.execHfma2 w s
  | .hmnx2 w => Sys2Proof.Machine.execHmnx2 w s
  | .cvt w => Sys2Proof.Machine.execCvt w s
  | .cvtp w => Sys2Proof.Machine.execCvtp w s
  | .cvtx w => Sys2Proof.Machine.execCvtx w s
  | .f2i w => Sys2Proof.Machine.execF2i w s
  | .i2f w => Sys2Proof.Machine.execI2f w s
  | .qblk w => Sys2Proof.Machine.execQblk w s
  | .qtile w => Sys2Proof.Machine.execQtile w s
  | .unq w => Sys2Proof.Machine.execUnq w s
  | .plx w => Sys2Proof.Machine.execPlx w s
  | .pli w => Sys2Proof.Machine.execPli w s
  | .trlck w => Sys2Proof.Machine.execTrlck w s
  | .sclx w => Sys2Proof.Machine.execSclx w s
  | .ld w => Sys2Proof.Machine.execLd w s
  | .st w => Sys2Proof.Machine.execSt w s
  | .lds w => Sys2Proof.Machine.execLds w s
  | .sts w => Sys2Proof.Machine.execSts w s
  | .ldp w => Sys2Proof.Machine.execLdp w s
  | .stp w => Sys2Proof.Machine.execStp w s
  | .ldt w => Sys2Proof.Machine.execLdt w s
  | .stt w => Sys2Proof.Machine.execStt w s
  | .tdef w => Sys2Proof.Machine.execTdef w s
  | .tset w => Sys2Proof.Machine.execTset w s
  | .tqry w => Sys2Proof.Machine.execTqry w s
  | .pref w => Sys2Proof.Machine.execPref w s
  | .cctl w => Sys2Proof.Machine.execCctl w s
  | .tagld w => Sys2Proof.Machine.execTagld w s
  | .tagst w => Sys2Proof.Machine.execTagst w s
  | .fence w => Sys2Proof.Machine.execFence w s
  | .fsp w => Sys2Proof.Machine.execFsp w s
  | .atom w => Sys2Proof.Machine.execAtom w s
  | .red w => Sys2Proof.Machine.execRed w s
  | .atoms w => Sys2Proof.Machine.execAtoms w s
  | .atomp w => Sys2Proof.Machine.execAtomp w s
  | .redp w => Sys2Proof.Machine.execRedp w s
  | .pusht w => Sys2Proof.Machine.execPusht w s
  | .taket w => Sys2Proof.Machine.execTaket w s
  | .takeh w => Sys2Proof.Machine.execTakeh w s
  | .prop w => Sys2Proof.Machine.execProp w s
  | .dread w => Sys2Proof.Machine.execDread w s
  | .dwait w => Sys2Proof.Machine.execDwait w s
  | .recy w => Sys2Proof.Machine.execRecy w s
  | .dqry w => Sys2Proof.Machine.execDqry w s
  | .dinit w => Sys2Proof.Machine.execDinit w s
  | .bara w => Sys2Proof.Machine.execBara w s
  | .bars w => Sys2Proof.Machine.execBars w s
  | .barr w => Sys2Proof.Machine.execBarr w s
  | .sbar w => Sys2Proof.Machine.execSbar w s
  | .sbara w => Sys2Proof.Machine.execSbara w s
  | .waitx w => Sys2Proof.Machine.execWaitx w s
  | .sigx w => Sys2Proof.Machine.execSigx w s
  | .acp w => Sys2Proof.Machine.execAcp w s
  | .acpg w => Sys2Proof.Machine.execAcpg w s
  | .acpr w => Sys2Proof.Machine.execAcpr w s
  | .cwait w => Sys2Proof.Machine.execCwait w s
  | .shdw w => Sys2Proof.Machine.execShdw w s
  | .publ w => Sys2Proof.Machine.execPubl w s
  | .abnd w => Sys2Proof.Machine.execAbnd w s
  | .obres w => Sys2Proof.Machine.execObres w s
  | .obrel w => Sys2Proof.Machine.execObrel w s
  | .obld w => Sys2Proof.Machine.execObld w s
  | .obldg w => Sys2Proof.Machine.execObldg w s
  | .msign w => Sys2Proof.Machine.execMsign w s
  | .mma w => Sys2Proof.Machine.execMma w s
  | .mmaq w => Sys2Proof.Machine.execMmaq w s
  | .accz w => Sys2Proof.Machine.execAccz w s
  | .accst w => Sys2Proof.Machine.execAccst w s
  | .accrd w => Sys2Proof.Machine.execAccrd w s
  | .sprg w => Sys2Proof.Machine.execSprg w s
  | .sprgw w => Sys2Proof.Machine.execSprgw w s
  | .gbra w => Sys2Proof.Machine.execGbra w s
  | .gloop w => Sys2Proof.Machine.execGloop w s
  | .gaddOneWord w => Sys2Proof.Machine.execGaddOneWord w s
  | .gaddTwoWord w => Sys2Proof.Machine.execGaddTwoWord w s
  | .gsubOneWord w => Sys2Proof.Machine.execGsubOneWord w s
  | .gsubTwoWord w => Sys2Proof.Machine.execGsubTwoWord w s
  | .gmulOneWord w => Sys2Proof.Machine.execGmulOneWord w s
  | .gmulTwoWord w => Sys2Proof.Machine.execGmulTwoWord w s
  | .gmad w => Sys2Proof.Machine.execGmad w s
  | .gandOneWord w => Sys2Proof.Machine.execGandOneWord w s
  | .gandTwoWord w => Sys2Proof.Machine.execGandTwoWord w s
  | .gorOneWord w => Sys2Proof.Machine.execGorOneWord w s
  | .gorTwoWord w => Sys2Proof.Machine.execGorTwoWord w s
  | .gxorOneWord w => Sys2Proof.Machine.execGxorOneWord w s
  | .gxorTwoWord w => Sys2Proof.Machine.execGxorTwoWord w s
  | .gshlOneWord w => Sys2Proof.Machine.execGshlOneWord w s
  | .gshlTwoWord w => Sys2Proof.Machine.execGshlTwoWord w s
  | .gshrOneWord w => Sys2Proof.Machine.execGshrOneWord w s
  | .gshrTwoWord w => Sys2Proof.Machine.execGshrTwoWord w s
  | .gsarOneWord w => Sys2Proof.Machine.execGsarOneWord w s
  | .gsarTwoWord w => Sys2Proof.Machine.execGsarTwoWord w s
  | .gminOneWord w => Sys2Proof.Machine.execGminOneWord w s
  | .gminTwoWord w => Sys2Proof.Machine.execGminTwoWord w s
  | .gmaxOneWord w => Sys2Proof.Machine.execGmaxOneWord w s
  | .gmaxTwoWord w => Sys2Proof.Machine.execGmaxTwoWord w s
  | .gmov w => Sys2Proof.Machine.execGmov w s
  | .gmovi w => Sys2Proof.Machine.execGmovi w s
  | .gset w => Sys2Proof.Machine.execGset w s
  | .gsel w => Sys2Proof.Machine.execGsel w s
  | .gld w => Sys2Proof.Machine.execGld w s
  | .g2v w => Sys2Proof.Machine.execG2v w s
  | .v2g w => Sys2Proof.Machine.execV2g w s
  | .gplop w => Sys2Proof.Machine.execGplop w s
  | .launch w => Sys2Proof.Machine.execLaunch w s
  | .spawn w => Sys2Proof.Machine.execSpawn w s
  | .jdec w => Sys2Proof.Machine.execJdec w s
  | .tstat w => Sys2Proof.Machine.execTstat w s
  | .tcancel w => Sys2Proof.Machine.execTcancel w s
  | .gang w => Sys2Proof.Machine.execGang w s
  | .srrd w => Sys2Proof.Machine.execSrrd w s
  | .srwr w => Sys2Proof.Machine.execSrwr w s
  | .sysc w => Sys2Proof.Machine.execSysc w s
  | .eret w => Sys2Proof.Machine.execEret w s
  | .tlbinv w => Sys2Proof.Machine.execTlbinv w s
  | .lrev w => Sys2Proof.Machine.execLrev w s
  | .ctxstop w => Sys2Proof.Machine.execCtxstop w s
  | .ctxgo w => Sys2Proof.Machine.execCtxgo w s
  | .wcap w => Sys2Proof.Machine.execWcap w s
  | .triq w => Sys2Proof.Machine.execTriq w s
  | .trirs w => Sys2Proof.Machine.execTrirs w s
  | .twrst w => Sys2Proof.Machine.execTwrst w s
  | .keyld w => Sys2Proof.Machine.execKeyld w s
  | .scrub w => Sys2Proof.Machine.execScrub w s
  | .tiermv w => Sys2Proof.Machine.execTiermv w s
  | .poison w => Sys2Proof.Machine.execPoison w s
  | .retire w => Sys2Proof.Machine.execRetire w s
  | .hinst w => Sys2Proof.Machine.execHinst w s
  | .hdrop w => Sys2Proof.Machine.execHdrop w s
  | .rowrd w => Sys2Proof.Machine.execRowrd w s
  | .rowwr w => Sys2Proof.Machine.execRowwr w s
  | .rowred w => Sys2Proof.Machine.execRowred w s
  | .linerd w => Sys2Proof.Machine.execLinerd w s
  | .linewr w => Sys2Proof.Machine.execLinewr w s
  | .reply w => Sys2Proof.Machine.execReply w s
  | .clauseEntry b q addr => Sys2Proof.Machine.execClauseEntry b q addr s
  | .quireExchange b q => Sys2Proof.Machine.execQuireExchange b q s
  | .forcedExchange b => Sys2Proof.Machine.execForcedExchange b s
  | .ageingPick b q => Sys2Proof.Machine.execAgeingPick b q s
  | .napExpiry b q lane => Sys2Proof.Machine.execNapExpiry b q lane s
  | .loadCompletion op => Sys2Proof.Machine.execLoadCompletion op s
  | .transcendentalCompletion op => Sys2Proof.Machine.execTranscendentalCompletion op s
  | .trackerEntryDrain core entry => Sys2Proof.Machine.execTrackerEntryDrain core entry s
  | .blockCompletion b => Sys2Proof.Machine.execBlockCompletion b s
  | .lwin part rec whole => Sys2Proof.Machine.execLwin part rec whole s
  | .lwdropRead reg => Sys2Proof.Machine.execLwdropRead reg s
  | .bar0RegisterWrite part off val => Sys2Proof.Machine.execBar0RegisterWrite part off val s
  | .bar2Access part off n write data => Sys2Proof.Machine.execBar2Access part off n write data s
  | .launchAcceptance op => Sys2Proof.Machine.execLaunchAcceptance op s
  | .registration part succ => Sys2Proof.Machine.execRegistration part succ s
  | .joinDecrement part lid blk => Sys2Proof.Machine.execJoinDecrement part lid blk s
  | .leaseGrant part lid blk => Sys2Proof.Machine.execLeaseGrant part lid blk s
  | .blockDispatch core => Sys2Proof.Machine.execBlockDispatch core s
  | .sideDrain core side => Sys2Proof.Machine.execSideDrain core side s
  | .gangAcknowledge part gang member => Sys2Proof.Machine.execGangAcknowledge part gang member s
  | .gangTimeout part gang => Sys2Proof.Machine.execGangTimeout part gang s
  | .gangDecision part gang => Sys2Proof.Machine.execGangDecision part gang s
  | .watchdogCheck b => Sys2Proof.Machine.execWatchdogCheck b s
  | .externalWaitTimeout op => Sys2Proof.Machine.execExternalWaitTimeout op s
  | .waitxWake op => Sys2Proof.Machine.execWaitxWake op s
  | .cellAct op lane => Sys2Proof.Machine.execCellAct op lane s
  | .resultQuadWrite op => Sys2Proof.Machine.execResultQuadWrite op s
  | .requestStamp req => Sys2Proof.Machine.execRequestStamp req s
  | .stampedRequestAct req => Sys2Proof.Machine.execStampedRequestAct req s
  | .sliceRequest op line evict badBytes => Sys2Proof.Machine.execSliceRequest op line evict badBytes s
  | .writeBackDeadline tarn line => Sys2Proof.Machine.execWriteBackDeadline tarn line s
  | .uncorrectableReread line lasting => Sys2Proof.Machine.execUncorrectableReread line lasting s
  | .pageWalk core vpn => Sys2Proof.Machine.execPageWalk core vpn s
  | .mauSlot op lane => Sys2Proof.Machine.execMauSlot op lane s
  | .poolBankRmw op lane => Sys2Proof.Machine.execPoolBankRmw op lane s
  | .dequeService op lane => Sys2Proof.Machine.execDequeService op lane s
  | .ldtAttempt op => Sys2Proof.Machine.execLdtAttempt op s
  | .sttAonCommit op => Sys2Proof.Machine.execSttAonCommit op s
  | .qtileCompletion op => Sys2Proof.Machine.execQtileCompletion op s
  | .trlckStatusWrite op => Sys2Proof.Machine.execTrlckStatusWrite op s
  | .entryRead b => Sys2Proof.Machine.execEntryRead b s
  | .engineStart b ring words => Sys2Proof.Machine.execEngineStart b ring words s
  | .commandCompletion b ring => Sys2Proof.Machine.execCommandCompletion b ring s
  | .pathError b ring retryFails => Sys2Proof.Machine.execPathError b ring retryFails s
  | .uncorrectableSourceError b ring off => Sys2Proof.Machine.execUncorrectableSourceError b ring off s
  | .publExchange op => Sys2Proof.Machine.execPublExchange op s
  | .abndDiscard op => Sys2Proof.Machine.execAbndDiscard op s
  | .matrixCommandStart b num => Sys2Proof.Machine.execMatrixCommandStart b num s
  | .matrixCommandCompletion b num => Sys2Proof.Machine.execMatrixCommandCompletion b num s
  | .msignArrival op => Sys2Proof.Machine.execMsignArrival op s
  | .quadStepStart tarn quad lid => Sys2Proof.Machine.execQuadStepStart tarn quad lid s
  | .springMessageArrival b ring => Sys2Proof.Machine.execSpringMessageArrival b ring s
  | .handlerStart spring => Sys2Proof.Machine.execHandlerStart spring s
  | .stepLimit spring => Sys2Proof.Machine.execStepLimit spring s
  | .barrierArrival op => Sys2Proof.Machine.execBarrierArrival op s
  | .scopeBarrierRelease key phase => Sys2Proof.Machine.execScopeBarrierRelease key phase s
  | .trapEntry tarn => Sys2Proof.Machine.execTrapEntry tarn s
  | .ownTrap tarn => Sys2Proof.Machine.execOwnTrap tarn s
  | .saveAreaComplete b => Sys2Proof.Machine.execSaveAreaComplete b s
  | .hoffLimitExpiry b q gid => Sys2Proof.Machine.execHoffLimitExpiry b q gid s
  | .tarnReadmission tarn => Sys2Proof.Machine.execTarnReadmission tarn s
  | .triadDissent tarn plane copy => Sys2Proof.Machine.execTriadDissent tarn plane copy s
  | .triadResyncComplete tarn plane => Sys2Proof.Machine.execTriadResyncComplete tarn plane s
  | .duplexMismatch tarn plane recurs => Sys2Proof.Machine.execDuplexMismatch tarn plane recurs s
  | .dramThermalHalt tarn => Sys2Proof.Machine.execDramThermalHalt tarn s
  | .weirStep tarn up => Sys2Proof.Machine.execWeirStep tarn up s
  | .moduleReset module => Sys2Proof.Machine.execModuleReset module s
  | .tsvParityError spring pa fails => Sys2Proof.Machine.execTsvParityError spring pa fails s
  | .tsvRetraining spring => Sys2Proof.Machine.execTsvRetraining spring s
  | .retrainingComplete spring ok => Sys2Proof.Machine.execRetrainingComplete spring ok s
  | .activationAlert spring row slot => Sys2Proof.Machine.execActivationAlert spring row slot s
  | .mitigationWindowEnd spring row => Sys2Proof.Machine.execMitigationWindowEnd spring row s
  | .podRequestDelivery op => Sys2Proof.Machine.execPodRequestDelivery op s
  | .flitFailure tarn lasting => Sys2Proof.Machine.execFlitFailure tarn lasting s
  | .podRekey tarn ok => Sys2Proof.Machine.execPodRekey tarn ok s
  | .tdispStateTransition part target => Sys2Proof.Machine.execTdispStateTransition part target s
  | .tdispError part => Sys2Proof.Machine.execTdispError part s
  | .getVersion part => Sys2Proof.Machine.execGetVersion part s
  | .getCapabilities part => Sys2Proof.Machine.execGetCapabilities part s
  | .negotiateAlgorithms part => Sys2Proof.Machine.execNegotiateAlgorithms part s
  | .getDigests part => Sys2Proof.Machine.execGetDigests part s
  | .getCertificate part => Sys2Proof.Machine.execGetCertificate part s
  | .challenge part nonce => Sys2Proof.Machine.execChallenge part nonce s
  | .getMeasurements part nonce => Sys2Proof.Machine.execGetMeasurements part nonce s
  | .keyExchange part share => Sys2Proof.Machine.execKeyExchange part share s
  | .finish part mac => Sys2Proof.Machine.execFinish part mac s
  | .cleanSpanWordDrop tarn sector word => Sys2Proof.Machine.execCleanSpanWordDrop tarn sector word s
  | .hostCompletion op lane unsupported => Sys2Proof.Machine.execHostCompletion op lane unsupported s
  | .apertureWaitxReread op => Sys2Proof.Machine.execApertureWaitxReread op s
  | .forwardingStopFailure tarn => Sys2Proof.Machine.execForwardingStopFailure tarn s
  | .lpddr6LinkCrcError tarn pa fails => Sys2Proof.Machine.execLpddr6LinkCrcError tarn pa fails s

end Sys2Proof.Machine
end

