-- ==== Sys2Proof/Machine/Schedule.lean ====
section
/-! DEFINITION. What one turn of the machine does: an issue cycle of a core (R89 to R91, R459), a step of a spring's handler
(R429), an event; and what follows every turn.  The turns stand in the agenda; with none there, a turn goes in rotation to what
is due (log 1). -/

namespace Sys2Proof.Machine

/-! ### After an instruction -/

/-- The members of a group that still stand inside its clause: parked at a QSYNC or a WAITX. -/
def Quire.standing (Q : Quire) (g : Group) : BitVec 32 :=
  laneMask ((laneList g.lanes).filter fun l => match (tget Q.threads l {}).wait with | .qsync _ | .waitx _ => true | _ => false)

/-- A group's clause has issued all its words. -/
def Group.past (g : Group) : Bool := decide (g.words.length < g.widx)

/-- A thread is parked at a barrier or an external wait, whose participants are released at different times (R322, R326, R329). -/
def Wait.parked : Wait → Bool
  | .named .. | .scope .. | .waitx _ => true
  | _ => false

/-- The members of a group that stand parked. -/
def Quire.parkedIn (Q : Quire) (g : Group) : BitVec 32 := laneMask ((laneList g.lanes).filter fun l => (tget Q.threads l {}).wait.parked)

/-- Inside a clause the members of a group that have been released from where others of it stay parked go on as a group of their own
(R322, R326, R329, log 41); the new groups are numbered from `n` on. -/
def Quire.splitReleased (Q old : Quire) (n : Nat) : Quire :=
  Q.groups.foldl (fun Q g =>
    let stay := Q.parkedIn g.2
    let go := old.parkedIn g.2 &&& ~~~ stay
    if g.2.past ∨ stay = 0#32 ∨ go = 0#32 then Q
    else
      let rest := { g.2 with lanes := g.2.lanes &&& ~~~ go }
      let out : Group := { g.2 with lanes := go, held := false, age := 0, ended := 0#32 }
      { Q with groups := tput (tput Q.groups g.1 rest) (n + Q.groups.length) out }) Q

/-- A thread leaves its group for the header that follows its clause; one that waits at a barrier there keeps the place of its wait
(R335). -/
def Thread.leaveClause (g : Group) (t : Thread) : Thread :=
  { t with
    pc := g.nextClause
    waitAt := match t.wait with | .named .. | .scope .. => some (g.clause, g.widx - 2) | _ => none }

/-- A group whose clause is over lets the members go that do not stand at its last word: they are at the header that follows (R54);
with YLD its quire gives up its next issue cycle (R56).  A group that has no member left is dissolved. -/
def Quire.dissolve (Q : Quire) : Quire :=
  Q.groups.foldl (fun Q g =>
    let stay := if g.2.past then Q.standing g.2 else g.2.lanes
    let go := g.2.lanes &&& ~~~ stay
    let yields := g.2.yld && g.2.past
    { Q with
      groups := if stay = 0#32 ∧ (g.2.past = true ∨ g.2.ended = 0#32) then tdel Q.groups g.1
        else if g.2.past then tput Q.groups g.1 { g.2 with lanes := stay, yld := false } else Q.groups
      skip := Q.skip || yields
      threads := if g.2.past then Q.threads.map fun t => if go.getLsbD t.1 then (t.1, t.2.leaveClause g.2) else t
        else Q.threads }) Q

def State.dissolve (s : State) (b q : Nat) : State := s.updQuire b q Quire.dissolve

/-- A quire has a group to dissolve. -/
def Quire.loose (Q : Quire) : Bool := Q.groups.any fun g => g.2.past || (g.2.lanes == 0#32 && g.2.ended == 0#32)

/-- The threads that issue an instruction. -/
def Ctx.issuers (c : Ctx) (i : Instr) : List Nat :=
  match i.head, i.fields with
  | some h, some (.w2 w) =>
    if h.set then c.uniform w.p (w.n && !h.flag) else c.participants w.p (w.n && !h.flag)
  | some h, some (.w1 w) => if h.set then c.uniform w.p w.n else c.participants w.p w.n
  | _, _ => c.members

/-- Instructions that clear the deque-spin bit of their threads as they issue (R334). -/
def clearsSpin (i : Instr) : Bool :=
  ordered i && match i with | .taket _ | .takeh _ | .fence _ | .fsp _ | .tdef _ | .tset _ | .tqry _ => false | _ => true

/-- The lanes to which an instruction carries values, and those from which each receives (R245): of a G register, every thread of the
quire, which may read it later (log 102); of a QSYNC, the threads that meet at it. -/
def Ctx.carries (c : Ctx) (i : Instr) : List Nat × (Nat → List Nat) :=
  let ls := c.issuers i
  let all := c.Q.threads.map (·.1)
  match i with
  | .shfl w => (ls, fun l =>
      let r := shflSrc (w.x.sub.toNat % 4) (32 / 2 ^ (w.x.sub.toNat / 4)) l (opB c.Q (c.thread l) w false 0)
      if r.2 && ls.contains r.1 then [r.1] else [])
  | .vote _ | .matchv _ | .qblk _ | .plx _ | .pli _ => (ls, fun _ => ls)
  | .qred w => (if w.x.sub.getLsbD 3 then all else ls, fun _ => ls)
  | .v2g w => (all, fun _ => [if sub0 w then ls.headD 32 else opBG c.Q w false 0])
  | .qsync _ =>
    let met := ls ++ c.Q.parked c.gr.clause (c.gr.widx + 2)
    (met, fun _ => met)
  | _ => ([], fun _ => [])

/-- Whether a group stands before its instruction and has to try it again. -/
def State.isHeld (s : State) (b q g : Nat) : Bool :=
  match s.block? b with
  | some B => (match tget? B.quires q with
    | some Q => (match tget? Q.groups g with | some x => x.held | none => false)
    | none => false)
  | none => false

/-- A group issues its next instruction. -/
def State.issueWord (s : State) (b q g : Nat) : Out :=
  let s := { s with cur := .group b q g }
  match s.ctx? with
  | none => .next { s with cur := .idle }
  | some c =>
    match c.gr.nextInstr with
    | none => .next { s with cur := .idle }
    | some (i, _) =>
      match exec i s with
      | .next s' =>
        if s'.isHeld b q g then .next { s' with cur := .idle }
        else
          let s' := if clearsSpin i then s'.mapLanes b q (c.issuers i) fun _ t => { t with spin := false } else s'
          let s' := s'.passLanes c (c.carries i).1 (c.carries i).2
          .next { s'.dissolve b q with cur := .idle }
      | o => o

/-! ### An issue cycle -/

/-- What a choice costs its quire and the others (R56, R90, R91): the quire has issued; the candidates passed over age, and the
others start again; the turn that a quire gives up is spent. -/
def State.chosen (s : State) (b q : Nat) (B : Block) (c : Cand) : State :=
  let cands := match tget? B.quires q with | some Q => s.candidates b q B Q | none => []
  let passed (x : Cand) : Bool := x != c && cands.contains x
  let first := (bestOf issuedBefore (s.readyQuires b B)).map (·.1)
  s.setBlock b { B with
    issues := B.issues + 1
    quires := B.quires.map fun (x : Nat × Quire) =>
      if x.1 = q then
        (q, { x.2 with
          lastIssue := some B.issues
          skip := false
          groups := x.2.groups.map fun g => (g.1, { g.2 with
            age := match cands.find? fun k => k.gid == some g.1 with | some k => if passed k then k.age + 1 else 0 | none => 0 })
          headAge := cands.filterMap fun k => if k.gid.isNone && passed k then some (k.addr, k.age + 1) else none })
      else if some x.1 == first then (x.1, { x.2 with skip := false }) else x }

/-- The block whose context a core runs. -/
def State.blockOn (s : State) (core : Nat) : Option Nat := if coreNum core = 24 then some (coreTarn core) else (s.core core).run

/-- A header is chosen: its group enters the clause and issues the first word in the same cycle, if it can. -/
def State.enterAndIssue (s : State) (b q addr : Nat) : Out :=
  let old := s.groupsOf b q
  match enterClause b q (BitVec.ofNat 64 addr) s with
  | .next s' =>
    match (s'.groupsOf b q).find? fun g => !old.contains g with
    | some g =>
      let ready := match s'.block? b with
        | some B => (match tget? B.quires q with
          | some Q => (match tget? Q.groups g with | some x => s'.groupReady b q Q x | none => false)
          | none => false)
        | none => false
      if ready then s'.issueWord b q g else .next s'
    | none => .next s'
  | o => o

/-- The chosen candidate issues; a group that cannot go past its word has not issued. -/
def State.issueCand (s : State) (b q : Nat) (B : Block) (c : Cand) : Out :=
  let s1 := s.chosen b q B c
  match c.gid with
  | some g =>
    match s1.issueWord b q g with
    | .next s' => if s'.isHeld b q g then s.issueWord b q g else .next s'
    | o => o
  | none => s1.enterAndIssue b q c.addr

/-- An issue cycle of a core: the candidate that R90 and R91 choose. -/
def issueTurn (core : Nat) (s : State) : Out :=
  match s.blockOn core with
  | none => .next s
  | some b =>
    match s.block? b with
    | none => .next s
    | some B =>
      if !s.running b B then .next s
      else match s.chooseQuire b (B.settled s.clk) with
        | none => .next s
        | some (q, c) => s.issueCand b q B c

/-- The cycle of a group that an event has named as the core's choice: it issues, if it can. -/
def State.issueNamed (s : State) (b q g : Nat) : Out :=
  match s.block? b with
  | none => .next { s with cur := .idle }
  | some B =>
    let cands := match tget? B.quires q with | some Q => s.candidates b q B Q | none => []
    match cands.find? fun k => k.gid == some g with
    | some c => s.issueCand b q B c
    | none => .next { s.chosen b q B { addr := 0, count := 0, order := g, age := 0, gid := some g } with cur := .idle }

/-! ### A step of a handler (R429, R433) -/

/-- A step of the handler that a spring runs. -/
def handlerTurn (gs : Nat) (s : State) : Out :=
  let sp := s.spring gs
  match sp.run with
  | none => .next s
  | some m =>
    let ws := match tget? sp.slots m.slot with | some x => x.2 | none => []
    if ws.length ≤ sp.at_ then .next (s.endHandler gs 0 0 0#32 outEnd)
    else if 256 ≤ sp.steps then execStepLimit gs s
    else
      match decodeRaw (ws.drop sp.at_) with
      | .error _ => .next (s.endHandler gs 0 0 0#32 outEnd)
      | .ok (i, _) =>
        match exec i { s.updSpring gs fun sp => { sp with steps := sp.steps + 1 } with cur := .spring gs } with
        | .next s' => .next { s' with cur := .idle }
        | o => o

/-! ### What is due -/

/-- What may happen next to an operation. -/
def opDues (s : State) (i : Nat) (o : Op) : List (State → Out) :=
  let rmw := o.kind == .atom || o.kind == .red || o.kind == .sigx
  let open_ := o.elems.filter fun e => !e.done && (rmw || e.st != 7)
  let e? := open_[s.clk % (open_.length + 1)]? <|> open_.head?
  let lane := e?.elim 0 (·.lane)
  let line := e?.elim 0 fun e => lineOf e.pa
  let first := (o.elems.find? fun e => e.st == 0).elim 0 (·.lane)
  match o.kind with
  | .load | .store | .tagSt | .fetch | .cctl =>
    [execSliceRequest i line [] 0, execPodRequestDelivery i, execHostCompletion i lane false, execLoadCompletion i]
  | .stt => [execSliceRequest i line [] 0, execPodRequestDelivery i, execSttAonCommit i]
  | .atom | .red | .sigx => [execMauSlot i lane, execPodRequestDelivery i, execHostCompletion i lane false, execLoadCompletion i]
  | .cell => [execCellAct i lane, execPodRequestDelivery i, execResultQuadWrite i]
  | .ldt => [execLdtAttempt i]
  | .waitx => [execWaitxWake i, execApertureWaitxReread i, execExternalWaitTimeout i]
  | .trans => [execTranscendentalCompletion i]
  | .qtile => [execQtileCompletion i]
  | .trlck => [execTrlckStatusWrite i]
  | .poolAtom => [execPoolBankRmw i first]
  | .deque => [execDequeService i first]
  | .publ => [execPublExchange i]
  | .abnd => [execAbndDiscard i]
  | .bar | .sbar => [execBarrierArrival i]
  | .msign => [execMsignArrival i]
  | .launch => [execLaunchAcceptance i]
  | .twrst => if o.m = 1 then [execTarnReadmission o.n] else [execLoadCompletion i]
  | .scrub | .tiermv | .poison => [execSliceRequest i o.workLine [] 0, execLoadCompletion i]
  | _ => [execLoadCompletion i]

/-- What may happen next in a block. -/
def blockDues (b : Nat) (B : Block) : List (State → Out) :=
  let t := coreTarn B.core
  let naps := (B.quires.map fun q => (q.2.threads.filter fun t => match t.2.wait with | .nap .. => true | _ => false).map fun t =>
    execNapExpiry b q.1 t.1).flatten
  let late := (B.quires.map fun q => q.2.groups.map fun g => execHoffLimitExpiry b q.1 g.1).flatten
  [execBlockCompletion b, execSaveAreaComplete b, execEntryRead b, execWatchdogCheck b] ++
    (if B.pending.isEmpty then [] else execForcedExchange b :: B.active.map fun q => execQuireExchange b q) ++
    ((if B.iring.isEmpty then [] else [0]) ++ if B.dring.isEmpty then [] else [1]).flatMap (fun r =>
      [execEngineStart b r [], execCommandCompletion b r, execSpringMessageArrival b r]) ++
    (B.mq.flatMap fun m => [execMatrixCommandStart b m.num, execMatrixCommandCompletion b m.num, execQuadStepStart t (coreNum B.core / 4) B.lid]) ++
    naps ++ late

/-- What may happen next at a core, a tarn and a partition. -/
def coreDues (k : Nat) (C : Core) : List (State → Out) :=
  (C.walks.map fun v => execPageWalk k v) ++ (C.tracker.map fun e => execTrackerEntryDrain k e.1) ++
    C.sides.map fun e => execSideDrain k e.1

def tarnDues (t : Nat) (T : Tarn) : List (State → Out) :=
  (if T.traps.isEmpty then [] else [execTrapEntry t]) ++ (if T.own.isEmpty then [] else [execOwnTrap t]) ++
    (T.planes.filterMap fun p => if p.2.mode = 1 then some (execTriadResyncComplete t p.1) else none) ++
    (T.springs.flatMap fun e => [execHandlerStart (t * 64 + e.1), handlerTurn (t * 64 + e.1)]) ++
    (let l := weirLadder T.wpol
     if l.contains T.weir && decide (weirPlace l T.cap ≤ weirPlace l T.weir) then [] else [execWeirStep t true]) ++
    (T.dir.filterMap fun e => if e.2.grant.isSome && lineHome e.1 != t then some (execWriteBackDeadline t e.1) else none) ++
    if T.queues.all fun q => q.2.isEmpty then [] else (List.range 24).map fun c => execBlockDispatch (t * 25 + c)

def partDues (p : Nat) (P : Part) : List (State → Out) :=
  (P.launches.flatMap fun L => execRegistration p L.1 :: L.2.tasks.flatMap fun k =>
    (if k.2.st = 1 then [execLeaseGrant p L.1 k.1] else []) ++ if k.2.pend = 0 then [] else [execJoinDecrement p L.1 k.1]) ++
    P.gangs.flatMap fun g =>
      [execGangTimeout p g.1, execGangDecision p g.1] ++ (List.range 256).filterMap fun m =>
        if (gMembers g.2.desc).testBit m && !g.2.acks.contains m then some (execGangAcknowledge p g.1 m) else none

/-- Everything that may happen next, without a choice from outside. -/
def State.dues (s : State) : List (State → Out) :=
  (s.cores.map (fun (c : Nat × Core) => issueTurn c.1)) ++ (s.tarns.map fun (t : Nat × Tarn) => issueTurn (t.1 * 25 + 24)) ++
    (s.ops.flatMap fun x => opDues s x.1 x.2) ++
    (s.ring.flatMap fun r => [execRequestStamp r.1, execStampedRequestAct r.1]) ++
    (s.blocks.flatMap fun b => blockDues b.1 b.2) ++ (s.cores.flatMap fun c => coreDues c.1 c.2) ++
    (s.tarns.flatMap fun t => tarnDues t.1 t.2) ++ (s.parts.flatMap fun p => partDues p.1 p.2) ++
    s.sbarDone.map fun d => execScopeBarrierRelease d.1 (d.2.num + 1)

/-- The turn of an empty agenda: what is due, in rotation by %clk. -/
def defaultTurn (s : State) : Out :=
  let ds := s.dues
  match ds[s.clk % (ds.length + 1)]? with
  | some f => f s
  | none => .next s

/-! ### A turn -/

/-- Guest slices write back the lines that a core was granted M on 1,000 clk ago or more (R269). -/
def State.writeBackLate (s : State) : State :=
  s.tarns.foldl (fun s x => x.2.dir.foldl (fun s e => match e.2.grant with
    | some g => if g + 1000 ≤ s.clk ∧ lineHome e.1 ≠ x.1 then s.sendWriteBack x.1 e.1 else s
    | none => s) s) s

/-- Cores that have become idle note the cycle (R350). -/
def State.stampIdle (s old : State) : State :=
  s.cores.foldl (fun s x =>
    if s.coreIdle x.1 && !old.coreIdle x.1 then s.updCore x.1 fun C => { C with idleAt := s.clk } else s) s

/-- Instructions that may stand at their word until an event: they access memory or command a unit, end their thread behind its
operations, call the supervisor, or stop for a debugger. -/
def mayStand (i : Instr) : Bool :=
  ordered i || i.isPrivileged || match i with | .tail _ | .bkpt _ | .sysc _ | .gld _ | .cwait _ | .obrel _ => true | _ => false

/-- A group whose next instruction may stand tries it: it is held, with what the attempt asks for, while it cannot go past it; else
nothing has happened (R52, R92). -/
def State.tryGroup (s : State) (b q : Nat) (Q : Quire) (g : Nat × Group) : State :=
  let free : Group := { g.2 with held := false }
  match free.nextInstr with
  | none => s
  | some (i, _) =>
    let s0 := if g.2.held then s.updGroup b q g.1 fun x => { x with held := false } else s
    let fresh := match i with | .tail _ => g.2.ended == 0#32 | _ => false
    if !mayStand i || fresh then s0
    else
      if !s.groupReady b q Q free then s0
      else match exec i { s0 with cur := .group b q g.1 } with
        | .next s' => if s'.isHeld b q g.1 then { s' with cur := s.cur } else s0
        | _ => s0

/-- Every group of the running contexts tries its next instruction. -/
def State.tryGroups (s : State) : State :=
  s.blocks.foldl (fun s x =>
    if !s.running x.1 x.2 then s
    else x.2.quires.foldl (fun s q => q.2.groups.foldl (fun s g => s.tryGroup x.1 q.1 q.2 g) s) s) s

/-- Groups of every quire are dissolved that an event has left behind. -/
def State.dissolveAll (s : State) : State :=
  s.blocks.foldl (fun s x => x.2.quires.foldl (fun s q => if q.2.loose then s.dissolve x.1 q.1 else s) s) s

/-- Released participants leave their groups in every quire where others of them stay parked (log 41). -/
def State.splitReleased (s old : State) : State :=
  s.blocks.foldl (fun s x => x.2.quires.foldl (fun s q =>
    match (old.block? x.1).bind fun B => tget? B.quires q.1 with
    | none => s
    | some O =>
      if q.2.groups.all fun g => O.parkedIn g.2 == 0#32 then s
      else
        let Q := q.2.splitReleased O s.next
        if Q.groups.length = q.2.groups.length then s
        else { s.updQuire x.1 q.1 fun _ => Q with next := s.next + Q.groups.length }) s) s

/-- The fetches of every running context that are not under way are asked for. -/
def State.fetchAll (s : State) : State :=
  s.blocks.foldl (fun s x => if s.running x.1 x.2 then s.askFetches x.1 x.2 else s) s

/-- Active quires that are stalled long make way for pending ones that are ready (R93). -/
def State.exchangeAll (s : State) : State :=
  s.blocks.foldl (fun s x => if x.2.pending.isEmpty then s else x.2.active.foldl (fun s q => s.exchangeStalled x.1 q) s) s

/-- The exchanges of R94 whose cycles a number of clk has reached: at each multiple of 256 of a core's own %clk, the earliest first. -/
def State.exchangeDue (s : State) (dt : Nat) : State :=
  s.blocks.foldl (fun s x =>
    let k := s.coreClk x.2.core % 256
    let n := (dt + 255 - k) / 256
    if x.2.pending.isEmpty then s
    else (List.range n).foldl (fun s j =>
      { ({ s with clk := s.clk - (k + 256 * (n - 1 - j)) }).exchangeForced x.1 with clk := s.clk }) s) s

/-- What follows every turn: released participants part from those that stay parked, and groups that an event has left behind are
dissolved; finished writes leave, and pool requests whose release is held back no longer are sent; a restored context runs on a core that
has become free; results that landed in stopped contexts enter their save areas; caches make room for what has been allocated; clauses
that are not at hand are fetched; groups try the instructions at which they may stand; quires that are stalled long are exchanged; the
watchdog's clock of a context that is no longer deadlocked stops. -/
def State.afterTurn (s old : State) : State :=
  let s := (((((((s.splitReleased old).dissolveAll.cctlDone.retire.sendPools.startWaiting.withdrawLate).syncSaved old).writeBackLate).fitAll old).stampIdle old).fetchAll.tryGroups).exchangeAll
  s.blocks.foldl (fun s x =>
    if x.2.stuck.isSome && s.running x.1 x.2 && !s.deadlocked x.1 x.2 then s.setBlock x.1 { x.2 with stuck := none } else s) s

/-- An instruction is no event. -/
def eventTurn (e : Instr) (s : State) : Out := if e.fields.isSome then .refused .noSuchEvent else exec e s

/-- After CLAUSE_ENTRY or AGEING_PICK the group that it has named issues in the same cycle (R50, R91). -/
def follow (e : Instr) (s : State) : Out :=
  match e, s.cur with
  | .clauseEntry .., .group b q g | .ageingPick .., .group b q g => s.issueNamed b q g
  | _, _ => .next s

/-- A turn of the agenda acts. -/
def actTurn (a : Act) (s : State) : Out :=
  match a with
  | .idle => .next s
  | .issue c => issueTurn c s
  | .handler g => handlerTurn g s
  | .event e => match eventTurn e s with | .next s' => follow e s' | o => o

/-- The machine's next turn: the clk that pass before it, what acts, and what follows. -/
def turn (s : State) : Out :=
  let r := match s.agenda with
    | [] => defaultTurn ({ s with clk := s.clk + 1, cur := .idle }.exchangeDue 1)
    | t :: ts => actTurn t.act ({ s with clk := s.clk + t.dt, agenda := ts, cur := .idle }.exchangeDue t.dt)
  match r with
  | .next s' => .next (s'.afterTurn s)
  | o => o

/-! ### A program placed for the next turn (log 9) -/

/-- The words of an instruction whose bits are w. -/
def placedWords (nbits w : Nat) : List Word :=
  let v := w % 2 ^ nbits
  let w0 := BitVec.ofNat 32 v
  if isTwoWord w0 then [w0, BitVec.ofNat 32 (v / 2 ^ 32)] else [w0]

/-- The clause of a placed instruction: a header with set-flags 0 and 1, and its words (R48). -/
def placedClause (ws : List Word) : List Word :=
  BitVec.ofNat 32 (0x7F * 2 ^ 25 + ws.length * 2 ^ 21 + 0 * 2 ^ 5 + 1 * 2 ^ 1) :: ws

/-- A quire whose threads stand at the placed clause. -/
def placedQuire (lanes : Nat) : Quire :=
  { threads := (List.range lanes).map fun l => (l, { pc := 0x10000#64 }) }

/-- A user block on core 0 with one quire of 32 threads at the placed clause, which a lease covers. -/
def placedBlock : Block :=
  { core := 0, part := 0, lid := 0, bflat := 0, ltarn := 0, code := 0#64, frame := 0#64, quires := [(0, placedQuire 32)], active := [0]
    leases := [{ base := 0x10000, len := 0x10000, mode := 2 }] }

/-- The page of the placed clause: readable, writable, executable, at the physical address that equals its virtual one. -/
def placedPage : Xlat := { part := 0, va := 0x10000, sz := 16, pte := 0x10073#64 }

/-- An instruction stands where the next turn fetches it, as a clause of its own in the first granule but one of DRAM: a privileged
one for tarn 0's supervisor core, any other for a block on core 0; one of handlers stands at spring 0, running. -/
def placed (s : State) (nbits w : Nat) : State :=
  let ws := placedWords nbits w
  let i? := decodeRaw ws
  let priv := match i? with | .ok (i, _) => i.isPrivileged | _ => false
  let hand := match i? with | .ok (i, _) => i.isHandlerOnly | _ => false
  let core := if priv then 24 else 0
  if hand then
    let m : Msg := { pa := 0, slot := 0, arg0 := 0#64, arg1 := 0#64, sender := 0#32, src := (firstBlock, 0, 0), scope := 0 }
    { s.updSpring 0 fun sp => { sp with slots := tput sp.slots 0 (1, ws), run := some m, at_ := 0, steps := 0 } with
      agenda := ⟨0, .handler 0⟩ :: s.agenda }
  else
    let s : State := { s with mem := writeBytes s.mem 0x10000 ((placedClause ws).map bytesOfWord).flatten }
    let s := s.updCore core fun C => { C with tlb := [placedPage] }
    if priv then
      { s.setBlock 0 { Block.supervisor 0 with quires := [(0, placedQuire 1)] } with agenda := ⟨0, .issue 24⟩ :: s.agenda }
    else
      { (s.setBlock firstBlock placedBlock).updCore 0 fun C => { C with run := some firstBlock } with
        next := max s.next (firstBlock + 1), agenda := ⟨0, .issue 0⟩ :: s.agenda }

end Sys2Proof.Machine
end

