-- ==== Sys2Proof/Machine/Step.lean ====
section
/-! DEFINITION. One step of the machine, and an instruction placed for the next step. -/

namespace Sys2Proof.Machine

/-- One step: the machine's next turn. -/
def step (s : State) : Host.Outcome State Fault Refusal := turn s

/-- The state with an instruction standing where the next step issues it (log 9). -/
def State.withFetchWord (s : State) (nbits w : Nat) : State := placed s nbits w

end Sys2Proof.Machine
end

