-- ==== Sys2Proof/Safety.lean ====
section
/-! DEFINITION. The terms in which claims about a step are stated: the state with one part replaced (so that an equation with it
is also the frame: everything else is as before), the threads of an issuing group changed by one rule, what an
instruction enters as an operation, and the canonical form of the machine's memories. -/

namespace Sys2Proof.Machine

/-- The state with the issuing quire replaced, and nothing else changed. -/
def State.putQuire (s : State) (c : Ctx) (Q : Quire) : State :=
  { s with blocks := tput s.blocks c.b { c.B with quires := tput c.B.quires c.q Q } }

/-- A quire with the threads of some lanes changed by a rule, and nothing else. -/
def Quire.onLanes (Q : Quire) (ls : List Nat) (f : Nat → Thread → Thread) : Quire :=
  { Q with threads := Q.threads.map fun e => if ls.contains e.1 then (e.1, f e.1 e.2) else e }

/-- A quire whose issuing group has gone k words on, and nothing else. -/
def Ctx.past (c : Ctx) (k : Nat) (Q : Quire) : Quire :=
  { Q with groups := tput Q.groups c.gid { c.gr with widx := c.gr.widx + k, stage := 0 } }

/-- The instruction completes: its next state is the old one with the threads of `ls` changed by `f` and the group gone past
its `k` words.  Nothing else changes: no other thread, quire, block, core or tarn, no uniform register, no special register, no
byte of any memory. -/
def Lanes (i : Instr) (s : State) (c : Ctx) (k : Nat) (ls : List Nat) (f : Nat → Thread → Thread) : Prop :=
  exec i s = .next (s.putQuire c (c.past k (c.Q.onLanes ls f)))

/-- The uniform counterpart: the quire's uniform registers changed by `f` when the guard is true. -/
def Uniform (i : Instr) (s : State) (c : Ctx) (k : Nat) (ok : Bool) (f : Quire → Quire) : Prop :=
  exec i s = .next (s.putQuire c (c.past k (if ok then f c.Q else c.Q)))

/-- The same instruction in a spring handler (R429): the handler's registers change, and its position. -/
def Handler (i : Instr) (s : State) (gs k : Nat) (p : BitVec 3) (n : Bool) (f : Quire → Quire) : Prop :=
  exec i s = .next (s.updSpring gs fun sp =>
    let q : Quire := { g := sp.g, gp := sp.gp }
    { sp with g := if guardOk sp.gp p n then (f q).g else sp.g
              gp := if guardOk sp.gp p n then (f q).gp else sp.gp
              at_ := sp.at_ + k })

/-- A uniform instruction completes wherever it may stand: in a group, or in a handler. -/
def EitherPlace (i : Instr) (s : State) (k : Nat) (p : BitVec 3) (n : Bool) (f : Quire → Quire) : Prop :=
  (∀ c, s.ctx? = some c → Uniform i s c k (guardOk c.Q.gp p n) f) ∧ (∀ gs, s.cur = .spring gs → Handler i s gs k p n f)

/-- A quire whose issuing group has gone k words on and lost some lanes. -/
def Ctx.gone (c : Ctx) (k : Nat) (ls : List Nat) (Q : Quire) : Quire :=
  let gr := { c.gr with widx := c.gr.widx + k, stage := 0, lanes := c.gr.lanes &&& ~~~ (laneMask ls) }
  { Q with groups := tput Q.groups c.gid gr }

/-- A control transfer: when every target is aligned to 4 bytes, the threads of `ls` leave the group for their targets, changed by
`f`, and nothing else changes; the first target that is not ends in the illegal-encoding trap, sub-cause 0xC. -/
def Transfers (i : Instr) (s : State) (c : Ctx) (k : Nat) (ls : List Nat) (tgt : Nat → BitVec 64) (f : Nat → Thread → Thread) : Prop :=
  ((∀ l ∈ ls, (tgt l).toNat % 4 = 0) →
    exec i s = .next (s.putQuire c (c.gone k ls (c.Q.onLanes ls fun l t => { f l t with pc := tgt l })))) ∧
  (∀ l, ls.find? (fun l => (tgt l).toNat % 4 != 0) = some l → exec i s = .next (s.raise c causeIllegal 0xC l 0#64))

/-- A control transfer that also changes the quire's return-address stack, when some participant takes it (R98). -/
def Returns (i : Instr) (s : State) (c : Ctx) (k : Nat) (ls : List Nat) (tgt : Nat → BitVec 64) (f : Nat → Thread → Thread)
    (r : List (BitVec 64) → List (BitVec 64)) : Prop :=
  ((∀ l ∈ ls, (tgt l).toNat % 4 = 0) →
    exec i s = .next (s.putQuire c { c.gone k ls (c.Q.onLanes ls fun l t => { f l t with pc := tgt l }) with
      retStack := if ls = [] then c.Q.retStack else r c.Q.retStack })) ∧
  (∀ l, ls.find? (fun l => (tgt l).toNat % 4 != 0) = some l → exec i s = .next (s.raise c causeIllegal 0xC l 0#64))

/-- The state after an operation is entered: it has the next number, the selected flag of each of its threads has gone up by 1, the
group has gone past its k words, and nothing else has changed; an operation of no thread is not entered. -/
def Issued (s : State) (c : Ctx) (k : Nat) (o : Op) : State :=
  if o.lanes = 0#32 then s.putQuire c (c.past k c.Q)
  else { s.putQuire c (c.past k (c.Q.onLanes (laneList o.lanes) fun _ t =>
    if o.flag < 12 then t.setFlag o.flag (t.flag o.flag + 1) else t)) with ops := tput s.ops s.next o, next := s.next + 1 }

/-- The instruction completes its issue by entering an operation. -/
def Issues (i : Instr) (s : State) (c : Ctx) (k : Nat) (o : Op) : Prop := exec i s = .next (Issued s c k o)

/-- The instruction completes in this state. -/
def CompletesTo (i : Instr) (s t : State) : Prop := exec i s = .next t

/-- Every check of R205 passes for some lanes' accesses of n bytes, with the pages in the core's TLB and their homes online. -/
def Granted (s : State) (c : Ctx) (ls : List Nat) (ea : Nat → BitVec 64) (n align : Nat) (write : Bool) (attr : Xlat → Option Nat) :
    Prop :=
  ∀ l ∈ ls, c.B.mayAccess write (ea l).toNat n = true ∧ (ea l).toNat % align = 0 ∧
    ∀ va ∈ (ea l).toNat :: pagesOf (ea l).toNat n, ∃ x, (s.core c.B.core).tlbHit (s.partOf c.B) va = some x ∧
      x.permits (!c.B.sup) write false va = true ∧ attr x = none ∧ s.homeOffline (x.pa va) = false

/-- The state after some lanes' pages have been looked up: their TLB entries are the most recently used, and nothing else has
changed. -/
def LookedUp (s : State) (c : Ctx) (ls : List Nat) (ea : Nat → BitVec 64) (n : Nat) : State :=
  (ls.foldl (fun a l => a ++ pagesOf (ea l).toNat n) []).foldl (fun t va => t.touchTlb c.B.core (s.partOf c.B) va) s

/-- Each lane's access as its page places it. -/
def AccessesOf (s : State) (c : Ctx) (ls : List Nat) (ea : Nat → BitVec 64) : List Acc :=
  ls.filterMap fun l => ((s.core c.B.core).tlbHit (s.partOf c.B) (ea l).toNat).map fun x =>
    { lane := l, ea := ea l, pa := x.pa (ea l).toNat, x }

/-- The machine's memories are in canonical form: equal memories are equal lists. -/
def State.Canonical (s : State) : Prop := Memory.wf s.mem = true ∧ Memory.wf s.host = true

/-- The quire of a block. -/
def State.quireAt (s : State) (b q : Nat) : Option Quire :=
  match s.block? b with
  | some B => tget? B.quires q
  | none => none

/-- Nothing outside one block's own record has changed: other blocks, cores with their scratchpads and caches, tarns with their
pools and special registers, partitions, operations, every memory and its tags. -/
def OnlyBlock (s t : State) (b : Nat) : Prop :=
  (∀ b', b' ≠ b → tget? t.blocks b' = tget? s.blocks b') ∧ { t with blocks := s.blocks } = s

end Sys2Proof.Machine
end

