-- ==== Sys2Proof/Certificates/Slice0/Obligations.lean ====
section
/-! DEFINITION. The statements about the machine, one proposition each. -/

open Sys2Proof Sys2Proof.Machine

/-! ### The machine as a whole -/

/-- R33, R36, R37, R43, R49, R58, R59: every well-formed instruction is what its own words decode to, whatever its fields hold: no bit
of an encoding is dropped. -/
def Obligations.EveryInstructionDecodesBack : Prop :=
  ∀ i : Instr, i.wellFormed = true → decode (encode i) = .ok (i, (encode i).length)

/-- R33, R36, R48, R57, R58, R59: words written out from the encodings of the spec decode to the instructions they stand for. -/
def Obligations.WordsDecodeAsWritten : Prop :=
  decode [0x18814184#32] = .ok (.iaddOneWord ⟨2#3, false, 5#7, 3#7, 4#7⟩, 1) ∧
  decode [0x2BC18280#32, 0x02000064#32] = .ok (.iaddTwoWord ⟨7#3, false, 6#7, 5#7, 0#7, .imm 0#5 100#20⟩, 2) ∧
  decode [0x3FC1C300#32, 0x00000000#32] = .ok (.frcp ⟨7#3, false, 7#7, 6#7, 0#7, .mod 0#7 0#5 0#2 0#3 0#2 0#2 0#4⟩, 2) ∧
  decode [0x11C24401#32, 0x00040021#32] = .ok (.shfl ⟨7#3, false, 9#7, 8#7, 1#7, .mod 1#7 0#5 0#2 0#3 0#2 2#2 1#4⟩, 2) ∧
  decode [0x6DC20104#32, 0x00180500#32] = .ok (.prop ⟨7#3, false, 8#7, 2#7, 4#7, .mod 6#7 0#5 0#2 5#3 0#2 0#2 0#4⟩, 2) ∧
  decode [0xFDC00000#32, 0x00000000#32] = .ok (.rowrd ⟨7#3, false, 0#7, 0#7, 0#7, .mod 0#7 0#5 0#2 0#3 0#2 0#2 0#4⟩, 2) ∧
  decode [0x7FC00000#32] = .error .unassignedMajor ∧ decode [0x3FC1C300#32, 0xFC000000#32] = .error .unassignedMinor ∧
  decode [0x2BC18280#32] = .error .truncated

/-- R50, R53, R54, R57, R89 to R91, R429: a step runs the decoded instruction: the turn that the agenda names acts after its clk and the
exchanges of R94 that fall due in them; a core's issue turn gives its cycle to the chosen group, whose next instruction is what its
words decode to, and the members of a group that has gone past its clause stand at the next header but for those parked at its last
word; a group that cannot go past its word has not issued; a handler's turn runs what its words decode to; an event's turn is the
event, and a group that it has named as the core's choice issues in the same cycle. -/
def Obligations.StepRunsTheDecodedInstruction : Prop :=
  (∀ (s : State) (t : Turn) (ts : List Turn) (r : State), s.agenda = t :: ts →
    actTurn t.act (({ s with clk := s.clk + t.dt, agenda := ts, cur := .idle } : State).exchangeDue t.dt) = .next r → step s = .next (r.afterTurn s)) ∧
  (∀ (s : State) (r : State), s.agenda = [] → defaultTurn (({ s with clk := s.clk + 1, cur := .idle } : State).exchangeDue 1) = .next r → step s = .next (r.afterTurn s)) ∧
  (∀ (s : State) (k g : Nat) (e : Instr), actTurn (.issue k) s = issueTurn k s ∧ actTurn (.handler g) s = handlerTurn g s ∧
    (e.fields = none → ((∀ b q a, e ≠ .clauseEntry b q a) ∧ (∀ b q, e ≠ .ageingPick b q) → actTurn (.event e) s = exec e s) ∧
      ((∃ b q a, e = .clauseEntry b q a) ∨ (∃ b q, e = .ageingPick b q) → ∀ r b q n, exec e s = .next r → r.cur = .group b q n →
        actTurn (.event e) s = r.issueNamed b q n))) ∧
  (∀ (s : State) (k b q g : Nat) (B : Block) (c : Cand),
    s.blockOn k = some b → s.block? b = some B → s.running b B = true →
    s.chooseQuire b (B.settled s.clk) = some (q, c) → c.gid = some g →
    ∀ r, (s.chosen b q B c).issueWord b q g = .next r →
      (r.isHeld b q g = false → issueTurn k s = .next r) ∧ (r.isHeld b q g = true → issueTurn k s = s.issueWord b q g)) ∧
  (∀ (s r : State) (b q g n : Nat) (i : Instr) (c : Ctx), let s1 : State := { s with cur := .group b q g }
    s1.ctx? = some c → decodeRaw (c.gr.words.drop (c.gr.widx - 1)) = .ok (i, n) → exec i s1 = .next r →
    (r.isHeld b q g = true → s.issueWord b q g = .next { r with cur := .idle }) ∧
    (r.isHeld b q g = false → clearsSpin i = false → s.issueWord b q g = 
      .next { (r.passLanes c (c.carries i).1 (c.carries i).2).dissolve b q with cur := .idle }) ∧
    (r.isHeld b q g = false → clearsSpin i = true → s.issueWord b q g = .next
      { ((r.mapLanes b q (c.issuers i) fun _ t => { t with spin := false }).passLanes c (c.carries i).1 (c.carries i).2).dissolve b q with
        cur := .idle })) ∧
  (∀ (s : State) (b q g : Nat) (B : Block) (Q : Quire) (gr : Group), s.block? b = some B → tget? B.quires q = some Q →
    Q.groups = [(g, gr)] → gr.lanes ≠ 0#32 →
    (gr.widx ≤ gr.words.length → (s.dissolve b q).quireAt b q = some Q) ∧
    (gr.words.length < gr.widx → (s.dissolve b q).quireAt b q = some { Q with
      groups := if Q.standing gr = 0#32 then [] else [(g, { gr with lanes := Q.standing gr, yld := false })]
      skip := Q.skip || gr.yld
      threads := Q.threads.map fun t => if (gr.lanes &&& ~~~ Q.standing gr).getLsbD t.1 then
        (t.1, { t.2 with
          pc := gr.clause + BitVec.ofNat 64 (4 * (1 + gr.words.length))
          waitAt := match t.2.wait with | .named .. | .scope .. => some (gr.clause, gr.widx - 2) | _ => none }) else t })) ∧
  (∀ (s r : State) (gs n k : Nat) (i : Instr) (m : Msg) (ws : List Word), (s.spring gs).run = some m →
    tget? (s.spring gs).slots m.slot = some (k, ws) → (s.spring gs).at_ < ws.length → (s.spring gs).steps < 256 →
    decodeRaw (ws.drop (s.spring gs).at_) = .ok (i, n) →
    exec i { s.updSpring gs fun sp => { sp with steps := sp.steps + 1 } with cur := .spring gs } = .next r →
    handlerTurn gs s = .next { r with cur := .idle })

/-- R83, R223, R332, R335, R439, R443, R460: what stands after reset: no thread, memory with nothing listed and in canonical form, and
the registers whose reset values the spec gives. -/
def Obligations.ResetState : Prop :=
  State.reset.Canonical ∧ State.reset.mem = [] ∧ State.reset.host = [] ∧ State.reset.blocks = [] ∧ State.reset.ops = [] ∧
  (∀ m, State.reset.modClk m = 0) ∧
  (∀ t, let T := State.reset.tarn t
    T.st = .online ∧ T.tvec = 0#64 ∧ T.wpol = false ∧ T.weir = 0 ∧ T.cap = 0 ∧ T.hoffEn = true ∧ T.hoffMs = 100 ∧ T.debug = false ∧
      T.intrap = false ∧ T.traps = [] ∧ T.tcache = [] ∧ T.slices = [] ∧ T.spans = []) ∧
  (∀ k, let C := State.reset.core k
    C.run = none ∧ C.tlb = [] ∧ C.l1 = [] ∧ C.icache = [] ∧ C.tracker = []) ∧
  (∀ p, (State.reset.part p).wdper = 1000 ∧ (State.reset.part p).xwtmo = 0 ∧ (State.reset.part p).launches = [])

/-- R87, R120, R124, R128: the frame of the one-word and the two-word arithmetic and logic forms: no byte of any memory, no other block,
no tarn, no core, no uniform register, no thread but the participants, and of these no register but the destination and no
predicate. R137 to R141: the frame of the uniform arithmetic and logic forms: no byte of any memory, no other block, no thread, no
lane register and no uniform predicate; of the uniform registers no other than the destination. -/
def Obligations.RegisterFrames : Prop :=
  (∀ (s t : State) (c : Ctx) (i : Instr) (p : BitVec 3) (n : Bool) (ds : List Nat), s.ctx? = some c →
    ((∃ o : W1, i ∈ [Instr.iaddOneWord o, .isubOneWord o, .imulOneWord o, .andOneWord o, .orOneWord o, .xorOneWord o, .shlOneWord o,
        .shrOneWord o, .movOneWord o] ∧ p = o.p ∧ n = o.n ∧ ds = [o.d.toNat]) ∨
      (∃ w : W2, i ∈ [Instr.iaddTwoWord w, .isubTwoWord w, .imulTwoWord w, .imad w, .imulh w, .imin w, .imax w, .iabs w, .ineg w,
        .andTwoWord w, .orTwoWord w, .xorTwoWord w, .andn w, .shlTwoWord w, .shrTwoWord w, .sar w] ∧ p = w.p ∧ n = w.n ∧
        ds = destRegs w.d w.x.w64)) →
    exec i s = .next t →
    (∀ a, cellGet t.mem a = cellGet s.mem a) ∧ (∀ a, cellGet t.host a = cellGet s.host a) ∧ OnlyBlock s t c.b ∧
    (∀ q, q ≠ c.q → t.quireAt c.b q = s.quireAt c.b q) ∧
    ∃ Q, t.quireAt c.b c.q = some Q ∧ Q.g = c.Q.g ∧ Q.gp = c.Q.gp ∧ Q.fmask = c.Q.fmask ∧
      (∀ l, l ∉ c.participants p n → tget? Q.threads l = tget? c.Q.threads l) ∧
      (∀ l th, l ∈ c.participants p n → tget? c.Q.threads l = some th → ∃ th', tget? Q.threads l = some th' ∧
        { th' with v := th.v } = th ∧ ∀ r, r ∉ ds → th'.getV r = th.getV r)) ∧
  (∀ (s t : State) (c : Ctx) (i : Instr) (ds : List Nat), s.ctx? = some c →
    ((∃ o : W1, i ∈ [Instr.gaddOneWord o, .gsubOneWord o, .gmulOneWord o, .gandOneWord o, .gorOneWord o, .gxorOneWord o, .gshlOneWord o,
        .gshrOneWord o, .gsarOneWord o, .gminOneWord o, .gmaxOneWord o] ∧ ds = [o.d.toNat]) ∨
      (∃ w : W2, i ∈ [Instr.gaddTwoWord w, .gsubTwoWord w, .gmulTwoWord w, .gmad w, .gandTwoWord w, .gorTwoWord w, .gxorTwoWord w] ∧
        ds = destRegs w.d w.x.w64)) →
    exec i s = .next t →
    (∀ a, cellGet t.mem a = cellGet s.mem a) ∧ (∀ a, cellGet t.host a = cellGet s.host a) ∧ OnlyBlock s t c.b ∧
    (∀ q, q ≠ c.q → t.quireAt c.b q = s.quireAt c.b q) ∧
    ∃ Q, t.quireAt c.b c.q = some Q ∧ Q.threads = c.Q.threads ∧ Q.gp = c.Q.gp ∧ Q.fmask = c.Q.fmask ∧
      ∀ r, r ∉ ds → Q.getG r = c.Q.getG r)

/-! ### Issue events -/

/-- R48 to R50, R54, R57, R61, R62, R326, R353: the ready threads at the header that the core's choice falls on enter its clause
together, with the words as they are fetched, and their group is what issues next; a header or a word that fails a check, or a fetch
outside the code lease, ends the task instead, with a report that holds the failing word; any other header is not entered. -/
def Obligations.ClauseEntry : Prop :=
  ∀ (s : State) (b q : Nat) (addr : BitVec 64) (B : Block) (Q : Quire), s.block? b = some B → tget? B.quires q = some Q →
    let chosen : Prop := ∃ c, s.chooseQuire b (B.settled s.clk) = some (q, c) ∧ c.gid = none ∧ c.addr = addr.toNat
    (¬chosen → exec (.clauseEntry b q addr) s = .next s) ∧
    (chosen → s.running b B = true → s.readyAt B Q addr ≠ [] → B.sup = false →
    let ls := s.readyAt B Q addr
    let ends (cause detail widx : Nat) (ea : BitVec 64) (word : BitVec 32) : Prop := exec (.clauseEntry b q addr) s = .next (s.endTask b 5 (some
      { cause, detail, clause := addr, widx, lane := ls.headD 0, ea, word }))
    let fetchable (n : Nat) : Prop := B.mayFetch addr.toNat (4 * (n + 1)) = true ∧ s.fetchMissing B addr n = [] ∧ s.fetchAway B addr n = [] ∧
      ∀ va ∈ [wordAddr addr 0, wordAddr addr n], ∃ x, s.xlate B.core (s.partOf B) true false true va = .ok x
    let hw := (s.fetchWords B addr.toNat 1).headD 0#32
    let h := headerOf B.ver hw
    let ws := (s.fetchWords B addr.toNat (h.len + 1)).drop 1
    (addr.toNat % 4 ≠ 0 → ends 1 0xC 0 0#64 0#32) ∧
    (addr.toNat % 4 = 0 → B.mayFetch addr.toNat 4 = false → ends 4 0 0 (BitVec.ofNat 64 (wordAddr addr 0)) 0#32) ∧
    (addr.toNat % 4 = 0 → fetchable 0 →
      (headerMark hw = false → ends 1 1 0 0#64 hw) ∧
      (headerMark hw = true → fetchable h.len →
        (∀ sub i, checkClause B h ws = some (sub, i) → ends 1 sub i 0#64 ((hw :: ws).getD i 0#32)) ∧
        (checkClause B h ws = none → ∃ t Q', exec (.clauseEntry b q addr) s = .next t ∧ t.quireAt b q = some Q' ∧
          Q'.threads = Q.threads.map (fun th => if ls.contains th.1 then (th.1, th.2.acquireFlags h.wait) else th) ∧
          tget? Q'.groups s.next = some { lanes := laneMask ls, clause := addr, words := ws, widx := 1, sfa := h.sfa, sfb := h.sfb, yld := h.yld } ∧
          (∀ g, g ≠ s.next → tget? Q'.groups g = tget? Q.groups g) ∧ t.cur = .group b q s.next ∧ t.mem = s.mem ∧ t.tarns = s.tarns))))

/-- R91, R93, R94, R101, R104, R105: exchanges of quires, the ageing pick, the end of a NAP and the drain of a tracker entry. -/
def Obligations.QuireEvents : Prop :=
  (∀ (s : State) (b q : Nat) (B : Block) (Q : Quire), s.block? b = some B → tget? B.quires q = some Q →
    (∀ p, s.running b B = true → q ∈ B.active → s.stalledLong b q B Q = true → s.oldestReady b B = some p → exec (.quireExchange b q) s = .next (s.exchange b q p)) ∧
    ((s.running b B = false ∨ q ∉ B.active ∨ s.stalledLong b q B Q = false ∨ s.oldestReady b B = none) → exec (.quireExchange b q) s = .next s) ∧
    (∀ k, s.chooseQuire b (B.settled s.clk) = some (q, k) →
      (1024 ≤ k.age → (∀ g, k.gid = some g → exec (.ageingPick b q) s = .next { s with cur := .group b q g }) ∧
        (k.gid = none → k.addr < 2 ^ 64 → exec (.ageingPick b q) s = exec (.clauseEntry b q (BitVec.ofNat 64 k.addr)) s)) ∧
      (k.age < 1024 → exec (.ageingPick b q) s = .next s)) ∧
    ((∀ k, s.chooseQuire b (B.settled s.clk) ≠ some (q, k)) → exec (.ageingPick b q) s = .next s)) ∧
  (∀ (s : State) (b : Nat) (B : Block), s.block? b = some B →
    let age (q : Nat) : Nat := match tget? B.quires q with | some Q => Q.entered | none => 0
    (∀ p q, s.coreClk B.core % 256 = 0 → s.running b B = true → (∀ e ∈ B.exch, e.2 ≤ s.clk) → s.oldestReady b B = some p →
      q ∈ B.active → (∀ k ∈ B.active, age q < age k ∨ age q = age k ∧ q ≤ k) →
      exec (.forcedExchange b) s = .next (s.exchange b q p)) ∧
    ((s.coreClk B.core % 256 ≠ 0 ∨ s.running b B = false ∨ s.oldestReady b B = none) → exec (.forcedExchange b) s = .next s)) ∧
  (∀ (s : State) (b out inn : Nat) (B : Block) (O I : Quire), s.block? b = some B → tget? B.quires out = some O → tget? B.quires inn = some I →
    ∃ B', (s.exchange b out inn).block? b = some B' ∧ B'.active = B.active.map (fun q => if q = out then inn else q) ∧
      B'.pending = B.pending.filter (· != inn) ++ (if O.threads.any (·.2.live) then [out] else []) ∧ B'.exch = (B.exch.filter fun e => decide (s.clk < e.2)) ++ [(inn, s.clk + 2)] ∧
      (∀ q, q ≠ inn → tget? B'.quires q = tget? B.quires q)) ∧
  (∀ (s : State) (b q l til : Nat) (long : Bool) (th : Thread), s.threadAt b q l = some th → th.wait = .nap til long →
    ∃ t, exec (.napExpiry b q l) s = .next t ∧
      t.threadAt b q l = some (if til ≤ s.clk then { th with wait := .none } else th) ∧ t.mem = s.mem ∧ t.cores = s.cores) ∧
  (∀ (s : State) (k i : Nat) (e : Nat × List Nat), tget? (s.core k).tracker i = some e →
    ((∀ n ∈ e.2, s.op? n = none) → exec (.trackerEntryDrain k i) s = .next (s.updCore k fun C => { C with tracker := tdel C.tracker i })) ∧
    ((∃ n ∈ e.2, (s.op? n).isSome = true) → exec (.trackerEntryDrain k i) s = .next s))

/-! ### Integer instructions -/

/-- R124, R122: IADD, ISUB, IMUL and IMAD form one exact result from the operands' values, clamp it under `.sat`, and write its low W
bits, in every participant; nothing else changes. R125: IADDC and ISUBB read the carry or borrow from P(C) and write it back to
P(C). R126, R127: high products, the wide multiply-add, minimum and maximum, absolute value, negation and sums of absolute
differences. -/
def Obligations.IntegerArithmetic : Prop :=
  (∀ (s : State) (c : Ctx) (o : W1) (w : W2), s.ctx? = some c →
    let W := tyBits (tyOf w)
    let sat (x : Int) : Int := if w.x.sub.getLsbD 0 then satInt W (tySigned (tyOf w)) x else x
    let a (t : Thread) : Int := valOf (tyOf w) (t.rd w.x.w64 w.a)
    let b (t : Thread) : Int := valOf (tyOf w) (opB c.Q t w w.x.w64 (immByType (tyOf w) w.x.imm20))
    let put (t : Thread) (x : Int) : Thread := t.wr w.x.w64 w.d (sat x % 2 ^ W).toNat
    let one (f : Word → Word → Word) (_ : Nat) (t : Thread) : Thread :=
      t.setV o.d.toNat (f (t.getV o.a.toNat) (t.getV o.b.toNat))
    Lanes (.iaddOneWord o) s c 1 (c.participants o.p o.n) (one fun x y => x + y) ∧
    Lanes (.isubOneWord o) s c 1 (c.participants o.p o.n) (one fun x y => x - y) ∧
    Lanes (.imulOneWord o) s c 1 (c.participants o.p o.n) (one fun x y => x * y) ∧
    Lanes (.iaddTwoWord w) s c 2 (c.participants w.p w.n) (fun _ t => put t (a t + b t)) ∧
    Lanes (.isubTwoWord w) s c 2 (c.participants w.p w.n) (fun _ t => put t (a t - b t)) ∧
    Lanes (.imulTwoWord w) s c 2 (c.participants w.p w.n) (fun _ t => put t (a t * b t)) ∧
    Lanes (.imad w) s c 2 (c.participants w.p w.n)
      (fun _ t => put t (a t * b t + valOf (tyOf w) (t.rd w.x.w64 (cField w))))) ∧
  (∀ (s : State) (c : Ctx) (w : W2), s.ctx? = some c →
    let a (t : Thread) : Nat := (t.getV w.a.toNat).toNat
    let b (t : Thread) : Nat := opB c.Q t w false (immByType (tyOf w) w.x.imm20) % 2 ^ 32
    let cin (t : Thread) : Nat := if t.getP (cField w).toNat then 1 else 0
    Lanes (.iaddc w) s c 2 (c.participants w.p w.n) (fun _ t =>
      (t.setV w.d.toNat (BitVec.ofNat 32 (a t + b t + cin t))).setP (cField w).toNat (decide (2 ^ 32 ≤ a t + b t + cin t))) ∧
    Lanes (.isubb w) s c 2 (c.participants w.p w.n) (fun _ t =>
      (t.setV w.d.toNat (BitVec.ofInt 32 ((a t : Int) - b t - cin t))).setP (cField w).toNat (decide (a t < b t + cin t)))) ∧
  (∀ (s : State) (c : Ctx) (w : W2), s.ctx? = some c →
    let W := tyBits (tyOf w)
    let val := valOf (tyOf w)
    let A (t : Thread) : Nat := t.rd w.x.w64 w.a
    let B (t : Thread) : Nat := opB c.Q t w w.x.w64 (immByType (tyOf w) w.x.imm20)
    let C (t : Thread) : Nat := t.rd w.x.w64 (cField w)
    let sat (x : Int) : Int := if w.x.sub.getLsbD 0 then satInt W (tySigned (tyOf w)) x else x
    let ls := c.participants w.p w.n
    Lanes (.imulh w) s c 2 ls (fun _ t => t.wr w.x.w64 w.d (val (A t) * val (B t) / 2 ^ W % 2 ^ W).toNat) ∧
    Lanes (.imadw w) s c 2 ls (fun _ t => t.setPair w.d.toNat (BitVec.ofInt 64
      (val (t.rd false w.a) * val (opB c.Q t w false (immByType (tyOf w) w.x.imm20)) + (t.getPair (cField w).toNat).toNat))) ∧
    Lanes (.imin w) s c 2 ls (fun _ t => t.wr w.x.w64 w.d (if val (A t) ≤ val (B t) then A t else B t)) ∧
    Lanes (.imax w) s c 2 ls (fun _ t => t.wr w.x.w64 w.d (if val (B t) ≤ val (A t) then A t else B t)) ∧
    Lanes (.iabs w) s c 2 ls (fun _ t => t.wr w.x.w64 w.d (sat (val (A t)).natAbs % 2 ^ W).toNat) ∧
    Lanes (.ineg w) s c 2 ls (fun _ t => t.wr w.x.w64 w.d (sat (-(val (A t))) % 2 ^ W).toNat) ∧
    (tyOf w ≠ 5 → Lanes (.isad w) s c 2 ls (fun _ t => t.wr w.x.w64 w.d
      ((((val (A t) - val (B t)).natAbs : Int) + val (C t)) % 2 ^ 32).toNat)) ∧
    (tyOf w = 5 → Lanes (.isad w) s c 2 ls (fun _ t =>
      let d (i : Nat) : Nat := ((bits (A t) (8 * i + 7) (8 * i) : Int) - bits (B t) (8 * i + 7) (8 * i)).natAbs
      t.setV w.d.toNat (BitVec.ofNat 32 (C t + d 0 + d 1 + d 2 + d 3)))))

/-- R128: the bitwise instructions, with LOP3's table indexed by the three operand bits. R129, R130: shifts and the funnel shift, for
every count. -/
def Obligations.LogicAndShifts : Prop :=
  ((∀ (s : State) (c : Ctx) (o : W1) (w : W2), s.ctx? = some c →
    let one (f : Word → Word → Word) (_ : Nat) (t : Thread) : Thread :=
      t.setV o.d.toNat (f (t.getV o.a.toNat) (t.getV o.b.toNat))
    let two (f : Nat → Nat → Nat) (_ : Nat) (t : Thread) : Thread :=
      t.wr w.x.w64 w.d (f (t.rd w.x.w64 w.a) (opB c.Q t w false w.x.imm20.toNat))
    Lanes (.andOneWord o) s c 1 (c.participants o.p o.n) (one fun x y => x &&& y) ∧
    Lanes (.orOneWord o) s c 1 (c.participants o.p o.n) (one fun x y => x ||| y) ∧
    Lanes (.xorOneWord o) s c 1 (c.participants o.p o.n) (one fun x y => x ^^^ y) ∧
    Lanes (.andTwoWord w) s c 2 (c.participants w.p w.n) (two fun x y => x &&& y) ∧
    Lanes (.orTwoWord w) s c 2 (c.participants w.p w.n) (two fun x y => x ||| y) ∧
    Lanes (.xorTwoWord w) s c 2 (c.participants w.p w.n) (two fun x y => x ^^^ y) ∧
    Lanes (.andn w) s c 2 (c.participants w.p w.n) (two fun x y => x &&& (y ^^^ (2 ^ 32 - 1))) ∧
    Lanes (.lop3 w) s c 2 (c.participants w.p w.n) (fun _ t =>
      t.setV w.d.toNat (BitVec.ofNat 32 (lop3N w.x.lop3Table (t.getV w.a.toNat).toNat (t.getV w.b.toNat).toNat
        (t.getV w.x.c.toNat).toNat)))) ∧
  (∀ (t : BitVec 8) (a b c j : Nat), j < 32 → (lop3N t a b c).testBit j =
    t.getLsbD ((if a.testBit j then 1 else 0) + (if b.testBit j then 2 else 0) + (if c.testBit j then 4 else 0)))) ∧
  (∀ (s : State) (c : Ctx) (o : W1) (w : W2), s.ctx? = some c →
    let W := tyBits (tyOf w)
    let a (t : Thread) : Nat := t.rd w.x.w64 w.a
    let n (t : Thread) : Nat :=
      let n := opB c.Q t w false w.x.imm20.toNat
      if w.x.sub.getLsbD 0 then n % W else n
    let x (t : Thread) : Nat := (t.rd w.x.w64 (cField w)) * 2 ^ 32 + t.rd w.x.w64 w.a
    let k (t : Thread) : Nat :=
      let n := opB c.Q t w w.x.w64 w.x.imm20.toNat
      if w.x.sub.getLsbD 1 then n % 32 else min n 32
    let ls := c.participants w.p w.n
    let one (f : Nat → Nat → Nat) (_ : Nat) (t : Thread) : Thread :=
      t.setV o.d.toNat (BitVec.ofNat 32 (f (t.getV o.a.toNat).toNat (t.getV o.b.toNat).toNat))
    Lanes (.shlOneWord o) s c 1 (c.participants o.p o.n) (one fun a n => a * 2 ^ n) ∧
    Lanes (.shrOneWord o) s c 1 (c.participants o.p o.n) (one fun a n => a / 2 ^ n) ∧
    Lanes (.shlTwoWord w) s c 2 ls (fun _ t => t.wr w.x.w64 w.d (a t * 2 ^ n t % 2 ^ W)) ∧
    Lanes (.shrTwoWord w) s c 2 ls (fun _ t => t.wr w.x.w64 w.d (a t / 2 ^ n t)) ∧
    Lanes (.sar w) s c 2 ls (fun _ t => t.wr w.x.w64 w.d (toSigned W (a t) / 2 ^ n t % 2 ^ W).toNat) ∧
    Lanes (.shf w) s c 2 ls (fun _ t => t.wr w.x.w64 w.d
      (if w.x.sub.getLsbD 0 then x t / 2 ^ k t % 2 ^ 32 else x t * 2 ^ k t / 2 ^ 32 % 2 ^ 32)))

/-- R131: bit counts and bit reversal, each result said by the bits of the operand. R132, R136: bit-field extract and insert, and the
byte permute, each said by bits or bytes of the result. -/
def Obligations.BitCountsAndFields : Prop :=
  ((∀ (s : State) (c : Ctx) (w : W2), s.ctx? = some c →
    let W := tyBits (tyOf w)
    let put (f : Nat → Nat) (_ : Nat) (t : Thread) : Thread := t.setV w.d.toNat (BitVec.ofNat 32 (f (t.rd w.x.w64 w.a)))
    let ls := c.participants w.p w.n
    Lanes (.popc w) s c 2 ls (put (popcN W)) ∧ Lanes (.clz w) s c 2 ls (put (clzN W)) ∧
    Lanes (.ctz w) s c 2 ls (put (ctzN W)) ∧
    Lanes (.brev w) s c 2 ls (fun _ t => t.wr w.x.w64 w.d (brevN W (t.rd w.x.w64 w.a)))) ∧
  (∀ a, popcN 0 a = 0) ∧ (∀ W a, popcN (W + 1) a = popcN W a + (if a.testBit W then 1 else 0)) ∧
  (∀ W a, a % 2 ^ W = 0 → clzN W a = W ∧ ctzN W a = W) ∧
  (∀ W a, a % 2 ^ W ≠ 0 → clzN W a < W ∧ a.testBit (W - 1 - clzN W a) = true ∧
    ∀ j, W - 1 - clzN W a < j → j < W → a.testBit j = false) ∧
  (∀ W a, a % 2 ^ W ≠ 0 → a.testBit (ctzN W a) = true ∧ ∀ j, j < ctzN W a → a.testBit j = false) ∧
  (∀ W a j, j < W → (brevN W a).testBit j = a.testBit (W - 1 - j))) ∧
  ((∀ (s : State) (c : Ctx) (w : W2), s.ctx? = some c →
    let ls := c.participants w.p w.n
    let im := w.x.imm20.toNat
    Lanes (.bfx w) s c 2 ls (fun _ t => t.wr w.x.w64 w.d (bfxN (tyOf w) (t.rd w.x.w64 w.a) (opB c.Q t w false im))) ∧
    Lanes (.bfi w) s c 2 ls (fun _ t => t.wr w.x.w64 w.d
      (bfiN (t.rd w.x.w64 w.a) (opB c.Q t w w.x.w64 im) (t.rd w.x.w64 (cField w)))) ∧
    Lanes (.prmt w) s c 2 ls (fun _ t => t.wr w.x.w64 w.d
      (prmtN (t.rd w.x.w64 w.a) (opB c.Q t w w.x.w64 im) (t.rd w.x.w64 (cField w))))) ∧
  (∀ ty a p k j, p < 256 → k < 256 → j < 32 →
    let e := min (p + k) 32
    (bfxN ty a (p + 256 * k)).testBit j =
      (if 32 ≤ p ∨ k = 0 then false
       else if j < e - p then a.testBit (p + j)
       else if ty = 0 ∨ ty = 7 then false else a.testBit (e - 1))) ∧
  (∀ a p k c j, p < 256 → k < 256 → c < 2 ^ 32 → (bfiN a (p + 256 * k) c).testBit j =
    if p ≤ j ∧ j < min (p + k) 32 then a.testBit (j - p) else c.testBit j) ∧
  (∀ a b c i, a < 2 ^ 32 → i < 4 →
    let s := b / 2 ^ (8 * i) % 256
    let v := (c * 2 ^ 32 + a) / 2 ^ (8 * (s % 8)) % 256
    prmtN a b c / 2 ^ (8 * i) % 256 =
      (if s / 8 % 4 = 0 then v else if s / 8 % 4 = 1 then 0 else if s / 8 % 4 = 2 then 255 else if 128 ≤ v then 255 else 0)))

/-- R133, R134, R135: compare, select, move and address arithmetic. -/
def Obligations.CompareSelectMove : Prop :=
  ∀ (s : State) (c : Ctx) (o : W1) (w : W2), s.ctx? = some c →
    let val := valOf (tyOf w)
    let A (t : Thread) : Nat := t.rd w.x.w64 w.a
    let B (t : Thread) : Nat := opB c.Q t w w.x.w64 (immByType (tyOf w) w.x.imm20)
    let ls := c.participants w.p w.n
    let cmp (t : Thread) : Bool :=
      match w.x.sub.toNat % 8 with
      | 0 => decide (val (A t) = val (B t)) | 1 => decide (val (A t) ≠ val (B t))
      | 2 => decide (val (A t) < val (B t)) | 3 => decide (val (A t) ≤ val (B t))
      | 4 => decide (val (B t) < val (A t)) | _ => decide (val (B t) ≤ val (A t))
    (w.x.sub.getLsbD 3 = false → Lanes (.iset w) s c 2 ls (fun _ t =>
      t.setV w.d.toNat (if cmp t then 0xFFFFFFFF#32 else 0#32))) ∧
    (w.x.sub.getLsbD 3 = true → Lanes (.iset w) s c 2 ls (fun _ t => t.setP w.d.toNat (cmp t))) ∧
    Lanes (.isel w) s c 2 ls (fun _ t => t.wr w.x.w64 w.d (if t.getP (cField w).toNat then A t else B t)) ∧
    Lanes (.movOneWord o) s c 1 (c.participants o.p o.n) (fun _ t => t.setV o.d.toNat (t.getV o.a.toNat)) ∧
    Lanes (.movTwoWord w) s c 2 ls (fun _ t => t.wr w.x.w64 w.d (A t)) ∧
    (w.a = 0#7 → Lanes (.movi w) s c 2 ls (fun _ t => t.wr w.x.w64 w.d (w.x.imm20.toInt % 2 ^ tyBits (tyOf w)).toNat)) ∧
    (w.a = 1#7 → Lanes (.movi w) s c 2 ls (fun _ t => t.wr w.x.w64 w.d (w.x.imm20.toNat * 2 ^ 12))) ∧
    Lanes (.lea w) s c 2 ls (fun _ t =>
      let b := opB c.Q t w false (immByType (tyOf w) w.x.imm20)
      let v : Int := if tyOf w = 7 then ((b % 2 ^ 32 : Nat) : Int) else toSigned 32 b
      t.setPair w.d.toNat (BitVec.ofInt 64 ((t.getPair w.a.toNat).toNat + v * 2 ^ w.x.sub.toNat)))

/-! ### Uniform instructions -/

/-- R138: GADD, GSUB, GMUL, GMAD, GMIN and GMAX have the effect of their counterparts, once, over G registers, in a group or a handler;
with a false guard they have none. R138, R128, R129: the uniform bitwise instructions and shifts. -/
def Obligations.UniformArithmeticAndLogic : Prop :=
  (∀ (s : State) (o : W1) (w : W2),
    let W := tyBits (tyOf w)
    let val := valOf (tyOf w)
    let sat (x : Int) : Int := if w.x.sub.getLsbD 0 then satInt W (tySigned (tyOf w)) x else x
    let A (q : Quire) : Nat := q.rd w.x.w64 w.a
    let B (q : Quire) : Nat := opBG q w w.x.w64 (immByType (tyOf w) w.x.imm20)
    let put (q : Quire) (x : Int) : Quire := q.wr w.x.w64 w.d (sat x % 2 ^ W).toNat
    let one (f : Word → Word → Word) (q : Quire) : Quire := q.setG o.d.toNat (f (q.getG o.a.toNat) (q.getG o.b.toNat))
    EitherPlace (.gaddOneWord o) s 1 o.p o.n (one fun x y => x + y) ∧
    EitherPlace (.gsubOneWord o) s 1 o.p o.n (one fun x y => x - y) ∧
    EitherPlace (.gmulOneWord o) s 1 o.p o.n (one fun x y => x * y) ∧
    EitherPlace (.gminOneWord o) s 1 o.p o.n (one fun x y => if x.toInt ≤ y.toInt then x else y) ∧
    EitherPlace (.gmaxOneWord o) s 1 o.p o.n (one fun x y => if y.toInt ≤ x.toInt then x else y) ∧
    EitherPlace (.gaddTwoWord w) s 2 w.p w.n (fun q => put q (val (A q) + val (B q))) ∧
    EitherPlace (.gsubTwoWord w) s 2 w.p w.n (fun q => put q (val (A q) - val (B q))) ∧
    EitherPlace (.gmulTwoWord w) s 2 w.p w.n (fun q => put q (val (A q) * val (B q))) ∧
    EitherPlace (.gmad w) s 2 w.p w.n (fun q => put q (val (A q) * val (B q) + val (q.rd w.x.w64 (cField w)))) ∧
    EitherPlace (.gminTwoWord w) s 2 w.p w.n (fun q => q.wr w.x.w64 w.d (if val (A q) ≤ val (B q) then A q else B q)) ∧
    EitherPlace (.gmaxTwoWord w) s 2 w.p w.n (fun q => q.wr w.x.w64 w.d (if val (B q) ≤ val (A q) then A q else B q))) ∧
  (∀ (s : State) (o : W1) (w : W2),
    let W := tyBits (tyOf w)
    let one (f : Nat → Nat → Nat) (q : Quire) : Quire :=
      q.setG o.d.toNat (BitVec.ofNat 32 (f (q.getG o.a.toNat).toNat (q.getG o.b.toNat).toNat))
    let two (f : Nat → Nat → Nat) (q : Quire) : Quire :=
      q.wr w.x.w64 w.d (f (q.rd w.x.w64 w.a) (opBG q w false w.x.imm20.toNat))
    let n (k : Nat) : Nat := if w.x.sub.getLsbD 0 then k % W else k
    EitherPlace (.gandOneWord o) s 1 o.p o.n (one fun x y => x &&& y) ∧
    EitherPlace (.gorOneWord o) s 1 o.p o.n (one fun x y => x ||| y) ∧
    EitherPlace (.gxorOneWord o) s 1 o.p o.n (one fun x y => x ^^^ y) ∧
    EitherPlace (.gshlOneWord o) s 1 o.p o.n (one fun x k => x * 2 ^ k) ∧
    EitherPlace (.gshrOneWord o) s 1 o.p o.n (one fun x k => x / 2 ^ k) ∧
    EitherPlace (.gsarOneWord o) s 1 o.p o.n (one fun x k => (toSigned 32 x / 2 ^ k % 2 ^ 32).toNat) ∧
    EitherPlace (.gandTwoWord w) s 2 w.p w.n (two fun x y => x &&& y) ∧
    EitherPlace (.gorTwoWord w) s 2 w.p w.n (two fun x y => x ||| y) ∧
    EitherPlace (.gxorTwoWord w) s 2 w.p w.n (two fun x y => x ^^^ y) ∧
    EitherPlace (.gshlTwoWord w) s 2 w.p w.n (two fun x k => x * 2 ^ n k % 2 ^ W) ∧
    EitherPlace (.gshrTwoWord w) s 2 w.p w.n (two fun x k => x / 2 ^ n k) ∧
    EitherPlace (.gsarTwoWord w) s 2 w.p w.n (two fun x k => (toSigned W x / 2 ^ n k % 2 ^ W).toNat))

/-- R138 to R141: the uniform moves, compares, selects and predicates, and the transfers between V and G registers. R143, R144: GBRA and
GLOOP, in a group and in a handler. -/
def Obligations.UniformMovesAndControl : Prop :=
  (∀ (s : State) (o : W1) (w : W2),
    let val := valOf (tyOf w)
    let A (q : Quire) : Nat := q.rd w.x.w64 w.a
    let B (q : Quire) : Nat := opBG q w w.x.w64 (immByType (tyOf w) w.x.imm20)
    let cmp (q : Quire) : Bool :=
      match w.x.sub.toNat % 8 with
      | 0 => decide (val (A q) = val (B q)) | 1 => decide (val (A q) ≠ val (B q))
      | 2 => decide (val (A q) < val (B q)) | 3 => decide (val (A q) ≤ val (B q))
      | 4 => decide (val (B q) < val (A q)) | _ => decide (val (B q) ≤ val (A q))
    EitherPlace (.gmov o) s 1 o.p o.n (fun q => q.setG o.d.toNat (q.getG o.a.toNat)) ∧
    (w.a = 0#7 → EitherPlace (.gmovi w) s 2 w.p w.n (fun q => q.wr w.x.w64 w.d (w.x.imm20.toInt % 2 ^ tyBits (tyOf w)).toNat)) ∧
    (w.a = 1#7 → EitherPlace (.gmovi w) s 2 w.p w.n (fun q => q.wr w.x.w64 w.d (w.x.imm20.toNat * 2 ^ 12))) ∧
    EitherPlace (.gset w) s 2 w.p w.n (fun q =>
      if w.x.sub.getLsbD 3 then q.setGP w.d.toNat (cmp q) else q.setG w.d.toNat (if cmp q then 0xFFFFFFFF#32 else 0#32)) ∧
    EitherPlace (.gsel w) s 2 w.p w.n (fun q => q.wr w.x.w64 w.d (if q.getGP (cField w).toNat then A q else B q)) ∧
    EitherPlace (.gplop w) s 2 w.p w.n (fun q => q.setGP w.d.toNat
      (w.x.sub.getLsbD ((if q.getGP w.a.toNat then 2 else 0) + (if q.getGP w.b.toNat then 1 else 0)))) ∧
    (∀ c, s.ctx? = some c →
      Lanes (.g2v o) s c 1 (c.uniform o.p o.n) (fun _ t => t.setV o.d.toNat (c.Q.getG o.a.toNat)) ∧
      let ls := c.uniform w.p w.n
      let l := if w.x.sub.getLsbD 0 then ls.headD 32 else opBG c.Q w false 0
      Uniform (.v2g w) s c 2 (!ls.isEmpty) (fun q =>
        (if ls.contains l then q.setG w.d.toNat ((c.thread l).getV w.a.toNat) else q).setGP w.x.c.toNat (ls.contains l)))) ∧
  (∀ (s : State) (o : WBr) (w : W2),
    (∀ c, s.ctx? = some c →
      let origin (v : Nat) : BitVec 64 := if c.B.ver < v then BitVec.ofNat 64 (wordAddr c.gr.clause c.gr.widx) else c.gr.clause
      Transfers (.gbra o) s c 1 (c.uniform o.p o.n) (fun _ => origin 4 + BitVec.ofInt 64 (4 * o.off.toInt)) (fun _ t => t) ∧
      let n := c.Q.getG w.d.toNat
      let Q1 := c.Q.setG w.d.toNat (n - 1#32)
      let tgt := origin 3 + BitVec.ofInt 64 (4 * w.x.imm20.toInt)
      (guardOk c.Q.gp w.p w.n = false ∨ n = 0#32 → Lanes (.gloop w) s c 2 [] fun _ t => t) ∧
      (guardOk c.Q.gp w.p w.n = true → n = 1#32 → exec (.gloop w) s = .next (s.putQuire c (c.past 2 Q1))) ∧
      (guardOk c.Q.gp w.p w.n = true → n ≠ 0#32 → n ≠ 1#32 → tgt.toNat % 4 = 0 →
        exec (.gloop w) s = .next (s.putQuire c (c.gone 2 (c.uniform w.p w.n)
          (Q1.onLanes (c.uniform w.p w.n) fun _ t => { t with pc := tgt }))))) ∧
    (∀ gs, s.cur = .spring gs →
      (exec (.gbra o) s = .next (s.updSpring gs fun sp =>
        { sp with at_ := if guardOk sp.gp o.p o.n then ((sp.at_ : Int) + o.off.toInt).toNat else sp.at_ + 1 })) ∧
      exec (.gloop w) s = .next (s.updSpring gs fun sp =>
        let n := regGet sp.g w.d.toNat
        if guardOk sp.gp w.p w.n ∧ n ≠ 0#32 then
          { sp with g := regPut sp.g w.d.toNat (n - 1#32)
                    at_ := if n = 1#32 then sp.at_ + 2 else ((sp.at_ : Int) + w.x.imm20.toInt).toNat }
        else { sp with g := if guardOk sp.gp w.p w.n then regPut sp.g w.d.toNat n else sp.g, at_ := sp.at_ + 2 })))

/-! ### Control transfers and threads -/

/-- R97, R98, R99: every participant of a control transfer goes to its own target; CALL and CALLX also write the return address to their
link pair, and enter it into the quire's return-address stack of 8, from which RET takes one. -/
def Obligations.ControlTransfers : Prop :=
  ∀ (s : State) (c : Ctx) (b : WBr) (o : W1) (w : W2), s.ctx? = some c →
    let origin (v : Nat) : BitVec 64 := if c.B.ver < v then BitVec.ofNat 64 (wordAddr c.gr.clause c.gr.widx) else c.gr.clause
    let back : BitVec 64 := c.gr.clause + BitVec.ofNat 64 (4 * (1 + c.gr.words.length))
    let pair (l : Nat) : BitVec 64 := (c.thread l).getPair o.a.toNat
    Transfers (.bra b) s c 1 (c.participants b.p b.n) (fun _ => origin 4 + BitVec.ofInt 64 (4 * b.off.toInt)) (fun _ t => t) ∧
    Transfers (.brx o) s c 1 (c.participants o.p o.n) pair (fun _ t => t) ∧
    Returns (.ret o) s c 1 (c.participants o.p o.n) pair (fun _ t => t) (fun l => l.drop 1) ∧
    Returns (.call w) s c 2 (c.participants w.p w.n) (fun _ => origin 3 + BitVec.ofInt 64 (4 * w.x.imm20.toInt))
      (fun _ t => t.setPair w.d.toNat back) (fun l => (back :: l).take 8) ∧
    Returns (.callx o) s c 1 (c.participants o.p o.n) pair (fun _ t => t.setPair o.d.toNat back) (fun l => (back :: l).take 8)

/-- R86, R100, R106: EXIT ends its participants at issue; what they have outstanding goes on, and every QSYNC of the quire is tested
again. R101: TAIL ends its participants as it issues; its group then stands at it while a result bound for the core is outstanding,
or while every tracker entry is in use, and goes on when what it writes beyond the core has gone into the lowest free tracker entry.
R118, R447: TRAP ends its participants' task with USER-TRAP and the code in the address field of the report; with no participant it
has no effect. -/
def Obligations.ThreadsEnd : Prop :=
  (∀ (s : State) (c : Ctx) (w : W2), s.ctx? = some c →
    let ls := c.participants w.p w.n
    exec (.exit w) s = .next (s.putQuire c (Quire.qsyncTest (c.gone 2 ls
      (c.Q.onLanes ls fun _ t => { t with live := false, wait := .none, acq := none, spin := false }))))) ∧
  (∀ (s : State) (c : Ctx) (w : W2), s.ctx? = some c →
    let ls := if c.gr.ended = 0#32 then c.participants w.p w.n else laneList c.gr.ended
    let m := laneMask ls
    let out := s.opsOf c.b c.q (c.gr.lanes ||| m) Op.writesOut
    let over_ (Q : Quire) (g : Group) : Quire :=
      if c.gr.ended = 0#32 then
        Quire.qsyncTest { Q.onLanes ls (fun _ t => { t with live := false, wait := .none, acq := none, spin := false }) with
          groups := tput Q.groups c.gid { g with lanes := g.lanes &&& ~~~m } }
      else { Q with groups := tput Q.groups c.gid g }
    let stands : State := s.putQuire c (over_ c.Q { c.gr with ended := m, held := true })
    let goes (s : State) : State := s.putQuire c (over_ c.Q { c.gr with widx := c.gr.widx + 2, stage := 0, ended := 0#32 })
    (ls = [] → exec (.tail w) s = .next (s.putQuire c (c.past 2 c.Q))) ∧
    (ls ≠ [] → s.opsOf c.b c.q m Op.intoCore ≠ [] → exec (.tail w) s = .next stands) ∧
    (ls ≠ [] → s.opsOf c.b c.q m Op.intoCore = [] →
      (out = [] → exec (.tail w) s = .next (goes s)) ∧
      (out ≠ [] → (s.core c.B.core).freeEntry = none → exec (.tail w) s = .next stands) ∧
      (∀ i, out ≠ [] → (s.core c.B.core).freeEntry = some i →
        exec (.tail w) s = .next (goes (s.updCore c.B.core fun C => { C with tracker := tput C.tracker i (c.b, out) }))))) ∧
  (∀ (s : State) (c : Ctx) (w : W2), s.ctx? = some c →
    (c.participants w.p w.n = [] → Lanes (.trap w) s c 2 [] fun _ t => t) ∧
    (∀ l, (c.participants w.p w.n).head? = some l → c.B.sup = false →
      exec (.trap w) s = .next (s.endTask c.b 5 (some
        { cause := 3, detail := 0, clause := c.gr.clause, widx := c.gr.widx, lane := l, ea := BitVec.ofNat 64 w.x.imm20.toNat }))))

/-- R104, R105, R106, R117, R119: NOP, YIELD, NAP, QSYNC, and BKPT with debugging off or on. -/
def Obligations.WaitingInstructions : Prop :=
  ∀ (s : State) (c : Ctx) (o : W1) (w : W2), s.ctx? = some c →
    let ls := c.participants w.p w.n
    let n (t : Thread) : Nat := min (opB c.Q t w false w.x.imm20.toNat) 1048575
    let T := coreTarn c.B.core
    Lanes (.nop o) s c 1 [] (fun _ t => t) ∧
    Lanes (.nap w) s c 2 ls (fun _ t => if n t = 0 then t else { t with wait := .nap (s.clk + n t) (decide (32 ≤ n t)) }) ∧
    exec (.qsync w) s = .next (s.putQuire c (Quire.qsyncTest (c.past 2 (c.Q.onLanes ls fun l t =>
      { t with wait := .qsync (BitVec.ofNat 32 (opB c.Q t w false 0) ||| BitVec.twoPow 32 l) })))) ∧
    (ls = [] → Lanes (.yield w) s c 2 [] fun _ t => t) ∧
    (ls ≠ [] → s.oldestReady c.b c.B = none →
      exec (.yield w) s = .next (s.putQuire c { c.past 2 c.Q with skip := true })) ∧
    (∀ q, ls ≠ [] → s.oldestReady c.b c.B = some q →
      exec (.yield w) s = .next ((s.putQuire c (c.past 2 c.Q)).exchange c.b c.q q)) ∧
    ((s.tarn T).debug = false ∨ ls = [] → Lanes (.bkpt w) s c 2 [] fun _ t => t) ∧
    (∀ l, (s.tarn T).debug = true → ls.head? = some l → 64 ≤ (s.tarn T).traps.length → exec (.bkpt w) s = .next (s.stall c)) ∧
    (∀ l, (s.tarn T).debug = true → ls.head? = some l → (s.tarn T).traps.length < 64 → exec (.bkpt w) s = .next
      (((s.putQuire c (c.past 2 (c.Q.onLanes ls fun _ t => { t with wait := .bkpt }))).updBlock c.b
        fun B => { B with st := .debug }).postTrap T
          { kind := 7, addr := BitVec.ofNat 64 w.x.imm20.toNat, ident := identOf c.B c.q l, blk := some c.b }))

/-- R109 to R111: predicates by truth table, ranks among the live threads, and special registers. -/
def Obligations.PredicatesRanksAndSpecials : Prop :=
  ∀ (s : State) (c : Ctx) (w : W2), s.ctx? = some c →
    let ls := c.participants w.p w.n
    Lanes (.plop w) s c 2 ls (fun _ t => t.setP w.d.toNat
      (w.x.sub.getLsbD ((if t.getP w.a.toNat then 2 else 0) + (if t.getP w.b.toNat then 1 else 0)))) ∧
    Lanes (.rank w) s c 2 ls (fun l t =>
      (t.setV w.d.toNat (BitVec.ofNat 32 (rankOf c w.x.scope.toNat l).1)).setV (w.d.toNat + 1)
        (BitVec.ofNat 32 (rankOf c w.x.scope.toNat l).2)) ∧
    Lanes (.s2v w) s c 2 ls (fun l t => t.setV w.d.toNat (BitVec.ofNat 32 (specialReg s c l w.a.toNat))) ∧
    (ls = [] → Lanes (.s2g w) s c 2 [] fun _ t => t) ∧
    (∀ l, ls.head? = some l → Uniform (.s2g w) s c 2 true fun q => q.setG w.d.toNat (BitVec.ofNat 32 (specialReg s c l w.a.toNat))) ∧
    (∀ l, specialReg s c l 0 = l ∧ specialReg s c l 1 = c.q ∧ specialReg s c l 5 = c.B.bflat ∧
      specialReg s c l 13 = c.B.core % 25 ∧ specialReg s c l 20 = c.Q.fmask.toNat) ∧
    (∀ l, rankOf c 0 l = (0, 1) ∧
      rankOf c 1 l = ((c.Q.liveLanes.filter (· < l)).length, c.Q.liveLanes.length))

/-- R112 to R116: the cross-lane instructions read from participants and write to participants only. -/
def Obligations.CrossLane : Prop :=
  ∀ (s : State) (c : Ctx) (w : W2), s.ctx? = some c →
    let ls := c.participants w.p w.n
    let W := 32 / 2 ^ (w.x.sub.toNat / 4)
    let src (l : Nat) (t : Thread) : Nat × Bool := shflSrc (w.x.sub.toNat % 4) W l (opB c.Q t w false 0)
    let valid (l : Nat) (t : Thread) : Bool := (src l t).2 && ls.contains (src l t).1
    let m := laneMask (ls.filter fun l => (c.thread l).getP w.a.toNat != w.x.sub.getLsbD 2)
    let peers (l : Nat) : BitVec 32 := laneMask (ls.filter fun j => (c.thread j).rd w.x.w64 w.a == (c.thread l).rd w.x.w64 w.a)
    let one : Bool := ls.all fun l => peers l == laneMask ls
    let sum := qredN (w.x.sub.toNat % 8) (tyOf w) (rndOf w.x) (ls.map fun l => (c.thread l).rd false w.a)
    Lanes (.shfl w) s c 2 ls (fun l t =>
      (t.setV w.d.toNat ((c.thread (if valid l t then (src l t).1 else l)).getV w.a.toNat)).setP w.x.c.toNat (valid l t)) ∧
    Lanes (.vote w) s c 2 ls (fun _ t =>
      if w.x.sub.toNat / 8 % 2 = 1 then t.setV w.d.toNat (BitVec.ofNat 32 (laneList m).length)
      else if w.x.sub.toNat % 4 = 0 then t.setV w.d.toNat m
      else t.setP w.d.toNat (if w.x.sub.toNat % 4 = 1 then m == laneMask ls else if w.x.sub.toNat % 4 = 2 then m != 0#32
        else m == 0#32 || m == laneMask ls)) ∧
    (w.x.sub = 0#4 → Lanes (.matchv w) s c 2 ls (fun l t =>
      (t.setV w.d.toNat (peers l)).setP w.x.c.toNat (peers l == laneMask ls))) ∧
    (w.x.sub = 1#4 → Lanes (.matchv w) s c 2 ls (fun _ t =>
      (t.setV w.d.toNat (if one then laneMask ls else 0#32)).setP w.x.c.toNat one)) ∧
    (w.x.sub = 2#4 → Lanes (.matchv w) s c 2 ls (fun l t =>
      let lead := (laneList (peers l)).headD l
      (t.setV w.d.toNat (BitVec.ofNat 32 lead)).setP w.x.c.toNat (lead == l))) ∧
    (w.x.sub.getLsbD 3 = false → Lanes (.qred w) s c 2 ls (fun _ t => t.setV w.d.toNat (BitVec.ofNat 32 sum))) ∧
    (w.x.sub.getLsbD 3 = true → Uniform (.qred w) s c 2 (!ls.isEmpty) fun q => q.setG w.d.toNat (BitVec.ofNat 32 sum))

/-! ### Floating point and conversions -/

/-- R179, R181, R182, R184: the FP32 and packed sums, products and multiply-adds take each operand with its modifiers, form one exact
value and round it once; then what that value is: for NaN, infinities, exact zeros and finite operands. R185 to R189, R158: minimum,
maximum, comparison, classification, rounding to an integral value and scaling; then what each of them is: the lesser or greater
pattern with -0 below +0, the class table, the integer of each rounding mode. -/
def Obligations.FloatArithmetic : Prop :=
  ((∀ (s : State) (c : Ctx) (o : W1) (w : W2), s.ctx? = some c →
    let ls := c.participants w.p w.n
    let z := w.x.sub.getLsbD 0
    let rnd := rndOf w.x
    let neg (on : Bool) (v : Nat) : Nat := if on then Nat.xor v (2 ^ 31) else v
    let X (t : Thread) : Nat := flush z (t.getV w.a.toNat).toNat
    let Y (t : Thread) : Nat := neg (w.x.sub.getLsbD 1) (flush z (opB c.Q t w false (w.x.imm20.toNat * 2 ^ 12)))
    let Z (t : Thread) : Nat := neg (w.x.sub.getLsbD 2) (flush z (t.getV (cField w).toNat).toNat)
    let put (t : Thread) (v : Nat) : Thread := t.setV w.d.toNat (BitVec.ofNat 32 (flush z v))
    let one (f : Nat → Nat → Nat) (_ : Nat) (t : Thread) : Thread :=
      t.setV o.d.toNat (BitVec.ofNat 32 (f (t.getV o.a.toNat).toNat (t.getV o.b.toNat).toNat))
    let e : Fmt := if tyOf w = 13 then .fp16 else .bf16
    let half (h v : Nat) : Nat := v / 2 ^ (16 * h) % 2 ^ 16
    let neg16 (on : Bool) (v : Nat) : Nat := if on then Nat.xor v (2 ^ 15) else v
    let packed (f : Nat → Nat) : BitVec 32 := BitVec.ofNat 32 (f 0 + 2 ^ 16 * f 1)
    let a (t : Thread) (h : Nat) : Nat := half h (t.getV w.a.toNat).toNat
    let b (t : Thread) (h : Nat) : Nat := neg16 (w.x.sub.getLsbD 1) (half h (opB c.Q t w false 0))
    let d (t : Thread) (h : Nat) : Nat := neg16 (w.x.sub.getLsbD 2) (half h (t.getV w.x.c.toNat).toNat)
    Lanes (.faddOneWord o) s c 1 (c.participants o.p o.n) (one fun x y => addBits .fp32 .rne x y) ∧
    Lanes (.fmulOneWord o) s c 1 (c.participants o.p o.n) (one fun x y => mulBits .fp32 .rne x y) ∧
    Lanes (.faddTwoWord w) s c 2 ls (fun _ t => put t (addBits .fp32 rnd (X t) (Y t))) ∧
    Lanes (.fmulTwoWord w) s c 2 ls (fun _ t => put t (mulBits .fp32 rnd (X t) (Y t))) ∧
    Lanes (.ffma w) s c 2 ls (fun _ t => put t (fmaBits .fp32 rnd (X t) (Y t) (Z t))) ∧
    Lanes (.hadd2 w) s c 2 ls (fun _ t => t.setV w.d.toNat (packed fun h => addBits e rnd (a t h) (b t h))) ∧
    Lanes (.hmul2 w) s c 2 ls (fun _ t => t.setV w.d.toNat (packed fun h => mulBits e rnd (a t h) (b t h))) ∧
    Lanes (.hfma2 w) s c 2 ls (fun _ t => t.setV w.d.toNat (packed fun h => fmaBits e rnd (a t h) (b t h) (d t h)))) ∧
  (∀ (f : Fmt) (m : Rnd) (x y z : Nat),
    let X := decodeFp f x
    let Y := decodeFp f y
    let Z := decodeFp f z
    let zero (neg : Bool) : Nat := if neg then f.signBit else 0
    let sum (a : Bool) (k : Nat) (i : Int) (b : Bool) (l : Nat) (j e : Int) : Int :=
      (if a then -1 else 1) * ((k * 2 ^ (i - e).toNat : Nat) : Int) + (if b then -1 else 1) * ((l * 2 ^ (j - e).toNat : Nat) : Int)
    (X = .nan ∨ Y = .nan → addBits f m x y = f.nanCode ∧ mulBits f m x y = f.nanCode ∧ fmaBits f m x y z = f.nanCode) ∧
    (Z = .nan → fmaBits f m x y z = f.nanCode) ∧
    (∀ a, X = .inf a → Y.isZero = true → mulBits f m x y = f.nanCode ∧ mulBits f m y x = f.nanCode) ∧
    (∀ a, X = .inf a → Y = .inf (!a) → addBits f m x y = f.nanCode) ∧
    (∀ a b i j, X = .num a 0 i → Y = .num b 0 j →
      addBits f m x y = zero ((a && b) || decide (m = .rd))) ∧
    (∀ a i k, k ≠ 0 → X = .num a k i → Y = .num (!a) k i → addBits f m x y = zero (decide (m = .rd))) ∧
    (∀ a, X = .inf a → Y ≠ .nan → Y ≠ .inf (!a) → addBits f m x y = convert f m false (.inf a) ∧ addBits f m y x = convert f m false (.inf a)) ∧
    (∀ a k i, k ≠ 0 → X = .num a k i → Y.isZero = true →
      addBits f m x y = convert f m false X ∧ addBits f m y x = convert f m false X) ∧
    (∀ a k i b l j, k ≠ 0 → l ≠ 0 → X = .num a k i → Y = .num b l j →
      mulBits f m x y = convert f m false (.num (a != b) (k * l) (i + j)) ∧
      (sum a k i b l j (min i j) ≠ 0 → addBits f m x y =
        convert f m false (.num (decide (sum a k i b l j (min i j) < 0)) (sum a k i b l j (min i j)).natAbs (min i j))) ∧
      (Z.isZero = true → fmaBits f m x y z = convert f m false (.num (a != b) (k * l) (i + j))) ∧
      (∀ c, Z = .inf c → fmaBits f m x y z = convert f m false (.inf c)) ∧
      (∀ c p r, p ≠ 0 → Z = .num c p r →
        let S := sum (a != b) (k * l) (i + j) c p r (min (i + j) r)
        (S ≠ 0 → fmaBits f m x y z = convert f m false (.num (decide (S < 0)) S.natAbs (min (i + j) r))) ∧
        (S = 0 → fmaBits f m x y z = zero (decide (m = .rd))))))) ∧
  ((∀ (s : State) (c : Ctx) (w : W2), s.ctx? = some c →
    let ls := c.participants w.p w.n
    let z := w.x.sub.getLsbD 0
    let x (t : Thread) : Nat := (t.getV w.a.toNat).toNat
    let y (t : Thread) : Nat := opB c.Q t w false (w.x.imm20.toNat * 2 ^ 12)
    let put (t : Thread) (v : Nat) : Thread := t.setV w.d.toNat (BitVec.ofNat 32 v)
    let e : Fmt := if tyOf w = 13 then .fp16 else .bf16
    let half (h v : Nat) : Nat := v / 2 ^ (16 * h) % 2 ^ 16
    let u (t : Thread) : Bool := (decodeFp .fp32 (x t)).isNan || (decodeFp .fp32 (y t)).isNan
    let key (v : Nat) : Int := if v / 2 ^ 31 % 2 = 1 then -((v % 2 ^ 31 : Nat) : Int) else ((v % 2 ^ 31 : Nat) : Int)
    let cond (t : Thread) : Bool :=
      match w.x.sub.toNat % 8 with
      | 0 => !u t && decide (key (x t) = key (y t)) | 1 => u t || decide (key (x t) ≠ key (y t))
      | 2 => !u t && decide (key (x t) < key (y t)) | 3 => !u t && decide (key (x t) ≤ key (y t))
      | 4 => !u t && decide (key (y t) < key (x t)) | 5 => !u t && decide (key (y t) ≤ key (x t))
      | 6 => !u t | _ => u t
    Lanes (.fmin w) s c 2 ls (fun _ t => put t (minMaxBits .fp32 false (flush z (x t)) (flush z (y t)))) ∧
    Lanes (.fmax w) s c 2 ls (fun _ t => put t (minMaxBits .fp32 true (flush z (x t)) (flush z (y t)))) ∧
    Lanes (.hmnx2 w) s c 2 ls (fun _ t =>
      let f (h : Nat) : Nat := minMaxBits e z (half h (x t)) (half h (opB c.Q t w false 0))
      put t (f 0 + 2 ^ 16 * f 1)) ∧
    (w.x.sub.getLsbD 3 = false → Lanes (.fset w) s c 2 ls (fun _ t =>
      t.setV w.d.toNat (if cond t then 0xFFFFFFFF#32 else 0#32))) ∧
    (w.x.sub.getLsbD 3 = true → Lanes (.fset w) s c 2 ls (fun _ t => t.setP w.d.toNat (cond t))) ∧
    (w.x.isImm = false → w.x.sub.getLsbD 3 = false → Lanes (.fclass w) s c 2 ls (fun _ t => put t (2 ^ fclassOf (x t)))) ∧
    (w.x.isImm = true ∨ w.x.sub.getLsbD 3 = true → Lanes (.fclass w) s c 2 ls (fun _ t =>
      t.setP w.d.toNat ((opB c.Q t w false w.x.imm20.toNat % 2 ^ 10).testBit (fclassOf (x t))))) ∧
    Lanes (.frnd w) s c 2 ls (fun _ t => put t (flush z (frndBits (rndOf w.x) (flush z (x t))))) ∧
    Lanes (.fscl w) s c 2 ls (fun _ t => put t (flush z (fsclBits (rndOf w.x) (flush z (x t))
      (toSigned 32 (opB c.Q t w false (ofInt 32 w.x.imm20.toInt))))))) ∧
  (∀ (f : Fmt) (x y : Nat),
    let key (v : Nat) : Int := if v / f.signBit % 2 = 1 then -((v % f.signBit : Nat) : Int) - 1 else ((v % f.signBit : Nat) : Int)
    let nan (v : Nat) : Prop := decodeFp f v = .nan
    (∀ g, nan x → nan y → minMaxBits f g x y = f.nanCode) ∧ (∀ g, nan x → ¬ nan y → minMaxBits f g x y = y) ∧
    (∀ g, ¬ nan x → nan y → minMaxBits f g x y = x) ∧
    (¬ nan x → ¬ nan y → minMaxBits f false x y = (if key y < key x then y else x) ∧
      minMaxBits f true x y = (if key x < key y then y else x))) ∧
  (∀ x : Nat,
    let E := x / 2 ^ 23 % 256
    let M := x % 2 ^ 23
    let n := x / 2 ^ 31 % 2 = 1
    (E = 255 → M ≠ 0 → fclassOf x = if M / 2 ^ 22 % 2 = 0 then 0 else 1) ∧ (E = 255 → M = 0 → fclassOf x = if n then 2 else 9) ∧
    (E = 0 → M = 0 → fclassOf x = if n then 5 else 6) ∧ (E = 0 → M ≠ 0 → fclassOf x = if n then 4 else 7) ∧
    (E ≠ 0 → E ≠ 255 → fclassOf x = if n then 3 else 8)) ∧
  (∀ (m : Rnd) (x : Nat) (n : Int),
    (decodeFp .fp32 x = .nan → frndBits m x = Fmt.fp32.nanCode ∧ fsclBits m x n = Fmt.fp32.nanCode) ∧
    (∀ a, decodeFp .fp32 x = .inf a → frndBits m x = x ∧ fsclBits m x n = x) ∧
    (∀ a i, decodeFp .fp32 x = .num a 0 i → frndBits m x = x ∧ fsclBits m x n = x) ∧
    (∀ a k i, k ≠ 0 → decodeFp .fp32 x = .num a k i →
      frndBits m x = (if roundInt m a k i = 0 then (if a then 2 ^ 31 else 0)
        else convert .fp32 .rne false (.num a (roundInt m a k i).natAbs 0)) ∧
      fsclBits m x n = convert .fp32 m false (.num a k (i + min (max n (-1000)) 1000)))) ∧
  (∀ (m : Rnd) (a : Bool) (k j : Nat),
    let v : Int := if a then -(k : Int) else k
    let r := roundInt .rne a k (-(j : Int))
    roundInt m a k j = v * 2 ^ j ∧ roundInt .rd a k (-(j : Int)) = v / 2 ^ j ∧ roundInt .ru a k (-(j : Int)) = -(-v / 2 ^ j) ∧
    roundInt .rz a k (-(j : Int)) = (if a then -((k / 2 ^ j : Nat) : Int) else ((k / 2 ^ j : Nat) : Int)) ∧
    (2 * (r * 2 ^ j - v)).natAbs ≤ 2 ^ j ∧ ((2 * (r * 2 ^ j - v)).natAbs = 2 ^ j → r % 2 = 0)))

/-! ### Floating forms complete -/

/-- R45, R87, R157 to R189: every floating, conversion and block instruction completes in every state, for every operand: it changes the
destination of its participants and nothing else, no other register of theirs, no other thread or part of the machine. R170, R171,
R175: QTILE and TRLCK complete their issue when their tiles are ready and of the right kind: the tiles change state, and an
operation stands that will act on them; no byte of any memory changes. -/
def Obligations.FloatAndTileFormsComplete : Prop :=
  ((∀ (s : State) (c : Ctx) (o : W1) (i : Instr), s.ctx? = some c → i ∈ [Instr.faddOneWord o, .fmulOneWord o] →
    ∃ f : Nat → Thread → Thread, Lanes i s c 1 (c.participants o.p o.n) f ∧
      ∀ l t, ∃ x, f l t = t.setV o.d.toNat x) ∧
  (∀ (s : State) (c : Ctx) (w : W2) (i : Instr), s.ctx? = some c →
    i ∈ [Instr.faddTwoWord w, .fmulTwoWord w, .ffma w, .fmin w, .fmax w, .frnd w, .fscl w, .hadd2 w, .hmul2 w, .hfma2 w, .hmnx2 w,
      .cvt w, .cvtp w, .cvtx w, .i2f w, .qblk w, .unq w, .plx w, .pli w, .sclx w] →
    ∃ f : Nat → Thread → Thread, Lanes i s c 2 (c.participants w.p w.n) f ∧
      ∀ l t, ∃ x, f l t = t.setV w.d.toNat x) ∧
  (∀ (s : State) (c : Ctx) (w : W2) (i : Instr), s.ctx? = some c → i ∈ [Instr.fset w, .fclass w] →
    ∃ f : Nat → Thread → Thread, Lanes i s c 2 (c.participants w.p w.n) f ∧
      ∀ l t, (∃ x, f l t = t.setV w.d.toNat x) ∨ ∃ b, f l t = t.setP w.d.toNat b) ∧
  (∀ (s : State) (c : Ctx) (w : W2), s.ctx? = some c →
    ∃ f : Nat → Thread → Thread, Lanes (.f2i w) s c 2 (c.participants w.p w.n) f ∧
      ∀ l t, ∃ x, f l t = if tyOf w = 4 ∨ tyOf w = 8 then t.setPair w.d.toNat x else t.setV w.d.toNat (x.setWidth 32))) ∧
  (∀ (s : State) (c : Ctx) (w : W2), s.ctx? = some c → c.participants w.p false ≠ [] →
    let A := (c.B.sideOf s).tile w.a.toNat
    let D := (c.B.sideOf s).tile w.d.toNat
    let goes (i : Instr) (k : OpKind) (d : Option Nat) : Prop := ∃ t o, exec i s = .next t ∧ tget? t.ops s.next = some o ∧ o.kind = k ∧
      o.ins = i ∧ o.lanes = laneMask (c.participants w.p false) ∧ o.flag = (if w.n then c.gr.sfb else c.gr.sfa) ∧
      ((c.B.sideOf t).tile w.a.toNat).st = 3 ∧ (∀ n, d = some n → ((c.B.sideOf t).tile n).st = 1) ∧
      (c.B.sideOf t).bytes = (c.B.sideOf s).bytes ∧ t.mem = s.mem ∧ t.tarns = s.tarns ∧ t.host = s.host
    (A.st = 2 → D.st = 2 → A.desc'.image = false → A.desc'.ty = 9 → A.desc'.rows = 64 → A.desc'.wcols = 64 →
      D.desc'.image = true → D.desc'.ty = tyOf w → A.desc'.overlaps D.desc' = false → goes (.qtile w) .qtile (some w.d.toNat)) ∧
    (A.st = 2 → A.desc'.image = true → goes (.trlck w) .trlck none))

/-! ### Floating point and conversions -/

/-- R162 to R167: conversions between formats and integers; then the scale of R163 and the saturating integer of R166. R157: Convert,
step by step: NaN, infinities, zeros, a value that rounds within the format, and one that overflows under each mode or with `.sat`;
then what rounding at the format's precision with an unbounded exponent is: the pattern next below or above a magnitude, or the
nearest, with ties to even; V is the magnitude of a pattern, in units of the least subnormal. R168, R172 to R174, R176: block
quantisation over the participants, its inverse, bit planes and scale arithmetic; then the scale of a block, the code of an element,
the value of a code and the arithmetic of one scale. -/
def Obligations.ConversionsAndBlocks : Prop :=
  ((∀ (s : State) (c : Ctx) (w : W2), s.ctx? = some c →
    let ls := c.participants w.p w.n
    let v (t : Thread) : Nat := (t.getV w.a.toNat).toNat
    let put (t : Thread) (v : Nat) : Thread := t.setV w.d.toNat (BitVec.ofNat 32 v)
    let ty := tyOf w
    let sat := w.x.sub.getLsbD 3
    let rnd := rndOf w.x
    let src (t : Thread) : Fp :=
      match w.x.sub.toNat % 8 with
      | 0 => decodeFp .fp32 (v t) | 1 => decodeFp .fp16 (v t % 2 ^ 16) | 2 => decodeFp .bf16 (v t % 2 ^ 16)
      | 3 => decodeFp .e4m3 (v t % 2 ^ 8) | 4 => decodeFp .e5m2 (v t % 2 ^ 8) | _ => decodeScale (v t)
    let conv (sat : Bool) (x : Nat) : Nat := convert (fmtOfType ty) rnd sat (decodeFp .fp32 x)
    let b (t : Thread) : Nat := opB c.Q t w false 0
    (ty = 16 → Lanes (.cvt w) s c 2 ls (fun _ t => put t (toScale rnd (src t)))) ∧
    (ty ≠ 16 → Lanes (.cvt w) s c 2 ls (fun _ t => put t (convert (fmtOfType ty) rnd sat (src t)))) ∧
    (ty = 12 ∨ ty = 13 → Lanes (.cvtp w) s c 2 ls (fun _ t => put t (conv sat (v t) + 2 ^ 16 * conv sat (b t)))) ∧
    (ty = 14 ∨ ty = 15 → Lanes (.cvtp w) s c 2 ls (fun _ t =>
      let old := (t.getV w.x.c.toNat).toNat
      let new := conv sat (v t) + 2 ^ 8 * conv sat (b t)
      put t (if w.x.sub.getLsbD 0 then old % 2 ^ 16 + 2 ^ 16 * new else old / 2 ^ 16 * 2 ^ 16 + new))) ∧
    (ty = 12 ∨ ty = 13 → Lanes (.cvtx w) s c 2 ls (fun _ t =>
      put t (convert .fp32 .rne false (decodeFp (fmtOfType ty) (v t / 2 ^ (16 * (opB c.Q t w false w.x.imm20.toNat % 2)) % 2 ^ 16))))) ∧
    (ty = 14 ∨ ty = 15 → Lanes (.cvtx w) s c 2 ls (fun _ t =>
      put t (convert .fp32 .rne false (decodeFp (fmtOfType ty) (v t / 2 ^ (8 * (opB c.Q t w false w.x.imm20.toNat % 4)) % 2 ^ 8))))) ∧
    (ty = 16 → Lanes (.cvtx w) s c 2 ls (fun _ t =>
      put t (convert .fp32 .rne false (decodeScale (v t / 2 ^ (8 * (opB c.Q t w false w.x.imm20.toNat % 4)) % 2 ^ 8))))) ∧
    Lanes (.f2i w) s c 2 ls (fun _ t => t.wr (intBits ty == 64) w.d (f2i ty rnd (src t))) ∧
    Lanes (.i2f w) s c 2 ls (fun _ t =>
      let x := intVal w.x.sub.toNat (t.rd (intBits w.x.sub.toNat == 64) w.a)
      put t (convert (fmtOfType ty) rnd false (.num (decide (x < 0)) x.natAbs 0)))) ∧
  (∀ (m : Rnd) (a : Bool) (k l : Nat) (e : Int),
    let up : Prop := (m = .ru ∧ 2 ^ l < k) ∨ (m = .rne ∧ 2 ^ (l + 1) - k ≤ k - 2 ^ l)
    toScale m .nan = 255 ∧ toScale m (.inf a) = 255 ∧ toScale m (.num a 0 e) = 0 ∧
    (2 ^ l ≤ k → k < 2 ^ (l + 1) → up → (toScale m (.num a k e) : Int) = min (max (e + l + 1 + 127) 0) 254) ∧
    (2 ^ l ≤ k → k < 2 ^ (l + 1) → ¬ up → (toScale m (.num a k e) : Int) = min (max (e + l + 127) 0) 254)) ∧
  (∀ (m : Rnd) (ty b : Nat) (a : Bool) (k : Nat) (e : Int),
    let N : Nat := 2 ^ (if b = 64 then 64 else 32)
    let lo : Int := if ty ≤ 4 then -(2 ^ (b - 1)) else 0
    let hi : Int := if ty ≤ 4 then 2 ^ (b - 1) - 1 else 2 ^ b - 1
    ([(1, 8), (2, 16), (3, 32), (4, 64), (5, 8), (6, 16), (7, 32), (8, 64)].contains (ty, b) = true →
      f2i ty m .nan = 0 ∧ (f2i ty m (.inf a) : Int) = (if a then lo else hi) % N ∧
      (f2i ty m (.num a k e) : Int) = min (max (roundInt m a k e) lo) hi % N))) ∧
  (∀ (f : Fmt) (m : Rnd) (sat n : Bool) (k : Nat) (e : Int),
    let s := if n then f.signBit else 0
    let inf := if f.hasInf then s + f.infCode else f.nanCode
    let r := roundMag f m n k e false
    convert f m sat .nan = f.nanCode ∧
    convert f m false (.inf n) = inf ∧ convert f m true (.inf n) = s + f.maxCode ∧
    convert f m sat (.num n 0 e) = s ∧
    (k ≠ 0 → r ≤ f.maxCode → convert f m sat (.num n k e) = s + r) ∧
    (k ≠ 0 → f.maxCode < r → convert f m true (.num n k e) = s + f.maxCode) ∧
    (k ≠ 0 → f.maxCode < r → convert f m false (.num n k e) =
      (if m = .rne ∨ (m = .ru ∧ n = false) ∨ (m = .rd ∧ n = true) then inf else s + f.maxCode)) ∧
    (∀ i d : Nat, k ≠ 0 → e = (i : Int) - d + 1 - f.bias - f.mb →
      let V (c : Nat) : Nat := (if c < 2 ^ f.mb then c else (2 ^ f.mb + c % 2 ^ f.mb) * 2 ^ (c / 2 ^ f.mb - 1)) * 2 ^ d
      let x : Nat := k * 2 ^ i
      ((m = .rz ∨ m = .ru ∧ n = true ∨ m = .rd ∧ n = false) → V r ≤ x ∧ x < V (r + 1)) ∧
      ((m = .ru ∧ n = false ∨ m = .rd ∧ n = true) → x ≤ V r ∧ 0 < r ∧ V (r - 1) < x) ∧
      (m = .rne → 2 * x ≤ V r + V (r + 1) ∧ (0 < r → V (r - 1) + V r ≤ 2 * x) ∧
        (2 * x = V r + V (r + 1) ∨ (0 < r ∧ V (r - 1) + V r = 2 * x) → r % 2 = 0)))) ∧
  ((∀ (s : State) (c : Ctx) (w : W2), s.ctx? = some c →
    let ls := c.participants w.p w.n
    let put (t : Thread) (v : Nat) : Thread := t.setV w.d.toNat (BitVec.ofNat 32 v)
    let v (t : Thread) : Nat := (t.getV w.a.toNat).toNat
    let b (t : Thread) : Nat := opB c.Q t w false w.x.imm20.toNat
    let e := blockScale (tyOf w) (ls.map fun l => v (c.thread l))
    Lanes (.qblk w) s c 2 ls (fun _ t =>
      let r := blockElem (tyOf w) (rndOf w.x) e (v t)
      put t (r.1 + 256 * e + if r.2 then 65536 else 0)) ∧
    Lanes (.unq w) s c 2 ls (fun _ t =>
      put t (convert .fp32 (rndOf w.x) false (elemValue (tyOf w) (v t / 2 ^ (8 * (w.x.sub.toNat % 4)) % 2 ^ 8) (b t % 256)))) ∧
    Lanes (.plx w) s c 2 ls (fun _ t =>
      t.setV w.d.toNat (laneMask (ls.filter fun j => (v (c.thread j)).testBit (7 - b t % 8)))) ∧
    Lanes (.pli w) s c 2 ls (fun l t =>
      let p := if tyOf w = 0 then 8 else tyOf w - 15
      let y := (List.range p).foldl (fun y j => if ls.contains j && (v (c.thread j)).testBit l then y + 2 ^ (7 - j) else y) 0
      put t (ofInt 32 (toSigned 8 y))) ∧
    Lanes (.sclx w) s c 2 ls (fun _ t =>
      let f (i : Nat) : Nat := sclxByte (w.x.sub.toNat % 4) (v t / 2 ^ (8 * i) % 2 ^ 8) (b t / 2 ^ (8 * i) % 2 ^ 8)
      put t (f 0 + f 1 * 2 ^ 8 + f 2 * 2 ^ 16 + f 3 * 2 ^ 24))) ∧
  (∀ (ty : Nat) (xs : List Nat),
    let K : Int := if ty = 14 then 119 else if ty = 15 then 112 else 128
    ((∃ x ∈ xs, x / 2 ^ 23 % 256 = 255) → blockScale ty xs = 255) ∧
    (∀ x a k e, (∀ y ∈ xs, y / 2 ^ 23 % 256 ≠ 255 ∧ y % 2 ^ 31 ≤ x % 2 ^ 31) → x ∈ xs → decodeFp .fp32 (x % 2 ^ 31) = .num a k e →
      (k = 0 → blockScale ty xs = 0) ∧ (k ≠ 0 → (blockScale ty xs : Int) = min (max (floorLog2 k e + K) 0) 254))) ∧
  (∀ (ty : Nat) (m : Rnd) (e x : Nat) (a : Bool) (k : Nat) (q : Int), blockElem ty m 255 x = (0, false) ∧
    (e ≠ 255 → decodeFp .fp32 x = .num a k q →
      let t := roundInt m a k (q + 134 - e)
      (ty = 23 → (blockElem ty m e x).1 = ((min (max t (-128)) 127) % 256).toNat ∧
        ((blockElem ty m e x).2 = true ↔ t < -128 ∨ 127 < t)) ∧
      (ty ≠ 23 → (blockElem ty m e x).1 = convert (fmtOfType ty) m true (.num a k (q + 127 - e)) ∧
        ((blockElem ty m e x).2 = true ↔ k ≠ 0 ∧ (fmtOfType ty).maxCode < roundMag (fmtOfType ty) m a k (q + 127 - e) false)))) ∧
  (∀ (ty c e : Nat),
    let v : Int := toSigned 8 c / 2 ^ (8 - (ty - 15))
    (e % 256 = 255 → elemValue ty c e = .nan) ∧
    (17 ≤ ty → e % 256 ≠ 255 → elemValue ty c e = .num (decide (v < 0)) v.natAbs (((e % 256 : Nat) : Int) - 127 - ((ty - 15 : Nat) : Int) + 1)) ∧
    (∀ a k i, ty < 17 → e % 256 ≠ 255 → decodeFp (fmtOfType ty) c = .num a k i →
      elemValue ty c e = .num a k (i + (((e % 256 : Nat) : Int) - 127)))) ∧
  (∀ a b : Nat, (∀ m, a = 255 ∨ b = 255 → sclxByte m a b = 255) ∧ (a ≠ 255 → b ≠ 255 →
    (sclxByte 0 a b : Int) = min (max ((a : Int) + b - 127) 0) 254 ∧ (sclxByte 1 a b : Int) = min (max ((a : Int) - b + 127) 0) 254 ∧
    sclxByte 2 a b = max a b ∧ sclxByte 3 a b = min a b)))

/-- R190, R192: a transcendental issues as a flag-setting operation that holds V(D) with the result formed from the operand at issue;
its completion writes the result to each live thread and takes the flag down. -/
def Obligations.Transcendentals : Prop :=
  (∀ (s : State) (c : Ctx) (w : W2), s.ctx? = some c →
    let ls := c.participants w.p false
    let o (i : Instr) (k : Nat) : Op := { kind := .trans, ins := i, blk := c.b, q := c.q,
                                          place := c.B.core * 32 + c.q, code := c.gr.words, sets := (c.gr.sfa, c.gr.sfb), yld := c.gr.yld,
                                          lanes := laneMask ls
                                          flag := if w.n then c.gr.sfb else c.gr.sfa, holdV := [w.d.toNat]
                                          clause := c.gr.clause, widx := c.gr.widx
                                          elems := ls.map fun l =>
                                            .result l (transcend k (rndOf w.x) (w.x.sub.getLsbD 0) ((c.thread l).getV w.a.toNat).toNat) }
    Issues (.frcp w) s c 2 (o (.frcp w) 0) ∧ Issues (.frsq w) s c 2 (o (.frsq w) 1) ∧
    Issues (.fsqrt w) s c 2 (o (.fsqrt w) 2) ∧ Issues (.fex2 w) s c 2 (o (.fex2 w) 3) ∧
    Issues (.flg2 w) s c 2 (o (.flg2 w) 4) ∧ Issues (.fsin w) s c 2 (o (.fsin w) 5) ∧
    Issues (.fcos w) s c 2 (o (.fcos w) 6)) ∧
  (∀ (s : State) (i : Nat) (o : Op), s.op? i = some o → o.kind = .trans →
    exec (.transcendentalCompletion i) s =
      .next ((s.writeElems o false (BitVec.ofNat 7 (o.holdV.headD 0)) o.elems).finishOp i)) ∧
  (∀ (s : State) (i : Nat) (o : Op) (d : BitVec 7) (e : Elem), s.op? i = some o → o.kind = .trans → o.holdV = [d.toNat] →
    o.elems = [e] → o.lanes = BitVec.twoPow 32 e.lane → e.lane ∈ s.opLanes o → o.flag < 12 →
    exec (.transcendentalCompletion i) s = .next (((s.mapLanes o.blk o.q [e.lane] fun _ t => t.setV d.toNat (e.r.extractLsb' 0 32)).delOp i).mapLanes
      o.blk o.q [e.lane] fun _ t => t.setFlag o.flag (t.flag o.flag - 1)))

/-! ### Memory access -/

/-- R205, R208, R209: when the checks of R205 pass for every participant, LD and ST enter one element per participant at the physical
address its page gives, with the data that a store takes from its register; no byte of memory changes as they issue. -/
def Obligations.GlobalLoadStoreIssue : Prop :=
  ∀ (s : State) (c : Ctx) (w : W2), s.ctx? = some c →
    let n := tyBytes (tyOf w)
    let ea (l : Nat) : BitVec 64 := (c.thread l).getPair w.a.toNat +
      BitVec.ofInt 64 (toSigned 32 (opB c.Q (c.thread l) w false (ofInt 32 w.x.imm20.toInt)))
    let lane (a : Acc) : Elem := { lane := a.lane, va := a.ea, pa := a.pa, size := n, te := a.x.te }
    (Granted s c (c.participants w.p false) ea n n false noCell →
      let ls := c.participants w.p false
      let s1 := LookedUp s c ls ea n
      let acq := if w.x.sub.getLsbD 0 then w.x.scope.toNat else 0
      let o : Op := { kind := .load, ins := .ld w, blk := c.b, q := c.q,
                      place := c.B.core * 32 + c.q, code := c.gr.words, sets := (c.gr.sfa, c.gr.sfb), yld := c.gr.yld, lanes := laneMask ls
                      flag := if w.n then c.gr.sfb else c.gr.sfa, clause := c.gr.clause, widx := c.gr.widx
                      holdV := if n = 8 then [w.d.toNat, w.d.toNat + 1] else [w.d.toNat], acq
                      elems := (AccessesOf s c ls ea).map lane }
      let t := Issued s1 c 2 (s1.stampOrder c.Q o)
      exec (.ld w) s = .next (if acq = 0 then t else t.mapLanes c.b c.q ls fun _ t => { t with acq := some s.next })) ∧
    (Granted s c (c.participants w.p w.n) ea n n true noCell →
      let ls := c.participants w.p w.n
      let s1 := LookedUp s c ls ea n
      let rel := if w.x.cache ≠ 3#2 ∧ w.x.sub.getLsbD 0 then w.x.scope.toNat else 0
      let o : Op := { kind := .store, ins := .st w, blk := c.b, q := c.q,
                      place := c.B.core * 32 + c.q, code := c.gr.words, sets := (c.gr.sfa, c.gr.sfb), yld := c.gr.yld, lanes := laneMask ls, rel
                      clause := c.gr.clause, widx := c.gr.widx
                      elems := (AccessesOf s c ls ea).map fun a =>
                        { lane a with st := if inHost a.pa && rel == 0 then 1 else 0
                                      x := BitVec.ofNat 64 ((c.thread a.lane).rd (n == 8) w.d) } }
      exec (.st w) s = .next (Issued s1 c 2 (s1.stampOrder c.Q o)))

/-- R205: the first participant that fails a check ends the task with that check's cause and its address, and no access of the
instruction takes effect: it enters no operation and changes no byte of memory. R204, R205: the order of the checks of one access:
the lease, then alignment, then translation and what the page admits. -/
def Obligations.GlobalAccessFaults : Prop :=
  (∀ (s : State) (c : Ctx) (w : W2) (l k : Nat) (d : Nat), s.ctx? = some c → c.B.sup = false →
    let n := tyBytes (tyOf w)
    let ea (l : Nat) : BitVec 64 := (c.thread l).getPair w.a.toNat +
      BitVec.ofInt 64 (toSigned 32 (opB c.Q (c.thread l) w false (ofInt 32 w.x.imm20.toInt)))
    let check (write : Bool) (l : Nat) : Option (Nat × Nat) := s.accessBad c (ea l).toNat n n write noCell
    let ready (write : Bool) (ls : List Nat) : Prop := s.missing c.B.core (s.partOf c.B)
      (ls.foldl (fun a l => if c.B.mayAccess write (ea l).toNat n then a ++ pagesOf (ea l).toNat n else a) []) = []
    let rep : Report := { cause := k, detail := d, clause := c.gr.clause, widx := c.gr.widx, lane := l, ea := ea l, word := c.gr.failing k }
    let first (write : Bool) (ls : List Nat) : Prop :=
      ready write ls ∧ ls.find? (fun l => (check write l).isSome) = some l ∧ check write l = some (k, d)
    let done (i : Instr) : Prop := ∃ t, exec i s = .next t ∧ t.ops = (s.endTask c.b 5 (some rep)).ops ∧ t.blocks = (s.endTask c.b 5 (some rep)).blocks ∧
      t.tarns = (s.endTask c.b 5 (some rep)).tarns ∧ t.mem = s.mem ∧ t.tags = s.tags ∧ t.host = s.host
    (first false (c.participants w.p false) → done (.ld w)) ∧ (first true (c.participants w.p w.n) → done (.st w))) ∧
  (∀ (s : State) (c : Ctx) (ea n align : Nat) (write : Bool) (attr : Xlat → Option Nat),
    let check := s.accessBad c ea n align write attr
    (c.B.mayAccess write ea n = false → check = some (causeLease, 0)) ∧
    (c.B.mayAccess write ea n = true → ea % align ≠ 0 → check = some (causeMisaligned, 0)) ∧
    (∀ e, c.B.mayAccess write ea n = true → ea % align = 0 → c.B.sup = false → pagesOf ea n = [ea] →
      s.xlate c.B.core (s.partOf c.B) true write false ea = .error e → check = some (causeLeaseRevoked, 0)) ∧
    (∀ e, ea % align = 0 → c.B.sup = true → pagesOf ea n = [ea] →
      s.xlate c.B.core (s.partOf c.B) false write false ea = .error e → check = some (causeTranslation, e)) ∧
    (∀ x, c.B.mayAccess write ea n = true → ea % align = 0 → pagesOf ea n = [ea] →
      s.xlate c.B.core (s.partOf c.B) (!c.B.sup) write false ea = .ok x → check = (attr x).map fun k => (k, 0)))

/-- R228, R229, R231: prefetches, cache controls and tag accesses, when their checks pass. R142, R478: GLD is one load for the group; on
a supervisor core it also reads the logs of the control range, and stops where no rule describes that range. -/
def Obligations.CacheTagAndUniformLoads : Prop :=
  (∀ (s : State) (c : Ctx) (w : W2), s.ctx? = some c →
    let ea (l : Nat) : BitVec 64 := (c.thread l).getPair w.a.toNat +
      BitVec.ofInt 64 (toSigned 32 (opB c.Q (c.thread l) w false (ofInt 32 w.x.imm20.toInt)))
    let op (k : OpKind) (i : Instr) (ls : List Nat) : Op :=
      { kind := k, ins := i, blk := c.b, q := c.q,
        place := c.B.core * 32 + c.q, code := c.gr.words, sets := (c.gr.sfa, c.gr.sfb), yld := c.gr.yld,
        lanes := laneMask ls, clause := c.gr.clause, widx := c.gr.widx }
    let f := if w.n then c.gr.sfb else c.gr.sfa
    let accs (ls : List Nat) : List Acc := AccessesOf s c ls ea
    let at32 (a : Acc) : Elem := { lane := a.lane, va := a.ea, pa := a.pa / 32 * 32, size := 32 }
    (Granted s c (c.participants w.p false) ea 1 1 false noHost →
      let ls := c.participants w.p false
      let s1 := LookedUp s c ls ea 1
      CompletesTo (.cctl w) s (Issued s1 c 2 (s1.stampOrder c.Q { op .cctl (.cctl w) ls with
        flag := f, elems := (accs ls).map fun a => { lane := a.lane, va := a.ea, pa := a.pa, size := 1 } })) ∧
      CompletesTo (.tagld w) s (Issued s1 c 2 (s1.stampOrder c.Q { op .load (.tagld w) ls with
        flag := f, holdV := [w.d.toNat], elems := (accs ls).map fun a => { at32 a with st := if a.x.te then 0 else 3 } }))) ∧
    (Granted s c (c.participants w.p w.n) ea 1 1 true noHost →
      let ls := c.participants w.p w.n
      let s1 := LookedUp s c ls ea 1
      let as := (accs ls).filter fun a => a.x.te
      CompletesTo (.tagst w) s (Issued s1 c 2 (s1.stampOrder c.Q { op .tagSt (.tagst w) (as.map (·.lane)) with
        elems := as.map fun a => { at32 a with x := BitVec.ofNat 64 (((c.thread a.lane).getV w.d.toNat).toNat % 16) } }))) ∧
    (Granted s c (c.participants w.p w.n) ea 1 1 false noHost →
      (∀ a ∈ accs (c.participants w.p w.n), paModule a.pa = tarnModule (coreTarn c.B.core)) →
      let ls := c.participants w.p w.n
      CompletesTo (.pref w) s (Issued (s.dropNoXlat c.B.core (ls.map fun l => (ea l).toNat)) c 2 { op .fetch (.pref w) ls with
        elems := (accs ls).map fun a => { lane := a.lane, va := a.ea, pa := a.pa, size := 1, te := a.x.te } }))) ∧
  (∀ (s : State) (c : Ctx) (w : W2) (a : Acc), s.ctx? = some c →
    let n := tyBytes (tyOf w)
    let ls := c.uniform w.p false
    let ea : BitVec 64 := c.Q.getGPair w.a.toNat + BitVec.ofInt 64 (toSigned 32 (opBG c.Q w false (ofInt 32 w.x.imm20.toInt)))
    let s1 := LookedUp s c (ls.take 1) (fun _ => ea) n
    let e : Elem := { lane := a.lane, va := a.ea, pa := a.pa, size := n, te := a.x.te }
    let o : Op := { kind := .load, ins := .gld w, blk := c.b, q := c.q,
                    place := c.B.core * 32 + c.q, code := c.gr.words, sets := (c.gr.sfa, c.gr.sfb), yld := c.gr.yld, lanes := laneMask ls
                    flag := if w.n then c.gr.sfb else c.gr.sfa, clause := c.gr.clause, widx := c.gr.widx
                    holdG := if n = 8 then [w.d.toNat, w.d.toNat + 1] else [w.d.toNat] }
    let control := 0xF00000000000 ≤ paLow a.pa ∧ paLow a.pa < 0xF80000000000
    (ls = [] → exec (.gld w) s = .next (s.putQuire c (c.past 2 c.Q))) ∧
    (Granted s c (ls.take 1) (fun _ => ea) n n false noCell → AccessesOf s c (ls.take 1) (fun _ => ea) = [a] →
      (c.B.sup = false ∨ ¬control → exec (.gld w) s = .next (Issued s1 c 2 (s1.stampOrder c.Q { o with elems := [e] }))) ∧
      (∀ v, c.B.sup = true → control → s1.controlRead a.pa n = some v →
        exec (.gld w) s = .next (Issued s1 c 2 { o with elems := [{ e with st := 3, r := BitVec.ofNat 64 v }] })) ∧
      (c.B.sup = true → control → s1.controlRead a.pa n = none → exec (.gld w) s = .fault .controlRange)))

/-! ### Scratchpad, pool and atomics -/

/-- R215, R216, R366: which scratchpad access of a lane fails; a failing lane is switched off and the quire keeps its first cause; the
others read or write their bytes, and every other byte of the side stays as it was, as do the words of a ring header after NOTIFY. -/
def Obligations.ScratchpadAccess : Prop :=
  (∀ (B : Block) (S : Side) (write : Bool) (o : Int) (n : Nat),
    (o < 0 ∨ (B.scratch : Int) < o + n → scratchBad B S write o n = some 1) ∧
    (0 ≤ o → o + n ≤ B.scratch → o.toNat % n ≠ 0 → scratchBad B S write o n = some 2) ∧
    (0 ≤ o → o + n ≤ B.scratch → o.toNat % n = 0 → S.tiles = [] → scratchBad B S write o n = none)) ∧
  (∀ (s : State) (c : Ctx) (w : W2) (xs : List (Nat × Nat)), s.ctx? = some c →
    let n := tyBytes (tyOf w)
    let off (l : Nat) : Int := ((c.thread l).getV w.a.toNat).toNat + toSigned 32 (opB c.Q (c.thread l) w false (ofInt 32 w.x.imm20.toInt))
    (scratchSplit s c (c.participants w.p false) off n false = (xs, []) → s.scratchBusy c xs n = false →
      let o : Op := { kind := .lds, ins := .lds w, blk := c.b, q := c.q,
                      place := c.B.core * 32 + c.q, code := c.gr.words, sets := (c.gr.sfa, c.gr.sfb), yld := c.gr.yld, lanes := laneMask (xs.map (·.1))
                      flag := if w.n then c.gr.sfb else c.gr.sfa, clause := c.gr.clause, widx := c.gr.widx
                      holdV := if n = 8 then [w.d.toNat, w.d.toNat + 1] else [w.d.toNat]
                      elems := xs.map fun x => { lane := x.1, va := 0#64, pa := x.2, size := n, st := 3
                                                 r := BitVec.ofNat 64 (readLE (c.B.sideOf s).bytes x.2 n) } }
      exec (.lds w) s = .next (((Issued s c 2 o).observeAll o).meetStatus c xs n)) ∧
    (scratchSplit s c (c.participants w.p w.n) off n true true = (xs, []) → s.scratchBusy c xs n = false →
      ∃ t, exec (.sts w) s = .next t ∧
        (c.B.sideOf t).bytes = c.B.keepHeader (c.B.sideOf s).bytes
          (xs.foldl (fun m x => writeLE m x.2 n ((c.thread x.1).rd (n == 8) w.d)) (c.B.sideOf s).bytes) ∧
        (∀ a, (∀ x ∈ xs, a < x.2 ∨ x.2 + n ≤ a) → cellGet (c.B.sideOf t).bytes a = cellGet (c.B.sideOf s).bytes a) ∧
        (∀ a, c.B.ring ≠ 0 → 4 ≤ a → a < 64 → cellGet (c.B.sideOf t).bytes a = cellGet (c.B.sideOf s).bytes a) ∧
        (∀ ys x, xs = ys ++ [x] → (c.B.ring = 0 ∨ 64 ≤ x.2 ∨ x.2 + n ≤ 4) → readLE (c.B.sideOf t).bytes x.2 n = (c.thread x.1).rd (n == 8) w.d % 256 ^ n) ∧
        t.quireAt c.b c.q = some (c.past 2 c.Q) ∧ t.mem = s.mem ∧ t.host = s.host ∧ t.tarns = s.tarns ∧ t.tags = s.tags ∧
        (∀ k, k ≠ c.B.core → t.core k = s.core k))) ∧
  (∀ (s : State) (b q l cause off : Nat) (B : Block) (Q : Quire) (th : Thread), s.block? b = some B → tget? B.quires q = some Q →
    Q.groups = [] → tget? Q.threads l = some th → l < 32 →
    ∃ Q' : Quire, (s.laneFault b q [l] cause off).quireAt b q = some Q' ∧ Q'.fmask = Q.fmask ||| BitVec.twoPow 32 l ∧
      Q'.firstCause = (match Q.firstCause with | some x => some x | none => some (cause, off)) ∧
      tget? Q'.threads l = some { th with live := false, wait := .none, acq := none, spin := false })

/-- R223: pool loads and stores; a failing participant ends the task, and a store changes its bytes of the tarn's own pool and no other
byte. -/
def Obligations.PoolAccess : Prop :=
  ∀ (s : State) (c : Ctx) (w : W2), s.ctx? = some c →
    let n := tyBytes (tyOf w)
    let T := coreTarn c.B.core
    let off (l : Nat) : Int := ((c.thread l).getV w.a.toNat).toNat + toSigned 32 (opB c.Q (c.thread l) w false (ofInt 32 w.x.imm20.toInt))
    let fine (l : Nat) : Prop := 0 ≤ off l ∧ off l + n ≤ 2 ^ 25 ∧ (off l).toNat % n = 0
    ((∀ l ∈ c.participants w.p false, fine l) → s.poolBusy T = false → s.poolConflict c (c.participants w.p false) off n = false →
      let ls := c.participants w.p false
      let o : Op := { kind := .ldp, ins := .ldp w, blk := c.b, q := c.q,
                      place := c.B.core * 32 + c.q, code := c.gr.words, sets := (c.gr.sfa, c.gr.sfb), yld := c.gr.yld, lanes := laneMask ls
                      flag := if w.n then c.gr.sfb else c.gr.sfa, clause := c.gr.clause, widx := c.gr.widx
                      holdV := if n = 8 then [w.d.toNat, w.d.toNat + 1] else [w.d.toNat]
                      elems := ls.map fun l => { lane := l, va := 0#64, pa := (off l).toNat, size := n, st := 3
                                                 r := BitVec.ofNat 64 (readLE (s.tarn T).pool (off l).toNat n) } }
      exec (.ldp w) s = .next ((Issued s c 2 o).observeAll o)) ∧
    ((∀ l ∈ c.participants w.p w.n, fine l) → s.poolBusy T = false → s.poolConflict c (c.participants w.p w.n) off n = false →
      ∃ t, exec (.stp w) s = .next t ∧
        (∀ a, (∀ l ∈ c.participants w.p w.n, a < (off l).toNat ∨ (off l).toNat + n ≤ a) →
          cellGet (t.tarn T).pool a = cellGet (s.tarn T).pool a) ∧
        (∀ ls l, c.participants w.p w.n = ls ++ [l] →
          readLE (t.tarn T).pool (off l).toNat n = (c.thread l).rd (n == 8) w.d % 256 ^ n) ∧
        t.quireAt c.b c.q = some (c.past 2 c.Q) ∧ t.mem = s.mem ∧ t.host = s.host ∧ t.cores = s.cores ∧ t.tags = s.tags ∧
        (∀ u, u ≠ T → t.tarn u = s.tarn u)) ∧
    (∀ l, c.B.sup = false → (c.participants w.p w.n).find? (fun l => decide (off l < 0 ∨ 2 ^ 25 < off l + n)) = some l →
      (∀ k ∈ c.participants w.p w.n, k < l → fine k) →
      exec (.stp w) s = .next (s.endTask c.b 5 (some { cause := causePoolRange, detail := 0, clause := c.gr.clause
                                                       widx := c.gr.widx, lane := l, ea := BitVec.ofInt 64 (off l) })))

/-- R278, R282, R285 to R289, R292 to R294: atomics, reductions and deque operations enter one element per participant (one per address
for a reduction) with data, compare value, scope and order. R280, R281: the combining operation of every atomic, by operation and
type; a CAS writes only when its comparison holds. -/
def Obligations.Atomics : Prop :=
  (∀ (s : State) (c : Ctx) (w : W2), s.ctx? = some c →
    let n := if tyBits (tyOf w) = 64 then 8 else 4
    let ls := c.participants w.p false
    let sc := if w.x.sub.getLsbD 3 then w.x.scope.toNat else 0
    let regs := if n = 8 then [w.d.toNat, w.d.toNat + 1] else [w.d.toNat]
    let op (k : OpKind) (i : Instr) : Op :=
      { kind := k, ins := i, blk := c.b, q := c.q,
        place := c.B.core * 32 + c.q, code := c.gr.words, sets := (c.gr.sfa, c.gr.sfb), yld := c.gr.yld,
        lanes := laneMask ls, flag := if w.n then c.gr.sfb else c.gr.sfa
        clause := c.gr.clause, widx := c.gr.widx }
    let wait (t : State) (sc : Nat) : State := if sc = 0 then t else t.mapLanes c.b c.q ls fun _ t => { t with acq := some s.next }
    let ea := atomAddr c w
    let s1 := LookedUp s c ls ea n
    let elems (as : List Acc) : List Elem := as.map fun a => atomElem c w a.lane a.ea a.pa a.x.te
    let po (l : Nat) : Nat := ((c.thread l).getV w.a.toNat).toNat
    let mine : List Nat := (s.ops.filter fun x =>
      (x.2.kind == .poolAtom || x.2.kind == .deque) && x.2.blk == c.b && x.2.q == c.q).map (·.1)
    let pool (i : Instr) (o : Op) : Prop := CompletesTo i s (wait (Issued s c 2 { s.stampOrder c.Q o with due := if s.released (s.stampOrder c.Q o) then s.clk + 20 else 0, before_ := mine }) o.acq)
    let deq (k : Nat) : List Elem := ls.map fun l =>
      { lane := l, va := 0#64, pa := po l, size := 16, x := BitVec.ofNat 64 (if k = 0 then opB c.Q (c.thread l) w true 0 else 0) }
    let take := [w.d.toNat, w.d.toNat + 1, w.x.c.toNat]
    (Granted s c ls ea n n true (atomAttr true w) → CompletesTo (.atom w) s (wait (Issued s1 c 2 (s1.stampOrder c.Q
      { op .atom (.atom w) with holdV := regs, rel := sc, acq := sc, elems := elems (AccessesOf s c ls ea) })) sc)) ∧
    (Granted s c ls ea n n true (atomAttr false w) → CompletesTo (.red w) s (Issued s1 c 2 (s1.stampOrder c.Q
      { op .red (.red w) with rel := sc, elems := mergeElems w (elems (AccessesOf s c ls ea)) }))) ∧
    (∀ xs, scratchSplit s c ls (fun l => (po l : Int)) n true = (xs, []) → s.scratchBusy c xs n = false →
      let o : Op := { op .lds (.atoms w) with
        lanes := laneMask (xs.map (·.1)), holdV := regs, rel := sc, acq := sc, elems := xs.map fun x => atomElem c w x.1 0#64 x.2 false }
      let t := Issued s c 2 (s.stampOrder c.Q o)
      let t := if sc = 0 then t else t.mapLanes c.b c.q (xs.map (·.1)) fun _ t => { t with acq := some s.next }
      CompletesTo (.atoms w) s (t.scratchRmw s.next)) ∧
    ((∀ l ∈ ls, po l + n ≤ 2 ^ 25 ∧ po l % n = 0) →
      pool (.atomp w) { op .poolAtom (.atomp w) with
        holdV := regs, rel := sc, acq := sc, elems := ls.map fun l => atomElem c w l 0#64 (po l) false } ∧
      pool (.redp w) { op .poolAtom (.redp w) with
        rel := sc, elems := mergeElems w (ls.map fun l => atomElem c w l 0#64 (po l) false) }) ∧
    ((∀ l ∈ ls, po l + 16 ≤ 2 ^ 25 ∧ po l % 16 = 0) →
      pool (.pusht w) { op .deque (.pusht w) with n := 0, holdV := [w.d.toNat], rel := 4, elems := deq 0 } ∧
      pool (.taket w) { op .deque (.taket w) with n := 1, holdV := take, acq := 4, elems := deq 1 } ∧
      pool (.takeh w) { op .deque (.takeh w) with n := 2, holdV := take, acq := 4, elems := deq 2 })) ∧
  (∀ (ty o x c : Nat), (ty = 3 ∨ ty = 4 ∨ ty = 7 ∨ ty = 8) → o < 2 ^ tyBits ty → x < 2 ^ tyBits ty →
    combine 0 ty o x c = (o + x) % 2 ^ tyBits ty ∧
    valOf ty (combine 1 ty o x c) = min (valOf ty o) (valOf ty x) ∧
    valOf ty (combine 2 ty o x c) = max (valOf ty o) (valOf ty x) ∧
    combine 3 ty o x c = o &&& x ∧ combine 4 ty o x c = o ||| x ∧ combine 5 ty o x c = o ^^^ x ∧
    combine 6 ty o x c = x ∧ combine 7 ty o x c = (if o = c then x else o) ∧
    combine 0 9 o x c = addBits .fp32 .rne o x ∧ combine 1 9 o x c = minMaxBits .fp32 false o x ∧
    combine 2 9 o x c = minMaxBits .fp32 true o x ∧ combine 7 9 o x c = (if o = c then x else o))

/-- R291, R292: a deque is first in first out from its head and last in first out from its tail: PUSHT then TAKET gives the entry back
and leaves the deque as it was; on a full, empty or bad deque nothing is written. R291 to R294, R334: the service of a deque
operation of one lane: the pool as the operation leaves it, the status and the entry in the lane's registers, and its deque-spin
bit. -/
def Obligations.Deques : Prop :=
  (∀ (m : List Host.Cell) (o x : Nat), x < 2 ^ 64 → (dequeAt m o).bad = false → o % 16 = 0 → o + 16 ≤ 2 ^ 25 →
    let d := dequeAt m o
    ((dequeAt m o).count = 2 ^ d.capl → dequeAct 0 m o x = (m, 1, 0)) ∧
    (d.count = 0 → dequeAct 1 m o x = (m, 2, 0) ∧ dequeAct 2 m o x = (m, 2, 0)) ∧
    (d.count < 2 ^ d.capl → (d.slot d.tail + 8 ≤ o ∨ o + 16 ≤ d.slot d.tail) →
      let r := dequeAct 0 m o x
      r.2 = (0, 0) ∧ (dequeAt r.1 o).count = d.count + 1 ∧ (dequeAt r.1 o).head = d.head ∧
      (dequeAct 1 r.1 o 0).2 = (0, x) ∧ (dequeAt (dequeAct 1 r.1 o 0).1 o) = d ∧
      (d.count = 0 → (dequeAct 2 r.1 o 0).2 = (0, x)) ∧
      ∀ a, (a < d.slot d.tail ∨ d.slot d.tail + 8 ≤ a) → (a < o + 4 ∨ o + 8 ≤ a) → cellGet r.1 a = cellGet m a)) ∧
  (∀ (s : State) (op : Nat) (o : Op) (e : Elem) (B : Block) (Q : Quire) (th : Thread), s.op? op = some o → o.kind = .deque →
    o.elems = [e] → e.st = 0 → o.lanes = BitVec.twoPow 32 e.lane → e.lane < 32 → o.drop = false → o.bad = none →
    s.poolTurn op o = true → firstBlock ≤ o.blk → s.block? o.blk = some B → tget? B.quires o.q = some Q →
    tget? Q.threads e.lane = some th → th.live = true →
    let r := dequeAct o.n (s.tarn (coreTarn B.core)).pool e.pa e.x.toNat
    let d := (w2Of o.ins).d.toNat
    let k := (w2Of o.ins).x.c.toNat
    ∃ t th', exec (.dequeService op e.lane) s = .next t ∧ t.threadAt o.blk o.q e.lane = some th' ∧
      (t.tarn (coreTarn B.core)).pool = r.1 ∧ (∀ u, u ≠ coreTarn B.core → t.tarn u = s.tarn u) ∧
      (o.n = 0 → th'.getV d = BitVec.ofNat 32 r.2.1 ∧ (∀ n, n ≠ d → th'.getV n = th.getV n) ∧ (r.2.1 = 0 → th'.spin = false)) ∧
      (o.n ≠ 0 → th'.getV k = BitVec.ofNat 32 r.2.1 ∧ (k ≠ d → k ≠ d + 1 → th'.getPair d = BitVec.ofNat 64 r.2.2) ∧
        (∀ n, n ≠ d → n ≠ d + 1 → n ≠ k → th'.getV n = th.getV n) ∧ th'.spin = (r.2.1 == 2)) ∧
      ((∀ i ∈ o.covers ++ o.prior, s.op? i = none) → t.op? op = none) ∧
      t.mem = s.mem ∧ t.host = s.host ∧ t.tags = s.tags ∧ t.cores = s.cores)

/-! ### Tiles -/

/-- R218, R219, R221: TDEF and TSET change the tile table for the lowest participant, wait while the tile is busy, and switch the
participants' lanes off on a descriptor or a tile that is not right; TQRY reads an entry in any state. R224 to R226: LDT and STT
name a ready tile and an object whose checks pass; the tile is FILLING or DRAINING meanwhile. -/
def Obligations.TileTableAndTransferIssue : Prop :=
  (∀ (s : State) (c : Ctx) (w : W2), s.ctx? = some c →
    let ls := c.participants w.p w.n
    let n := w.d.toNat
    let S := c.B.sideOf s
    let s2 := s.putQuire c (c.past 2 c.Q)
    let off (l : Nat) : Nat := ((c.thread l).getPair w.a.toNat).toNat
    (ls = [] → CompletesTo (.tdef w) s s2 ∧ CompletesTo (.tset w) s s2) ∧
    (∀ l, ls.head? = some l →
      ((S.tile n).busy = true → CompletesTo (.tdef w) s (s.stall c)) ∧
      ((S.tile n).busy = false → descOk (off l) c.B.scratch = true →
        CompletesTo (.tdef w) s (s2.setTile c.B n fun _ => { st := 2, desc := BitVec.ofNat 39 (off l) })) ∧
      ((S.tile n).busy = false → descOk (off l) c.B.scratch = false →
        CompletesTo (.tdef w) s (s2.laneFault c.b c.q ls 3 n)) ∧
      (w.x.sub.getLsbD 0 = false → (S.tile n).busy = false → (S.tile n).st ≠ 0 →
        CompletesTo (.tset w) s (s2.setTile c.B n fun T => { T with st := 0 })) ∧
      (w.x.sub.getLsbD 0 = false → (S.tile n).st = 0 → CompletesTo (.tset w) s (s2.laneFault c.b c.q ls 3 n)) ∧
      (w.x.sub.getLsbD 0 = true → (∀ e ∈ S.tiles, e.2.busy = false) →
        CompletesTo (.tset w) s (s2.updSide c.B fun S => { S with tiles := [] }))) ∧
    Lanes (.tqry w) s c 2 ls (fun _ t =>
      t.setPair w.d.toNat (BitVec.ofNat 64 ((S.tile w.a.toNat).desc.toNat + (S.tile w.a.toNat).st * 2 ^ 60)))) ∧
  (∀ (s : State) (c : Ctx) (w : W2) (l : Nat), s.ctx? = some c →
    let n := w.d.toNat
    let T := (c.B.sideOf s).tile n
    let x := T.desc'
    let ea := (c.thread l).getPair w.a.toNat
    let size := 64 + x.dataSize
    let s1 := LookedUp s c [l] (fun _ => ea) size
    let lines (write : Bool) : List (BitVec 64 × Xlat) := (List.range ((size + 63) / 64)).filterMap fun i =>
      let va := ea + BitVec.ofNat 64 (64 * i)
      match s1.xlate c.B.core (s1.partOf c.B) (!c.B.sup) write false va.toNat with
      | .ok p => some (va, p)
      | .error _ => none
    let online (write : Bool) : Prop := ∀ y ∈ lines write, s1.homeOffline (y.2.pa y.1.toNat) = false
    (T.st = 2 → (c.participants w.p false).head? = some l → Granted s c [l] (fun _ => ea) size 64 false noHost → online false →
      let o : Op := { kind := .ldt, ins := .ldt w, blk := c.b, q := c.q,
                      place := c.B.core * 32 + c.q, code := c.gr.words, sets := (c.gr.sfa, c.gr.sfb), yld := c.gr.yld,
                      lanes := laneMask (c.participants w.p false)
                      flag := if w.n then c.gr.sfb else c.gr.sfa, clause := c.gr.clause, widx := c.gr.widx
                      elems := (lines false).map fun y => { lane := l, va := y.1, pa := y.2.pa y.1.toNat, size := 64, te := y.2.te } }
      CompletesTo (.ldt w) s (Issued (s1.setTile c.B n fun T => { T with st := 1 }) c 2 (s1.stampOrder c.Q o))) ∧
    (T.st = 2 → (c.participants w.p w.n).head? = some l → Granted s c [l] (fun _ => ea) size 64 true noHost → online true →
      (w.x.sub.getLsbD 0 = true → c.B.sup = false → ea.toNat / 65536 ≠ (ea.toNat + size - 1) / 65536 →
        CompletesTo (.stt w) s (s1.endTask c.b 5 (some { cause := causeAonSpan, detail := 0, clause := c.gr.clause
                                                         widx := c.gr.widx, lane := l, ea }))) ∧
      (w.x.sub.getLsbD 0 = false ∨ ea.toNat / 65536 = (ea.toNat + size - 1) / 65536 →
        ∃ t, exec (.stt w) s = .next t ∧ ((c.B.sideOf t).tile n).st = 3 ∧ t.mem = s.mem ∧ t.tarns = s.tarns ∧
          ∃ o, tget? t.ops s.next = some o ∧ o.kind = .stt ∧ o.lanes = laneMask (c.participants w.p w.n) ∧ o.flag = 15)) ∧
    (∀ i, T.busy = true → (i = .ldt w ∧ (c.participants w.p false).head? = some l ∨ i = .stt w ∧ (c.participants w.p w.n).head? = some l) →
      CompletesTo i s (s.stall c)))

/-- R170, R171, R175: QTILE and TRLCK take ready tiles of the right kind; their completions write the image or the status word and make
the tiles ready again. The image is that of the words of T(A), each as it stood when QTILE read it: as it first met it, or as it
stands at completion. R225, R226: an attempt of LDT reads VER and the header, the data line by line, and VER again: an odd or a
changed version begins the next attempt, a header that is not the tile's switches lanes off, and the last read copies the object's
data into the tile's words and no other byte of the side; `.aon` commits STT's object whole, its version 2 on, or sends it to its
home whole. -/
def Obligations.TileTransfers : Prop :=
  ((∀ (s : State) (c : Ctx) (w : W2), s.ctx? = some c → c.participants w.p false ≠ [] →
    let ls := c.participants w.p false
    let A := (c.B.sideOf s).tile w.a.toNat
    let D := (c.B.sideOf s).tile w.d.toNat
    let op (k : OpKind) (i : Instr) : Op := { kind := k, ins := i, blk := c.b, q := c.q,
                                              place := c.B.core * 32 + c.q, code := c.gr.words, sets := (c.gr.sfa, c.gr.sfb), yld := c.gr.yld,
                                              lanes := laneMask ls
                                              flag := if w.n then c.gr.sfb else c.gr.sfa, clause := c.gr.clause, widx := c.gr.widx }
    (A.st = 2 → D.st = 2 → A.desc'.image = false → A.desc'.ty = 9 → A.desc'.rows = 64 → A.desc'.wcols = 64 →
      D.desc'.image = true → D.desc'.ty = tyOf w → A.desc'.overlaps D.desc' = false →
      let u := (s.setTile c.B w.a.toNat fun T => { T with st := 3 }).setTile c.B w.d.toNat fun T => { T with st := 1 }
      CompletesTo (.qtile w) s (Issued u c 2 (u.stampOrder c.Q { op .qtile (.qtile w) with
        bytes := s.tileData c.B A.desc'
        elems := (List.range D.desc'.rows).map fun r =>
          { lane := ls.headD 0, va := 0#64, pa := D.desc'.wordAt r 0, size := 4 * D.desc'.wcols } }))) ∧
    (A.st = 2 → A.desc'.image = true →
      CompletesTo (.trlck w) s (Issued (s.setTile c.B w.a.toNat fun T => { T with st := 3 }) c 2
        { op .trlck (.trlck w) with holdV := [w.d.toNat] })) ∧
    (A.st = 0 → CompletesTo (.trlck w) s ((s.putQuire c (c.past 2 c.Q)).laneFault c.b c.q ls 3 w.a.toNat))) ∧
  (∀ (s : State) (i : Nat) (o : Op) (B : Block) (w : W2), s.op? i = some o → s.block? o.blk = some B →
    let A := ((B.sideOf s).tile w.a.toNat).desc'
    let D := ((B.sideOf s).tile w.d.toNat).desc'
    let m := (B.sideOf s).bytes
    (o.kind = .qtile → o.ins = .qtile w → w.a ≠ w.d → o.covers = [] → o.prior = [] → o.met = [] → o.bad = none →
      ∃ t xs, exec (.qtileCompletion i) s = .next t ∧ t.op? i = none ∧
        ((B.sideOf t).tile w.a.toNat).st = 2 ∧ ((B.sideOf t).tile w.d.toNat).st = 2 ∧ xs.length = 4096 ∧
        (∀ k, k < 4096 → xs.getD k 0 = readLE m (A.wordAt (k / 64) (k % 64)) 4 ∨ xs.getD k 0 = leNat ((o.bytes.drop (4 * k)).take 4)) ∧
        (B.sideOf t).bytes = B.keepHeader m (scatterBytes m D.dataAt (quantTile (tyOf w) (rndOf w.x) xs)) ∧
        (∀ a, a ∉ D.dataAt → cellGet (B.sideOf t).bytes a = cellGet m a) ∧ t.mem = s.mem ∧ t.tarns = s.tarns) ∧
    (o.kind = .trlck → o.ins = .trlck w →
      ∃ t, exec (.trlckStatusWrite i) s = .next t ∧ t.op? i = none ∧ ((B.sideOf t).tile w.a.toNat).st = 2 ∧
        (B.sideOf t).bytes = m ∧ t.mem = s.mem ∧ t.tarns = s.tarns ∧
        ∀ Q l th, tget? B.quires o.q = some Q → tget? Q.threads l = some th → l ∈ s.opLanes o → 12 ≤ o.flag →
          t.threadAt o.blk o.q l = some (th.setV w.d.toNat (BitVec.ofNat 32 (trailerStatus (A.dataAt.map fun a => cellGet m a))))))) ∧
  ((∀ (s : State) (i : Nat) (o : Op) (B : Block) (w : W2) (e : Elem), s.op? i = some o → s.block? o.blk = some B → o.kind = .ldt →
    o.ins = .ldt w → o.bypass = false → o.bad = none → o.elems[o.m % o.elems.length]? = some e →
    let n := w.d.toNat
    let T := (B.sideOf s).tile n
    let len := o.elems.length
    let t := coreTarn B.core
    let ln := lineOf e.pa
    let need := if o.m = len then byteMask 0 4 else T.desc'.needs o.m
    let bs := leBytes 64 (s.readLine t ln).toNat
    let ver := leNat (bs.take 8)
    let over_ (u : State) : Prop := ∀ x, u.op? i = some x → x.kind = .met
    let goes (o' : Op) : Prop := ∃ u met, exec (.ldtAttempt i) s = .next u ∧ u.op? i = some { o' with met := met } ∧
      (s.writersOf o e = [] → met = o.met) ∧ u.mem = s.mem ∧ u.tags = s.tags ∧ u.cores = s.cores
    s.clearToAct o e = true → s.shut t e.pa = false → s.podDown t e.pa = false → (t = lineHome ln → s.dramHeld ln = false) →
    s.agentHas t ln need = true → s.poisonedFor t ln = false → s.tagsMatch t e.te e.va e.pa (maskBytes need) = true →
      (o.m = 0 → ver % 2 = 1 → o.n < 64 → goes { o with n := o.n + 1, m := 0, bytes := [] }) ∧
      (o.m = 0 → ver % 2 = 0 → bits ver 61 32 * 2 ^ 32 = T.desc'.header → goes { o with m := 1, bytes := bs }) ∧
      (o.m = 0 → ver % 2 = 0 → bits ver 61 32 * 2 ^ 32 ≠ T.desc'.header →
        ∃ u, exec (.ldtAttempt i) s = .next u ∧ over_ u ∧ ((B.sideOf u).tile n).st = 2 ∧ (B.sideOf u).bytes = (B.sideOf s).bytes) ∧
      (0 < o.m → o.m < len → goes { o with m := o.m + 1, bytes := o.bytes ++ bs }) ∧
      (0 < o.m → len ≤ o.m → leNat (bs.take 4) ≠ leNat (o.bytes.take 4) → o.n < 64 → goes { o with n := o.n + 1, m := 0, bytes := [] }) ∧
      (0 < o.m → len ≤ o.m → leNat (bs.take 4) = leNat (o.bytes.take 4) →
        ∃ u, exec (.ldtAttempt i) s = .next u ∧ over_ u ∧ ((B.sideOf u).tile n).st = 2 ∧
          (B.sideOf u).bytes = B.keepHeader (B.sideOf s).bytes (scatterBytes (B.sideOf s).bytes T.desc'.dataAt (o.bytes.drop 64)) ∧
          (∀ a, a ∉ T.desc'.dataAt → cellGet (B.sideOf u).bytes a = cellGet (B.sideOf s).bytes a) ∧ u.mem = s.mem ∧ u.tags = s.tags)) ∧
  (∀ (s : State) (i : Nat) (o : Op) (B : Block) (w : W2) (h : Elem) (rest : List Elem), s.op? i = some o → s.block? o.blk = some B →
    o.kind = .stt → o.ins = .stt w → w.x.sub.getLsbD 0 = true → o.bypass = false → o.elems = h :: rest →
    (∀ e ∈ o.elems, e.st = 0 ∧ s.clearToAct o e = true) → s.shut (coreTarn B.core) h.pa = false →
    let t := coreTarn B.core
    let s1 := s.sttRead o
    let v := takeData ((s1.clean (lineHome (lineOf h.pa)) (lineOf h.pa)).homeData (lineOf h.pa)) 0 4
    let shared := s.routeOf o h = .here ∧ ∃ e ∈ o.elems, s.spanSharers (lineOf e.pa) (BitVec.allOnes 64) t ≠ []
    (s.stampedFor o h = true ∨ shared → CompletesTo (.sttAonCommit i) s (s.sendAccess i t (lineOf h.pa) o.elems)) ∧
    (s.stampedFor o h = false → ¬ shared →
      (∀ e ∈ o.elems, s.dramHeld (lineOf e.pa) = false ∧ s.podDown t e.pa = false ∧ s.isPoisoned (lineOf e.pa) = false ∧
        s.tagsMatch (lineHome (lineOf e.pa)) e.te e.va e.pa e.size = true) →
      CompletesTo (.sttAonCommit i) s (((aonLines h rest.dropLast v).foldl (fun s x =>
        let r := s.homeWrite x.1 x.2.1 x.2.2 0 false
        (r.1.streamHome o x.1).mapElems i (fun e => lineOf e.pa == x.1) fun e => { e with st := if r.2 then 3 else 2 }) s1).retire))))

/-! ### Fences, cells, barriers and waits -/

/-- R243, R244: a fence stands before its word until the reads of its participants have returned (an acquire) and every write that
happens before it is performed at its scope (a release), then goes past it and records the order: an acquire fence takes what its
threads' reads have met from releases of a common instance of the lesser scope, and an `.sc` fence (R241) takes its place behind the
`.sc` fences that have passed; FSP waits for scratchpad writes that have not reached their banks and empties the operand caches. -/
def Obligations.Fences : Prop :=
  ∀ (s : State) (c : Ctx) (w : W2) (o : W1), s.ctx? = some c →
    let ls := c.participants w.p w.n
    let kind := w.x.sub.toNat % 4
    let acq := if kind = 2 then 0 else w.x.scope.toNat
    let rel := if kind = 1 then 0 else w.x.scope.toNat
    let cov := if rel = 0 then [] else s.coversOf c.b c.q c.Q ls
    let reads := s.opsOf c.b c.q (laneMask ls) Op.isRead
    let met (t : Thread) : Thread := if acq = 0 then t else
      { t with synced := addNew t.synced (acquired acq (c.B.core * 32 + c.q) t.readSet), readSet := [] }
    let spad := s.opsOf c.b c.q (laneMask (c.participants o.p o.n)) fun o =>
      o.isWrite && o.space == 1 && o.elems.any fun e => e.st == 0
    let passed (l : Nat) (t : Thread) : Thread :=
      if rel = 0 then met t else { met t with fenced := s.happenBefore c.b c.q l (tget c.Q.threads l (met t)), fsc := max t.fsc rel }
    (ls = [] → Lanes (.fence w) s c 2 [] fun _ t => t) ∧
    (ls ≠ [] → acq ≠ 0 → reads ≠ [] → exec (.fence w) s = .next (s.stall c)) ∧
    (ls ≠ [] → (acq = 0 ∨ reads = []) → (∃ i ∈ cov, s.performedAt rel i = false) →
      exec (.fence w) s = .next ((s.pushBack rel cov).stall c)) ∧
    (ls ≠ [] → (acq = 0 ∨ reads = []) → (∀ i ∈ cov, s.performedAt rel i = true) →
      (kind ≠ 0 → Lanes (.fence w) s c 2 ls passed) ∧
      (kind = 0 → exec (.fence w) s = .next (((s.mapLanes c.b c.q ls passed).advance c 2).scOrder c.b c.q c.B.core w.x.scope.toNat ls))) ∧
    (∀ place rs a, a ∈ acquired acq place rs ↔ acq ≠ 0 ∧ ∃ r ∈ rs, r.2.2 = a ∧ sameInstance (min r.1 acq) r.2.1 place = true) ∧
    (c.participants o.p o.n = [] → Lanes (.fsp o) s c 1 [] fun _ t => t) ∧
    (c.participants o.p o.n ≠ [] → spad ≠ [] → exec (.fsp o) s = .next (s.stall c)) ∧
    (c.participants o.p o.n ≠ [] → spad = [] → exec (.fsp o) s = .next { s with
      blocks := tput s.blocks c.b { c.B with
        quires := tput c.B.quires c.q (c.past 1 c.Q)
        handles := c.B.handles.map fun h => (h.1, { h.2 with cache := none }) } })

/-- R299, R302, R304, R308, R309, R314: when the checks pass, a cell operation enters one element per participant: the named generation,
the value proposed and the proposer's identity; a DREAD without `.home` that hits a decision cache has its result at once. -/
def Obligations.CellIssue : Prop :=
  ∀ (s : State) (c : Ctx) (w : W2), s.ctx? = some c →
    let ls := c.participants w.p false
    let ea (l : Nat) : BitVec 64 := (c.thread l).getPair w.a.toNat
    let s1 := LookedUp s c ls ea 16
    let as := AccessesOf s c ls ea
    let gen (l : Nat) : Nat := ((c.thread l).getV w.x.c.toNat).toNat % 2 ^ 30
    let dgen (l : Nat) : Nat := opB c.Q (c.thread l) w false w.x.imm20.toNat % 2 ^ 30
    let sc := w.x.scope.toNat
    let dsc := if w.x.isImm then (tyOf w) % 8 else sc
    let four := [w.d.toNat, w.d.toNat + 1, w.d.toNat + 2, w.d.toNat + 3]
    let elem (g v : Nat) (a : Acc) : Elem :=
      { lane := a.lane, va := a.ea, pa := a.pa, size := 16, x := BitVec.ofNat 64 v
        c := BitVec.ofNat 64 (g + 2 ^ 32 * (identOf c.B c.q a.lane).toNat) }
    let op (i : Instr) (rel acq : Nat) (regs : List Nat) (es : List Elem) : Op :=
      { kind := .cell, ins := i, blk := c.b, q := c.q,
        place := c.B.core * 32 + c.q, code := c.gr.words, sets := (c.gr.sfa, c.gr.sfb), yld := c.gr.yld,
        lanes := laneMask ls, flag := if w.n then c.gr.sfb else c.gr.sfa
        clause := c.gr.clause, widx := c.gr.widx, holdV := regs, rel, acq, elems := es }
    let done (i : Instr) (s1 : State) (o : Op) : Prop :=
      let t := Issued s1 c 2 (s1.stampOrder c.Q o)
      CompletesTo i s ((o.elems.filter Elem.done).foldl (fun r e => (r.noteMet s.next o e).observe o e)
        (if o.acq = 0 then t else t.mapLanes c.b c.q ls fun _ t => { t with acq := some s.next }))
    let hit (a : Acc) : Option Decision := if w.x.sub.getLsbD 0 then none else s1.cachedDecision c.B.core a.pa (gen a.lane)
    let read (a : Acc) : Elem := match hit a with
      | some d => (elem (gen a.lane) 0 a).quad (quadOf (mkCell 1 d.gen.toNat d.value.toNat d.winner.toNat) outDecided) 4
      | none => elem (gen a.lane) 0 a
    (Granted s c ls ea 16 16 true cellAttr →
      done (.prop w) s1 (op (.prop w) sc sc four (as.map fun a => elem (gen a.lane) (opB c.Q (c.thread a.lane) w true 0) a)) ∧
      done (.recy w) s1 (op (.recy w) sc sc four (as.map fun a => elem (gen a.lane) 0 a)) ∧
      done (.dinit w) s1 (op (.dinit w) dsc 0 [] (as.map fun a => elem (dgen a.lane) 0 a))) ∧
    (Granted s c ls ea 16 16 false cellAttr →
      done (.dwait w) s1 (op (.dwait w) 0 sc four (as.map fun a => elem (gen a.lane) 0 a)) ∧
      done (.dqry w) s1 (op (.dqry w) 0 sc four (as.map fun a => elem 0 0 a)) ∧
      done (.dread w) (as.foldl (fun s a => match hit a with | some d => s.installDecision c.B.core d | none => s) s1)
        (op (.dread w) 0 sc four (as.map read)))

/-- R306: the act of every cell operation on a cell in every condition, by what the cell holds after it and the outcome. R300, R306,
R307, R312, R317: an arrival at the home slice acts when the slice is free and no earlier arrival is due; a request leaves for its
home when what it releases is performed; the act; and the write of result quads: the four registers of a live participant take the
quad, its thread goes on past its acquire, and the participants of a DWAIT are released one by one. -/
def Obligations.CellActs : Prop :=
  (∀ (c g v i : Nat), c < 2 ^ 128 → g < 2 ^ 30 → v < 2 ^ 64 → i < 2 ^ 32 →
    let now (k : CellOp) : Nat := (cellStep k c g v i).write.getD c
    let out (k : CellOp) : Option Nat := (cellStep k c g v i).out
    let holds (n st gen value winner : Nat) : Prop :=
      cellState n = st ∧ cellGen n = gen ∧ cellValue n = value ∧ cellWinner n = winner
    (holds (now .dinit) 0 g 0 0 ∧ out .dinit = some outDone) ∧
    (∀ k, k = .dread ∨ k = .dwait ∨ k = .dqry → now k = c) ∧
    (∀ k, k ≠ .dinit → cellState c = 2 → now k = c ∧ out k = some outPoisoned) ∧
    (∀ k, k ≠ .dinit → cellState c = 3 → now k = c ∧ out k = some outBad) ∧
    (cellState c = 0 → out .dqry = some outOpen) ∧ (cellState c = 1 → out .dqry = some outDecided) ∧
    (∀ k, k ≠ .dinit → k ≠ .dqry → cellState c < 2 → cellGen c ≠ g → now k = c ∧ out k = some outStale) ∧
    (cellState c = 0 → cellGen c = g →
      holds (now .prop) 1 g v i ∧ out .prop = some outWon ∧ out .dread = some outOpen ∧ out .dwait = none ∧
      now .recy = c ∧ out .recy = some outOpen) ∧
    (cellState c = 1 → cellGen c = g →
      now .prop = c ∧ out .prop = some outLost ∧ out .dread = some outDecided ∧ out .dwait = some outDecided ∧
      (g < 0x3FFFFFFF → holds (now .recy) 0 (g + 1) 0 0 ∧ out .recy = some outDone) ∧
      (g = 0x3FFFFFFF → now .recy = c ∧ out .recy = some outRefused))) ∧
  ((∀ (s : State) (op lane : Nat) (o : Op) (e : Elem), s.op? op = some o → o.kind = .cell →
    o.elems.find? (fun e => e.lane == lane) = some e → s.dramHeld (lineOf e.pa) = false →
    (∀ x, e.st = 6 → s.serving (lineHome (lineOf e.pa)) = true →
      o.elems.find? (fun x => x.st == 6 && springOf x.pa == springOf e.pa) = some x → s.cellHeld op e.pa x.arr = false →
      exec (.cellAct op lane) s = .next ((s.cellActOn op x (s.stampedFor o e)).dinitDone op)) ∧
    (∀ x, e.st = 6 → o.elems.find? (fun x => x.st == 6 && springOf x.pa == springOf e.pa) = some x → s.cellHeld op e.pa x.arr = true →
      cellOpOf o.ins ≠ .dinit → exec (.cellAct op lane) s = .next s) ∧
    (e.st = 0 → s.routeOf o e = .here → s.clearToAct o e = true → s.shut (coreTarn (s.coreOf o.blk)) e.pa = false →
      s.serving (lineHome (lineOf e.pa)) = true →
      let es := s.sliceGroup o e
      let s1 := s.setOp op { o with since := none }
      (s.released o = false → exec (.cellAct op lane) s = .next (s.pushBack o.rel o.covers)) ∧
      (s.released o = true → es ≠ [] →
        (coreTarn (s.coreOf o.blk) = lineHome (lineOf e.pa) → s.cellLate e.pa (s.cellRank o e) = false →
          exec (.cellAct op lane) s = .next ((s1.cellArrive op es false).dinitDone op)) ∧
        (coreTarn (s.coreOf o.blk) ≠ lineHome (lineOf e.pa) → exec (.cellAct op lane) s =
          .next (s1.sendAccess op (coreTarn (s.coreOf o.blk)) (lineOf e.pa) es))))) ∧
  (∀ (s : State) (id : Nat) (o : Op) (e : Elem), s.op? id = some o → o.elems = [e] → s.isPoisoned (lineOf e.pa) = false →
    s.writersOf o e = [] →
    let r := cellStep (cellOpOf o.ins) (s.cellAt e.pa) (e.c.toNat % 2 ^ 30) e.x.toNat (e.c.toNat / 2 ^ 32)
    ∀ out, r.out = some out → r.write = none →
      (s.cellActOn id e false).op? id = some { o with elems := [e.quad (quadOf (s.cellAt e.pa) out) 4] } ∧
      (s.cellActOn id e false).cellAt e.pa = s.cellAt e.pa ∧
      tget? ((s.cellActOn id e false).tarn (lineHome (lineOf e.pa))).cellClk (sliceOf e.pa) = some (s.clk, e.arr.2) ∧
      (s.cellActOn id e false).mem = s.mem) ∧
  (∀ (s : State) (op : Nat) (o : Op) (e : Elem) (B : Block) (Q : Quire) (th : Thread), s.op? op = some o → o.kind = .cell →
    cellOpOf o.ins ≠ .dinit → o.elems = [e] → e.done = true → o.bad = none → o.lanes = BitVec.twoPow 32 e.lane → e.lane < 32 →
    o.drop = false → s.block? o.blk = some B → tget? B.quires o.q = some Q → tget? Q.threads e.lane = some th → th.live = true →
    ∃ t th', exec (.resultQuadWrite op) s = .next t ∧ t.threadAt o.blk o.q e.lane = some th' ∧
      let d := (w2Of o.ins).d.toNat
      th'.getPair d = e.r ∧ th'.getPair (d + 2) = e.x ∧ (th.acq = some op → th'.acq = none) ∧
      (∀ n, n < d ∨ d + 4 ≤ n → th'.getV n = th.getV n) ∧ th'.p = th.p ∧
      t.mem = s.mem ∧ t.host = s.host ∧ t.tags = s.tags))

/-- R318, R320 to R326: barrier arrivals at issue. A count or object id out of range, or one that differs from the lowest participant's,
ends the task and no participant arrives; else the arrival is entered as a release, and a waiting form's threads wait. -/
def Obligations.BarrierIssue : Prop :=
  ∀ (s : State) (c : Ctx) (w : W2), s.ctx? = some c →
    let ls := c.participants w.p w.n
    let count (l : Nat) : Nat := opB c.Q (c.thread l) w false w.x.imm20.toNat
    let first := ls.headD 0
    let op (ls : List Nat) (i : Instr) (rel m flag : Nat) (k : OpKind) (x : Nat → Nat) : Op :=
      { kind := k, ins := i, blk := c.b, q := c.q,
        place := c.B.core * 32 + c.q, code := c.gr.words, sets := (c.gr.sfa, c.gr.sfb), yld := c.gr.yld,
        lanes := laneMask ls, clause := c.gr.clause, widx := c.gr.widx, flag
        rel, n := count (ls.headD 0), m
        elems := ls.map fun l => { lane := l, va := 0#64, pa := 0, size := 0, x := BitVec.ofNat 64 (x l) } }
    let enter (s : State) (o : Op) : State := Issued s c 2 (s.stampOrder c.Q o)
    let park (s : State) (w : Wait) : State := s.mapLanes c.b c.q ls fun _ t => { t with wait := w }
    let contr (l : Nat) : Nat := ((c.thread l).getV (cField w).toNat).toNat
    let nb := w.a.toNat
    let id (l : Nat) : Nat := ((c.thread l).getV w.a.toNat).toNat
    let sc := if w.x.isImm then tyOf w % 8 else w.x.scope.toNat
    let key (ls : List Nat) : Nat := sbarKey c.B.part sc (instanceOf sc c.B.core) (id (ls.headD 0))
    let told (ls : List Nat) : State := if 64 ≤ id (ls.headD 0) ∧ ls ≠ [] then
        s.postTrap (s.sbarTarn c.B.part sc c.B.core)
          { kind := 2, detail := 5, addr := BitVec.ofNat 64 (id (ls.headD 0)), ident := identOf c.B c.q (ls.headD 0), blk := some c.b }
      else s
    let fine (ls : List Nat) (n : Nat) : Prop := ∀ l ∈ ls, 1 ≤ count l ∧ count l ≤ n ∧ count l = count (ls.headD 0)
    let alike (ls : List Nat) : Prop := ∀ l ∈ ls, id l < 2 ^ 20 ∧ id l = id (ls.headD 0)
    ((fine ls 512) →
      exec (.bara w) s = .next (enter s (op ls (.bara w) 2 nb 15 .bar fun _ => 0)) ∧
      exec (.bars w) s = .next (park (enter s (op ls (.bars w) 2 nb 15 .bar fun _ => 0)) (.named nb 0 none)) ∧
      exec (.barr w) s = .next (park (enter s (op ls (.barr w) 2 nb 15 .bar contr)) (.named nb 0 (some (w.d.toNat, w.x.sub.getLsbD 2))))) ∧
    (fine ls (2 ^ 26) → alike ls → sc ≠ 6 →
      exec (.sbar w) s = .next (park (enter (told ls) (op ls (.sbar w) sc (key ls) 15 .bar fun _ => 0)) (.scope sc (id first) (key ls) 0))) ∧
    (let ms := c.participants w.p false
     fine ms (2 ^ 26) → alike ms → sc ≠ 6 →
      exec (.sbara w) s = .next (enter (told ms) (op ms (.sbara w) sc (key ms) (if w.n then c.gr.sfb else c.gr.sfa) .sbar fun _ => 0))) ∧
    (ls ≠ [] → fine ls (2 ^ 26) → alike ls → sc = 6 → s.gangGate c.B = 1 → exec (.sbar w) s = .next (s.stall c)) ∧
    (ls ≠ [] → fine ls (2 ^ 26) → alike ls → sc = 6 → s.gangGate c.B = 3 → exec (.sbar w) s = .next (s.endTask c.b 7 none)) ∧
    (ls ≠ [] → fine ls (2 ^ 26) → alike ls → sc = 6 → s.gangGate c.B = 2 →
      exec (.sbar w) s = .next (park (enter (told ls) (op ls (.sbar w) 6 (key ls) 15 .bar fun _ => 0)) (.scope 6 (id first) (key ls) 0))) ∧
    (∀ l, ls.head? = some l → (count l < 1 ∨ 512 < count l) →
      exec (.bara w) s = .next (s.raise c causeBarCount 0 l 0#64) ∧ exec (.bars w) s = .next (s.raise c causeBarCount 0 l 0#64) ∧
      exec (.barr w) s = .next (s.raise c causeBarCount 0 l 0#64)) ∧
    (∀ l, ls.head? = some l → (count l < 1 ∨ 2 ^ 26 < count l) → exec (.sbar w) s = .next (s.raise c causeBarCount 0 l 0#64)) ∧
    (∀ l, ls.head? = some l → 1 ≤ count l → count l ≤ 2 ^ 26 → 2 ^ 20 ≤ id l →
      exec (.sbar w) s = .next (s.raise c causeBarId 0 l 0#64)) ∧
    (∀ l k, ls = [l, k] → 1 ≤ count l → count l ≤ 512 → 1 ≤ count k → count k ≤ 512 → count k ≠ count l →
      exec (.bara w) s = .next (s.raise c causeBarMismatch 0 k 0#64) ∧ exec (.bars w) s = .next (s.raise c causeBarMismatch 0 k 0#64) ∧
      exec (.barr w) s = .next (s.raise c causeBarMismatch 0 k 0#64))

/-- R320, R322, R323: a phase opens with its first arrival, whose count it takes; it completes at the arrival that brings the arrivals
to that count, and a BARR's result is the reduction of the contributions under the phase's operation. R320 to R327: an arrival is
counted once what it releases is performed; a phase that completes at a named barrier lets its waiters go on at once, and one of a
scope barrier when its release arrives, which takes 1 from the flag of each SBARA arrival and leaves what it releases to the clause
entry that waits on that flag. -/
def Obligations.BarrierPhases : Prop :=
  ((∀ (p : Phase) (n x : Nat) (op : Option Nat) (cov : List Nat),
    let r := p.arrive n op x cov
    (p.a = 0 → r.1.n = n ∧ r.1.a = 1) ∧ (p.a ≠ 0 → r.1.n = p.n ∧ r.1.a = p.a + 1) ∧
    (r.2 = true ↔ r.1.a = r.1.n) ∧ r.1.num = p.num ∧
    r.1.close.num = p.num + 1 ∧ r.1.close.a = 0 ∧ r.1.close.op = none ∧ (∀ i ∈ cov, i ∈ r.1.covers)) ∧
  (∀ (p : Phase) (n : Nat) (k : Fin 4) (xs : List Nat), p.a = 0 → xs ≠ [] → (∀ x ∈ xs, x < 2 ^ 32) →
    let q := xs.foldl (fun q x => (q.arrive n (some k.val) x []).1) p
    q.a = xs.length ∧ q.n = n ∧ q.op = some k.val ∧
    q.result = (if k = 0 then xs.foldl (· + ·) 0 % 2 ^ 32 else if k = 1 then xs.foldl (· &&& ·) (2 ^ 32 - 1)
      else if k = 2 then xs.foldl (· ||| ·) 0 else xs.foldl max 0))) ∧
  ((∀ (s : State) (op : Nat) (o : Op), s.op? op = some o → (o.kind = .bar ∨ o.kind = .sbar) → (∀ e ∈ o.elems, e.st = 0) →
    let named : Bool := match o.ins with | .bara _ | .bars _ | .barr _ => true | _ => false
    let barr : Option Nat := match o.ins with | .barr w => some (w.x.sub.toNat % 4) | _ => none
    let p := if named then (match s.block? o.blk with | some B => tget B.nb o.m {} | none => {}) else tget s.sbar o.m {}
    let late : Bool := p.last.1 = s.clk ∧ (s.coreOf o.blk * 16 + o.q) * 32 + o.elems.head?.elim 0 (·.lane) < p.last.2
    (s.released o = false → exec (.barrierArrival op) s = .next (s.pushBack o.rel o.covers)) ∧
    (s.released o = true → late = true → exec (.barrierArrival op) s = .next s) ∧
    (s.released o = true → late = false →
    (p.mismatch o.n barr = true → o.drop = false → exec (.barrierArrival op) s = .next ((s.finishOp op).faultAt o.blk o.q o.clause o.widx
      causeBarMismatch 0 ((laneList o.lanes).headD 0) 0#64)) ∧
    (p.mismatch o.n barr = false → named = true → exec (.barrierArrival op) s = .next ((s.arriveNamed o).delOp op)) ∧
    (p.mismatch o.n barr = false → named = false → o.kind = .bar → exec (.barrierArrival op) s = .next ((s.arriveScope op o).delOp op)) ∧
    (p.mismatch o.n barr = false → named = false → o.kind = .sbar → exec (.barrierArrival op) s = .next (s.arriveScope op o)))) ∧
  (∀ (s : State) (b nb q l k : Nat) (p : Phase) (B : Block) (Q : Quire) (th : Thread) (res : Option (Nat × Bool)),
    s.block? b = some B → tget? B.quires q = some Q → tget? Q.threads l = some th → th.wait = .named nb k res →
    let th' : Thread := { th with wait := .none, synced := addNew th.synced p.covers }
    (s.releaseNamed b nb p).threadAt b q l = some (if k ≠ p.num + 1 then th else match res with
      | some (d, true) => th'.setP d (p.result != 0)
      | some (d, false) => th'.setV d (BitVec.ofNat 32 p.result)
      | none => th')) ∧
  (∀ (s : State) (key phase : Nat) (x : Nat × Phase), s.sbarDone.find? (fun x => x.1 == key && x.2.num + 1 == phase) = some x →
    let go (t : Thread) : Thread := match t.wait with
      | .scope _ _ k ph => if ph = phase ∧ k = key then { t with synced := addNew t.synced x.2.covers, wait := .none } else t
      | _ => t
    let s1 : State := { s with
      sbarDone := s.sbarDone.filter fun y => !(y.1 == key && y.2.num + 1 == phase)
      blocks := s.blocks.map fun b => (b.1, { b.2 with quires := b.2.quires.map fun q =>
        (q.1, { q.2 with threads := q.2.threads.map fun t => (t.1, go t.2) }) }) }
    (s.ops.filter (fun o => o.2.kind == .sbar && o.2.m == key) = [] → exec (.scopeBarrierRelease key phase) s = .next s1) ∧
    (∀ i o, s.ops.filter (fun o => o.2.kind == .sbar && o.2.m == key) = [(i, o)] → s.op? i = some o →
      (∀ e ∈ o.elems, e.st = 6 ∧ e.pa = phase) →
      let ls := o.elems.map (·.lane)
      exec (.scopeBarrierRelease key phase) s = .next (((s1.decFlag o.blk o.q ls o.flag).mapLanes o.blk o.q ls
        fun _ t => if 12 ≤ o.flag then t else { t with owed := tput t.owed o.flag (addNew (tget t.owed o.flag []) x.2.covers) }).delOp i))))

/-- R329 to R333, R478: WAITX waits on its word, is released with the value it read when the condition holds or the timeout is over, and
else parks at the word's home; SIGX enters a release of its data. -/
def Obligations.ExternalWaits : Prop :=
  (∀ (s : State) (c : Ctx) (w : W2), s.ctx? = some c →
    let ls := c.participants w.p w.n
    let ea (l : Nat) : BitVec 64 := (c.thread l).getPair w.a.toNat
    let s1 := LookedUp s c ls ea 8
    let elem (a : Acc) : Elem := { lane := a.lane, va := a.ea, pa := a.pa, size := 8, te := a.x.te }
    let us (l : Nat) : Nat := if (c.thread l).wxrem = 0 then (s.part c.B.part).xwtmo else (c.thread l).wxrem
    let op (k : OpKind) (i : Instr) : Op :=
      { kind := k, ins := i, blk := c.b, q := c.q,
        place := c.B.core * 32 + c.q, code := c.gr.words, sets := (c.gr.sfa, c.gr.sfb), yld := c.gr.yld,
        lanes := laneMask ls, clause := c.gr.clause, widx := c.gr.widx }
    (Granted s c ls ea 8 8 false noCell →
      CompletesTo (.waitx w) s ((Issued s1 c 2 (s1.stampOrder c.Q { op .waitx (.waitx w) with
        acq := w.x.scope.toNat
        elems := (AccessesOf s c ls ea).map fun a => { elem a with
          x := BitVec.ofNat 64 (opB c.Q (c.thread a.lane) w true 0)
          c := BitVec.ofNat 64 (if us a.lane = 0 then 0 else s.clk + us a.lane * 2500) } })).mapLanes c.b c.q ls
        fun _ t => { t with wait := .waitx s.next, wxrem := 0 })) ∧
    (Granted s c ls ea 8 8 true noCell →
      CompletesTo (.sigx w) s (Issued s1 c 2 (s1.stampOrder c.Q { op .sigx (.sigx w) with
        rel := if w.x.isImm then tyOf w % 8 else w.x.scope.toNat
        elems := (AccessesOf s c ls ea).map fun a => { elem a with
          x := BitVec.ofNat 64 (opB c.Q (c.thread a.lane) w true w.x.imm20.toNat) } })))) ∧
  (∀ (s : State) (op : Nat) (o : Op) (e : Elem), s.op? op = some o → o.kind = .waitx → o.elems = [e] → e.done = false →
    let t := coreTarn (s.coreOf o.blk)
    let ln := lineOf e.pa
    let home := lineHome ln
    s.shut t e.pa = false → s.clearToAct o e = true → s.podDown t e.pa = false →
    (inHost e.pa = false → (t = home → s.dramHeld ln = false) ∧ s.agentHas t ln (byteMask (e.pa % 64) 8) = true ∧
      s.poisonedFor t ln = false ∧ s.tagsMatch t e.te e.va e.pa 8 = true) →
    let v := s.agentRead t e.pa 8
    let ok := xcond ((w2Of o.ins).x.sub.toNat % 4) v e.x.toNat
    let told (r : State) : State := if s.virtual op e = true ∧ r.virtual op e = false
      then r.postTrap home { kind := 2, detail := 4, addr := e.va } else r
    (inHost e.pa = false → ok = true → exec (.waitxWake op) s = .next (told (s.waitxRelease op o e v))) ∧
    (inHost e.pa = false → ok = false → exec (.waitxWake op) s = .next (told (s.waitxPark op o e))) ∧
    (inHost e.pa = true → ok = true → exec (.apertureWaitxReread op) s = .next (s.waitxRelease op o e v)) ∧
    (inHost e.pa = true → ok = false → exec (.apertureWaitxReread op) s = .next (s.waitxPark op o e)) ∧
    (e.c ≠ 0#64 → e.c.toNat ≤ s.clk → exec (.externalWaitTimeout op) s = .next (s.waitxRelease op o e v))) ∧
  (∀ (s : State) (id v : Nat) (o : Op) (e : Elem) (B : Block) (Q : Quire) (th : Thread), s.op? id = some o → o.elems = [e] →
    o.covers = [] → o.prior = [] → o.bad = none →
    o.lanes = BitVec.twoPow 32 e.lane → e.lane < 32 → o.drop = false → s.block? o.blk = some B →
    tget? B.quires o.q = some Q → tget? Q.threads e.lane = some th → th.live = true →
    ∃ th', (s.waitxRelease id o e v).threadAt o.blk o.q e.lane = some th' ∧ th'.wait = .none ∧
      th'.getPair (w2Of o.ins).d.toNat = BitVec.ofNat 64 v ∧
      (th'.getP (w2Of o.ins).x.c.toNat = ((w2Of o.ins).x.c == 7#7 || xcond ((w2Of o.ins).x.sub.toNat % 4) v e.x.toNat) ∨
        7 < (w2Of o.ins).x.c.toNat) ∧
      (s.waitxRelease id o e v).op? id = none ∧ (s.waitxRelease id o e v).mem = s.mem)

/-! ### Memory events -/

/-- R50, R209, R524: when every value of a load is there, its event writes each live lane's destination with the extended value, takes 1
from the lane's flag, ends its acquire, and changes nothing else of any thread, and no byte of memory. R209, R210: the extension of
a loaded value by its type. -/
def Obligations.LoadsComplete : Prop :=
  (∀ (s : State) (op : Nat) (o : Op) (w : W2) (B : Block) (Q : Quire), s.op? op = some o → o.kind = .load → o.ins = .ld w →
    o.holdV = (if tyBytes (tyOf w) = 8 then [w.d.toNat, w.d.toNat + 1] else [w.d.toNat]) → o.bad = none → o.drop = false →
    (∀ e ∈ o.elems, e.st = 3 ∧ e.lane < 32 ∧ o.lanes.getLsbD e.lane = true) → (o.elems.map (·.lane)).Nodup →
    s.block? o.blk = some B → tget? B.quires o.q = some Q →
    ∃ t, exec (.loadCompletion op) s = .next t ∧
      (∀ e ∈ o.elems, ∀ th, tget? Q.threads e.lane = some th → th.live = true →
        ∃ th', t.threadAt o.blk o.q e.lane = some th' ∧
          (tyBytes (tyOf w) = 8 → th'.getPair w.d.toNat = e.r) ∧
          (tyBytes (tyOf w) ≠ 8 → th'.getV w.d.toNat = BitVec.ofNat 32 (extendLoad (tyOf w) e.r.toNat)) ∧
          (∀ n, n ∉ o.holdV → th'.getV n = th.getV n) ∧ th'.p = th.p ∧
          (o.flag < 12 → th'.flag o.flag = th.flag o.flag - 1) ∧ (∀ f, f ≠ o.flag → th'.flag f = th.flag f) ∧
          (o.acq ≠ 0 → th.acq = some op → th'.acq = none)) ∧
      (∀ l, l < 32 → o.lanes.getLsbD l = false → t.threadAt o.blk o.q l = s.threadAt o.blk o.q l) ∧
      t.mem = s.mem ∧ t.host = s.host ∧ t.tags = s.tags ∧ t.tarns = s.tarns ∧ t.cores = s.cores ∧ t.parts = s.parts) ∧
  (∀ v : Nat,
    (v < 2 ^ 8 → BitVec.ofNat 32 (extendLoad 1 v) = (BitVec.ofNat 8 v).signExtend 32 ∧ extendLoad 5 v = v) ∧
    (v < 2 ^ 16 → BitVec.ofNat 32 (extendLoad 2 v) = (BitVec.ofNat 16 v).signExtend 32 ∧ extendLoad 6 v = v) ∧
    extendLoad 0 v = v ∧ extendLoad 3 v = v ∧ extendLoad 4 v = v ∧ extendLoad 7 v = v ∧ extendLoad 8 v = v ∧ extendLoad 9 v = v)

/-- R260 to R264, R268, R282 to R289, R292, R478, R485: an element at hand at the unit that serves it acts there. -/
def Obligations.ServiceEvents : Prop :=
  (∀ (s : State) (op line : Nat) (o : Op), s.op? op = some o → s.sliceElems o line ≠ [] →
    s.shut (coreTarn (s.coreOf o.blk)) (line * 64) = false →
    s.released o = true → (coreTarn (s.coreOf o.blk) = lineHome line → s.dramHeld line = false) →
    let es := s.sliceElems o line
    let home : Bool := coreTarn (s.coreOf o.blk) == lineHome line
    let then_ (t : State) : Prop := exec (.sliceRequest op line [] 0) s = .next t.retire
    (o.kind = .load → then_ (s.sliceLoad op o line es)) ∧ (o.kind = .fetch → then_ (s.slicePref op o line es)) ∧
    (o.kind = .store → then_ (s.sliceStore op o line es)) ∧ (o.kind = .stt → then_ (s.sliceStt op o line)) ∧
    (o.kind = .tagSt → then_ (if home then s.homeTags op line es false else s.sendAccess op (coreTarn (s.coreOf o.blk)) line es)) ∧
    (o.kind = .cctl → (∀ e ∈ es, s.routeOf o e = .here) → then_ (s.sliceCctl op o line es))) ∧
  (∀ (s : State) (op : Nat) (o : Op) (e : Elem), s.op? op = some o → o.kind = .poison → o.elems = [e] → e.r = 0#64 → e.st = 0 →
    o.n < o.workLines → s.shut (coreTarn (s.coreOf o.blk)) (o.workLine * 64) = false → coreTarn (s.coreOf o.blk) = lineHome o.workLine →
    s.dramHeld o.workLine = false →
    ∃ u o', exec (.sliceRequest op o.workLine [] 0) s = .next u ∧ u.isPoisoned o.workLine = true ∧ u.op? op = some o' ∧ o'.n = o.n + 1) ∧
  (∀ (s : State) (op lane : Nat) (o : Op) (e : Elem), s.op? op = some o → o.elems.find? (fun e => e.lane == lane) = some e →
    o.atMau = true → inHost e.pa = false → s.dramHeld (lineOf e.pa) = false → s.serving (lineHome (lineOf e.pa)) = true →
    (∀ x, 6 ≤ e.st → o.nextSlot e.pa = some x → exec (.mauSlot op lane) s = .next ((s.mauSlot op x (s.stampedFor o e)).retire)) ∧
    (e.st = 0 → s.routeOf o e = .here → s.shut (coreTarn (s.coreOf o.blk)) e.pa = false → (s.sliceGroup o e).any e.same = true →
      s.released o = true →
      let es := s.sliceGroup o e
      let t := coreTarn (s.coreOf o.blk)
      (t = lineHome (lineOf e.pa) → s.mauHeld op e.pa = false → exec (.mauSlot op lane) s = .next ((s.mauArrive op es false).retire)) ∧
      (t ≠ lineHome (lineOf e.pa) → exec (.mauSlot op lane) s = .next (s.sendAccess op t (lineOf e.pa) es)))) ∧
  (∀ (s : State) (op lane : Nat) (o : Op) (e : Elem), s.op? op = some o → o.elems.find? (fun e => e.st == 0) = some e → e.lane = lane →
    o.kind = .poolAtom → s.poolTurn op o = true →
    let old := readLE (s.tarn (coreTarn (s.coreOf o.blk))).pool e.pa e.size
    let fails := casFails (w2Of o.ins) old e
    let met := (s.noteMet op o e).observe o e
    let s1 := if fails then met else met.inherit op e
    exec (.poolBankRmw op lane) s = .next
      (((s1.updTarn (coreTarn (s.coreOf o.blk)) fun T =>
        { T with pool := writeLE T.pool e.pa e.size (atomCombine (w2Of o.ins) old e) }).mapElems op e.same
          fun x => { x with r := BitVec.ofNat 64 old, st := 3, quiet := fails }).poolDone op)) ∧
  (∀ (s : State) (op lane : Nat) (o : Op) (e : Elem), s.op? op = some o →
    o.elems.find? (fun e => e.lane == lane && decide (e.st < 2) && inHost e.pa) = some e → s.clearToAct o e = true →
    s.released o = true →
    let a := e.pa % 2 ^ 43
    let old := readLE s.host a e.size
    let fails := rmwFails o.ins old e
    let met := (s.noteMet op o e).observe o e
    (o.kind = .load → s.hostAhead op e = false → exec (.hostCompletion op lane false) s = .next (s.capture op e old)) ∧
    (o.kind = .store → s.hostBehind op o e = false → exec (.hostCompletion op lane false) s = .next
      ((({ s with host := writeLE s.host a e.size e.x.toNat }).mapElems op e.same fun x => { x with st := 3 }).retire)) ∧
    (o.kind = .atom ∨ o.kind = .sigx →
      exec (.hostCompletion op lane true) s = .next ((s.failElem op e causeHostAtomic).retire) ∧
      (s.hostBehind op o e = false → exec (.hostCompletion op lane false) s = .next
        (((if fails then met else { met.inherit op e with host := writeLE s.host a e.size (rmwNew o.ins old e) }).mapElems
          op e.same fun x => { x with r := BitVec.ofNat 64 old, st := 3, quiet := fails }).retire)))) ∧
  (∀ (s : State) (op : Nat) (o : Op) (e : Elem) (es : List Elem), s.op? op = some o → s.podElems o = e :: es → o.kind ≠ .cctl →
    s.homeOffline e.pa = false → tget s.flits (coreTarn (s.coreOf o.blk)) 0 < 2 ^ 32 →
    let ln := lineOf e.pa
    let T := coreTarn (s.coreOf o.blk)
    let s1 : State := { s with flits := tput s.flits T (tget s.flits T 0 + 1) }
    (s.podDown T e.pa = true → exec (.podRequestDelivery op) s = .next ((s.podFail op (e :: es)).retire)) ∧
    (s.podDown T e.pa = false → s.released o = true → s.dramHeld ln = false →
      (o.kind = .load → (∀ w, o.ins ≠ .tagld w) → exec (.podRequestDelivery op) s = .next
        (let s2 := (s1.clean (lineHome ln) ln).bringHome ln (cacheOf o.ins == 2)
         ((s2.serveReads op ln (e :: es) fun e => takeData (s2.homeData ln) (e.pa % 64) e.size).countRead ln).retire)) ∧
      (o.kind = .store → exec (.podRequestDelivery op) s = .next ((s1.homeStore op o ln (e :: es) false).retire)) ∧
      (o.kind = .tagSt → exec (.podRequestDelivery op) s = .next ((s1.homeTags op ln (e :: es) false).retire)) ∧
      (o.kind = .cell → s.cellLate e.pa (s.cellRank o e) = false → exec (.podRequestDelivery op) s = .next
        (((s1.cellArrive op (e :: es) false).dinitDone op).retire)) ∧
      (o.kind = .atom ∨ o.kind = .red ∨ o.kind = .sigx → s.mauHeld op e.pa = false →
        exec (.podRequestDelivery op) s = .next ((s1.mauArrive op (e :: es) false).retire))))

/-- R202, R262, R263, R266, R267, R269, R466, R486: what a stop stamps, what acts 96 clk after its stamp in stamp order, what a guest
slice sends home or drops, a second read of a line, a page walk, and the pod ports. R465, R467 to R469: errors of the transfers and
of the arrays, retraining, and activation alerts, as the logs and the state of the pseudo-channel show them. -/
def Obligations.RingLinkAndArrayEvents : Prop :=
  ((∀ (s : State) (req : Nat) (r : RingReq), tget? s.ring req = some r →
    (r.cycle = none → (s.tarn r.home).st ≠ .folded → (s.tarn r.home).stamp ≠ some s.clk → s.behind req r = false →
      exec (.requestStamp req) s = .next { s with
        ring := tput s.ring req { r with cycle := some s.clk }
        tarns := tput s.tarns r.home { s.tarn r.home with stamp := some s.clk } }) ∧
    (s.reqTurn req r = true → s.reqHeld r = false →
      exec (.stampedRequestAct req) s = .next ((({ s with ring := tdel s.ring req }).actRequest req r).retire)) ∧
    (∀ k, r.cycle = some k → s.clk < k + 96 → exec (.stampedRequestAct req) s = .next s)) ∧
  (∀ (s : State) (t ln : Nat),
    let s0 := s.clean t ln
    let s1 := match tget? (s0.tarn t).dir ln with | some d => s0.putDir t ln { d with grant := none } | none => s0
    let sl := s1.slice t ln
    (sl.dirty = 0#64 ∨ t = lineHome ln → exec (.writeBackDeadline t ln) s = .next s1) ∧
    (sl.dirty ≠ 0#64 → t ≠ lineHome ln → exec (.writeBackDeadline t ln) s = .next
      (((s1.putSlice t ln { sl with dirty := 0#64 }).markStores (fun c x => coreTarn c == t && lineOf x.pa == ln) 2 5).send
        (lineHome ln) (.writeBack t ln sl.dirty sl.data)))) ∧
  (∀ (s : State) (t sec k : Nat), k < 64 → t ≠ lineHome (sec * 4 + k / 16) →
    let ln := sec * 4 + k / 16
    exec (.cleanSpanWordDrop t sec k) s = .next (s.putSlice t ln { s.slice t ln with
      valid := (s.slice t ln).valid &&& (~~~ (byteMask (k % 16 * 4) 4) ||| (s.slice t ln).dirty ||| s.underWay t ln) })) ∧
  (∀ (s : State) (ln : Nat), (homeOf (ln * 64)).isSome = true → s.homeOffline (ln * 64) = false → s.isPoisoned ln = false →
    s.reread.contains ln = true →
    let s1 : State := { s with reread := s.reread.filter (· != ln) }
    exec (.uncorrectableReread ln false) s = .next (s1.logArray ln 255 2) ∧
    exec (.uncorrectableReread ln true) s = .next
      (if (s1.logArray ln 255 3).cellLine ln then (s1.logArray ln 255 3).poisonCells ln else (s1.logArray ln 255 3).poisonLine ln)) ∧
  (∀ (s s1 : State) (core vpn : Nat) (x : Xlat), (s.core core).walks.contains vpn = true →
    s.walkAsk (.walk core vpn) (coreTarn core) (s.corePart core) (vpn * 65536) = (s1, some (.ok x)) →
    exec (.pageWalk core vpn) s = .next (s1.updCore core fun C =>
      { C with walks := C.walks.filter (· != vpn), away := tdel C.away (awayPage vpn) }.tlbFill x)) ∧
  (∀ (s : State) (t : Nat), exec (.flitFailure t false) s = .next s ∧ exec (.flitFailure t true) s = .next (s.portDown t) ∧
    exec (.podRekey t true) s = .next { s with flits := tdel s.flits t } ∧ exec (.podRekey t false) s = .next (s.portDown t))) ∧
  ((∀ (s : State) (gs pa : Nat), inTier pa = false → homeOf pa = some (gs / 64) → springOf pa = gs → s.homeOffline pa = false →
    let row := pa / 64 * 64
    let s2 := (s.logTransfer gs row 2).updSpring gs fun sp =>
      { sp with parity := s.clk :: sp.parity.filter fun k => decide (s.clk ≤ k + clkPerMs) }
    (∀ n, n < 2 → exec (.tsvParityError gs pa n) s = .next (s.logTransfer gs row 1)) ∧
    (∀ n, 2 ≤ n → (s.spring gs).trained = none →
      exec (.tsvParityError gs pa n) s = .next { s2 with reread := insNat s2.reread (lineOf pa) }) ∧
    (∀ n k, 2 ≤ n → (s.spring gs).trained = some k → s.clk ≤ k + clkPerMs →
      exec (.tsvParityError gs pa n) s = .next ((s2.logTransfer gs row 4).retirePc gs))) ∧
  (∀ (s : State) (t pa : Nat), inTier pa = true → homeOf pa = some t → s.homeOffline pa = false →
    let pc := (Config.freeValue s.free).toNat % 64
    let s1 (k : Nat) : State := ({ s with free := s.free + 1 }).logTransfer (t * 64 + pc) (pa / 64 * 64) k
    (∀ n, n < 2 → exec (.lpddr6LinkCrcError t pa n) s = .next (s1 1)) ∧
    (∀ n, 2 ≤ n → exec (.lpddr6LinkCrcError t pa n) s = .next { s1 2 with reread := insNat (s1 2).reread (lineOf pa) })) ∧
  (∀ (s : State) (gs : Nat), (s.spring gs).retired = false →
    4 ≤ ((s.spring gs).parity.filter fun k => decide (s.clk ≤ k + clkPerMs)).length →
    exec (.tsvRetraining gs) s = .next (s.updSpring gs fun sp => { sp with retrain := true, parity := [] })) ∧
  (∀ (s : State) (gs : Nat), (s.spring gs).retrain = true →
    let pa := (Config.freeValue s.free).toNat % 2 ^ 56
    let s1 : State := { s with free := s.free + 1 }
    exec (.retrainingComplete gs true) s = .next
      ((s1.logTransfer gs pa 3).updSpring gs fun sp => { sp with retrain := false, trained := some s.clk }) ∧
    exec (.retrainingComplete gs false) s = .next ((s1.logTransfer gs pa 4).retirePc gs)) ∧
  (∀ (s : State) (gs row : Nat),
    let e : LogEntry := { time := s.modClk (tarnModule (gs / 64)), count := 1, bytes := 0, kind := 4
                          pc := gs % 64, pa := rowLine row (gs % 64) 0 * 64 }
    4096 ≤ (tget (s.spring gs).acts row {}).may → (tget (s.spring gs).acts row {}).slot = none → exec (.activationAlert gs row none) s = .next
      ((s.updSpring gs fun sp => { sp with mitig := sp.mitig ++ [(row, s.clk + 400)], acts := tdel sp.acts row }).updTarn (gs / 64)
        fun T => { T with alog := logInto T.alog e })) ∧
  (∀ (s : State) (gs row til : Nat), (row, til) ∈ (s.spring gs).mitig → til ≤ s.clk →
    exec (.mitigationWindowEnd gs row) s = .next (s.updSpring gs fun sp =>
      { sp with mitig := sp.mitig.filter fun m => !(m.1 == row && decide (m.2 ≤ s.clk)), acts := tdel sp.acts row })))

/-- R211, R257, R260, R268, R474: bytes written at a line's home read as written: the line holds the new bytes under the mask and what
it held elsewhere, dirty data of the home tarn's L1s included. R211, R258, R260: bytes that a core stores into its L1 are what a
load of that core finds there, and the store writes no byte of DRAM. -/
def Obligations.WritesAreRead : Prop :=
  (∀ (s : State) (ln rc : Nat) (m : BitVec 64) (d : BitVec 512) (stamped : Bool), (homeOf (ln * 64)).isSome = true →
    (s.homeWrite ln m d rc stamped).1.homeData ln = overlay ((s.clean (lineHome ln) ln).homeData ln) d m ∧
    (s.homeWrite ln m d rc stamped).1.mem = s.mem) ∧
  (∀ (s : State) (c ln : Nat) (m : BitVec 64) (d : BitVec 512), m ≠ 0#64 → (∀ v ∈ s.moves, v.1 = ln / 1024 → v.2.1 ≠ ln / 1024) →
    let r := (s.storeL1 c ln m d).1
    ∃ l, r.l1? c ln = some l ∧ m &&& ~~~ l.valid = 0#64 ∧ m &&& ~~~ l.dirty = 0#64 ∧ l.st = .m ∧
      l.data &&& spread m = d &&& spread m ∧ r.mem = s.mem ∧
      (∀ k, k ≠ c → coreTarn k = coreTarn c → coreNum k < 24 → r.l1? k ln = none ∨ r.l1? k ln = s.l1? k ln))

/-! ### Copies and shadows -/

/-- R369, R371, R376 to R378, R381: ACP, ACPG and ACPR form the entry of R371 from the lowest participant's operands and place it on the
instruction ring; the checks at issue switch lanes off for the side operand and end the task for the global one; CWAIT waits for a
completion word. R383 to R386: a region is registered with a frame for each of its pages, in the lowest free handle, or the result
says why not; PUBL exchanges pages and frames as one write when every command before it is done, and ABND returns the frames. -/
def Obligations.CopyAndShadows : Prop :=
  ((∀ (kind scope ty rop dir cache dst src len : Nat) (tile : Bool), kind < 256 → scope < 8 → ty < 32 → rop < 8 → dir < 4 → cache < 4 →
    dst < 2 ^ 64 → src < 2 ^ 64 → len < 2 ^ 32 →
    let e : Entry := { bits := entryBits kind scope ty rop tile dir cache dst src len, seq := 0, ring := 0 }
    e.kind = kind ∧ e.scope = scope ∧ e.ty = ty ∧ e.rop = rop ∧ e.isTile = tile ∧ e.dir = dir ∧ e.dst = dst ∧ e.src = src ∧
      e.len = len ∧ e.stat = 0xFFFFFFFF) ∧
  (∀ (s : State) (c : Ctx) (w : W2), s.ctx? = some c →
    let none_ (i : Instr) : Prop := c.participants w.p false = [] → exec i s = .next (s.putQuire c (c.past 2 c.Q))
    none_ (.acp w) ∧ none_ (.acpg w) ∧ none_ (.acpr w)) ∧
  (∀ (s : State) (c : Ctx) (w : W2) (l : Nat) (ls : List Nat), s.ctx? = some c → c.participants w.p false = l :: ls →
    let pair (n : BitVec 7) : Nat := ((c.thread l).getPair n.toNat).toNat
    let reg (n : BitVec 7) : Nat := ((c.thread l).getV n.toNat).toNat
    let side (n : BitVec 7) : Nat := if w.x.sub.getLsbD 2 then n.toNat else reg n
    let d := w.x.sub.toNat % 4
    let dr := w.x.sub.toNat % 2
    let acp := entryBits 1 w.x.scope.toNat 0 0 (w.x.sub.getLsbD 2) d w.x.cache.toNat (if d = 0 then side w.a else pair w.a)
      (if d = 1 then side w.b else pair w.b) (if w.x.sub.getLsbD 2 then 0 else reg w.x.c)
    let acpg := entryBits 2 w.x.scope.toNat 0 0 (w.x.sub.getLsbD 2) 0 w.x.cache.toNat (side w.a) (pair w.b) (reg w.x.c)
    let acpr := entryBits 3 w.x.scope.toNat (tyOf w) (w.x.sub.toNat / 2) false dr 0 (if dr = 0 then reg w.a else pair w.a)
      (if dr = 1 then reg w.b else pair w.b) (reg w.x.c)
    let places (i : Instr) (bits : BitVec 256) : Prop :=
      let e : Entry := { bits := bits, seq := 0, ring := 0 }
      let o := s.stampOrder c.Q { kind := .copy, ins := i, blk := c.b, q := c.q,
                                  place := c.B.core * 32 + c.q, code := c.gr.words, sets := (c.gr.sfa, c.gr.sfb), yld := c.gr.yld,
                                  lanes := laneMask (l :: ls)
                                  flag := if w.n then c.gr.sfb else c.gr.sfa, clause := c.gr.clause, widx := c.gr.widx
                                  holdV := [w.d.toNat, w.d.toNat + 1], rel := 2 }
      let x : Entry := { bits := bits, seq := (c.B.iseq + 1) % 2 ^ 32, ring := 0, origin := some s.next, clause := c.gr.clause
                         widx := c.gr.widx, covers := o.covers, id := s.next, ident := identOf c.B c.q l }
      let tested : Prop := e.malformed = false ∨ (e.kind = 3 ∧ 65536 < e.len)
      let busy : Bool := e.isTile && ((c.B.sideOf s).tile e.tileNum).busy
      (busy = true → exec i s = .next (s.stall c)) ∧
      (busy = false → (tested → s.sideBadAtIssue c.B e = none) → s.globalBadAtIssue c.B e = none →
        (c.B.iring.length < 16 → exec i s = .next ((Issued s c 2 { o with rel := 0, fsc := 0, covers := [] }).updBlock c.b
          fun B => { B with iring := B.iring ++ [x], iseq := x.seq })) ∧
        (16 ≤ c.B.iring.length → exec i s = .next (s.stall c))) ∧
      (∀ k a, busy = false → tested → s.sideBadAtIssue c.B e = some (k, a) →
        exec i s = .next ((s.putQuire c (c.past 2 c.Q)).laneFault c.b c.q (l :: ls) (if k = 2 then 2 else if k = 5 then 1 else 3) a)) ∧
      (∀ k a, busy = false → (tested → s.sideBadAtIssue c.B e = none) → s.globalBadAtIssue c.B e = some (k, a) →
        exec i s = .next (s.raise c (detailCause k).1 (detailCause k).2 l (BitVec.ofNat 64 a)))
    places (.acp w) acp ∧ places (.acpg w) acpg ∧ places (.acpr w) acpr) ∧
  (∀ (s : State) (c : Ctx) (w : W2), s.ctx? = some c →
    let ls := c.participants w.p w.n
    let done := s.doneWord c.B (w.x.sub.toNat % 2)
    let met : Prop := ∀ l ∈ ls, (done + 2 ^ 32 - opB c.Q (c.thread l) w false 0) % 2 ^ 32 < 2 ^ 31
    let rel := (c.B.doneRel.filter fun r => r.1 == w.x.sub.toNat % 2 && (s.op? r.2.2).isSome).map fun r => (r.2.1, c.B.core * 32 + 16, r.2.2)
    let sees (t : Thread) : Thread := if rel = [] then t else
      { t with synced := addNew t.synced (acquired w.x.scope.toNat (c.B.core * 32 + c.q) rel), readSet := rel ++ t.readSet }
    (met → Lanes (.cwait w) s c 2 ls fun _ t => (sees t).setV w.d.toNat (BitVec.ofNat 32 done)) ∧
    (¬met → exec (.cwait w) s = .next (s.stall c)))) ∧
  ((∀ (s : State) (c : Ctx) (w : W2) (l : Nat) (ls : List Nat), s.ctx? = some c → c.participants w.p false = l :: ls →
    let base := ((c.thread l).getPair w.a.toNat).toNat
    let n := opB c.Q (c.thread l) w false w.x.imm20.toNat
    let t := coreTarn c.B.core
    let good : Prop := 1 ≤ n ∧ n ≤ 4096 ∧ base % 65536 = 0 ∧ c.B.mayAccess true base (n * 65536) = true ∧
      s.pagesOk t c.B.part base (n * 65536) (fun x va => x.sz == 16 && !x.cell && !inHost (x.pa va)) = true
    let phys := (List.range n).filterMap fun i =>
      match (s.walk t c.B.part ((base + i * 65536) % 2 ^ 64)).2 with | .ok x => some (x.pa x.va / 65536) | .error _ => none
    let op (v : Nat) : Op := { kind := .shdw, ins := .shdw w, blk := c.b, q := c.q,
                               place := c.B.core * 32 + c.q, code := c.gr.words, sets := (c.gr.sfa, c.gr.sfb), yld := c.gr.yld, lanes := laneMask (l :: ls)
                               flag := if w.n then c.gr.sfb else c.gr.sfa, clause := c.gr.clause, widx := c.gr.widx
                               holdV := [w.d.toNat], elems := (l :: ls).map fun k => { Elem.result k v with st := 3 } }
    let free (h : Nat) : Prop := h < 4 ∧ tget? c.B.shadows h = none ∧ ∀ k, k < h → tget? c.B.shadows k ≠ none
    let meets : Bool := c.B.shadows.any fun x => x.2.overlaps base (n * 65536)
    (¬good → exec (.shdw w) s = .next (s.raise c causeLease 0 l (BitVec.ofNat 64 base))) ∧
    (good → (∀ h, h < 4 → tget? c.B.shadows h ≠ none) → exec (.shdw w) s = .next (Issued s c 2 (op (2 ^ 28)))) ∧
    (∀ h, good → free h → s.reserveFrames t c.B.part phys (s.part c.B.part).shUsed = none →
      exec (.shdw w) s = .next (Issued s c 2 (op (2 * 2 ^ 28)))) ∧
    (∀ h fs, good → free h → s.reserveFrames t c.B.part phys (s.part c.B.part).shUsed = some fs → meets = true →
      exec (.shdw w) s = .next (Issued s c 2 (op (3 * 2 ^ 28)))) ∧
    (∀ h fs, good → free h → s.reserveFrames t c.B.part phys (s.part c.B.part).shUsed = some fs → meets = false →
      let S : Shadow := { base := BitVec.ofNat 64 base, pages := n, own := phys.map s.unmapPage, frames := fs }
      let s1 := (s.updPart c.B.part fun P => { P with shUsed := P.shUsed ++ fs }).updBlock c.b fun B =>
        { B with shadows := tput B.shadows h S }
      exec (.shdw w) s = .next (s1.issueStep c 2 (op h)))) ∧
  (∀ (s : State) (c : Ctx) (w : W2) (l : Nat) (ls : List Nat), s.ctx? = some c → c.participants w.p false = l :: ls →
    let op (k : OpKind) (i : Instr) : Op :=
      { kind := k, ins := i, blk := c.b, q := c.q,
        place := c.B.core * 32 + c.q, code := c.gr.words, sets := (c.gr.sfa, c.gr.sfb), yld := c.gr.yld,
        lanes := laneMask (l :: ls), flag := if w.n then c.gr.sfb else c.gr.sfa
        clause := c.gr.clause, widx := c.gr.widx, holdV := [w.d.toNat], rel := if k = .publ then w.x.scope.toNat else 0
        n := c.B.iseq, m := if c.B.ring = 0 then 0 else s.notify c.B
        elems := (l :: ls).map fun k => { lane := k, va := 0#64, pa := 0, size := 0, st := 7
                                          x := BitVec.ofNat 64 ((c.thread l).getV w.a.toNat).toNat } }
    (w.x.scope.toNat < 6 ∨ s.gangGate c.B = 2 →
      exec (.publ w) s = .next (Issued s c 2 (s.stampOrder c.Q (op .publ (.publ w))))) ∧
    (6 ≤ w.x.scope.toNat → s.gangGate c.B = 1 → exec (.publ w) s = .next (s.stall c)) ∧
    (6 ≤ w.x.scope.toNat → s.gangGate c.B = 3 → exec (.publ w) s = .next (s.endTask c.b 7 none)) ∧
    exec (.abnd w) s = .next (Issued s c 2 (s.stampOrder c.Q (op .abnd (.abnd w))))) ∧
  (∀ (s : State) (op : Nat) (o : Op) (B : Block) (S : Shadow), s.op? op = some o → s.block? o.blk = some B →
    tget? B.shadows o.handle = some S → s.shadowBusy o B S = false →
    let fresh (s : State) : State := s.updBlock o.blk fun B =>
      { B with shadows := tput B.shadows o.handle { S with written := [], discarded := false } }
    let owed : Prop := ∀ i ∈ s.engineOwes o.blk B, s.performedAt o.rel i = true
    (o.kind = .publ → s.regionRead o B S = false → s.released o = true → owed → S.discarded = true → exec (.publExchange op) s = .next ((fresh s).shadowDone op o 5)) ∧
    (o.kind = .publ → s.regionRead o B S = false → s.released o = true → owed → S.discarded = false → exec (.publExchange op) s = .next (((fresh (S.written.foldl (fun s k =>
      let s := s.swapPages (S.own.getD k 0) (S.frames.getD k 0)
      s.switchTlbs o.rel B.core B.part ((S.base.toNat + k * 65536) % 2 ^ 64) (s.remapPage (S.own.getD k 0))) s)).publWrite o B S).shadowDone op o 0)) ∧
    (o.kind = .abnd → exec (.abndDiscard op) s = .next
      (((s.updPart B.part fun P => { P with shUsed := P.shUsed.filter fun x => !S.frames.contains x }).updBlock o.blk
        fun B => { B with shadows := tdel B.shadows o.handle }).shadowDone op o 0))) ∧
  (∀ (s : State) (a b : Nat), (s.swapPages a b).remapPage a = s.remapPage b ∧ (s.swapPages a b).remapPage b = s.remapPage a ∧
    ∀ p, p ≠ a → p ≠ b → (s.swapPages a b).remapPage p = s.remapPage p))

/-- R366 to R368, R370, R372, R374, R388 to R390: the engine reads an entry and starts it; its completion writes its results in ring
order; what a transfer error does. -/
def Obligations.EngineEvents : Prop :=
  (∀ (s : State) (b : Nat) (B : Block), s.block? b = some B → B.ring ≠ 0 → B.dstop = false → s.holdsSide b B = true → B.st = .running →
    let h := s.ringHead B
    let ahead := (s.notify B + 2 ^ 32 - h) % 2 ^ 32
    let T := coreTarn B.core
    let e : Entry := { bits := BitVec.ofNat 256 (readLE (B.sideOf s).bytes (64 + 32 * (h % B.ring)) 32), seq := (h + 1) % 2 ^ 32, ring := 1
                       id := s.next, covers := s.notifyCovers b B
                       ident := BitVec.ofNat 32 (T / 12 * 2 ^ 24 + T % 12 * 2 ^ 20) }
    (ahead = 0 → exec (.entryRead b) s = .next s) ∧
    (ahead ≠ 0 → ahead ≤ B.ring → exec (.entryRead b) s = .next
      (({ s.putSide B 8 4 ((h + 1) % 2 ^ 32) with next := s.next + 1 }).updBlock b fun B => { B with dring := B.dring ++ [e] })) ∧
    let stopped := s.updBlock b fun B => { B with dstop := true }
    (B.ring < ahead → B.dring = [] → exec (.entryRead b) s = .next ((stopped.putSide B 12 4 ((h + 1) % 2 ^ 32)).endTask b 5
        (some { cause := causeOverrun, detail := 0, clause := 0#64, widx := 0, lane := 0, ea := 0#64 }))) ∧
    (B.ring < ahead → B.dring ≠ [] → exec (.entryRead b) s = .next stopped)) ∧
  (∀ (s : State) (b ring i : Nat) (B : Block) (e : Entry), s.block? b = some B → s.engineChoice B.core = some (b, ring) →
    s.nextStart b ring = some (i, e) →
    exec (.engineStart b ring []) s = .next ((s.startEntry b ring i B e).updCore B.core
      fun C => { C with engSide := B.side, engRing := C.engRing.set B.side ring })) ∧
  (∀ (s : State) (b ring n : Nat) (B : Block), s.block? b = some B →
    exec (.engineStart b ring [n]) s = .next (s.advanceEntry b ring (n / 2 ^ 32) (n % 2 ^ 32))) ∧
  (∀ (s : State) (b ring i : Nat) (B : Block) (e : Entry) (d a : Nat), s.block? b = some B → e.kind ≠ 5 → s.entryBad B e = some (d, a) →
    s.startEntry b ring i B e = s.updEntry b ring i fun e => { e with stage := 2, code := 3, detail := d, ea := BitVec.ofNat 64 a }) ∧
  (∀ (s s1 : State) (b v off : Nat) (B : Block) (e : Entry) (w : Nat × Nat) (seen : List Nat), e.kind = 1 → e.dir = 0 →
    s.firstBad B e = none →
    s.engineRead b B e w.1 4 off (s.copyBytes B e - off) = (s1, .done, v, seen) → v < 2 ^ 32 →
    let r := s.moveWord b B e w off
    r.2.1 = .done ∧ ((B.ring = 0 ∨ 64 ≤ w.2) → readLE (B.sideOf r.1).bytes w.2 4 = v) ∧ r.1.mem = s1.mem ∧
      ∀ a, (a < w.2 ∨ w.2 + 4 ≤ a) → cellGet (B.sideOf r.1).bytes a = cellGet (B.sideOf s1).bytes a) ∧
  (∀ (s : State) (b ring : Nat) (B : Block) (e : Entry) (es : List Entry), s.block? b = some B → B.entries ring = e :: es → e.stage = 2 →
    let s1 := s.pushBack 3 e.wop.toList
    (s1.entryPerformed e = true → exec (.commandCompletion b ring) s = .next (((s1.setRing b ring es).writeCompletion b B e).overrun b)) ∧
    (s1.entryPerformed e = false → exec (.commandCompletion b ring) s = .next s1)) ∧
  (∀ (s : State) (b ring : Nat) (B : Block), s.block? b = some B →
    let t : State := { s with free := s.free + 1 }
    let k := (Config.freeValue s.free).toNat
    (∀ i e, B.movingEntry ring Entry.transfers k = some (i, e) →
      exec (.pathError b ring false) s = .next (t.updEntry b ring i fun e => { e with tr := true }) ∧
      (¬(e.kind = 3 ∧ e.work = []) → e.rp = true → exec (.pathError b ring true) s = .next (t.endEntry b ring i 2 0 0)) ∧
      (¬(e.kind = 3 ∧ e.work = []) → e.rp = false → exec (.pathError b ring true) s = .next (t.updEntry b ring i fun e =>
        { e with rp := true, pos := 0, work := t.workOf B e, staged := if e.kind = 3 then List.replicate e.len 0#8 else [] }))) ∧
    (∀ i e off, B.movingEntry ring (fun e => !e.fromSide && decide (off / 4 < (s.workOf B e).length) &&
        ((s.workOf B e).drop (off / 4)).all e.work.contains) k = some (i, e) →
      exec (.uncorrectableSourceError b ring off) s = .next (t.endEntry b ring i 1 off ((s.workOf B e).getD (off / 4) (0, 0)).1)))

/-! ### The matrix unit -/

/-- R394 to R396, R402, R416: OBRES takes a free handle for a well-formed record whose range meets no other reservation, OBREL frees one
that no queued command names; every other use ends the task with MATRIX. R320, R321, R407: MSIGN enters one arrival per participant,
which waits for the fills issued before it; its event counts those whose fills are done. -/
def Obligations.ReservationsAndConvergence : Prop :=
  (∀ (s : State) (c : Ctx) (w : W2), s.ctx? = some c →
    let ls := c.participants w.p w.n
    let h := w.d.toNat
    let H := c.B.handle h
    let named : Bool := c.B.mq.any fun m => (m.reads c.B.core ++ (match m.ins with | .obld w => [w.d.toNat] | _ => m.fills)).contains h
    (ls = [] → exec (.obres w) s = .next (s.putQuire c (c.past 2 c.Q)) ∧ exec (.obrel w) s = .next (s.putQuire c (c.past 2 c.Q))) ∧
    (∀ l, ls.head? = some l →
      let x := (c.thread l).getPair w.a.toNat
      let r := hrecOf x.toNat
      let meets : Bool := c.B.handles.any fun e => e.2.st != 0 && e.2.rec_.overlaps r
      (H.st ≠ 0 → exec (.obres w) s = .next (s.raise c causeMatrix mxHandle l 0#64)) ∧
      (H.st = 0 → (r.ok x.toNat = false ∨ meets = true) → exec (.obres w) s = .next (s.raise c causeMatrix mxReserve l 0#64)) ∧
      (H.st = 0 → r.ok x.toNat = true → meets = false →
        ∃ t B', exec (.obres w) s = .next t ∧ t.block? c.b = some B' ∧
          (B'.handle h).st = 1 ∧ (B'.handle h).record = x ∧ (B'.handle h).gen = H.gen + 1#32 ∧ (B'.handle h).cache = none ∧
          (∀ k, k ≠ h → B'.handle k = c.B.handle k) ∧ B'.acc = c.B.acc ∧ B'.quires = tput c.B.quires c.q (c.past 2 c.Q) ∧
          (∀ a, (a < r.base ∨ r.base + r.size ≤ a) → cellGet B'.obuf a = cellGet c.B.obuf a) ∧
          t.mem = s.mem ∧ t.cores = s.cores ∧ t.tarns = s.tarns ∧ t.ops = s.ops) ∧
      (H.st = 0 → exec (.obrel w) s = .next (s.raise c causeMatrix mxHandle l 0#64)) ∧
      (H.st ≠ 0 → named = true → exec (.obrel w) s = .next (s.stall c)) ∧
      (H.st ≠ 0 → named = false →
        ∃ t B', exec (.obrel w) s = .next t ∧ t.block? c.b = some B' ∧ (B'.handle h).st = 0 ∧ (B'.handle h).gen = H.gen + 1#32 ∧
          (∀ k, k ≠ h → B'.handle k = c.B.handle k) ∧ B'.acc = c.B.acc ∧ B'.obuf = c.B.obuf ∧
          B'.quires = tput c.B.quires c.q (c.past 2 c.Q) ∧ t.mem = s.mem ∧ t.cores = s.cores ∧ t.tarns = s.tarns))) ∧
  ((∀ (s : State) (c : Ctx) (w : W2), s.ctx? = some c →
    let ls := c.participants w.p w.n
    let count (l : Nat) : Nat := (BitVec.ofNat 32 (opB c.Q (c.thread l) w false w.x.imm20.toNat)).toNat
    let o : Op := { kind := .msign, ins := .msign w, blk := c.b, q := c.q,
                    place := c.B.core * 32 + c.q, code := c.gr.words, sets := (c.gr.sfa, c.gr.sfb), yld := c.gr.yld,
                    lanes := laneMask ls, clause := c.gr.clause, widx := c.gr.widx
                    rel := 2, n := count (ls.headD 0), m := w.a.toNat
                    elems := ls.map fun l => { lane := l, va := 0#64, pa := 0, size := 0 } }
    (ls = [] → exec (.msign w) s = .next (s.putQuire c (c.past 2 c.Q))) ∧
    (ls ≠ [] → (∀ l ∈ ls, 1 ≤ count l ∧ count l ≤ 512 ∧ count l = count (ls.headD 0)) →
      exec (.msign w) s = .next (Issued s c 2 { s.stampOrder c.Q o with after_ := (c.B.mq.filter MCmd.isLoad).map (·.op) })) ∧
    (∀ l, ls.head? = some l → (count l < 1 ∨ 512 < count l) → exec (.msign w) s = .next (s.raise c causeBarCount 0 l 0#64))) ∧
  (∀ (s : State) (op : Nat) (o : Op) (e : Elem) (B : Block), s.op? op = some o → o.kind = .msign → o.elems = [e] → e.st = 0 → e.lane < 32 →
    o.after_ = [] → s.released o = true → o.drop = false → firstBlock ≤ o.blk → s.block? o.blk = some B →
    let p := tget B.kreg o.m {}
    p.heldArr = [] → p.late s.clk (arrivalRank B.core o.q e.lane) = false →
    (p.signed = true → ∃ t B', exec (.msignArrival op) s = .next t ∧ t.block? o.blk = some B' ∧
      tget B'.kreg o.m {} = { p with heldArr := [op * 32 + e.lane], last := (s.clk, arrivalRank B.core o.q e.lane) } ∧ t.mem = s.mem) ∧
    (p.signed = false → (p.a = 0 ∨ p.n = o.n) →
      ∃ t B', exec (.msignArrival op) s = .next t ∧ t.block? o.blk = some B' ∧ t.op? op = none ∧ t.mem = s.mem ∧
        let q := tget B'.kreg o.m {}
        q.n = o.n ∧ q.heldArr = [] ∧ (p.a + 1 ≠ o.n → q.a = p.a + 1 ∧ q.signed = false ∧ q.num = p.num) ∧
        (p.a + 1 = o.n → q.a = 0 ∧ q.signed = true ∧ q.num = p.num + 1))))

/-- R400, R401, R403 to R409, R411, R413 to R416: with its operands as they must be, a matrix command enters its core's queue once for
the group, with the lowest participant's operands; a multiplication first consumes its signed phase, and waits while there is none. -/
def Obligations.MatrixIssue : Prop :=
  ∀ (s : State) (c : Ctx) (w : W2) (l : Nat) (ls : List Nat), s.ctx? = some c → c.participants w.p false = l :: ls → c.B.mq.length < 8 →
    let g := l :: ls
    let b := BitVec.ofNat 32 (opB c.Q (c.thread l) w false w.x.imm20.toNat)
    let n := b.toNat
    let tile (k : Nat) : Tile := (c.B.sideOf s).tile k
    let x := (tile w.a.toNat).desc'
    let y := (tile w.d.toNat).desc'
    let H := c.B.handle w.d.toNat
    let A := c.B.handle w.a.toNat
    let chk := w.x.sub.getLsbD 1
    let col := w.x.sub.getLsbD 0
    let hit : Bool := !chk && H.cache == some (obldTag w (tile w.a.toNat) b H.gen) && !c.B.mq.any fun m => m.fills.contains w.d.toNat
    let draining := s.setTile c.B w.a.toNat fun T => { T with st := 3 }
    let signed : Prop := (tget c.B.kreg w.x.c.toNat {}).signed = true
    let idx (l : Nat) : Word := (c.thread l).getV w.b.toNat
    let p := (c.thread l).getV w.x.c.toNat
    ((tile w.a.toNat).st = 2 → fillable x chk = true → H.st ≠ 0 →
      fillFits x H.rec_ col (placeV b + (if col then fillElems x else fillRows x)) (placeK b) (if col then fillRows x else fillElems x) = true →
      exec (.obld w) s = .next ((if hit then s else draining).enqueue c w (.obld w) g (if chk then [w.x.c.toNat] else []) b 0#32 [] hit)) ∧
    ((tile w.a.toNat).st = 2 → fillable x false = true → H.st ≠ 0 →
      fillFits x H.rec_ false (placeV p + g.getLastD 0 + 1) (placeK p) (fillElems x) = true →
      (∀ l ∈ g, (idx l).toNat < fillRows x) →
      exec (.obldg w) s = .next (draining.enqueue c w (.obldg w) g [] 0#32 p (g.map fun l => (l, idx l)) false)) ∧
    (signed → H.st ≠ 0 → A.st ≠ 0 → shapeOk H.rec_ A.rec_ n = true →
      exec (.mma w) s = .next ((s.consumePhase c g w.x.c.toNat).enqueue c w (.mma w) g [] b 0#32 [] false)) ∧
    let own := c.B.handle (if quadPos c.B.core < 2 then w.d.toNat else w.a.toNat)
    (signed → own.st ≠ 0 → rowOf n % 64 = 0 → colOf n % 64 = 0 → n < 2 ^ 17 → ownFits (quadPos c.B.core) own.rec_ n = true →
      exec (.mmaq w) s = .next ((s.consumePhase c g w.x.c.toNat).enqueue c w (.mmaq w) g [] b 0#32 [] false)) ∧
    (signed → own.st ≠ 0 → ownFits (quadPos c.B.core) own.rec_ n = false → exec (.mmaq w) s = .next (s.raise c causeMatrix mxShape l 0#64)) ∧
    (¬signed → exec (.mma w) s = .next (s.stall c) ∧ exec (.mmaq w) s = .next (s.stall c)) ∧
    (n < 2 ^ 22 → rowOf n + zRows n ≤ 256 → colOf n + zCols n ≤ 512 → exec (.accz w) s = .next (s.enqueue c w (.accz w) g [] b 0#32 [] false)) ∧
    (n < 2 ^ 17 → colOf n + 32 ≤ 512 → exec (.accrd w) s = .next (s.enqueue c w (.accrd w) g [w.d.toNat] b 0#32 [] false)) ∧
    ((tile w.d.toNat).st = 2 → y.image = false → y.ty = tyOf w → n < 2 ^ 17 → rowOf n + y.rows ≤ 256 → colOf n + y.elems ≤ 512 →
      exec (.accst w) s = .next ((s.setTile c.B w.d.toNat fun T => { T with st := 1 }).enqueue c w (.accst w) g [] b 0#32 [] false)) ∧
    (signed → H.st = 0 → exec (.mma w) s = .next (s.raise c causeMatrix mxHandle l 0#64)) ∧
    (signed → H.st ≠ 0 → A.st ≠ 0 → shapeOk H.rec_ A.rec_ n = false → exec (.mma w) s = .next (s.raise c causeMatrix mxShape l 0#64))

/-- R401, R404, R409 to R412, R414 to R417, R419: a queued command starts, acts and completes; four matching MMAQs of a quad start
together, and members that disagree each end with MATRIX QUAD. R409, R410: a multiplication changes exactly the accumulator cells of
its region, each to the sum of its groups over what the cell held. -/
def Obligations.MatrixEvents : Prop :=
  ((∀ (s : State) (b num : Nat) (B : Block) (m : MCmd), s.block? b = some B → B.mq.find? (fun m => m.num == num) = some m →
    ((∀ w, m.ins ≠ .mmaq w) → s.mayStart B m = true → exec (.matrixCommandStart b num) s = .next (s.startCmd b B m)) ∧
    (∀ o, s.op? m.op = some o → (m.stage = 1 ∨ (m.hit = true ∧ o.due ≤ s.clk)) →
      let w := w2Of m.ins
      let ready (n : Nat) : State := s.setTile B n fun T => if T.busy then { T with st := 2 } else T
      let live := s.opLanes o
      let met (t : State) : State := t.mapLanes o.blk o.q live fun _ th =>
        th.acquireCovers ((m.op :: o.before_).filter fun i => (t.op? i).isSome)
      let finish (t : State) : Prop := exec (.matrixCommandCompletion b num) s =
        .next ((((met t).delCmd b num).mapElems m.op (fun _ => true) fun e => { e with st := 3 }).settle m.op)
      ((∃ w, m.ins = .mma w ∨ m.ins = .mmaq w ∨ m.ins = .accz w) → finish s) ∧
      ((∃ w, m.ins = .obldg w) → finish (ready w.a.toNat)) ∧ ((∃ w, m.ins = .accst w) → finish (ready w.d.toNat)) ∧
      ((∃ w, m.ins = .obld w) → w.x.sub.getLsbD 1 = false → finish (if m.hit then s else ready w.a.toNat)) ∧
      ((∃ w, m.ins = .obld w) → w.x.sub.getLsbD 1 = true → m.hit = false →
        finish ((ready w.a.toNat).mapLanes o.blk o.q live fun _ t => t.setV w.x.c.toNat (BitVec.ofNat 32 o.n))) ∧
      ((∃ w, m.ins = .accrd w) → finish (o.elems.foldl (fun (s : State) (e : Elem) => if live.contains e.lane then
        s.updThread o.blk o.q e.lane fun t => t.setV w.d.toNat (BitVec.ofNat 32 e.r.toNat) else s) s)))) ∧
  (∀ (s : State) (tarn quad lid : Nat) (q0 q1 q2 q3 : QuadMem),
    s.quadMember (tarn * 25 + quad * 4) lid = some q0 → s.quadMember (tarn * 25 + quad * 4 + 1) lid = some q1 →
    s.quadMember (tarn * 25 + quad * 4 + 2) lid = some q2 → s.quadMember (tarn * 25 + quad * 4 + 3) lid = some q3 →
    let K (q : QuadMem) : Nat := q.operand.rec_.klen
    let agree : Bool := halvesAgree q0 q1 && halvesAgree q2 q3 &&
      (q1.z == q0.z && K q1 == K q0 && (q2.z == q0.z && K q2 == K q0 && (q3.z == q0.z && K q3 == K q0)))
    (agree = true → exec (.quadStepStart tarn quad lid) s =
      .next ((((s.quadMul q0 q0 q2).quadMul q1 q0 q3).quadMul q2 q1 q2).quadMul q3 q1 q3)) ∧
    (agree = false → exec (.quadStepStart tarn quad lid) s = .next
      ((((s.failCmd q0.b q0.m mxQuad).failCmd q1.b q1.m mxQuad).failCmd q2.b q2.m mxQuad).failCmd q3.b q3.m mxQuad)))) ∧
  (∀ (acc : Tab Word) (ma mb : List Host.Cell) (a b : HRec) (z : Bool) (row col : Nat), col + b.vec ≤ 512 →
    let r := mulAcc acc ma mb a b z row col
    (∀ i j, i < a.vec → j < b.vec → regGet r ((row + i) * 512 + col + j) =
      BitVec.ofNat 32 (mulCell ma mb a b z i j (regGet acc ((row + i) * 512 + col + j)).toNat)) ∧
    (∀ x, (x / 512 < row ∨ row + a.vec ≤ x / 512 ∨ x % 512 < col ∨ col + b.vec ≤ x % 512) → regGet r x = regGet acc x))

/-! ### Springs -/

/-- R420, R423 to R426, R428, R432: SPRG and SPRGW place a message of the lowest participant on the instruction ring, and no check is
made before the engine starts it; a message arrives at its spring's queue, or is held there while the queue is full; HINST and HDROP
enter their operations on a supervisor core and raise PRIVILEGE elsewhere, unless their guard is false: then they only go on. -/
def Obligations.SpringMessages : Prop :=
  (∀ (s : State) (c : Ctx) (w : W2) (l : Nat) (ls : List Nat), s.ctx? = some c → c.B.iring.length < 16 →
    let ea := (c.thread l).getPair w.a.toNat
    let bits := BitVec.ofNat 256 (w.x.scope.toNat * 2 ^ 21 + 5 * 2 ^ 24 + ea.toNat * 2 ^ 32 + w.x.sub.toNat * 2 ^ 96 +
      opB c.Q (c.thread l) w true 0 * 2 ^ 128 + ((c.thread l).getPair w.x.c.toNat).toNat * 2 ^ 192)
    let o (i : Instr) (f : Nat) (hold : List Nat) : Op := s.stampOrder c.Q
      { kind := .sprg, ins := i, blk := c.b, q := c.q,
        place := c.B.core * 32 + c.q, code := c.gr.words, sets := (c.gr.sfa, c.gr.sfb), yld := c.gr.yld,
        lanes := laneMask (l :: ls), flag := f, clause := c.gr.clause
        widx := c.gr.widx, holdV := hold, rel := 2 }
    let places (i : Instr) (o : Op) : Prop :=
      let x : Entry := { bits := bits, seq := (c.B.iseq + 1) % 2 ^ 32, ring := 0, origin := some s.next, clause := c.gr.clause
                         widx := c.gr.widx, covers := o.covers, id := s.next, ident := identOf c.B c.q l }
      exec i s = .next ((Issued s c 2 { o with rel := 0, fsc := 0, covers := [] }).updBlock c.b
        fun B => { B with iring := B.iring ++ [x], iseq := x.seq })
    (c.participants w.p w.n = l :: ls → places (.sprg w) (o (.sprg w) 15 [])) ∧
    (c.participants w.p false = l :: ls → places (.sprgw w)
      (o (.sprgw w) (if w.n then c.gr.sfb else c.gr.sfa) [w.d.toNat, w.d.toNat + 1, w.d.toNat + 2, w.d.toNat + 3]))) ∧
  (∀ (s : State) (b ring id : Nat) (o : Op) (el : Elem) (B : Block) (e : Entry),
    s.nextMessage b ring = some (id, o) → o.elems = [el] → s.block? b = some B →
    s.podDown (coreTarn B.core) el.pa = false → (s.routeOf o el = .pod → tget s.flits (coreTarn B.core) 0 < 2 ^ 32) →
    (B.entries ring).find? (fun e => e.id == o.m) = some e →
    let m : Msg := { pa := el.pa, slot := e.mSlot, arg0 := BitVec.ofNat 64 e.mArg0, arg1 := BitVec.ofNat 64 e.mArg1, sender := e.ident
                     src := (b, ring, e.id), scope := e.scope }
    let sp := s.spring (springOf el.pa)
    let s1 : State := if s.routeOf o el = .pod then
      { s with flits := tput s.flits (coreTarn B.core) (tget s.flits (coreTarn B.core) 0 + 1) } else s
    let rank := if s.routeOf o el = .pod then 2 ^ 40 else B.core
    (sp.retired = false → sp.moving.contains (el.pa / 65536) = false →
      (sp.queue.length < 64 → sp.held = [] → exec (.springMessageArrival b ring) s =
        .next ((s1.delOp id).updSpring (springOf el.pa) fun sp => { sp with queue := sp.queue ++ [m], last := (s.clk, rank) })) ∧
      (64 ≤ sp.queue.length ∨ sp.held ≠ [] → exec (.springMessageArrival b ring) s =
        .next ((s1.delOp id).updSpring (springOf el.pa) fun sp => { sp with held := sp.held ++ [m], last := (s.clk, rank) }))) ∧
    (sp.retired = true → exec (.springMessageArrival b ring) s = .next ((s1.delOp id).messageDone m 1 0 0#32 outPoison 0)) ∧
    (sp.retired = false → sp.moving.contains (el.pa / 65536) = true →
      exec (.springMessageArrival b ring) s = .next ((s1.delOp id).rejectMoved m))) ∧
  (∀ (s : State) (c : Ctx) (w : W2), s.ctx? = some c →
    let ls := c.uniform w.p false
    let slot := opBG c.Q w false 0
    let img := c.Q.getGPair w.a.toNat
    let op (k : OpKind) (i : Instr) : Op :=
      { kind := k, ins := i, blk := c.b, q := c.q,
        place := c.B.core * 32 + c.q, code := c.gr.words, sets := (c.gr.sfa, c.gr.sfb), yld := c.gr.yld,
        lanes := laneMask ls, flag := if w.n then c.gr.sfb else c.gr.sfa, clause := c.gr.clause
        widx := c.gr.widx, holdG := [w.d.toNat], n := slot % 16
        elems := [{ lane := 0, va := img, pa := 0, size := 0, x := c.Q.getGPair w.x.c.toNat }] }
    (c.B.sup = false → guardOk c.Q.gp w.p false = true →
      exec (.hinst w) s = .next (s.raise c causePrivilege 0 (c.members.headD 0) 0#64) ∧
      exec (.hdrop w) s = .next (s.raise c causePrivilege 0 (c.members.headD 0) 0#64)) ∧
    (guardOk c.Q.gp w.p false = false → exec (.hinst w) s = .next (s.putQuire c (c.past 2 c.Q)) ∧
      exec (.hdrop w) s = .next (s.putQuire c (c.past 2 c.Q))) ∧
    (c.B.sup = true → ls ≠ [] → exec (.hdrop w) s = .next (Issued s c 2 (op .hdrop (.hdrop w)))) ∧
    (c.B.sup = true → ls ≠ [] → Granted s c (ls.take 1) (fun _ => img) 4 4 false noCell →
      exec (.hinst w) s = .next (Issued (LookedUp s c (ls.take 1) (fun _ => img) 4) c 2 (op .hinst (.hinst w)))))

/-- R426, R429, R433: a handler starts with the message's arguments, row and sender in G0 to G5 and zeros elsewhere; a message whose
slot holds no handler, or a disabled one, is answered; the 257th step and REPLY end a handler. R430, R431: the row instructions of a
handler: the row buffer takes the row's 16 lines as they are at their home; ROWWR writes the masked lines whole; LINERD, LINEWR and
ROWRED move and combine words of the row buffer; a false guard only goes on. -/
def Obligations.SpringHandlers : Prop :=
  ((∀ (s : State) (gs : Nat) (m : Msg) (ms : List Msg), (s.spring gs).run = none → (s.spring gs).retrain = false →
    (∀ x ∈ (s.spring gs).mitig, x.2 ≤ s.clk) → (s.spring gs).queue = m :: ms →
    let s1 := s.updSpring gs fun sp => { sp with
      queue := ms ++ sp.held.take (64 - ms.length), held := sp.held.drop (64 - ms.length) }
    (tget? (s.spring gs).slots m.slot = none → exec (.handlerStart gs) s = .next (s1.messageDone m 0 0 0#32 outNoHandler 0)) ∧
    (∀ ws, tget? (s.spring gs).slots m.slot = some (2, ws) → exec (.handlerStart gs) s = .next (s1.messageDone m 0 0 0#32 outDisabled 0)) ∧
    (∀ ws, tget? (s.spring gs).slots m.slot = some (1, ws) →
      ∃ t, exec (.handlerStart gs) s = .next t ∧
        let sp := t.spring gs
        sp.run = some m ∧ sp.queue = ms ++ (s.spring gs).held.take (64 - ms.length) ∧ sp.at_ = 0 ∧ sp.steps = 0 ∧ sp.gp = 0#7 ∧ (∀ i, rbGet sp i = 0#32) ∧
        ({ g := sp.g : Quire }).getGPair 0 = m.arg0 ∧ ({ g := sp.g : Quire }).getGPair 2 = m.arg1 ∧
        regGet sp.g 4 = BitVec.ofNat 32 (m.pa / 4096 % 16) ∧ regGet sp.g 5 = m.sender ∧ (∀ n, 6 ≤ n → regGet sp.g n = 0#32) ∧
        t.mem = s.mem ∧ t.blocks = s.blocks ∧ t.cores = s.cores ∧ ∀ g, g ≠ gs → t.spring g = s.spring g)) ∧
  (∀ (s : State) (gs : Nat) (m : Msg) (k : Nat) (ws : List Word), (s.spring gs).run = some m →
    tget? (s.spring gs).slots m.slot = some (k, ws) → 256 ≤ (s.spring gs).steps → (s.spring gs).at_ < ws.length →
    exec (.stepLimit gs) s = .next (s.endHandler gs 0 0 0#32 outSteps)) ∧
  (∀ (s : State) (gs : Nat) (w : W2), s.cur = .spring gs →
    let sp := s.spring gs
    (guardOk sp.gp w.p w.n = true → exec (.reply w) s = .next (s.endHandler gs 0 0 (regGet sp.g w.a.toNat) outReplied)) ∧
    (guardOk sp.gp w.p w.n = false → exec (.reply w) s = .next (s.updSpring gs fun sp => { sp with at_ := sp.at_ + 2 }))) ∧
  (∀ (s : State) (gs code detail out : Nat) (r : Word) (m : Msg), (s.spring gs).run = some m →
    s.endHandler gs code detail r out =
      (((s.messageDone m code detail r out (s.spring gs).steps).updSender m fun e => { e with
        seen := addNew e.seen (s.spring gs).seen
        work := (List.range 16).map fun x => (rowLine (m.pa / 65536) (gs % 64) x, 0) }).updSpring gs
          fun sp => { sp with run := none, seen := [] }))) ∧
  (∀ (s : State) (gs : Nat) (w : W2) (m : Msg), s.cur = .spring gs → (s.spring gs).run = some m →
    let sp := s.spring gs
    let g := m.pa / 65536
    let line (x : Nat) : Nat := rowLine g (gs % 64) x
    let ok := guardOk sp.gp w.p w.n
    let a := (regGet sp.g w.a.toNat).toNat
    let skips (i : Instr) : Prop := exec i s = .next (s.updSpring gs fun sp => { sp with at_ := sp.at_ + 2 })
    let steps (i : Instr) (f : Spring → Prop) : Prop := ∃ t, exec i s = .next t ∧ f (t.spring gs) ∧ (t.spring gs).at_ = sp.at_ + 2 ∧
      (t.spring gs).run = some m ∧ t.mem = s.mem ∧ t.blocks = s.blocks
    (ok = false → skips (.rowrd w) ∧ skips (.rowwr w) ∧ skips (.rowred w) ∧ skips (.linerd w) ∧ skips (.linewr w)) ∧
    (ok = true → s.rowHeld gs g = false → (∀ x, x < 16 → s.dramHeld (line x) = false) → (∀ x, x < 16 → s.isPoisoned (line x) = false) → steps (.rowrd w) fun sp' =>
      sp'.g = sp.g ∧ ∀ i, i < 256 → rbGet sp' i =
        BitVec.ofNat 32 (takeData ((s.clean (lineHome (line (i / 16))) (line (i / 16))).homeData (line (i / 16))) (i % 16 * 4) 4)) ∧
    (∀ x, ok = true → s.rowHeld gs g = false → (∀ x, x < 16 → s.dramHeld (line x) = false) → (List.range 16).find? (fun x => s.isPoisoned (line x)) = some x →
      exec (.rowrd w) s = .next ((s.activate gs g (some m.slot)).endHandler gs 1 (64 * x) 0#32 outPoison)) ∧
    (ok = true → s.rowHeld gs g = false → (∀ x, x < 16 → (homeOf (line x * 64)).isSome = true) →
      ∃ t, exec (.rowwr w) s = .next t ∧ t.mem = s.mem ∧
        ∀ x, x < 16 → a.testBit x = true → ∀ i, i < 16 →
          takeData (t.homeData (line x)) (4 * i) 4 = (rbGet sp (16 * x + i)).toNat) ∧
    (ok = true → w.d.toNat + 16 ≤ 128 → steps (.linerd w) fun sp' => (∀ i, rbGet sp' i = rbGet sp i) ∧
      (∀ y, y < 16 → regGet sp'.g (w.d.toNat + y) = rbGet sp (16 * (a % 16) + y)) ∧
      ∀ n, (n < w.d.toNat ∨ w.d.toNat + 16 ≤ n) → regGet sp'.g n = regGet sp.g n) ∧
    (ok = true → steps (.linewr w) fun sp' => sp'.g = sp.g ∧
      (∀ y, y < 16 → rbGet sp' (16 * (a % 16) + y) = regGet sp.g (w.d.toNat + y)) ∧
      ∀ i, i < 256 → i / 16 ≠ a % 16 → rbGet sp' i = rbGet sp i) ∧
    (let b := opBG { g := sp.g, gp := sp.gp } w false w.x.imm20.toNat
     let n := a / 256 % 256 + 1
     let op (x y : Nat) : Nat := combine (w.x.sub.toNat % 8) (tyOf w) x y 0
     ok = true →
      (w.x.sub.getLsbD 3 = false → steps (.rowred w) fun sp' => sp'.rb = sp.rb ∧ sp'.g = regPut sp.g w.d.toNat
        (BitVec.ofNat 32 ((List.range n).foldl (fun x i => op x (rbGet sp (a % 256 + i)).toNat) b))) ∧
      (w.x.sub.getLsbD 3 = true → steps (.rowred w) fun sp' => sp'.g = regPut sp.g w.d.toNat (rbGet sp (a % 256)) ∧
        (∀ i, i < n → rbGet sp' (a % 256 + i) = BitVec.ofNat 32 (op (rbGet sp (a % 256 + i)).toNat b)) ∧
        ∀ j, j < 256 → (∀ i, i < n → j ≠ (a % 256 + i) % 256) → rbGet sp' j = rbGet sp j)))

/-! ### Launches, tasks and gangs -/

/-- R356, R357, R359, R361: a launch or task instruction sends its operand values to a command processor; a record or a descriptor is
first checked as a 64-byte read, aligned to 64. R342, R358, R359: a command processor acts on an instruction once what it releases
is performed at `.pkg`, and the result goes to its G register or pair. -/
def Obligations.CommandInstructions : Prop :=
  (∀ (s : State) (c : Ctx) (w : W2), s.ctx? = some c →
    let ls := c.uniform w.p false
    let pairA := c.Q.getGPair w.a.toNat
    let wordA := (c.Q.getG w.a.toNat).setWidth 64
    let s1 := LookedUp s c (ls.take 1) (fun _ => pairA) 64
    let op (i : Instr) (wide : Bool) (rel : Nat) (va x y : BitVec 64) : Op :=
      { kind := .launch, ins := i, blk := c.b, q := c.q,
        place := c.B.core * 32 + c.q, code := c.gr.words, sets := (c.gr.sfa, c.gr.sfb), yld := c.gr.yld,
        lanes := laneMask ls, flag := if w.n then c.gr.sfb else c.gr.sfa
        clause := c.gr.clause, widx := c.gr.widx, holdG := if wide then [w.d.toNat, w.d.toNat + 1] else [w.d.toNat], rel
        elems := [{ lane := ls.headD 0, va := va, pa := 0, size := 0, x := x, c := y }] }
    let done (i : Instr) (s1 : State) (o : Op) : Prop := exec i s = .next (Issued s1 c 2 (s1.stampOrder c.Q o))
    (Granted s c (ls.take 1) (fun _ => pairA) 64 64 false noCell →
      done (.launch w) s1 (op (.launch w) true 5 pairA 0#64 0#64) ∧
      (w.x.sub.toNat % 4 = 0 → done (.gang w) s1 (op (.gang w) true 0 pairA 0#64 0#64))) ∧
    done (.spawn w) s (op (.spawn w) true 5 (c.Q.getGPair w.x.c.toNat) pairA (BitVec.ofNat 64 (opBG c.Q w true 0))) ∧
    done (.jdec w) s (op (.jdec w) false 5 0#64 wordA (BitVec.ofNat 64 (opBG c.Q w false w.x.imm20.toNat))) ∧
    (w.x.sub.getLsbD 0 = true → done (.tstat w) s (op (.tstat w) true 0 0#64 wordA (BitVec.ofNat 64 (opBG c.Q w false w.x.imm20.toNat)))) ∧
    (w.x.sub.getLsbD 0 = false → exec (.tstat w) s = .next
      ((Issued s c 2 (s.stampOrder c.Q { op (.tstat w) true 0 0#64 wordA 0#64 with acq := 5 })).mapLanes c.b c.q ls
        fun _ t => { t with acq := some s.next })) ∧
    done (.tcancel w) s (op (.tcancel w) false 0 0#64 wordA 0#64) ∧
    (w.x.sub.toNat % 4 ≠ 0 → done (.gang w) s (op (.gang w) true 0 0#64 wordA 0#64))) ∧
  (∀ (s : State) (op : Nat) (o : Op) (e : Elem) (B : Block), s.op? op = some o → o.kind = .launch → o.elems = [e] →
    s.block? o.blk = some B → (s.released o = false → (∀ w, o.ins = .launch w ∨ o.ins = .spawn w ∨ o.ins = .jdec w →
      exec (.launchAcceptance op) s = .next (s.pushBack o.rel o.covers))) ∧
    (s.released o = true →
      let p := s.partOf B
      let n := e.x.toNat
      let k := e.c.toNat
      let acts (t : State) (v v' : Nat) : Prop := exec (.launchAcceptance op) s = .next
        (((t.writeG o v v').mapLanes o.blk o.q (laneList o.lanes) fun _ th => if th.acq = some op then { th with acq := none } else th).finishOp op)
      (∀ w L s1, o.ins = .spawn w → s.launch? p B.lid = some L → let r := spawnRecord L.record w.x.sub.toNat n k e.va.toNat
        s.launchReads op o (coreTarn B.core) p r true = (s1, true) → exec (.launchAcceptance op) s = .next (s1.actLaunch op o B r (some B.ranges))) ∧
      (∀ w s1 s2, o.ins = .launch w → s.opReads op o (coreTarn B.core) p [(e.va.toNat, 64)] = (s1, true) →
        let r := s1.numVa (coreTarn B.core) p e.va.toNat 64
        r.1.launchReads op o (coreTarn B.core) p (BitVec.ofNat 512 r.2) false = (s2, true) →
        exec (.launchAcceptance op) s = .next (s2.actLaunch op o B (BitVec.ofNat 512 r.2) none)) ∧
      (∀ w, o.ins = .jdec w ∨ o.ins = .tstat w ∨ o.ins = .tcancel w → s.launch? p n = none → acts s 3 0) ∧
      (∀ w L, o.ins = .jdec w → s.launch? p n = some L → L.record.n ≤ k → acts s 4 0) ∧
      (∀ w L, o.ins = .jdec w → s.launch? p n = some L → k < L.record.n →
        acts (s.decrement p n k o.covers).1 (s.decrement p n k o.covers).2 0) ∧
      (∀ w L, o.ins = .tstat w → w.x.sub.getLsbD 0 = false → s.launch? p n = some L → acts s 0 (L.ndone + L.nfault + L.ncanc)) ∧
      (∀ w L t, o.ins = .tstat w → w.x.sub.getLsbD 0 = true → s.launch? p n = some L → k < L.record.n → tget? L.tasks k = some t →
        acts s t.st t.join) ∧
      (∀ w L, o.ins = .tcancel w → s.launch? p n = some L →
        acts (s.tcancel p n (w.x.sub.getLsbD 0)).1 (s.tcancel p n (w.x.sub.getLsbD 0)).2 0) ∧
      (∀ w, o.ins = .gang w → w.x.sub.toNat % 4 ≠ 0 →
        (∀ g, tget? (s.part p).gangs (gangKey (tarnModule (coreTarn B.core)) n) = some g → g.st = 1 → 2 ≤ w.x.sub.toNat % 4 →
          s.gangAway p (tarnModule (coreTarn B.core)) g.desc = false) → o.m = 0 →
        let r := s.gangAct p (coreTarn B.core) (w.x.sub.toNat % 4) 0#512 n
        (2 ≤ w.x.sub.toNat % 4 → r.2.1 ≠ 1) → acts r.1 r.2.1 r.2.2)))

/-- R345, R348, R352, R358: what a decrement does to a record's counter, and the events that bring decrements and grant leases. -/
def Obligations.DependencesAndLeases : Prop :=
  (∀ (s : State) (p lid b : Nat) (cov : List Nat) (t : Task), s.task? p lid b = some t →
    let low := (s.updTask p lid b fun t => { t with join := t.join - 1, covers := addNew t.covers cov }).keepRecord p lid b
    (4 ≤ t.st → s.decrement p lid b cov = (s, 7)) ∧ (t.st < 4 → t.join = 0 → s.decrement p lid b cov = (s, 5)) ∧
    (t.st < 4 → 2 ≤ t.join → s.decrement p lid b cov = (low, 0) ∧
      low.task? p lid b = some { t with join := t.join - 1, covers := addNew t.covers cov }) ∧
    (t.st < 4 → t.join = 1 → s.decrement p lid b cov = (low.makeReady p lid b, 6) ∧
      ∃ t', (low.makeReady p lid b).task? p lid b = some t' ∧ t'.st = 1 ∧ t'.join = 0 ∧ t'.target.isSome = true)) ∧
  (∀ (s : State) (p lid b : Nat) (t : Task), s.task? p lid b = some t → t.pend ≠ 0 → exec (.joinDecrement p lid b) s =
    .next ((s.updTask p lid b fun t => { t with pend := t.pend - 1 }).decrement p lid b []).1) ∧
  (∀ (s : State) (p succ k u : Nat) (L P : Launch), s.launch? p succ = some L → L.pred = some u → s.lidOf p u = some k →
    s.launch? p k = some P → L.uid ∉ P.succ → P.broken = false → exec (.registration p succ) s = .next
      (P.tasks.foldl (fun s t => if t.2.st = 4 then s.sendDecrements p L.uid t.1 [] else s)
        (s.updLaunch p k fun P => { P with succ := P.succ ++ [L.uid] }))) ∧
  (∀ (s : State) (p lid b g : Nat) (L : Launch) (t : Task), s.launch? p lid = some L → s.task? p lid b = some t → t.st = 1 →
    t.target = some g →
    let ls := L.leasesOf t.ranges
    let s1 := (s.updTask p lid b fun t => { t with st := 2, leases := ls }).updTarn g fun T =>
      { T with leaseCnt := T.leaseCnt + ls.length
               queues := tput T.queues L.record.prio (queueInsert (max 1 s.clk, lid, b) (tget T.queues L.record.prio [])) }
    ((∀ l ∈ ls, s.leaseOk g p l = true) → exec (.leaseGrant p lid b) s =
      .next (if 1024 < (s.tarn g).leaseCnt + ls.length then s1.postTrap g { kind := 2, detail := 2 } else s1)) ∧
    (∀ l, ls.find? (fun l => !s.leaseOk g p l) = some l → exec (.leaseGrant p lid b) s = .next
      (((s.endRecord p lid b 5 (some { cause := causeLeaseDenied, detail := 0, clause := 0#64, widx := 0, lane := 0
                                       ea := BitVec.ofNat 64 l.base })).broke p lid).closeLaunch p lid)))

/-- R81, R337, R350, R351, R355, R365: an idle core takes the head of its tarn's highest queue; a block starts with every register at 0,
every thread at the kernel's entry and no state of the block before it; a complete block is recorded, and its side is zeroed. -/
def Obligations.BlockLife : Prop :=
  (∀ (s : State) (core prio part side clk lid b : Nat) (L : Launch) (rec : Task), coreNum core ≠ 24 →
    (s.tarn (coreTarn core)).st = .online → s.coreBusy core = false → s.idleBefore core = false → (s.tarn (coreTarn core)).queueHead = some (prio, clk, lid, b) →
    (s.parts.find? fun p => p.2.tarns.contains (coreTarn core)).map (·.1) = some part → s.launch? part lid = some L →
    s.task? part lid b = some rec → rec.resume = none → (s.core core).freeSide = some side → s.vaShut (coreTarn core) part L.record.code 64 = false →
    let s1 := ((s.updTarn (coreTarn core) fun T => { T with queues := tput T.queues prio ((tget T.queues prio []).drop 1) }).freePlace part
      L.ltarn rec.spilled).updTask part lid b fun x => { x with st := 3 }
    let r := s1.numVa (coreTarn core) part L.record.code 64
    let k := kheadOf r.2
    let s2 := ({ r.1.setBlock r.1.next (freshBlock L rec core side k) with next := r.1.next + 1 }).updCore core fun C =>
      { C with run := some r.1.next, sides := tput C.sides side { owner := some r.1.next } }
    (k.ok = true → exec (.blockDispatch core) s = .next s2) ∧
    (k.ok = false → exec (.blockDispatch core) s = .next (s2.endTask r.1.next 5 (some
      { cause := causeIllegal, detail := 0xD, clause := BitVec.ofNat 64 L.record.code, widx := 0, lane := 0, ea := 0#64 })))) ∧
  (∀ (s : State) (core c : Nat), c < coreNum core → s.coreIdle (coreTarn core * 25 + c) = true →
    (s.core (coreTarn core * 25 + c)).idleAt = (s.core core).idleAt → exec (.blockDispatch core) s = .next s) ∧
  (∀ (L : Launch) (t : Task) (core side : Nat) (k : KHead) (q l : Nat), q < L.record.q → l < 32 → 32 * q + l < L.record.t →
    ∃ Q th, tget? (freshBlock L t core side k).quires q = some Q ∧ tget? Q.threads l = some th ∧ th.live = true ∧ th.wait = .none ∧ th.acq = none ∧
      th.pc = BitVec.ofNat 64 (L.record.code + k.entry) ∧ (∀ n, th.getV n = 0#32) ∧ (∀ n, n < 7 → th.getP n = false) ∧
      (∀ f, th.flag f = 0) ∧ (∀ n, Q.getG n = 0#32) ∧ (∀ n, n < 7 → Q.getGP n = false) ∧ Q.fmask = 0#32 ∧ Q.groups = []) ∧
  (∀ (s : State) (b : Nat) (B : Block) (L : Launch), s.block? b = some B → s.blockComplete b B = true → B.st = .running →
    s.launch? B.part B.lid = some L → s.vaShut L.ltarn L.part L.record.lblk (64 + (L.record.n + 63) / 64 * 8) = false →
    (∀ q ∈ B.quires, q.2.fmask = 0#32) →
    let at_ := (L.record.lblk + 64 + B.bflat / 8) % 2 ^ 64
    let r := s.numVa L.ltarn B.part at_ 1
    exec (.blockCompletion b) s = .next ((L.succ.foldl (fun s u => s.sendDecrements B.part u B.bflat [])
      ((((((r.1.writeVa L.ltarn B.part at_ (leBytes 1 (r.2 ||| 2 ^ (B.bflat % 8)))).writeBlk L 8 4 (L.ndone + 1)).updLaunch B.part B.lid
        fun L => { L with ndone := L.ndone + 1 }).updTask B.part B.lid B.bflat fun t => { t with st := 4, leases := [] }).leaveCore b B)
        )).closeLaunch B.part B.lid)) ∧
  (∀ (s : State) (b st : Nat) (B : Block) (L : Launch), s.block? b = some B → s.blockComplete b B = true → B.st = .ending st → st ≠ 5 →
    s.launch? B.part B.lid = some L → s.vaShut L.ltarn L.part L.record.lblk (64 + (L.record.n + 63) / 64 * 8) = false →
    exec (.blockCompletion b) s = .next (((((s.updTask B.part B.lid B.bflat fun t => { t with st, leases := [] }).countEnd B.part B.lid
      st).leaveCore b B).broke B.part B.lid).closeLaunch B.part B.lid)) ∧
  (∀ (s : State) (core side b : Nat), (tget (s.core core).sides side {}).owner = some b → s.block? b = none →
    ∃ t, exec (.sideDrain core side) s = .next t ∧ tget (t.core core).sides side {} = {} ∧
      (∀ k, k ≠ side → tget (t.core core).sides k {} = tget (s.core core).sides k {}) ∧ (∀ k, k ≠ core → t.core k = s.core k) ∧
      t.mem = s.mem ∧ t.blocks = s.blocks ∧ t.tarns = s.tarns)

/-- R334, R335, R360 to R363: gang acknowledgements, the gang timer and the decision; the deadlock watchdog. -/
def Obligations.GangAndWatchdog : Prop :=
  (∀ (s : State) (p gang mem : Nat) (g mg : Gang), tget? (s.part p).gangs gang = some g →
    tget? (s.part p).gangs (gangKey mem (gang % 65536)) = some mg → gInit g.desc = gang / 65536 → mg.acked = true → mem ∉ g.acks →
    (gMembers g.desc).testBit mem = true →
    let acks := insNat g.acks mem
    let s1 := s.updPart p fun P => { P with gangs := tput P.gangs gang { g with acks } }
    ((∀ m, m < 256 → (gMembers g.desc).testBit m = true → m ∈ acks) →
      exec (.gangAcknowledge p gang mem) s = .next (s1.gangPropose p (gang / 65536) g.desc 1)) ∧
    ((∃ m, m < 256 ∧ (gMembers g.desc).testBit m = true ∧ m ∉ acks) → exec (.gangAcknowledge p gang mem) s = .next s1)) ∧
  (∀ (s : State) (p gang t0 : Nat) (g : Gang), tget? (s.part p).gangs gang = some g → g.timer = some t0 →
    t0 + gTmo g.desc * clkPerUs ≤ s.clk → exec (.gangTimeout p gang) s = .next
      ((s.updPart p fun P => { P with gangs := tput P.gangs gang { g with timer := none } }).gangPropose p (gang / 65536) g.desc 2)) ∧
  (∀ (s : State) (p key : Nat) (g : Gang), tget? (s.part p).gangs key = some g → g.st = 1 → g.prop = [] →
    s.gangDecided p (key / 65536) g.desc ≠ 1 →
    let st := s.gangDecided p (key / 65536) g.desc
    let s1 := s.updPart p fun P => { P with gangs := tput P.gangs key { g with st, timer := none } }
    let mine := ((s.part p).launches.filter fun L =>
      L.2.record.gang != 0 && gangKey (tarnModule L.2.ltarn) L.2.record.gang == key).map (·.1)
    exec (.gangDecision p key) s = .next ((mine.foldl (fun s lid =>
      (if st = 3 then ((s.cancelRecords p lid 0 7).broke p lid) else s).closeLaunch p lid) s1).freeGangs p)) ∧
  (∀ (s : State) (b : Nat) (B : Block), s.block? b = some B → s.clk % clkPerMs = 0 → B.sup = false → (s.part B.part).wdper ≠ 0 →
    (s.running b B = true → s.deadlocked b B = false → exec (.watchdogCheck b) s = .next (s.setBlock b { B with stuck := none })) ∧
    (s.running b B = true → s.deadlocked b B = true → B.stuck = none →
      exec (.watchdogCheck b) s = .next (s.setBlock b { B with stuck := some s.clk })) ∧
    (∀ t0, s.running b B = true → s.deadlocked b B = true → B.stuck = some t0 → t0 + (s.part B.part).wdper * clkPerMs ≤ s.clk →
      exec (.watchdogCheck b) s = .next (s.endTask b 5 (some (s.deadlockReport b B)))) ∧
    (∀ t0, s.running b B = true → s.deadlocked b B = true → B.stuck = some t0 → s.clk < t0 + (s.part B.part).wdper * clkPerMs →
      exec (.watchdogCheck b) s = .next s))

/-! ### The supervisor core -/

/-- R438, R59, R447, R34: at user privilege every privileged instruction raises PRIVILEGE: it ends the task with that cause, and has no
other effect; one whose guard is false only goes on. -/
def Obligations.PrivilegeAtUser : Prop :=
  ∀ (s : State) (c : Ctx), s.ctx? = some c → c.B.sup = false →
    let acts (i : Instr) (p : BitVec 3) (n : Bool) (k : Nat) : Prop :=
      (guardOk c.Q.gp p n = true → exec i s = .next (s.endTask c.b 5 (some
        { cause := 2, detail := 0, clause := c.gr.clause, widx := c.gr.widx, lane := c.members.headD 0, ea := 0#64 }))) ∧
      (guardOk c.Q.gp p n = false → exec i s = .next (s.putQuire c (c.past k c.Q)))
    (∀ o, acts (.eret o) o.p o.n 1) ∧
    ∀ i, i.isPrivileged = true → (∀ o, i ≠ .eret o) → acts i (w2Of i).p ((w2Of i).n && !setsFlag i) 2

/-- R439: the system registers by number: which number reads what, which take a write, and that a write changes no other; SRRD and SRWR
move them; a number that the table does not list is sub-cause 0x7. -/
def Obligations.SystemRegisters : Prop :=
  (∀ (s : State) (c : Ctx) (w : W2), s.ctx? = some c → c.B.sup = true →
    let t := coreTarn c.B.core
    let n := w.x.imm20.toNat
    (c.uniform w.p w.n = [] → Uniform (.srrd w) s c 2 false id ∧ Uniform (.srwr w) s c 2 false id) ∧
    (∀ v, c.uniform w.p w.n ≠ [] → (s.tarn t).sysReg n = some v →
      Uniform (.srrd w) s c 2 true (fun q => q.setGPair w.d.toNat v) ∧
      exec (.srwr w) s = .next ((s.updTarn t fun T => T.setSysReg n (c.Q.getGPair w.a.toNat)).putQuire c (c.past 2 c.Q))) ∧
    (c.uniform w.p w.n ≠ [] → (s.tarn t).sysReg n = none →
      exec (.srrd w) s = .next (s.raise c causeIllegal 7 (c.members.headD 0) 0#64) ∧
      exec (.srwr w) s = .next (s.raise c causeIllegal 7 (c.members.headD 0) 0#64))) ∧
  (∀ (T : Tarn), T.sysReg 0 = some 1#64 ∧ T.sysReg 1 = some T.tvec ∧ T.sysReg 2 = some T.epc ∧ T.sysReg 3 = some T.tcause ∧
    T.sysReg 4 = some T.taddr ∧ T.sysReg 5 = some T.tsrc ∧ T.sysReg 6 = some T.sysret ∧ T.sysReg 7 = some T.root ∧
    T.sysReg 8 = some (if T.wpol then 1#64 else 0#64) ∧
    (T.weir < 8 → T.cap < 8 → T.temp < 256 → T.sysReg 9 = some (BitVec.ofNat 64 (T.weir + 16 * T.cap + 256 * T.temp))) ∧
    (T.hoffMs < 65536 → T.sysReg 10 = some (BitVec.ofNat 64 ((if T.hoffEn then 1 else 0) + 65536 * T.hoffMs))) ∧
    T.sysReg 11 = some (if T.debug then 1#64 else 0#64) ∧ T.sysReg 12 = some (if T.intrap then 1#64 else 0#64) ∧
    ∀ n, 13 ≤ n → T.sysReg n = none) ∧
  (∀ (T : Tarn) (v : BitVec 64),
    (∀ n ∈ [1, 2, 6], (T.setSysReg n v).sysReg n = some v) ∧ (∀ n ∈ [0, 3, 4, 5, 9, 12], T.setSysReg n v = T) ∧
    (T.setSysReg 7 v).root = v &&& ~~~ 0x7FFF#64 ∧ (T.setSysReg 8 v).wpol = v.getLsbD 0 ∧ (T.setSysReg 11 v).debug = v.getLsbD 0 ∧
    (T.setSysReg 10 v).hoffEn = v.getLsbD 0 ∧ (T.setSysReg 10 v).hoffMs = (v.extractLsb' 16 16).toNat ∧
    ∀ n m, m ≠ n → (T.setSysReg n v).sysReg m = T.sysReg m)

/-- R441 to R444: SYSC parks the group behind its release and places its trap; TRAP_ENTRY takes the head of the queue and OWN_TRAP the
core's own; ERET returns; when each of them stalls or is illegal. R442: the handler of a service call acquires what its callers'
releases cover as it takes the trap, and the callers acquire what happens before the handler's return. R441, R443, R444: taking a
trap saves the core's own place in EPC, sets TCAUSE, TADDR, TSRC and INTRAP and enters TVEC, or halts the core when TVEC is 0;
returning from one continues at EPC and gives a SYSC's caller SYSRET in pair G0; nothing else of the tarns, blocks or memory
changes. -/
def Obligations.TrapsAndServiceCalls : Prop :=
  ((∀ (s : State) (c : Ctx) (w : WSysc) (o : W1), s.ctx? = some c →
    let t := coreTarn c.B.core
    let ls := c.uniform w.p w.n
    let cov := s.coversOf c.b c.q c.Q ls
    (ls = [] → exec (.sysc w) s = .next (s.putQuire c (c.past 1 c.Q))) ∧
    (ls ≠ [] → c.B.sup = true → exec (.sysc w) s = .next (s.raise c causeIllegal 0xB (c.members.headD 0) 0#64)) ∧
    (ls ≠ [] → c.B.sup = false → 64 ≤ (s.tarn t).traps.length → exec (.sysc w) s = .next (s.stall c)) ∧
    (ls ≠ [] → c.B.sup = false → (s.tarn t).traps.length < 64 → (∃ i ∈ cov, s.performedAt 4 i = false) →
      exec (.sysc w) s = .next ((s.pushBack 4 cov).stall c)) ∧
    (∀ l, ls.head? = some l → c.B.sup = false → (s.tarn t).traps.length < 64 → (∀ i ∈ cov, s.performedAt 4 i = true) →
      ∃ s', exec (.sysc w) s = .next s' ∧ s'.mem = s.mem ∧
        (s'.tarn t).traps = (s.tarn t).traps ++ [{ kind := 1, ident := identOf c.B c.q l, service := w.service.toNat
                                                   blk := some c.b, caller := some (c.b, c.q, (laneMask ls).toNat) }] ∧
        (∀ k th, k ∈ ls → s.threadAt c.b c.q k = some th → ∃ th', s'.threadAt c.b c.q k = some th' ∧
          th'.pc = c.gr.clause + BitVec.ofNat 64 (4 * (1 + c.gr.words.length)) ∧ th'.wait = .sysc ∧ th'.v = th.v ∧ th'.p = th.p)) ∧
    (c.B.sup = true → c.uniform o.p o.n = [] → exec (.eret o) s = .next (s.putQuire c (c.past 1 c.Q))) ∧
    (c.B.sup = true → c.uniform o.p o.n ≠ [] → (s.tarn t).intrap = false →
      exec (.eret o) s = .next (s.raise c causeIllegal 0xB (c.members.headD 0) 0#64)) ∧
    (c.B.sup = true → c.uniform o.p o.n ≠ [] → (s.tarn t).intrap = true →
      exec (.eret o) s = .next (((s.putQuire c (c.gone 1 (c.uniform o.p o.n) c.Q)).tellCaller t).returnTrap t))) ∧
  (∀ (s : State) (t : Nat) (tr : Trap) (rest : List Trap), (s.tarn t).traps = tr :: rest → (s.tarn t).own = [] →
    ((s.tarn t).intrap = false → s.supFree t = true →
      exec (.trapEntry t) s = .next (((s.updTarn t fun T => { T with traps := rest }).takeTrap t tr).hearCaller t tr)) ∧
    ((s.tarn t).intrap = true ∨ s.supFree t = false → exec (.trapEntry t) s = .next s)) ∧
  (∀ (s : State) (t : Nat) (tr : Trap) (rest : List Trap), (s.tarn t).own = tr :: rest →
    exec (.trapEntry t) s = .next s ∧
    ((s.tarn t).intrap = false → s.supFree t = true → exec (.ownTrap t) s = .next ((s.updTarn t fun T => { T with own := rest }).takeTrap t tr)) ∧
    ((s.tarn t).intrap = true ∨ s.supFree t = false → exec (.ownTrap t) s = .next s))) ∧
  ((∀ (s : State) (t : Nat) (tr : Trap),
    (tr.caller = none → s.hearCaller t tr = s) ∧
    (∀ b q m th, tr.caller = some (b, q, m) → s.threadAt t 0 0 = some th → let s' := s.hearCaller t tr
      ∃ x, s'.threadAt t 0 0 = some { th with synced := x } ∧
        (∀ i, i ∈ x ↔ i ∈ th.synced ∨ ∃ l u, l < 32 ∧ m.testBit l = true ∧ s.threadAt b q l = some u ∧ i ∈ u.fenced) ∧
        (∀ k, k ≠ t → s'.block? k = s.block? k) ∧ s'.tarns = s.tarns ∧ s'.mem = s.mem ∧ s'.ops = s.ops)) ∧
  (∀ (s : State) (t : Nat) (h : Thread), s.threadAt t 0 0 = some h → let s' := s.tellCaller t
    ((s.tarn t).caller = none → s' = s) ∧
    (∀ b q m, (s.tarn t).caller = some (b, q, m) →
      (∀ l th, l < 32 → m.testBit l = true → s.threadAt b q l = some th → th.wait = .sysc →
        s'.threadAt b q l = some { th with synced := addNew th.synced (s.happenBefore t 0 0 h) }) ∧
      (∀ k, k ≠ b → s'.block? k = s.block? k) ∧ s'.tarns = s.tarns ∧ s'.mem = s.mem ∧ s'.ops = s.ops))) ∧
  ((∀ (s : State) (t : Nat) (tr : Trap), let T := s.tarn t
    (T.tvec = 0#64 → s.takeTrap t tr = s.updTarn t fun T => { T with supHalt := true }) ∧
    (∀ th, T.tvec ≠ 0#64 → s.threadAt t 0 0 = some th →
      let s' := s.takeTrap t tr
      s'.tarn t = { T with
        epc := th.pc
        tcause := BitVec.ofNat 64 (tr.cause + 2 ^ 8 * tr.detail + 2 ^ 16 * tr.kind)
        taddr := tr.addr
        tsrc := BitVec.ofNat 64 (tr.ident.toNat + 2 ^ 32 * tr.service)
        intrap := true
        caller := if tr.kind = 1 then tr.caller else none
        behalf := tr.blk
        callG := if tr.kind = 1 then s.callerRegs tr else [] } ∧
      s'.threadAt t 0 0 = some { th with pc := T.tvec, wait := .none } ∧
      (∀ g, g ≠ t → s'.tarn g = s.tarn g) ∧ (∀ b, b ≠ t → s'.block? b = s.block? b) ∧
      s'.cores = s.cores ∧ s'.parts = s.parts ∧ s'.mem = s.mem ∧ s'.tags = s.tags ∧ s'.ops = s.ops)) ∧
  (∀ (s : State) (t : Nat) (th : Thread), s.threadAt t 0 0 = some th → let T := s.tarn t
    let s' := s.returnTrap t
    s'.tarn t = { T with intrap := false, caller := none, behalf := none, callG := [] } ∧ (∀ g, g ≠ t → s'.tarn g = s.tarn g) ∧
    s'.cores = s.cores ∧ s'.parts = s.parts ∧ s'.mem = s.mem ∧ s'.tags = s.tags ∧ s'.ops = s.ops ∧
    (T.caller = none → s'.threadAt t 0 0 = some { th with pc := T.epc } ∧ ∀ b, b ≠ t → s'.block? b = s.block? b) ∧
    (∀ b q m B Q, T.caller = some (b, q, m) → b ≠ t → s.block? b = some B → tget? B.quires q = some Q →
      s'.threadAt t 0 0 = some { th with pc := T.epc } ∧
      ∃ Q', s'.quireAt b q = some Q' ∧ Q'.getGPair 0 = (if 2 ≤ B.gregs then T.sysret else Q.getGPair 0) ∧
        (∀ n, 2 ≤ n → Q'.getG n = Q.getG n) ∧
        ∀ l th, tget? Q.threads l = some th → l < 32 → m.testBit l = true → th.wait = .sysc →
          tget? Q'.threads l = some { th with wait := .none })) ∧
  (∀ (s : State) (b q widx cause detail lane : Nat) (clause ea : BitVec 64) (B : Block), s.block? b = some B →
    (B.sup = false → s.faultAt b q clause widx cause detail lane ea = s.endTask b 5 (some { cause, detail, clause, widx, lane, ea })) ∧
    (B.sup = true → let s' := s.faultAt b q clause widx cause detail lane ea
      ((s.tarn b).intrap = true → s'.tarn b = { s.tarn b with supHalt := true }) ∧
      ((s.tarn b).intrap = false → s'.tarn b = { s.tarn b with own := (s.tarn b).own ++ [{ kind := 8, cause, detail, addr := ea, clause, widx }] }) ∧
      s'.mem = s.mem ∧ s'.ops = s.ops)))

/-! ### The supervisor core's instructions -/

/-- R448, R454, R455, R457, R460, R462, R473, R474, R476: which supervisor instructions act as they issue with a code in G(D), and which
enter an operation, with what it holds. R449, R453, R454, R460: the supervisor instructions that finish as they issue, with their
answers and their effects; R475: POISON answers a code other than 0 at once, and otherwise enters its work on the lines, for which
its group waits; a false guard only goes on. -/
def Obligations.SupervisorInstructions : Prop :=
  (∀ (s : State) (c : Ctx) (w : W2), s.ctx? = some c → c.B.sup = true → c.uniform w.p false ≠ [] →
    let t := coreTarn c.B.core
    let p := s.partOf c.B
    let ls := c.uniform w.p false
    let l := ls.headD 0
    let a := (c.Q.getG w.a.toNat).toNat
    let x := c.Q.getGPair w.a.toNat
    let y := c.Q.getGPair w.b.toNat
    let z := c.Q.getGPair w.x.c.toNat
    let n := opBG c.Q w false w.x.imm20.toNat
    let op (k : OpKind) (i : Instr) (n m : Nat) (e : List Elem) : Op :=
      { kind := k, ins := i, blk := c.b, q := c.q,
        place := c.B.core * 32 + c.q, code := c.gr.words, sets := (c.gr.sfa, c.gr.sfb), yld := c.gr.yld,
        lanes := laneMask ls, flag := if w.n then c.gr.sfb else c.gr.sfa
        clause := c.gr.clause, widx := c.gr.widx, holdG := [w.d.toNat], n := n, m := m, elems := e }
    let arg (k : Nat) (v u : BitVec 64) : Elem := { lane := 0, va := v, pa := 0, size := k, x := u }
    let answers (i : Instr) (k : Nat) : Prop :=
      exec i s = .next (s.putQuire c (c.past 2 (c.Q.setG w.d.toNat (BitVec.ofNat 32 k))))
    let line (k : OpKind) (i : Instr) (pa n dst code : Nat) : Op := { op k i 0 0 [{ lane := 0, va := BitVec.ofNat 64 pa, pa := 0, size := 0
                                                                                    x := BitVec.ofNat 64 n, c := BitVec.ofNat 64 dst
                                                                                    r := BitVec.ofNat 64 code }] with
                                                                  holdG := [w.d.toNat, w.d.toNat + 1] }
    let code1 (a : Nat) : Nat := s.runCode p a 1 65536 1
    let mv : Nat := if code1 x.toNat = 1 ∨ code1 z.toNat = 1 then 1 else if code1 x.toNat = 2 ∨ code1 z.toNat = 2 then 2
      else if x.toNat = z.toNat then 3 else 0
    let target := tarnModule t * 12 + a
    (y.toNat % 65536 ≠ 0 → exec (.ctxstop w) s = .next (s.raise c causeMisaligned 0 l y)) ∧
    (y.toNat % 65536 = 0 →
      ((24 ≤ a ∨ (s.core (t * 25 + a)).run = none) → answers (.ctxstop w) 1) ∧
      (∀ b B, a < 24 → (s.core (t * 25 + a)).run = some b → s.block? b = some B → B.st ≠ .running → B.st ≠ .debug → answers (.ctxstop w) 2) ∧
      (∀ b B, a < 24 → (s.core (t * 25 + a)).run = some b → s.block? b = some B → (B.st = .running ∨ B.st = .debug) → b ≠ c.b →
        exec (.ctxstop w) s = .next (Issued (s.setBlock b { B with st := .stopping y (w.x.sub.getLsbD 0) }) c 2
          (op .ctxstop (.ctxstop w) b 0 [])))) ∧
    (let r := s.revoke t p x.toNat n
     exec (.lrev w) s = .next (r.1.issueStep c 2
       (op .lrev (.lrev w) r.2.2.2 0 (r.2.1.map (fun g => { lane := 0, va := 0#64, pa := g, size := 0 }) ++
         r.2.2.1.map fun b => { lane := 0, va := 0#64, pa := b, size := 1 })))) ∧
    ((12 ≤ a ∨ target = t ∨ s.ringFolded (tarnModule t) = true ∨ (s.part p).tarns.contains target = false) → answers (.twrst w) 1) ∧
    (a < 12 → target ≠ t → s.ringFolded (tarnModule t) = false → (s.part p).tarns.contains target = true →
      exec (.twrst w) s = .next (((s.stopTarn target).updTarn target fun T => { T with st := .leaving }).issueStep c 2
        (op .twrst (.twrst w) target 0 [arg 0 0#64 y]))) ∧
    (w.x.isImm = false → w.x.sub.getLsbD 0 = true → exec (.keyld w) s = .next (Issued s c 2 (op .keyld (.keyld w) n 1 [arg 96 x 0#64]))) ∧
    ((w.x.isImm = true ∨ w.x.sub.getLsbD 0 = false) → Granted s c [l] (fun _ => x) 96 32 false noCell →
      exec (.keyld w) s = .next (Issued (LookedUp s c [l] (fun _ => x) 96) c 2 (op .keyld (.keyld w) n 0 [arg 96 x 0#64]))) ∧
    exec (.scrub w) s = .next (Issued s c 2 (line .scrub (.scrub w) x.toNat n 0 (s.runCode p x.toNat n 65536 4096))) ∧
    (mv ≠ 0 → exec (.tiermv w) s = .next (Issued s c 2 (line .tiermv (.tiermv w) x.toNat 1 z.toNat mv))) ∧
    (mv = 0 → exec (.tiermv w) s = .next (({ s.dropGranule (z.toNat / 65536) with moves := s.moves ++ [(x.toNat / 65536, z.toNat / 65536, 0)] }
      : State).issueStep c 2 (line .tiermv (.tiermv w) x.toNat 1 z.toNat 0))) ∧
    exec (.retire w) s = .next (Issued s c 2 (op .retire (.retire w) a n []))) ∧
  (∀ (s : State) (c : Ctx) (w : W2), s.ctx? = some c → c.B.sup = true →
    let t := coreTarn c.B.core
    let T := s.tarn t
    let p := s.partOf c.B
    let ls := c.uniform w.p w.n
    let n := opBG c.Q w false w.x.imm20.toNat
    let x := c.Q.getGPair w.a.toNat
    let P := tget T.planes (n % 4) {}
    let sub : Nat := if w.x.isImm then tyOf w % 4 else w.x.sub.toNat % 4
    let k (v : Nat) (Q : Quire) : Quire := c.past 2 (Q.setG w.d.toNat (BitVec.ofNat 32 v))
    let answers (i : Instr) (s' : State) (v : Nat) : Prop := exec i s = .next (s'.putQuire c (k v c.Q))
    let illegal (i : Instr) (k : Nat) : Prop := exec i s = .next (s.raise c causeIllegal k (c.members.headD 0) 0#64)
    let plane (f : Plane → Plane) : State := s.updTarn t fun T => { T with planes := tput T.planes (n % 4) (f P) }
    (ls = [] → ∀ i ∈ [Instr.ctxgo w, .tlbinv w, .wcap w, .triq w, .trirs w, .poison w], Uniform i s c 2 false id) ∧
    (ls ≠ [] →
      (8 ≤ n → illegal (.wcap w) 6) ∧ (n < 8 → answers (.wcap w) (s.updTarn t fun T => { T with cap := n }) T.cap) ∧
      (n / 32 % 2 ^ 15 ≠ 0 → illegal (.triq w) 6) ∧
      (n / 32 % 2 ^ 15 = 0 → Uniform (.triq w) s c 2 true fun q => q.setGPair w.d.toNat (BitVec.ofNat 64 (P.counter (n / 4 % 8)))) ∧
      (sub = 1 → answers (.trirs w) (plane fun P => { P with cnt := [0, 0, 0, 0] }) 0) ∧
      (sub ≠ 1 → P.mode = 2 → answers (.trirs w) s 1) ∧
      (sub ≠ 1 → P.mode ≠ 2 →
        answers (.trirs w) (plane fun P => { P with mode := 1, syncing := P.syncing ++ [some (n / 32 % 4)] }) 0) ∧
      (24 ≤ (c.Q.getG w.a.toNat).toNat → answers (.ctxgo w) s 1) ∧
      ((c.Q.getG w.a.toNat).toNat < 24 → let r := s.resume (t * 25 + (c.Q.getG w.a.toNat).toNat) p (c.Q.getGPair w.b.toNat)
        (r.2 = none → exec (.ctxgo w) s = .next (r.1.stall c)) ∧
        (∀ v, r.2 = some v → exec (.ctxgo w) s = .next (r.1.replyG c w.d v))) ∧
      (let line : Bool := !w.x.isImm && w.x.sub.getLsbD 0
       let code := if line then s.runCode p x.toNat n 64 1024 else s.runCode p x.toNat n 65536 4096
       (code ≠ 0 → answers (.poison w) s code) ∧
       let o : Op := { c.op .poison (.poison w) (laneMask ls) 15 with
         holdG := [w.d.toNat]
         elems := [{ lane := 0, va := x, pa := 0, size := 0, x := BitVec.ofNat 64 (if line then n else 1024 * n) }] }
       (code = 0 → exec (.poison w) s = .next (((s.issueOp o).advance c 2).mapLanes c.b c.q c.members fun _ th => { th with wait := .work s.next }))) ∧
      (let sc : Nat := if w.x.isImm then tyOf w % 8 else w.x.scope.toNat
       let gone (e : Xlat) : Bool := e.part == p && (w.x.tlbAll || e.meets x.toNat n)
       let named (core : Nat) : Prop := if sc = 2 then core = c.B.core else coreTarn core ∈ (if sc = 5 then (s.part p).tarns else [t])
       ∃ s', exec (.tlbinv w) s = .next s' ∧ s'.mem = s.mem ∧
         (∀ core, named core → (s'.core core).tlb = (s.core core).tlb.filter fun e => !gone e) ∧
         (∀ core, ¬named core → (s'.core core).tlb = (s.core core).tlb) ∧
         (∀ g ∈ (if sc = 5 then (s.part p).tarns else [t]), (s'.tarn g).tcache = []) ∧
         (w.x.tlbCell = false → ∀ g, (s'.tarn g).dec = (s.tarn g).dec))))

/-! ### System events -/

/-- R193, R342, R365, R448, R449, R451: a save begins, with STATUS 0 in its area, when no thread is parked at SYSC and nothing that
cannot be captured is under way, and ends once its RESUME record has a place: the threads are captured, the context is stopped with
its save area, its core is free, CTXSTOP's flag goes down, and a RESUME record stands at its tarn where `.rq` asked for it; until
then nothing happens. R456: when the limit in HOFF is over, or HOFF[0] is 0, a held thread's task ends with HOME-OFFLINE; before
that nothing happens. -/
def Obligations.ContextSavedOrHeld : Prop :=
  (∀ (s : State) (b : Nat) (B : Block) (a : BitVec 64) (rq : Bool), s.block? b = some B → B.st = .stopping a rq →
    let dbg : Bool := B.quires.any fun q => q.2.threads.any fun t => t.2.wait == Wait.bkpt
    let shut := s.vaShut (coreTarn B.core) B.part a.toNat saveBytes
    let mmaq := (match B.mq.find? fun m => !m.isLoad with | some m => m.unmatched && s.mayStart B m | none => false)
    let place : Bool := !rq || dbg || s.hasPlace (coreTarn B.core) B.part
    ((B.atSysc = true ∨ (s.drained b B = false ∧ mmaq = false) ∨
      (s.drained b B = true ∧ (shut = true ∨ (B.writing = true ∧ place = false)))) → exec (.saveAreaComplete b) s = .next s) ∧
    (B.atSysc = false → s.drained b B = true → shut = false → B.writing = false →
      exec (.saveAreaComplete b) s = .next (s.openSaveArea b B a)) ∧
    (B.atSysc = false → s.drained b B = false → mmaq = true → exec (.saveAreaComplete b) s = .next ((s.captureAll b).withdrawMmaq b)) ∧
    (B.atSysc = false → s.drained b B = true → shut = false → B.writing = true → place = true → ∃ t, exec (.saveAreaComplete b) s = .next t ∧
      let s1 := ((s.captureAll b).withdrawMmaq b).updBlock b fun B => { B with st := .saved a rq, writing := false }
      let s2 := match s1.block? b with | some B => s1.writeContext b B a | none => s1
      let s3 := s2.updCore B.core fun C => { C with run := if C.run = some b then none else C.run, waiting := C.waiting.filter (· != b) }
      let s4 := if rq = true ∧ dbg = false then s3.placeResume B a else s3
      t = s4.ops.foldl (fun s x => if x.2.kind == .ctxstop && x.2.n == b then s.finishG x.1 x.2 0 else s) s4)) ∧
  (∀ (s : State) (b q gid : Nat) (B : Block) (Q : Quire) (g : Group), s.block? b = some B → tget? B.quires q = some Q →
    tget? Q.groups gid = some g →
    let T := s.tarn (coreTarn B.core)
    let late (l : Nat) : Option (Nat × BitVec 64) := match (tget Q.threads l {}).wait with
      | .offline since _ ea => if T.hoffEn = false ∨ since + T.hoffMs * 2500000 ≤ s.clk then some (l, ea) else none
      | _ => none
    ((laneList g.lanes).findSome? late = none → exec (.hoffLimitExpiry b q gid) s = .next s) ∧
    (∀ l ea, (laneList g.lanes).findSome? late = some (l, ea) → B.sup = false → exec (.hoffLimitExpiry b q gid) s =
      .next (s.endTask b 5 (some { cause := 13, detail := 0, clause := g.clause, widx := g.widx, lane := l, ea := ea }))))

/-- R452, R453, R459, R460: the control triad's events and the weir's steps; a resynchronisation that TRIRS asked for counts as a
dissent of its copy when it completes. -/
def Obligations.TriadAndWeir : Prop :=
  (∀ (s : State) (t k copy : Nat), let p := tget (s.tarn t).planes k {}
    let put (p' : Plane) : State := s.updTarn t fun T => { T with planes := tput T.planes k p' }
    let up (p : Plane) (i : Nat) : Plane := { p with cnt := p.cnt.set i ((p.cnt.getD i 0 + 1) % 2 ^ 64) }
    let seen : Plane := { up p 0 with last := copy, when_ := tput p.when_ copy s.clk }
    let lasting : Prop := ∃ x, tget? p.when_ copy = some x ∧ s.clk ≤ x + 2500000000
    (p.mode = 0 → ¬lasting → exec (.triadDissent t k copy) s = .next (put { seen with mode := 1, syncing := [none] })) ∧
    (p.mode = 0 → lasting → exec (.triadDissent t k copy) s =
      .next ((put { up seen 3 with mode := 2 }).postTrap t { kind := 4, detail := k })) ∧
    (p.mode = 2 → exec (.triadDissent t k copy) s = .next (put (up p 2)) ∧
      exec (.duplexMismatch t k false) s = .next (put (up p 2)) ∧
      ((s.tarn t).st = .online → exec (.duplexMismatch t k true) s = .next (s.haltTarn t))) ∧
    (p.mode = 1 → (p.syncing = [] ∨ p.syncing = [none]) →
      exec (.triadResyncComplete t k) s = .next (put { up p 1 with mode := 0, syncing := [] })) ∧
    (∀ c r, p.mode = 1 → p.syncing = some c :: r → exec (.triadResyncComplete t k) s =
      .next (put { up (up p 1) 0 with last := c, mode := if r = [] then 0 else 1, syncing := r })) ∧
    (p.mode ≠ 1 → exec (.triadResyncComplete t k) s = .next s) ∧ (p.mode = 0 → ∀ r, exec (.duplexMismatch t k r) s = .next s) ∧
    (p.mode = 1 → exec (.duplexMismatch t k false) s = .next (put (up p 2)) ∧
      (p.resyncing ≠ some copy → exec (.triadDissent t k copy) s = .next (put (up p 2))) ∧
      (p.resyncing = some copy → exec (.triadDissent t k copy) s = .next s))) ∧
  (∀ (s : State) (t : Nat) (up : Bool), let T := s.tarn t
    (s.modClk (tarnModule t) % 8 = 0 →
      exec (.weirStep t up) s = .next (s.updTarn t fun T => { T with weir := weirStep T.wpol T.weir T.cap up })) ∧
    (s.modClk (tarnModule t) % 8 ≠ 0 → exec (.weirStep t up) s = .next s) ∧
    (let l : List Nat := if T.wpol then [0, 1, 2, 5, 6, 7] else [0, 3, 4, 6, 7]
     ∀ i, l[i]? = some T.weir →
       (∀ v, l[i + 1]? = some v → weirStep T.wpol T.weir T.cap true = v) ∧ (l[i + 1]? = none → weirStep T.wpol T.weir T.cap true = T.weir) ∧
       (∀ v, T.cap = 0 → 0 < i → l[i - 1]? = some v → weirStep T.wpol T.weir T.cap false = v) ∧
       (T.cap = T.weir → weirStep T.wpol T.weir T.cap false = T.weir) ∧
       (∀ j v, l[j]? = some T.cap → i < j → l[i + 1]? = some v → weirStep T.wpol T.weir T.cap up = v))) ∧
  (∀ k, dutyCycle 0 k = true ∧ dutyCycle 3 k = true ∧ (dutyCycle 1 k = true ↔ k % 8 ≠ 7) ∧ (dutyCycle 2 k = true ↔ k % 4 ≠ 3) ∧
    (dutyCycle 4 k = true ↔ k % 4 ≠ 3) ∧ (dutyCycle 5 k = true ↔ k % 2 = 0) ∧ (dutyCycle 6 k = true ↔ k % 2 = 0) ∧
    (dutyCycle 7 k = true ↔ k % 4 = 0))

/-- R274, R275, R443, R456, R457, R460, R461: a tarn that is too hot ends its tasks with THERMAL and leaves the ring; a readmitted tarn
is on the ring, gives TWRST its result, and lets what was held for it go; a module reset leaves every part of the module as reset. -/
def Obligations.RingAndReset : Prop :=
  (∀ (s : State) (t : Nat), (s.tarn t).st = .online →
    ∃ s', exec (.dramThermalHalt t) s = .next s' ∧ (s'.tarn t).st = .leaving ∧ (s'.tarn t).temp = 105 ∧
      ∀ b B, s.block? b = some B → coreTarn B.core = t → B.sup = false → B.st = .running →
        ∀ B', s'.block? b = some B' → B'.st = .ending 5 ∧ ∃ r, B'.report = some r ∧ (B.report = none → r.cause = 23)) ∧
  (∀ (s : State) (t : Nat), (s.tarn t).st ≠ .online → exec (.dramThermalHalt t) s = .next s) ∧
  (∀ (s : State) (t : Nat), (s.tarn t).st = .folded →
    (∀ id o, (id, o) ∈ s.ops → o.kind = .twrst → o.n = t → o.m ≠ 1) → (s.tarn t).temp < 95 →
    (∀ u, u < 12 → (s.tarn (tarnModule t * 12 + u)).st ≠ .forwarding) →
    let r : State := { s with free := s.free + 2 }
    exec (.tarnReadmission t) s = .next (if Config.retrainOk s.free then r.readmit t else r)) ∧
  (∀ (s : State) (t b q l since : Nat) (ea : BitVec 64) (th : Thread), s.threadAt b q l = some th → th.wait = .offline since t ea →
    ((s.readmit t).tarn t).st = .online ∧ (s.readmit t).threadAt b q l = some { th with wait := .none }) ∧
  (∀ (s : State) (t : Nat), (s.tarn t).st = .forwarding → (s.tarn t).temp < 95 →
    exec (.tarnReadmission t) s = .next (s.updTarn t fun T => { T with cleared := true })) ∧
  (∀ (T : Tarn), let r := T.afterReset
    r.tvec = 0#64 ∧ r.weir = 0 ∧ r.cap = 0 ∧ r.wpol = false ∧ r.slices = [] ∧ r.spans = [] ∧ r.mySpans = [] ∧ r.supHalt = false ∧
      r.intrap = false ∧ r.hoffEn = true ∧ r.hoffMs = 100 ∧ r.debug = false) ∧
  (∀ (s : State) (m : Nat), ∃ s', exec (.moduleReset m) s = .next s' ∧ s'.modClk m = 0 ∧
    (∀ t, tarnModule t = m → s'.tarn t = {}) ∧ (∀ t, tarnModule t ≠ m → s'.tarn t = s.tarn t) ∧
    (∀ k, tarnModule (coreTarn k) = m → s'.core k = {}) ∧ (∀ k, tarnModule (coreTarn k) ≠ m → s'.core k = s.core k) ∧
    (∀ a, paModule a ≠ m → cellGet s'.mem a = cellGet s.mem a) ∧ s'.host = s.host)

/-! ### The host -/

/-- R6, R479 to R481: what the host's window and registers do: a launch record is taken or dropped and counted, a read answers what a
register holds, 0 for the write-only window, and clears the count, and writes of the registers take effect unless the interface is
locked. R275, R482, R483: the states of TDISP, entry to ERROR, and the SPDM steps of a partition; a session key is established only
by a FINISH that authenticates, after KEY_EXCHANGE, after the algorithms are agreed. -/
def Obligations.HostAndTrust : Prop :=
  ((∀ (s : State) (p : Nat) (r : BitVec 512) (whole : Bool), let P := s.part (p % 16)
    (∀ g ∈ P.tarns, tarnModule g = p / 16 → whole = true → P.tdisp = .run → exec (.lwin p r whole) s =
      .next { s with
        next := s.next + 1
        ops := tput s.ops s.next { kind := .launch, ins := .lwin p r whole, blk := s.next, q := 0, lanes := 0#32 } }) ∧
    ((whole = false ∨ P.tdisp ≠ .run ∨ ∀ g ∈ P.tarns, tarnModule g ≠ p / 16) → exec (.lwin p r whole) s =
      .next (s.updPart (p % 16) fun P => { P with lwdrop := (P.lwdrop + 1) % 2 ^ 64 }))) ∧
  (∀ (s : State) (p off : Nat), p < 16 → let P := s.part p
    exec (.lwdropRead p) s = exec (.lwdropRead (p + 16 * 0x41)) s ∧
    let reads (v : Nat) (P' : Part) : Prop := exec (.lwdropRead (p + 16 * (off + 1))) s =
      .next { s.updPart p fun _ => P' with hostRead := (p * 2 ^ 40 + off, v) :: s.hostRead, free := s.free + 1 }
    (off = 0x40 → reads P.lwdrop { P with lwdrop := 0 }) ∧ (off < 0x40 → reads 0 P) ∧ (off = 0x48 → reads P.xwtmo P) ∧
    (off = 0x50 → reads P.wdper P) ∧ (off = 0x58 → reads P.ovfbase.toNat P) ∧ (off = 0x60 → reads P.ovfsize.toNat P) ∧
    (off = 0x68 → reads P.shbase.toNat P) ∧ (off = 0x70 → reads P.shsize.toNat P) ∧ (off = 0x78 → reads P.hwbase.toNat P)) ∧
  (∀ (s : State) (p off : Nat) (v : BitVec 64), let P := s.part p
    let frozen : Prop := P.tdisp = .locked ∨ P.tdisp = .run
    let sets (P' : Part) : Prop := exec (.bar0RegisterWrite p off v) s = .next { s.updPart p fun _ => P' with free := s.free + 1 }
    (frozen → off ≠ 0x48 → off ≠ 0x50 → exec (.bar0RegisterWrite p off v) s = .next s) ∧
    (off = 0x48 → sets { P with xwtmo := v.toNat }) ∧ (off = 0x50 → v.toNat < 65536 → sets { P with wdper := v.toNat }) ∧
    (¬frozen → (off = 0x60 → sets { P with ovfsize := v }) ∧ (off = 0x70 → sets { P with shsize := v }) ∧
      (v.toNat % 65536 = 0 → (off = 0x58 → sets { P with ovfbase := v }) ∧ (off = 0x68 → sets { P with shbase := v }) ∧
        (off = 0x78 → sets { P with hwbase := v })))) ∧
  (∀ (s : State) (p off n : Nat) (d : BitVec 512) (t : Nat) (ts : List Nat) (x : Xlat), (s.part p).tarns = t :: ts →
    let va : Nat := ((s.part p).hwbase.toNat + off) % 2 ^ 64
    let pa : Nat := x.pa va
    1 ≤ n → va % 64 + n ≤ 64 → off + n ≤ 2 ^ 36 → pieces va n = [(va, n)] → (s.walk t p va).2 = .ok x → pa % 64 + n ≤ 64 →
    inHost pa = false → s.homeOffline pa = false → s.isPoisoned (lineOf pa) = false → s.dramHeld (lineOf pa) = false →
    (x.permits true true false va = true → exec (.bar2Access p off n true d) s = .next (s.writeVa t p va (leBytes n d.toNat))) ∧
    (x.permits true false false va = true → ∀ bs s', s.readVa t p va n = (s', some bs) →
      exec (.bar2Access p off n false d) s = .next { s' with hostRead := (p * 2 ^ 40 + 2 * 2 ^ 36 + off, leNat bs) :: s'.hostRead }))) ∧
  ((∀ (s : State) (p k : Nat), let goes (x : Tdisp) : Prop := exec (.tdispStateTransition p k) s = .next (s.updPart p fun P => { P with tdisp := x })
    (k = 0 → goes .unlocked) ∧ (k = 1 → (s.part p).tdisp = .unlocked → goes .locked) ∧ (k = 2 → (s.part p).tdisp = .locked → goes .run) ∧
    (k = 2 → (s.part p).tdisp = .unlocked → goes .unlocked)) ∧
  (∀ (s : State) (p : Nat), ∃ t, exec (.tdispError p) s = .next t ∧ (t.part p).tdisp = .error ∧ t.mem = s.mem ∧
    (∀ k x, tget? t.keys k = some x → x.part ≠ p) ∧
    ∀ g c b B, g ∈ (s.part p).tarns → c < 24 → (s.core (g * 25 + c)).run = some b → s.block? b = some B → B.st = .running →
      ∃ B' a, t.block? b = some B' ∧ B'.st = .stopping a true) ∧
  (∀ (s : State) (t : Nat), ((s.tarn t).st = .forwarding → exec (.forwardingStopFailure t) s = .next
      (((s.parts.filter fun p => p.2.tarns.any fun g => tarnModule g == tarnModule t).map (·.1)).foldl (fun s p => s.tdispError p) s)) ∧
    ((s.tarn t).st ≠ .forwarding → exec (.forwardingStopFailure t) s = .next s)) ∧
  (∀ (s : State) (p x : Nat), let P := s.part p
    let answers (i : Instr) (req arg : Nat) (P' : Part) : Prop := exec i s = .next (({ s with
      hostRead := (p * 2 ^ 40 + 2 ^ 36 + req, Config.spdmResponse p req arg s.free) :: s.hostRead, free := s.free + 1 } : State).updPart p
        fun _ => P')
    answers (.getVersion p) 1 0 { P with spdm := 1, session := none } ∧
    answers (.getCapabilities p) 2 0 (if P.spdm = 1 then { P with spdm := 2 } else P) ∧
    answers (.negotiateAlgorithms p) 3 0 (if P.spdm = 2 then { P with spdm := 3 } else P) ∧
    answers (.getDigests p) 4 0 P ∧ answers (.getCertificate p) 5 0 P ∧ answers (.challenge p x) 6 x P ∧
    answers (.getMeasurements p x) 7 x P ∧
    answers (.keyExchange p x) 8 x (if 3 ≤ P.spdm then { P with spdm := 4, session := none } else P) ∧
    answers (.finish p x) 9 x (if P.spdm = 4 then { P with spdm := 3, session := if Config.finishOk p x then some s.free else none } else P)))
end

