-- ==== Sys2Proof/Laws/Tables.lean ====
section
/-! SUPPORT. Sparse tables, register files and memories of cells: a read after a write, and the canonical form. -/

namespace Sys2Proof.Machine

variable {α : Type}

/-- What a table answers after an entry was listed: that entry under its number, and under every other what it answered. -/
theorem tget?_tput (k : Nat) (v : α) (j : Nat) : ∀ t : Tab α, tget? (tput t k v) j = if j = k then some v else tget? t j
  | [] => by simp [tput, tget?, eq_comm]
  | (i, a) :: t => by
    have step := tget?_tput k v j t
    by_cases hk : k < i
    · simp only [tput, if_pos hk, tget?, eq_comm]
    · by_cases hi : k = i
      · subst hi; by_cases h : j = k
        · simp [tput, tget?, h]
        · simp [tput, tget?, h, Ne.symm h]
      · simp only [tput, if_neg hk, if_neg hi, tget?, step]
        by_cases h : i = j
        · subst h; simp [Ne.symm hi]
        · simp [h]

/-- What a table answers after an entry was unlisted. -/
theorem tget?_tdel (k j : Nat) : ∀ t : Tab α, tget? (tdel t k) j = if j = k then none else tget? t j
  | [] => by simp [tdel, tget?]
  | (i, a) :: t => by
    have step := tget?_tdel k j t
    unfold tdel at step ⊢
    by_cases hi : i = k
    · subst hi
      by_cases h : j = i
      · simp [h] at step ⊢; exact step
      · simp [tget?, h, Ne.symm h] at step ⊢; exact step
    · by_cases h : i = j
      · subst h; simp [tget?, hi]
      · simp [tget?, hi, h, step]

@[simp] theorem tget?_tput_self (t : Tab α) (k : Nat) (v : α) : tget? (tput t k v) k = some v := by rw [tget?_tput, if_pos rfl]

theorem tget?_tput_ne (t : Tab α) {k j : Nat} (v : α) (h : j ≠ k) : tget? (tput t k v) j = tget? t j := by
  rw [tget?_tput, if_neg h]

@[simp] theorem tget?_tdel_self (t : Tab α) (k : Nat) : tget? (tdel t k) k = none := by rw [tget?_tdel, if_pos rfl]

theorem tget?_tdel_ne (t : Tab α) {k j : Nat} (h : j ≠ k) : tget? (tdel t k) j = tget? t j := by rw [tget?_tdel, if_neg h]

@[simp] theorem tput_tput (k : Nat) (v w : α) : ∀ t : Tab α, tput (tput t k v) k w = tput t k w
  | [] => by simp [tput]
  | (i, a) :: t => by
    have step := tput_tput k v w t
    by_cases hk : k < i
    · simp [tput, hk]
    · by_cases hi : k = i <;> simp [tput, hk, hi, step]

@[simp] theorem tget_tput_self (t : Tab α) (k : Nat) (v d : α) : tget (tput t k v) k d = v := by simp [tget]
theorem tget_tput_ne (t : Tab α) {k j : Nat} (v d : α) (h : j ≠ k) : tget (tput t k v) j d = tget t j d := by
  simp [tget, tget?_tput_ne t v h]

@[simp] theorem regGet_regPut_self (r : Tab Word) (n : Nat) (v : Word) : regGet (regPut r n v) n = v := by
  unfold regGet regPut tget
  split
  · simp [*]
  · simp
theorem regGet_regPut_ne (r : Tab Word) {n m : Nat} (v : Word) (h : m ≠ n) : regGet (regPut r n v) m = regGet r m := by
  unfold regGet regPut tget
  split
  · rw [tget?_tdel_ne r h]
  · rw [tget?_tput_ne r v h]

@[simp] theorem cellGet_cellPut_self (m : List Host.Cell) (a : Nat) (b : Byte) : cellGet (cellPut m a b) a = b := by
  unfold cellGet cellPut tget
  split
  · simp [*]
  · simp
theorem cellGet_cellPut_ne (m : List Host.Cell) {a c : Nat} (b : Byte) (h : c ≠ a) :
    cellGet (cellPut m a b) c = cellGet m c := by
  unfold cellGet cellPut tget
  split
  · rw [tget?_tdel_ne m h]
  · rw [tget?_tput_ne m b h]

/-! ### The canonical form -/

/-- The canonical form, said of all pairs of entries at once. -/
theorem Memory.wf_iff : ∀ m : List Host.Cell,
    Memory.wf m = true ↔ m.Pairwise (fun x y => x.1 < y.1) ∧ ∀ e ∈ m, e.2 ≠ 0#8
  | [] => by simp [Memory.wf]
  | [e] => by simp [Memory.wf]
  | (a, b) :: (a', b') :: m => by
    have step := Memory.wf_iff ((a', b') :: m)
    rw [Memory.wf, Bool.and_eq_true, Bool.and_eq_true, step, decide_eq_true_eq, bne_iff_ne, List.pairwise_cons (a := (a, b))]
    constructor
    · intro ⟨⟨hb, ha⟩, hp, hz⟩
      exact ⟨⟨List.forall_mem_cons.2 ⟨ha, fun x hx => Nat.lt_trans ha ((List.pairwise_cons.1 hp).1 x hx)⟩, hp⟩,
        List.forall_mem_cons.2 ⟨hb, hz⟩⟩
    · intro ⟨⟨ha, hp⟩, hz⟩
      exact ⟨⟨(List.forall_mem_cons.1 hz).1, ha _ List.mem_cons_self⟩, hp, (List.forall_mem_cons.1 hz).2⟩

/-- Listing an entry adds that entry and no other. -/
theorem mem_tput {k : Nat} {v : α} {e : Nat × α} : ∀ {t : Tab α}, e ∈ tput t k v → e = (k, v) ∨ e ∈ t
  | [], h => .inl (by simpa [tput] using h)
  | (i, a) :: t, h => by
    by_cases hk : k < i
    · rw [tput, if_pos hk] at h; exact List.mem_cons.1 h
    · by_cases hi : k = i
      · rw [tput, if_neg hk, if_pos hi] at h
        exact (List.mem_cons.1 h).imp_right (List.mem_cons_of_mem _)
      · rw [tput, if_neg hk, if_neg hi] at h
        rcases List.mem_cons.1 h with h | h
        · exact .inr (h ▸ List.mem_cons_self)
        · exact (mem_tput h).imp_right (List.mem_cons_of_mem _)

/-- A table whose numbers rise strictly still does after an entry was listed. -/
theorem tput_rising (k : Nat) (v : α) : ∀ {t : Tab α}, (t.Pairwise fun x y => x.1 < y.1) →
    (tput t k v).Pairwise fun x y => x.1 < y.1
  | [], _ => List.pairwise_singleton _ _
  | (i, a) :: t, h => by
    have hi := (List.pairwise_cons.1 h).1
    by_cases hk : k < i
    · rw [tput, if_pos hk]
      exact List.pairwise_cons.2 ⟨List.forall_mem_cons.2 ⟨hk, fun x hx => Nat.lt_trans hk (hi x hx)⟩, h⟩
    · by_cases he : k = i
      · rw [tput, if_neg hk, if_pos he]
        exact List.pairwise_cons.2 ⟨fun x hx => he ▸ hi x hx, (List.pairwise_cons.1 h).2⟩
      · rw [tput, if_neg hk, if_neg he]
        refine List.pairwise_cons.2 ⟨fun x hx => ?_, tput_rising k v (List.pairwise_cons.1 h).2⟩
        rcases mem_tput hx with hx | hx
        · rw [hx]; exact Nat.lt_of_le_of_ne (Nat.le_of_not_lt hk) (Ne.symm he)
        · exact hi x hx

/-- A write of one byte keeps the canonical form. -/
theorem cellPut_wf {m : List Host.Cell} (a : Nat) (b : Byte) (h : Memory.wf m = true) : Memory.wf (cellPut m a b) = true := by
  rw [Memory.wf_iff] at h ⊢
  unfold cellPut
  split
  · exact ⟨List.Pairwise.filter _ h.1, fun e he => h.2 e (List.mem_filter.1 he).1⟩
  · rename_i hb
    refine ⟨tput_rising a b h.1, fun e he => ?_⟩
    rcases mem_tput he with rfl | he
    · exact hb
    · exact h.2 e he

/-- A store of a number keeps the canonical form. -/
theorem writeLE_wf {m : List Host.Cell} (a n v : Nat) (h : Memory.wf m = true) : Memory.wf (writeLE m a n v) = true := by
  induction n generalizing m a v with
  | zero => exact h
  | succ n ih => exact ih _ _ (cellPut_wf _ _ h)

/-- A store of a list of bytes keeps the canonical form. -/
theorem writeBytes_wf {m : List Host.Cell} (a : Nat) (bs : List Byte) (h : Memory.wf m = true) :
    Memory.wf (writeBytes m a bs) = true := by
  induction bs generalizing m a with
  | nil => exact h
  | cons b bs ih => exact ih _ (cellPut_wf _ _ h)

/-- A store changes the bytes it stores to and no other. -/
theorem cellGet_writeLE_outside (m : List Host.Cell) (a n v c : Nat) (h : c < a ∨ a + n ≤ c) :
    cellGet (writeLE m a n v) c = cellGet m c := by
  induction n generalizing m a v with
  | zero => rfl
  | succ n ih =>
    simp only [writeLE]
    rw [ih _ _ _ (by omega), cellGet_cellPut_ne _ _ (by omega)]

theorem cellGet_writeBytes_outside (m : List Host.Cell) (a : Nat) (bs : List Byte) (c : Nat) (h : c < a ∨ a + bs.length ≤ c) :
    cellGet (writeBytes m a bs) c = cellGet m c := by
  induction bs generalizing m a with
  | nil => rfl
  | cons b bs ih =>
    simp only [List.length_cons] at h
    simp only [writeBytes]
    rw [ih _ _ (by omega), cellGet_cellPut_ne _ _ (by omega)]

/-- What was stored is read back. -/
theorem readLE_writeLE (m : List Host.Cell) (a n v : Nat) : readLE (writeLE m a n v) a n = v % 256 ^ n := by
  induction n generalizing m a v with
  | zero => simp [readLE, Nat.mod_one]
  | succ n ih =>
    simp only [readLE, writeLE]
    rw [ih, cellGet_writeLE_outside _ _ _ _ _ (by omega), cellGet_cellPut_self, Nat.pow_succ', Nat.mod_mul]
    simp [BitVec.toNat_ofNat]

end Sys2Proof.Machine
end

