-- ==== Sys2Proof/Laws/State.lean ====
section
/-! SUPPORT. What each named update of the state leaves as it was: one lemma per field and update, so that no proof unfolds a
record update.  Then what the issuing group sees after an update of its own quire, and one lemma for each shared shape of an
instruction. -/

namespace Sys2Proof.Machine
namespace State

section
variable (s : State) (b : Nat) (B : Block)
@[simp] theorem setBlock_clk : clk (setBlock s b B) = clk s := rfl
@[simp] theorem setBlock_resetAt : resetAt (setBlock s b B) = resetAt s := rfl
@[simp] theorem setBlock_agenda : agenda (setBlock s b B) = agenda s := rfl
@[simp] theorem setBlock_cur : cur (setBlock s b B) = cur s := rfl
@[simp] theorem setBlock_next : next (setBlock s b B) = next s := rfl
@[simp] theorem setBlock_free : free (setBlock s b B) = free s := rfl
@[simp] theorem setBlock_cores : cores (setBlock s b B) = cores s := rfl
@[simp] theorem setBlock_tarns : tarns (setBlock s b B) = tarns s := rfl
@[simp] theorem setBlock_parts : parts (setBlock s b B) = parts s := rfl
@[simp] theorem setBlock_ops : ops (setBlock s b B) = ops s := rfl
@[simp] theorem setBlock_ring : ring (setBlock s b B) = ring s := rfl
@[simp] theorem setBlock_sbar : sbar (setBlock s b B) = sbar s := rfl
@[simp] theorem setBlock_scFences : scFences (setBlock s b B) = scFences s := rfl
@[simp] theorem setBlock_sbarDone : sbarDone (setBlock s b B) = sbarDone s := rfl
@[simp] theorem setBlock_keys : keys (setBlock s b B) = keys s := rfl
@[simp] theorem setBlock_mem : mem (setBlock s b B) = mem s := rfl
@[simp] theorem setBlock_rekey : rekey (setBlock s b B) = rekey s := rfl
@[simp] theorem setBlock_rewritten : rewritten (setBlock s b B) = rewritten s := rfl
@[simp] theorem setBlock_tags : tags (setBlock s b B) = tags s := rfl
@[simp] theorem setBlock_poisoned : poisoned (setBlock s b B) = poisoned s := rfl
@[simp] theorem setBlock_reread : reread (setBlock s b B) = reread s := rfl
@[simp] theorem setBlock_remap : remap (setBlock s b B) = remap s := rfl
@[simp] theorem setBlock_moves : moves (setBlock s b B) = moves s := rfl
@[simp] theorem setBlock_host : host (setBlock s b B) = host s := rfl
@[simp] theorem setBlock_hostRead : hostRead (setBlock s b B) = hostRead s := rfl
@[simp] theorem setBlock_flits : flits (setBlock s b B) = flits s := rfl
end

section
variable (s : State) (c : Nat) (f : Core → Core)
@[simp] theorem updCore_clk : clk (updCore s c f) = clk s := rfl
@[simp] theorem updCore_resetAt : resetAt (updCore s c f) = resetAt s := rfl
@[simp] theorem updCore_agenda : agenda (updCore s c f) = agenda s := rfl
@[simp] theorem updCore_cur : cur (updCore s c f) = cur s := rfl
@[simp] theorem updCore_next : next (updCore s c f) = next s := rfl
@[simp] theorem updCore_free : free (updCore s c f) = free s := rfl
@[simp] theorem updCore_blocks : blocks (updCore s c f) = blocks s := rfl
@[simp] theorem updCore_tarns : tarns (updCore s c f) = tarns s := rfl
@[simp] theorem updCore_parts : parts (updCore s c f) = parts s := rfl
@[simp] theorem updCore_ops : ops (updCore s c f) = ops s := rfl
@[simp] theorem updCore_ring : ring (updCore s c f) = ring s := rfl
@[simp] theorem updCore_sbar : sbar (updCore s c f) = sbar s := rfl
@[simp] theorem updCore_scFences : scFences (updCore s c f) = scFences s := rfl
@[simp] theorem updCore_sbarDone : sbarDone (updCore s c f) = sbarDone s := rfl
@[simp] theorem updCore_keys : keys (updCore s c f) = keys s := rfl
@[simp] theorem updCore_mem : mem (updCore s c f) = mem s := rfl
@[simp] theorem updCore_rekey : rekey (updCore s c f) = rekey s := rfl
@[simp] theorem updCore_rewritten : rewritten (updCore s c f) = rewritten s := rfl
@[simp] theorem updCore_tags : tags (updCore s c f) = tags s := rfl
@[simp] theorem updCore_poisoned : poisoned (updCore s c f) = poisoned s := rfl
@[simp] theorem updCore_reread : reread (updCore s c f) = reread s := rfl
@[simp] theorem updCore_remap : remap (updCore s c f) = remap s := rfl
@[simp] theorem updCore_moves : moves (updCore s c f) = moves s := rfl
@[simp] theorem updCore_host : host (updCore s c f) = host s := rfl
@[simp] theorem updCore_hostRead : hostRead (updCore s c f) = hostRead s := rfl
@[simp] theorem updCore_flits : flits (updCore s c f) = flits s := rfl
end

section
variable (s : State) (t : Nat) (f : Tarn → Tarn)
@[simp] theorem updTarn_clk : clk (updTarn s t f) = clk s := rfl
@[simp] theorem updTarn_resetAt : resetAt (updTarn s t f) = resetAt s := rfl
@[simp] theorem updTarn_agenda : agenda (updTarn s t f) = agenda s := rfl
@[simp] theorem updTarn_cur : cur (updTarn s t f) = cur s := rfl
@[simp] theorem updTarn_next : next (updTarn s t f) = next s := rfl
@[simp] theorem updTarn_free : free (updTarn s t f) = free s := rfl
@[simp] theorem updTarn_blocks : blocks (updTarn s t f) = blocks s := rfl
@[simp] theorem updTarn_cores : cores (updTarn s t f) = cores s := rfl
@[simp] theorem updTarn_parts : parts (updTarn s t f) = parts s := rfl
@[simp] theorem updTarn_ops : ops (updTarn s t f) = ops s := rfl
@[simp] theorem updTarn_ring : ring (updTarn s t f) = ring s := rfl
@[simp] theorem updTarn_sbar : sbar (updTarn s t f) = sbar s := rfl
@[simp] theorem updTarn_scFences : scFences (updTarn s t f) = scFences s := rfl
@[simp] theorem updTarn_sbarDone : sbarDone (updTarn s t f) = sbarDone s := rfl
@[simp] theorem updTarn_keys : keys (updTarn s t f) = keys s := rfl
@[simp] theorem updTarn_mem : mem (updTarn s t f) = mem s := rfl
@[simp] theorem updTarn_rekey : rekey (updTarn s t f) = rekey s := rfl
@[simp] theorem updTarn_rewritten : rewritten (updTarn s t f) = rewritten s := rfl
@[simp] theorem updTarn_tags : tags (updTarn s t f) = tags s := rfl
@[simp] theorem updTarn_poisoned : poisoned (updTarn s t f) = poisoned s := rfl
@[simp] theorem updTarn_reread : reread (updTarn s t f) = reread s := rfl
@[simp] theorem updTarn_remap : remap (updTarn s t f) = remap s := rfl
@[simp] theorem updTarn_moves : moves (updTarn s t f) = moves s := rfl
@[simp] theorem updTarn_host : host (updTarn s t f) = host s := rfl
@[simp] theorem updTarn_hostRead : hostRead (updTarn s t f) = hostRead s := rfl
@[simp] theorem updTarn_flits : flits (updTarn s t f) = flits s := rfl
end

section
variable (s : State) (p : Nat) (f : Part → Part)
@[simp] theorem updPart_clk : clk (updPart s p f) = clk s := rfl
@[simp] theorem updPart_resetAt : resetAt (updPart s p f) = resetAt s := rfl
@[simp] theorem updPart_agenda : agenda (updPart s p f) = agenda s := rfl
@[simp] theorem updPart_cur : cur (updPart s p f) = cur s := rfl
@[simp] theorem updPart_next : next (updPart s p f) = next s := rfl
@[simp] theorem updPart_free : free (updPart s p f) = free s := rfl
@[simp] theorem updPart_blocks : blocks (updPart s p f) = blocks s := rfl
@[simp] theorem updPart_cores : cores (updPart s p f) = cores s := rfl
@[simp] theorem updPart_tarns : tarns (updPart s p f) = tarns s := rfl
@[simp] theorem updPart_ops : ops (updPart s p f) = ops s := rfl
@[simp] theorem updPart_ring : ring (updPart s p f) = ring s := rfl
@[simp] theorem updPart_sbar : sbar (updPart s p f) = sbar s := rfl
@[simp] theorem updPart_scFences : scFences (updPart s p f) = scFences s := rfl
@[simp] theorem updPart_sbarDone : sbarDone (updPart s p f) = sbarDone s := rfl
@[simp] theorem updPart_keys : keys (updPart s p f) = keys s := rfl
@[simp] theorem updPart_mem : mem (updPart s p f) = mem s := rfl
@[simp] theorem updPart_rekey : rekey (updPart s p f) = rekey s := rfl
@[simp] theorem updPart_rewritten : rewritten (updPart s p f) = rewritten s := rfl
@[simp] theorem updPart_tags : tags (updPart s p f) = tags s := rfl
@[simp] theorem updPart_poisoned : poisoned (updPart s p f) = poisoned s := rfl
@[simp] theorem updPart_reread : reread (updPart s p f) = reread s := rfl
@[simp] theorem updPart_remap : remap (updPart s p f) = remap s := rfl
@[simp] theorem updPart_moves : moves (updPart s p f) = moves s := rfl
@[simp] theorem updPart_host : host (updPart s p f) = host s := rfl
@[simp] theorem updPart_hostRead : hostRead (updPart s p f) = hostRead s := rfl
@[simp] theorem updPart_flits : flits (updPart s p f) = flits s := rfl
end

section
variable (s : State) (i : Nat) (o : Op)
@[simp] theorem setOp_clk : clk (setOp s i o) = clk s := rfl
@[simp] theorem setOp_resetAt : resetAt (setOp s i o) = resetAt s := rfl
@[simp] theorem setOp_agenda : agenda (setOp s i o) = agenda s := rfl
@[simp] theorem setOp_cur : cur (setOp s i o) = cur s := rfl
@[simp] theorem setOp_next : next (setOp s i o) = next s := rfl
@[simp] theorem setOp_free : free (setOp s i o) = free s := rfl
@[simp] theorem setOp_blocks : blocks (setOp s i o) = blocks s := rfl
@[simp] theorem setOp_cores : cores (setOp s i o) = cores s := rfl
@[simp] theorem setOp_tarns : tarns (setOp s i o) = tarns s := rfl
@[simp] theorem setOp_parts : parts (setOp s i o) = parts s := rfl
@[simp] theorem setOp_ring : ring (setOp s i o) = ring s := rfl
@[simp] theorem setOp_sbar : sbar (setOp s i o) = sbar s := rfl
@[simp] theorem setOp_scFences : scFences (setOp s i o) = scFences s := rfl
@[simp] theorem setOp_sbarDone : sbarDone (setOp s i o) = sbarDone s := rfl
@[simp] theorem setOp_keys : keys (setOp s i o) = keys s := rfl
@[simp] theorem setOp_mem : mem (setOp s i o) = mem s := rfl
@[simp] theorem setOp_rekey : rekey (setOp s i o) = rekey s := rfl
@[simp] theorem setOp_rewritten : rewritten (setOp s i o) = rewritten s := rfl
@[simp] theorem setOp_tags : tags (setOp s i o) = tags s := rfl
@[simp] theorem setOp_poisoned : poisoned (setOp s i o) = poisoned s := rfl
@[simp] theorem setOp_reread : reread (setOp s i o) = reread s := rfl
@[simp] theorem setOp_remap : remap (setOp s i o) = remap s := rfl
@[simp] theorem setOp_moves : moves (setOp s i o) = moves s := rfl
@[simp] theorem setOp_host : host (setOp s i o) = host s := rfl
@[simp] theorem setOp_hostRead : hostRead (setOp s i o) = hostRead s := rfl
@[simp] theorem setOp_flits : flits (setOp s i o) = flits s := rfl
end

section
variable (s : State) (i : Nat)
@[simp] theorem delOp_clk : clk (delOp s i) = clk s := rfl
@[simp] theorem delOp_resetAt : resetAt (delOp s i) = resetAt s := rfl
@[simp] theorem delOp_agenda : agenda (delOp s i) = agenda s := rfl
@[simp] theorem delOp_cur : cur (delOp s i) = cur s := rfl
@[simp] theorem delOp_next : next (delOp s i) = next s := rfl
@[simp] theorem delOp_free : free (delOp s i) = free s := rfl
@[simp] theorem delOp_blocks : blocks (delOp s i) = blocks s := rfl
@[simp] theorem delOp_cores : cores (delOp s i) = cores s := rfl
@[simp] theorem delOp_tarns : tarns (delOp s i) = tarns s := rfl
@[simp] theorem delOp_parts : parts (delOp s i) = parts s := rfl
@[simp] theorem delOp_ring : ring (delOp s i) = ring s := rfl
@[simp] theorem delOp_sbar : sbar (delOp s i) = sbar s := rfl
@[simp] theorem delOp_scFences : scFences (delOp s i) = scFences s := rfl
@[simp] theorem delOp_sbarDone : sbarDone (delOp s i) = sbarDone s := rfl
@[simp] theorem delOp_keys : keys (delOp s i) = keys s := rfl
@[simp] theorem delOp_mem : mem (delOp s i) = mem s := rfl
@[simp] theorem delOp_rekey : rekey (delOp s i) = rekey s := rfl
@[simp] theorem delOp_rewritten : rewritten (delOp s i) = rewritten s := rfl
@[simp] theorem delOp_tags : tags (delOp s i) = tags s := rfl
@[simp] theorem delOp_poisoned : poisoned (delOp s i) = poisoned s := rfl
@[simp] theorem delOp_reread : reread (delOp s i) = reread s := rfl
@[simp] theorem delOp_remap : remap (delOp s i) = remap s := rfl
@[simp] theorem delOp_moves : moves (delOp s i) = moves s := rfl
@[simp] theorem delOp_host : host (delOp s i) = host s := rfl
@[simp] theorem delOp_hostRead : hostRead (delOp s i) = hostRead s := rfl
@[simp] theorem delOp_flits : flits (delOp s i) = flits s := rfl
end

section
variable (s : State) (o : Op)
@[simp] theorem newOp_clk : clk (newOp s o) = clk s := rfl
@[simp] theorem newOp_resetAt : resetAt (newOp s o) = resetAt s := rfl
@[simp] theorem newOp_agenda : agenda (newOp s o) = agenda s := rfl
@[simp] theorem newOp_cur : cur (newOp s o) = cur s := rfl
@[simp] theorem newOp_free : free (newOp s o) = free s := rfl
@[simp] theorem newOp_blocks : blocks (newOp s o) = blocks s := rfl
@[simp] theorem newOp_cores : cores (newOp s o) = cores s := rfl
@[simp] theorem newOp_tarns : tarns (newOp s o) = tarns s := rfl
@[simp] theorem newOp_parts : parts (newOp s o) = parts s := rfl
@[simp] theorem newOp_ring : ring (newOp s o) = ring s := rfl
@[simp] theorem newOp_sbar : sbar (newOp s o) = sbar s := rfl
@[simp] theorem newOp_scFences : scFences (newOp s o) = scFences s := rfl
@[simp] theorem newOp_sbarDone : sbarDone (newOp s o) = sbarDone s := rfl
@[simp] theorem newOp_keys : keys (newOp s o) = keys s := rfl
@[simp] theorem newOp_mem : mem (newOp s o) = mem s := rfl
@[simp] theorem newOp_rekey : rekey (newOp s o) = rekey s := rfl
@[simp] theorem newOp_rewritten : rewritten (newOp s o) = rewritten s := rfl
@[simp] theorem newOp_tags : tags (newOp s o) = tags s := rfl
@[simp] theorem newOp_poisoned : poisoned (newOp s o) = poisoned s := rfl
@[simp] theorem newOp_reread : reread (newOp s o) = reread s := rfl
@[simp] theorem newOp_remap : remap (newOp s o) = remap s := rfl
@[simp] theorem newOp_moves : moves (newOp s o) = moves s := rfl
@[simp] theorem newOp_host : host (newOp s o) = host s := rfl
@[simp] theorem newOp_hostRead : hostRead (newOp s o) = hostRead s := rfl
@[simp] theorem newOp_flits : flits (newOp s o) = flits s := rfl
end

section
variable (s : State)
@[simp] theorem draw_clk : clk (draw s).2 = clk s := rfl
@[simp] theorem draw_resetAt : resetAt (draw s).2 = resetAt s := rfl
@[simp] theorem draw_agenda : agenda (draw s).2 = agenda s := rfl
@[simp] theorem draw_cur : cur (draw s).2 = cur s := rfl
@[simp] theorem draw_next : next (draw s).2 = next s := rfl
@[simp] theorem draw_blocks : blocks (draw s).2 = blocks s := rfl
@[simp] theorem draw_cores : cores (draw s).2 = cores s := rfl
@[simp] theorem draw_tarns : tarns (draw s).2 = tarns s := rfl
@[simp] theorem draw_parts : parts (draw s).2 = parts s := rfl
@[simp] theorem draw_ops : ops (draw s).2 = ops s := rfl
@[simp] theorem draw_ring : ring (draw s).2 = ring s := rfl
@[simp] theorem draw_sbar : sbar (draw s).2 = sbar s := rfl
@[simp] theorem draw_scFences : scFences (draw s).2 = scFences s := rfl
@[simp] theorem draw_sbarDone : sbarDone (draw s).2 = sbarDone s := rfl
@[simp] theorem draw_keys : keys (draw s).2 = keys s := rfl
@[simp] theorem draw_mem : mem (draw s).2 = mem s := rfl
@[simp] theorem draw_rekey : rekey (draw s).2 = rekey s := rfl
@[simp] theorem draw_rewritten : rewritten (draw s).2 = rewritten s := rfl
@[simp] theorem draw_tags : tags (draw s).2 = tags s := rfl
@[simp] theorem draw_poisoned : poisoned (draw s).2 = poisoned s := rfl
@[simp] theorem draw_reread : reread (draw s).2 = reread s := rfl
@[simp] theorem draw_remap : remap (draw s).2 = remap s := rfl
@[simp] theorem draw_moves : moves (draw s).2 = moves s := rfl
@[simp] theorem draw_host : host (draw s).2 = host s := rfl
@[simp] theorem draw_hostRead : hostRead (draw s).2 = hostRead s := rfl
@[simp] theorem draw_flits : flits (draw s).2 = flits s := rfl
end

section
variable (s : State) (B : Block) (f : Side → Side)
@[simp] theorem updSide_clk : clk (updSide s B f) = clk s := rfl
@[simp] theorem updSide_resetAt : resetAt (updSide s B f) = resetAt s := rfl
@[simp] theorem updSide_agenda : agenda (updSide s B f) = agenda s := rfl
@[simp] theorem updSide_cur : cur (updSide s B f) = cur s := rfl
@[simp] theorem updSide_next : next (updSide s B f) = next s := rfl
@[simp] theorem updSide_free : free (updSide s B f) = free s := rfl
@[simp] theorem updSide_blocks : blocks (updSide s B f) = blocks s := rfl
@[simp] theorem updSide_tarns : tarns (updSide s B f) = tarns s := rfl
@[simp] theorem updSide_parts : parts (updSide s B f) = parts s := rfl
@[simp] theorem updSide_ops : ops (updSide s B f) = ops s := rfl
@[simp] theorem updSide_ring : ring (updSide s B f) = ring s := rfl
@[simp] theorem updSide_sbar : sbar (updSide s B f) = sbar s := rfl
@[simp] theorem updSide_scFences : scFences (updSide s B f) = scFences s := rfl
@[simp] theorem updSide_sbarDone : sbarDone (updSide s B f) = sbarDone s := rfl
@[simp] theorem updSide_keys : keys (updSide s B f) = keys s := rfl
@[simp] theorem updSide_mem : mem (updSide s B f) = mem s := rfl
@[simp] theorem updSide_rekey : rekey (updSide s B f) = rekey s := rfl
@[simp] theorem updSide_rewritten : rewritten (updSide s B f) = rewritten s := rfl
@[simp] theorem updSide_tags : tags (updSide s B f) = tags s := rfl
@[simp] theorem updSide_poisoned : poisoned (updSide s B f) = poisoned s := rfl
@[simp] theorem updSide_reread : reread (updSide s B f) = reread s := rfl
@[simp] theorem updSide_remap : remap (updSide s B f) = remap s := rfl
@[simp] theorem updSide_moves : moves (updSide s B f) = moves s := rfl
@[simp] theorem updSide_host : host (updSide s B f) = host s := rfl
@[simp] theorem updSide_hostRead : hostRead (updSide s B f) = hostRead s := rfl
@[simp] theorem updSide_flits : flits (updSide s B f) = flits s := rfl
end

section
variable (s : State) (g : Nat) (f : Spring → Spring)
@[simp] theorem updSpring_clk : clk (updSpring s g f) = clk s := rfl
@[simp] theorem updSpring_resetAt : resetAt (updSpring s g f) = resetAt s := rfl
@[simp] theorem updSpring_agenda : agenda (updSpring s g f) = agenda s := rfl
@[simp] theorem updSpring_cur : cur (updSpring s g f) = cur s := rfl
@[simp] theorem updSpring_next : next (updSpring s g f) = next s := rfl
@[simp] theorem updSpring_free : free (updSpring s g f) = free s := rfl
@[simp] theorem updSpring_blocks : blocks (updSpring s g f) = blocks s := rfl
@[simp] theorem updSpring_cores : cores (updSpring s g f) = cores s := rfl
@[simp] theorem updSpring_parts : parts (updSpring s g f) = parts s := rfl
@[simp] theorem updSpring_ops : ops (updSpring s g f) = ops s := rfl
@[simp] theorem updSpring_ring : ring (updSpring s g f) = ring s := rfl
@[simp] theorem updSpring_sbar : sbar (updSpring s g f) = sbar s := rfl
@[simp] theorem updSpring_scFences : scFences (updSpring s g f) = scFences s := rfl
@[simp] theorem updSpring_sbarDone : sbarDone (updSpring s g f) = sbarDone s := rfl
@[simp] theorem updSpring_keys : keys (updSpring s g f) = keys s := rfl
@[simp] theorem updSpring_mem : mem (updSpring s g f) = mem s := rfl
@[simp] theorem updSpring_rekey : rekey (updSpring s g f) = rekey s := rfl
@[simp] theorem updSpring_rewritten : rewritten (updSpring s g f) = rewritten s := rfl
@[simp] theorem updSpring_tags : tags (updSpring s g f) = tags s := rfl
@[simp] theorem updSpring_poisoned : poisoned (updSpring s g f) = poisoned s := rfl
@[simp] theorem updSpring_reread : reread (updSpring s g f) = reread s := rfl
@[simp] theorem updSpring_remap : remap (updSpring s g f) = remap s := rfl
@[simp] theorem updSpring_moves : moves (updSpring s g f) = moves s := rfl
@[simp] theorem updSpring_host : host (updSpring s g f) = host s := rfl
@[simp] theorem updSpring_hostRead : hostRead (updSpring s g f) = hostRead s := rfl
@[simp] theorem updSpring_flits : flits (updSpring s g f) = flits s := rfl
end

section
variable (s : State) (b : Nat) (f : Block → Block)
@[simp] theorem updBlock_clk : clk (updBlock s b f) = clk s := by unfold updBlock; split <;> rfl
@[simp] theorem updBlock_resetAt : resetAt (updBlock s b f) = resetAt s := by unfold updBlock; split <;> rfl
@[simp] theorem updBlock_agenda : agenda (updBlock s b f) = agenda s := by unfold updBlock; split <;> rfl
@[simp] theorem updBlock_cur : cur (updBlock s b f) = cur s := by unfold updBlock; split <;> rfl
@[simp] theorem updBlock_next : next (updBlock s b f) = next s := by unfold updBlock; split <;> rfl
@[simp] theorem updBlock_free : free (updBlock s b f) = free s := by unfold updBlock; split <;> rfl
@[simp] theorem updBlock_cores : cores (updBlock s b f) = cores s := by unfold updBlock; split <;> rfl
@[simp] theorem updBlock_tarns : tarns (updBlock s b f) = tarns s := by unfold updBlock; split <;> rfl
@[simp] theorem updBlock_parts : parts (updBlock s b f) = parts s := by unfold updBlock; split <;> rfl
@[simp] theorem updBlock_ops : ops (updBlock s b f) = ops s := by unfold updBlock; split <;> rfl
@[simp] theorem updBlock_ring : ring (updBlock s b f) = ring s := by unfold updBlock; split <;> rfl
@[simp] theorem updBlock_sbar : sbar (updBlock s b f) = sbar s := by unfold updBlock; split <;> rfl
@[simp] theorem updBlock_scFences : scFences (updBlock s b f) = scFences s := by unfold updBlock; split <;> rfl
@[simp] theorem updBlock_sbarDone : sbarDone (updBlock s b f) = sbarDone s := by unfold updBlock; split <;> rfl
@[simp] theorem updBlock_keys : keys (updBlock s b f) = keys s := by unfold updBlock; split <;> rfl
@[simp] theorem updBlock_mem : mem (updBlock s b f) = mem s := by unfold updBlock; split <;> rfl
@[simp] theorem updBlock_rekey : rekey (updBlock s b f) = rekey s := by unfold updBlock; split <;> rfl
@[simp] theorem updBlock_rewritten : rewritten (updBlock s b f) = rewritten s := by unfold updBlock; split <;> rfl
@[simp] theorem updBlock_tags : tags (updBlock s b f) = tags s := by unfold updBlock; split <;> rfl
@[simp] theorem updBlock_poisoned : poisoned (updBlock s b f) = poisoned s := by unfold updBlock; split <;> rfl
@[simp] theorem updBlock_reread : reread (updBlock s b f) = reread s := by unfold updBlock; split <;> rfl
@[simp] theorem updBlock_remap : remap (updBlock s b f) = remap s := by unfold updBlock; split <;> rfl
@[simp] theorem updBlock_moves : moves (updBlock s b f) = moves s := by unfold updBlock; split <;> rfl
@[simp] theorem updBlock_host : host (updBlock s b f) = host s := by unfold updBlock; split <;> rfl
@[simp] theorem updBlock_hostRead : hostRead (updBlock s b f) = hostRead s := by unfold updBlock; split <;> rfl
@[simp] theorem updBlock_flits : flits (updBlock s b f) = flits s := by unfold updBlock; split <;> rfl
end

section
variable (s : State) (b q : Nat) (f : Quire → Quire)
@[simp] theorem updQuire_clk : clk (updQuire s b q f) = clk s := by simp [updQuire]
@[simp] theorem updQuire_resetAt : resetAt (updQuire s b q f) = resetAt s := by simp [updQuire]
@[simp] theorem updQuire_agenda : agenda (updQuire s b q f) = agenda s := by simp [updQuire]
@[simp] theorem updQuire_cur : cur (updQuire s b q f) = cur s := by simp [updQuire]
@[simp] theorem updQuire_next : next (updQuire s b q f) = next s := by simp [updQuire]
@[simp] theorem updQuire_free : free (updQuire s b q f) = free s := by simp [updQuire]
@[simp] theorem updQuire_cores : cores (updQuire s b q f) = cores s := by simp [updQuire]
@[simp] theorem updQuire_tarns : tarns (updQuire s b q f) = tarns s := by simp [updQuire]
@[simp] theorem updQuire_parts : parts (updQuire s b q f) = parts s := by simp [updQuire]
@[simp] theorem updQuire_ops : ops (updQuire s b q f) = ops s := by simp [updQuire]
@[simp] theorem updQuire_ring : ring (updQuire s b q f) = ring s := by simp [updQuire]
@[simp] theorem updQuire_sbar : sbar (updQuire s b q f) = sbar s := by simp [updQuire]
@[simp] theorem updQuire_scFences : scFences (updQuire s b q f) = scFences s := by simp [updQuire]
@[simp] theorem updQuire_sbarDone : sbarDone (updQuire s b q f) = sbarDone s := by simp [updQuire]
@[simp] theorem updQuire_keys : keys (updQuire s b q f) = keys s := by simp [updQuire]
@[simp] theorem updQuire_mem : mem (updQuire s b q f) = mem s := by simp [updQuire]
@[simp] theorem updQuire_rekey : rekey (updQuire s b q f) = rekey s := by simp [updQuire]
@[simp] theorem updQuire_rewritten : rewritten (updQuire s b q f) = rewritten s := by simp [updQuire]
@[simp] theorem updQuire_tags : tags (updQuire s b q f) = tags s := by simp [updQuire]
@[simp] theorem updQuire_poisoned : poisoned (updQuire s b q f) = poisoned s := by simp [updQuire]
@[simp] theorem updQuire_reread : reread (updQuire s b q f) = reread s := by simp [updQuire]
@[simp] theorem updQuire_remap : remap (updQuire s b q f) = remap s := by simp [updQuire]
@[simp] theorem updQuire_moves : moves (updQuire s b q f) = moves s := by simp [updQuire]
@[simp] theorem updQuire_host : host (updQuire s b q f) = host s := by simp [updQuire]
@[simp] theorem updQuire_hostRead : hostRead (updQuire s b q f) = hostRead s := by simp [updQuire]
@[simp] theorem updQuire_flits : flits (updQuire s b q f) = flits s := by simp [updQuire]
end

section
variable (s : State) (b q l : Nat) (f : Thread → Thread)
@[simp] theorem updThread_clk : clk (updThread s b q l f) = clk s := by simp [updThread]
@[simp] theorem updThread_resetAt : resetAt (updThread s b q l f) = resetAt s := by simp [updThread]
@[simp] theorem updThread_agenda : agenda (updThread s b q l f) = agenda s := by simp [updThread]
@[simp] theorem updThread_cur : cur (updThread s b q l f) = cur s := by simp [updThread]
@[simp] theorem updThread_next : next (updThread s b q l f) = next s := by simp [updThread]
@[simp] theorem updThread_free : free (updThread s b q l f) = free s := by simp [updThread]
@[simp] theorem updThread_cores : cores (updThread s b q l f) = cores s := by simp [updThread]
@[simp] theorem updThread_tarns : tarns (updThread s b q l f) = tarns s := by simp [updThread]
@[simp] theorem updThread_parts : parts (updThread s b q l f) = parts s := by simp [updThread]
@[simp] theorem updThread_ops : ops (updThread s b q l f) = ops s := by simp [updThread]
@[simp] theorem updThread_ring : ring (updThread s b q l f) = ring s := by simp [updThread]
@[simp] theorem updThread_sbar : sbar (updThread s b q l f) = sbar s := by simp [updThread]
@[simp] theorem updThread_scFences : scFences (updThread s b q l f) = scFences s := by simp [updThread]
@[simp] theorem updThread_sbarDone : sbarDone (updThread s b q l f) = sbarDone s := by simp [updThread]
@[simp] theorem updThread_keys : keys (updThread s b q l f) = keys s := by simp [updThread]
@[simp] theorem updThread_mem : mem (updThread s b q l f) = mem s := by simp [updThread]
@[simp] theorem updThread_rekey : rekey (updThread s b q l f) = rekey s := by simp [updThread]
@[simp] theorem updThread_rewritten : rewritten (updThread s b q l f) = rewritten s := by simp [updThread]
@[simp] theorem updThread_tags : tags (updThread s b q l f) = tags s := by simp [updThread]
@[simp] theorem updThread_poisoned : poisoned (updThread s b q l f) = poisoned s := by simp [updThread]
@[simp] theorem updThread_reread : reread (updThread s b q l f) = reread s := by simp [updThread]
@[simp] theorem updThread_remap : remap (updThread s b q l f) = remap s := by simp [updThread]
@[simp] theorem updThread_moves : moves (updThread s b q l f) = moves s := by simp [updThread]
@[simp] theorem updThread_host : host (updThread s b q l f) = host s := by simp [updThread]
@[simp] theorem updThread_hostRead : hostRead (updThread s b q l f) = hostRead s := by simp [updThread]
@[simp] theorem updThread_flits : flits (updThread s b q l f) = flits s := by simp [updThread]
end

section
variable (s : State) (b q g : Nat) (f : Group → Group)
@[simp] theorem updGroup_clk : clk (updGroup s b q g f) = clk s := by simp [updGroup]
@[simp] theorem updGroup_resetAt : resetAt (updGroup s b q g f) = resetAt s := by simp [updGroup]
@[simp] theorem updGroup_agenda : agenda (updGroup s b q g f) = agenda s := by simp [updGroup]
@[simp] theorem updGroup_cur : cur (updGroup s b q g f) = cur s := by simp [updGroup]
@[simp] theorem updGroup_next : next (updGroup s b q g f) = next s := by simp [updGroup]
@[simp] theorem updGroup_free : free (updGroup s b q g f) = free s := by simp [updGroup]
@[simp] theorem updGroup_cores : cores (updGroup s b q g f) = cores s := by simp [updGroup]
@[simp] theorem updGroup_tarns : tarns (updGroup s b q g f) = tarns s := by simp [updGroup]
@[simp] theorem updGroup_parts : parts (updGroup s b q g f) = parts s := by simp [updGroup]
@[simp] theorem updGroup_ops : ops (updGroup s b q g f) = ops s := by simp [updGroup]
@[simp] theorem updGroup_ring : ring (updGroup s b q g f) = ring s := by simp [updGroup]
@[simp] theorem updGroup_sbar : sbar (updGroup s b q g f) = sbar s := by simp [updGroup]
@[simp] theorem updGroup_scFences : scFences (updGroup s b q g f) = scFences s := by simp [updGroup]
@[simp] theorem updGroup_sbarDone : sbarDone (updGroup s b q g f) = sbarDone s := by simp [updGroup]
@[simp] theorem updGroup_keys : keys (updGroup s b q g f) = keys s := by simp [updGroup]
@[simp] theorem updGroup_mem : mem (updGroup s b q g f) = mem s := by simp [updGroup]
@[simp] theorem updGroup_rekey : rekey (updGroup s b q g f) = rekey s := by simp [updGroup]
@[simp] theorem updGroup_rewritten : rewritten (updGroup s b q g f) = rewritten s := by simp [updGroup]
@[simp] theorem updGroup_tags : tags (updGroup s b q g f) = tags s := by simp [updGroup]
@[simp] theorem updGroup_poisoned : poisoned (updGroup s b q g f) = poisoned s := by simp [updGroup]
@[simp] theorem updGroup_reread : reread (updGroup s b q g f) = reread s := by simp [updGroup]
@[simp] theorem updGroup_remap : remap (updGroup s b q g f) = remap s := by simp [updGroup]
@[simp] theorem updGroup_moves : moves (updGroup s b q g f) = moves s := by simp [updGroup]
@[simp] theorem updGroup_host : host (updGroup s b q g f) = host s := by simp [updGroup]
@[simp] theorem updGroup_hostRead : hostRead (updGroup s b q g f) = hostRead s := by simp [updGroup]
@[simp] theorem updGroup_flits : flits (updGroup s b q g f) = flits s := by simp [updGroup]
end

section
variable (s : State) (b q : Nat) (ls : List Nat) (f : Nat → Thread → Thread)
@[simp] theorem mapLanes_clk : clk (mapLanes s b q ls f) = clk s := by simp [mapLanes]
@[simp] theorem mapLanes_resetAt : resetAt (mapLanes s b q ls f) = resetAt s := by simp [mapLanes]
@[simp] theorem mapLanes_agenda : agenda (mapLanes s b q ls f) = agenda s := by simp [mapLanes]
@[simp] theorem mapLanes_cur : cur (mapLanes s b q ls f) = cur s := by simp [mapLanes]
@[simp] theorem mapLanes_next : next (mapLanes s b q ls f) = next s := by simp [mapLanes]
@[simp] theorem mapLanes_free : free (mapLanes s b q ls f) = free s := by simp [mapLanes]
@[simp] theorem mapLanes_cores : cores (mapLanes s b q ls f) = cores s := by simp [mapLanes]
@[simp] theorem mapLanes_tarns : tarns (mapLanes s b q ls f) = tarns s := by simp [mapLanes]
@[simp] theorem mapLanes_parts : parts (mapLanes s b q ls f) = parts s := by simp [mapLanes]
@[simp] theorem mapLanes_ops : ops (mapLanes s b q ls f) = ops s := by simp [mapLanes]
@[simp] theorem mapLanes_ring : ring (mapLanes s b q ls f) = ring s := by simp [mapLanes]
@[simp] theorem mapLanes_sbar : sbar (mapLanes s b q ls f) = sbar s := by simp [mapLanes]
@[simp] theorem mapLanes_scFences : scFences (mapLanes s b q ls f) = scFences s := by simp [mapLanes]
@[simp] theorem mapLanes_sbarDone : sbarDone (mapLanes s b q ls f) = sbarDone s := by simp [mapLanes]
@[simp] theorem mapLanes_keys : keys (mapLanes s b q ls f) = keys s := by simp [mapLanes]
@[simp] theorem mapLanes_mem : mem (mapLanes s b q ls f) = mem s := by simp [mapLanes]
@[simp] theorem mapLanes_rekey : rekey (mapLanes s b q ls f) = rekey s := by simp [mapLanes]
@[simp] theorem mapLanes_rewritten : rewritten (mapLanes s b q ls f) = rewritten s := by simp [mapLanes]
@[simp] theorem mapLanes_tags : tags (mapLanes s b q ls f) = tags s := by simp [mapLanes]
@[simp] theorem mapLanes_poisoned : poisoned (mapLanes s b q ls f) = poisoned s := by simp [mapLanes]
@[simp] theorem mapLanes_reread : reread (mapLanes s b q ls f) = reread s := by simp [mapLanes]
@[simp] theorem mapLanes_remap : remap (mapLanes s b q ls f) = remap s := by simp [mapLanes]
@[simp] theorem mapLanes_moves : moves (mapLanes s b q ls f) = moves s := by simp [mapLanes]
@[simp] theorem mapLanes_host : host (mapLanes s b q ls f) = host s := by simp [mapLanes]
@[simp] theorem mapLanes_hostRead : hostRead (mapLanes s b q ls f) = hostRead s := by simp [mapLanes]
@[simp] theorem mapLanes_flits : flits (mapLanes s b q ls f) = flits s := by simp [mapLanes]
end

section
variable (s : State) (c : Ctx) (k : Nat)
@[simp] theorem advance_clk : clk (advance s c k) = clk s := by simp [advance]
@[simp] theorem advance_resetAt : resetAt (advance s c k) = resetAt s := by simp [advance]
@[simp] theorem advance_agenda : agenda (advance s c k) = agenda s := by simp [advance]
@[simp] theorem advance_cur : cur (advance s c k) = cur s := by simp [advance]
@[simp] theorem advance_next : next (advance s c k) = next s := by simp [advance]
@[simp] theorem advance_free : free (advance s c k) = free s := by simp [advance]
@[simp] theorem advance_cores : cores (advance s c k) = cores s := by simp [advance]
@[simp] theorem advance_tarns : tarns (advance s c k) = tarns s := by simp [advance]
@[simp] theorem advance_parts : parts (advance s c k) = parts s := by simp [advance]
@[simp] theorem advance_ops : ops (advance s c k) = ops s := by simp [advance]
@[simp] theorem advance_ring : ring (advance s c k) = ring s := by simp [advance]
@[simp] theorem advance_sbar : sbar (advance s c k) = sbar s := by simp [advance]
@[simp] theorem advance_scFences : scFences (advance s c k) = scFences s := by simp [advance]
@[simp] theorem advance_sbarDone : sbarDone (advance s c k) = sbarDone s := by simp [advance]
@[simp] theorem advance_keys : keys (advance s c k) = keys s := by simp [advance]
@[simp] theorem advance_mem : mem (advance s c k) = mem s := by simp [advance]
@[simp] theorem advance_rekey : rekey (advance s c k) = rekey s := by simp [advance]
@[simp] theorem advance_rewritten : rewritten (advance s c k) = rewritten s := by simp [advance]
@[simp] theorem advance_tags : tags (advance s c k) = tags s := by simp [advance]
@[simp] theorem advance_poisoned : poisoned (advance s c k) = poisoned s := by simp [advance]
@[simp] theorem advance_reread : reread (advance s c k) = reread s := by simp [advance]
@[simp] theorem advance_remap : remap (advance s c k) = remap s := by simp [advance]
@[simp] theorem advance_moves : moves (advance s c k) = moves s := by simp [advance]
@[simp] theorem advance_host : host (advance s c k) = host s := by simp [advance]
@[simp] theorem advance_hostRead : hostRead (advance s c k) = hostRead s := by simp [advance]
@[simp] theorem advance_flits : flits (advance s c k) = flits s := by simp [advance]
end

section
variable (s : State) (c : Ctx)
@[simp] theorem stall_clk : clk (stall s c) = clk s := by simp [stall]
@[simp] theorem stall_resetAt : resetAt (stall s c) = resetAt s := by simp [stall]
@[simp] theorem stall_agenda : agenda (stall s c) = agenda s := by simp [stall]
@[simp] theorem stall_cur : cur (stall s c) = cur s := by simp [stall]
@[simp] theorem stall_next : next (stall s c) = next s := by simp [stall]
@[simp] theorem stall_free : free (stall s c) = free s := by simp [stall]
@[simp] theorem stall_cores : cores (stall s c) = cores s := by simp [stall]
@[simp] theorem stall_tarns : tarns (stall s c) = tarns s := by simp [stall]
@[simp] theorem stall_parts : parts (stall s c) = parts s := by simp [stall]
@[simp] theorem stall_ops : ops (stall s c) = ops s := by simp [stall]
@[simp] theorem stall_ring : ring (stall s c) = ring s := by simp [stall]
@[simp] theorem stall_sbar : sbar (stall s c) = sbar s := by simp [stall]
@[simp] theorem stall_scFences : scFences (stall s c) = scFences s := by simp [stall]
@[simp] theorem stall_sbarDone : sbarDone (stall s c) = sbarDone s := by simp [stall]
@[simp] theorem stall_keys : keys (stall s c) = keys s := by simp [stall]
@[simp] theorem stall_mem : mem (stall s c) = mem s := by simp [stall]
@[simp] theorem stall_rekey : rekey (stall s c) = rekey s := by simp [stall]
@[simp] theorem stall_rewritten : rewritten (stall s c) = rewritten s := by simp [stall]
@[simp] theorem stall_tags : tags (stall s c) = tags s := by simp [stall]
@[simp] theorem stall_poisoned : poisoned (stall s c) = poisoned s := by simp [stall]
@[simp] theorem stall_reread : reread (stall s c) = reread s := by simp [stall]
@[simp] theorem stall_remap : remap (stall s c) = remap s := by simp [stall]
@[simp] theorem stall_moves : moves (stall s c) = moves s := by simp [stall]
@[simp] theorem stall_host : host (stall s c) = host s := by simp [stall]
@[simp] theorem stall_hostRead : hostRead (stall s c) = hostRead s := by simp [stall]
@[simp] theorem stall_flits : flits (stall s c) = flits s := by simp [stall]
end

section
variable (s : State) (c : Ctx) (ls : List Nat)
@[simp] theorem leave_clk : clk (leave s c ls) = clk s := by simp [leave]
@[simp] theorem leave_resetAt : resetAt (leave s c ls) = resetAt s := by simp [leave]
@[simp] theorem leave_agenda : agenda (leave s c ls) = agenda s := by simp [leave]
@[simp] theorem leave_cur : cur (leave s c ls) = cur s := by simp [leave]
@[simp] theorem leave_next : next (leave s c ls) = next s := by simp [leave]
@[simp] theorem leave_free : free (leave s c ls) = free s := by simp [leave]
@[simp] theorem leave_cores : cores (leave s c ls) = cores s := by simp [leave]
@[simp] theorem leave_tarns : tarns (leave s c ls) = tarns s := by simp [leave]
@[simp] theorem leave_parts : parts (leave s c ls) = parts s := by simp [leave]
@[simp] theorem leave_ops : ops (leave s c ls) = ops s := by simp [leave]
@[simp] theorem leave_ring : ring (leave s c ls) = ring s := by simp [leave]
@[simp] theorem leave_sbar : sbar (leave s c ls) = sbar s := by simp [leave]
@[simp] theorem leave_scFences : scFences (leave s c ls) = scFences s := by simp [leave]
@[simp] theorem leave_sbarDone : sbarDone (leave s c ls) = sbarDone s := by simp [leave]
@[simp] theorem leave_keys : keys (leave s c ls) = keys s := by simp [leave]
@[simp] theorem leave_mem : mem (leave s c ls) = mem s := by simp [leave]
@[simp] theorem leave_rekey : rekey (leave s c ls) = rekey s := by simp [leave]
@[simp] theorem leave_rewritten : rewritten (leave s c ls) = rewritten s := by simp [leave]
@[simp] theorem leave_tags : tags (leave s c ls) = tags s := by simp [leave]
@[simp] theorem leave_poisoned : poisoned (leave s c ls) = poisoned s := by simp [leave]
@[simp] theorem leave_reread : reread (leave s c ls) = reread s := by simp [leave]
@[simp] theorem leave_remap : remap (leave s c ls) = remap s := by simp [leave]
@[simp] theorem leave_moves : moves (leave s c ls) = moves s := by simp [leave]
@[simp] theorem leave_host : host (leave s c ls) = host s := by simp [leave]
@[simp] theorem leave_hostRead : hostRead (leave s c ls) = hostRead s := by simp [leave]
@[simp] theorem leave_flits : flits (leave s c ls) = flits s := by simp [leave]
end

variable (s : State)

@[simp] theorem setBlock_blocks (b : Nat) (B : Block) : blocks (setBlock s b B) = tput (blocks s) b B := rfl
@[simp] theorem setOp_ops (i : Nat) (o : Op) : ops (setOp s i o) = tput (ops s) i o := rfl
@[simp] theorem delOp_ops (i : Nat) : ops (delOp s i) = tdel (ops s) i := rfl
@[simp] theorem newOp_ops (o : Op) : ops (newOp s o) = tput (ops s) (next s) o := rfl
@[simp] theorem newOp_next (o : Op) : next (newOp s o) = next s + 1 := rfl
@[simp] theorem draw_free : free (draw s).2 = free s + 1 := rfl
@[simp] theorem draw_fst : (draw s).1 = Config.freeValue (free s) := rfl

@[simp] theorem core_updCore_self (c : Nat) (f : Core → Core) : (s.updCore c f).core c = f (s.core c) := by
  simp [core, updCore]
theorem core_updCore_ne {c d : Nat} (f : Core → Core) (h : d ≠ c) : (s.updCore c f).core d = s.core d := by
  simp [core, updCore, tget_tput_ne _ _ _ h]
@[simp] theorem tarn_updTarn_self (t : Nat) (f : Tarn → Tarn) : (s.updTarn t f).tarn t = f (s.tarn t) := by
  simp [tarn, updTarn]
theorem tarn_updTarn_ne {t u : Nat} (f : Tarn → Tarn) (h : u ≠ t) : (s.updTarn t f).tarn u = s.tarn u := by
  simp [tarn, updTarn, tget_tput_ne _ _ _ h]
@[simp] theorem part_updPart_self (p : Nat) (f : Part → Part) : (s.updPart p f).part p = f (s.part p) := by
  simp [part, updPart]
@[simp] theorem block?_setBlock_self (b : Nat) (B : Block) : (s.setBlock b B).block? b = some B := by
  simp [block?]
theorem block?_setBlock_ne {b d : Nat} (B : Block) (h : d ≠ b) : (s.setBlock b B).block? d = s.block? d := by
  simp [block?, tget?_tput_ne _ _ h]

end State

end Sys2Proof.Machine
end

