-- ==== Sys2Proof/Laws/Issue.lean ====
section
/-! SUPPORT. The issuing group: where it stands, what an update of its quire leaves, and what each shared shape of an instruction
does, said once. -/

namespace Sys2Proof.Machine

/-- What an issuing group is. -/
theorem State.ctx_iff {s : State} {c : Ctx} : s.ctx? = some c ↔
    s.cur = .group c.b c.q c.gid ∧ s.block? c.b = some c.B ∧ tget? c.B.quires c.q = some c.Q ∧
      tget? c.Q.groups c.gid = some c.gr := by
  unfold State.ctx?
  split
  · rename_i b q g hc
    split
    · rename_i B hB
      split
      · rename_i Q hQ
        simp only [Option.map_eq_some_iff, hc, Cur.group.injEq]
        constructor
        · rintro ⟨gr, hg, rfl⟩; exact ⟨⟨rfl, rfl, rfl⟩, hB, hQ, hg⟩
        · rintro ⟨⟨rfl, rfl, rfl⟩, h1, h2, h3⟩
          rw [hB] at h1; cases h1
          rw [hQ] at h2; cases h2
          exact ⟨_, h3, rfl⟩
      · rename_i hQ
        simp only [reduceCtorEq, hc, Cur.group.injEq, false_iff]
        rintro ⟨⟨rfl, rfl, rfl⟩, h1, h2, -⟩
        rw [hB] at h1; cases h1; rw [hQ] at h2; cases h2
    · rename_i hB
      simp only [reduceCtorEq, hc, Cur.group.injEq, false_iff]
      rintro ⟨⟨rfl, rfl, rfl⟩, h1, -⟩
      rw [hB] at h1; cases h1
  · rename_i hc
    simp only [reduceCtorEq, false_iff]
    rintro ⟨h, -⟩
    exact hc _ _ _ h

theorem State.updQuire_eq {s : State} {b q : Nat} {B : Block} {Q : Quire} (hB : s.block? b = some B)
    (hQ : tget? B.quires q = some Q) (f : Quire → Quire) :
    s.updQuire b q f = { s with blocks := tput s.blocks b { B with quires := tput B.quires q (f Q) } } := by
  simp only [State.updQuire, State.updBlock, hB, hQ, State.setBlock]

/-- An update of the issuing quire. -/
theorem State.updQuire_ctx {s : State} {c : Ctx} (h : s.ctx? = some c) (f : Quire → Quire) :
    s.updQuire c.b c.q f = s.putQuire c (f c.Q) := by
  obtain ⟨-, hB, hQ, -⟩ := State.ctx_iff.1 h
  exact State.updQuire_eq hB hQ f

@[simp] theorem State.putQuire_updQuire (s : State) (c : Ctx) (Q : Quire) (f : Quire → Quire) :
    (s.putQuire c Q).updQuire c.b c.q f = s.putQuire c (f Q) := by
  have hB : (s.putQuire c Q).block? c.b = some { c.B with quires := tput c.B.quires c.q Q } := by
    simp [State.block?, State.putQuire]
  rw [State.updQuire_eq hB (Q := Q) (by simp)]
  simp [State.putQuire]

theorem State.putQuire_putQuire (s : State) (c : Ctx) (Q Q' : Quire) :
    { s.putQuire c Q with blocks := tput (s.putQuire c Q).blocks c.b { c.B with quires := tput c.B.quires c.q Q' } } =
      s.putQuire c Q' := by
  simp [State.putQuire]

theorem State.mapLanes_ctx {s : State} {c : Ctx} (h : s.ctx? = some c) (ls : List Nat) (f : Nat → Thread → Thread) :
    s.mapLanes c.b c.q ls f = s.putQuire c (c.Q.onLanes ls f) := State.updQuire_ctx h _

@[simp] theorem State.putQuire_mapLanes (s : State) (c : Ctx) (Q : Quire) (ls : List Nat) (f : Nat → Thread → Thread) :
    (s.putQuire c Q).mapLanes c.b c.q ls f = s.putQuire c (Q.onLanes ls f) := State.putQuire_updQuire _ _ _ _

@[simp] theorem Quire.onLanes_nil (Q : Quire) (f : Nat → Thread → Thread) : Q.onLanes [] f = Q := by
  simp [Quire.onLanes]
@[simp] theorem Quire.onLanes_groups (Q : Quire) (ls : List Nat) (f : Nat → Thread → Thread) : (Q.onLanes ls f).groups = Q.groups := rfl
@[simp] theorem Quire.onLanes_g (Q : Quire) (ls : List Nat) (f : Nat → Thread → Thread) : (Q.onLanes ls f).g = Q.g := rfl
@[simp] theorem Quire.onLanes_gp (Q : Quire) (ls : List Nat) (f : Nat → Thread → Thread) : (Q.onLanes ls f).gp = Q.gp := rfl

/-- Going past an instruction, from the quire as the instruction left it. -/
theorem State.putQuire_advance {s : State} {c : Ctx} (Q : Quire) (hg : tget? Q.groups c.gid = some c.gr) (k : Nat) :
    (s.putQuire c Q).advance c k = s.putQuire c (c.past k Q) := by
  unfold State.advance State.updGroup
  rw [State.putQuire_updQuire]
  simp [hg, Ctx.past]

theorem State.advance_ctx {s : State} {c : Ctx} (h : s.ctx? = some c) (k : Nat) :
    s.advance c k = s.putQuire c (c.past k c.Q) := by
  obtain ⟨-, hB, hQ, hg⟩ := State.ctx_iff.1 h
  unfold State.advance State.updGroup
  rw [State.updQuire_ctx h]
  simp [hg, Ctx.past]

/-- An L-set instruction over its participants' threads does that, and no more. -/
theorem laneStep_eq {s : State} {c : Ctx} (h : s.ctx? = some c) (k : Nat) (p : BitVec 3) (n : Bool)
    (f : Ctx → Nat → Thread → Thread) :
    laneStep s k p n f = .next (s.putQuire c (c.past k (c.Q.onLanes (c.participants p n) (f c)))) := by
  obtain ⟨-, -, -, hg⟩ := State.ctx_iff.1 h
  simp only [laneStep, h]
  rw [State.mapLanes_ctx h, State.putQuire_advance _ (by simpa using hg)]

/-- The same of a step written out with the participants' list at hand. -/
theorem mapLanes_advance {s : State} {c : Ctx} (h : s.ctx? = some c) (k : Nat) (ls : List Nat) (f : Nat → Thread → Thread) :
    (s.mapLanes c.b c.q ls f).advance c k = s.putQuire c (c.past k (c.Q.onLanes ls f)) := by
  obtain ⟨-, -, -, hg⟩ := State.ctx_iff.1 h
  rw [State.mapLanes_ctx h, State.putQuire_advance _ (by simpa using hg)]

theorem updQuire_advance {s : State} {c : Ctx} (h : s.ctx? = some c) (k : Nat) (f : Quire → Quire)
    (hf : (f c.Q).groups = c.Q.groups) :
    (s.updQuire c.b c.q f).advance c k = s.putQuire c (c.past k (f c.Q)) := by
  obtain ⟨-, -, -, hg⟩ := State.ctx_iff.1 h
  rw [State.updQuire_ctx h, State.putQuire_advance _ (by rw [hf]; exact hg)]

/-- A G-set instruction of a group changes its quire by the rule when the guard is true, and no more. -/
theorem uniStep_eq {s : State} {c : Ctx} (h : s.ctx? = some c) (k : Nat) (p : BitVec 3) (n : Bool) (f : Quire → Quire)
    (hf : (f c.Q).groups = c.Q.groups) :
    uniStep s k p n f = .next (s.putQuire c (c.past k (if guardOk c.Q.gp p n then f c.Q else c.Q))) := by
  obtain ⟨hc, -, -, -⟩ := State.ctx_iff.1 h
  simp only [uniStep, hc, h]
  split
  · rw [updQuire_advance h k f hf]
  · rw [State.advance_ctx h]

/-- A G-set instruction of a handler. -/
theorem uniStep_spring {s : State} {gs : Nat} (h : s.cur = .spring gs) (k : Nat) (p : BitVec 3) (n : Bool) (f : Quire → Quire) :
    uniStep s k p n f = .next (s.updSpring gs fun sp =>
      let q := if guardOk sp.gp p n then f { g := sp.g, gp := sp.gp } else { g := sp.g, gp := sp.gp }
      { sp with g := q.g, gp := q.gp, at_ := sp.at_ + k }) := by
  simp only [uniStep, h]

@[simp] theorem Quire.setG_groups (q : Quire) (n : Nat) (x : Word) : (q.setG n x).groups = q.groups := rfl
@[simp] theorem Quire.setG_threads (q : Quire) (n : Nat) (x : Word) : (q.setG n x).threads = q.threads := rfl
@[simp] theorem Quire.setGPair_groups (q : Quire) (n : Nat) (x : BitVec 64) : (q.setGPair n x).groups = q.groups := rfl
@[simp] theorem Quire.setGP_groups (q : Quire) (n : Nat) (x : Bool) : (q.setGP n x).groups = q.groups := by
  unfold Quire.setGP; split <;> rfl
@[simp] theorem Quire.wr_groups (q : Quire) (w : Bool) (n : BitVec 7) (x : Nat) : (q.wr w n x).groups = q.groups := by
  unfold Quire.wr; split <;> simp

/-! ### Registers of a thread -/

@[simp] theorem Thread.getV_setV_self (t : Thread) (n : Nat) (x : Word) : (t.setV n x).getV n = x := by
  simp [Thread.getV, Thread.setV]
theorem Thread.getV_setV_ne (t : Thread) {n m : Nat} (x : Word) (h : m ≠ n) : (t.setV n x).getV m = t.getV m := by
  simp [Thread.getV, Thread.setV, regGet_regPut_ne _ _ h]
@[simp] theorem Quire.getG_setG_self (t : Quire) (n : Nat) (x : Word) : (t.setG n x).getG n = x := by
  simp [Quire.getG, Quire.setG]
theorem Quire.getG_setG_ne (t : Quire) {n m : Nat} (x : Word) (h : m ≠ n) : (t.setG n x).getG m = t.getG m := by
  simp [Quire.getG, Quire.setG, regGet_regPut_ne _ _ h]

/-! ### The state with one quire replaced -/

theorem State.putQuire_onlyBlock (s : State) (c : Ctx) (Q : Quire) : OnlyBlock s (s.putQuire c Q) c.b :=
  ⟨fun _ h => tget?_tput_ne _ _ h, rfl⟩

@[simp] theorem State.putQuire_quireAt (s : State) (c : Ctx) (Q : Quire) : (s.putQuire c Q).quireAt c.b c.q = some Q := by
  simp [State.quireAt, State.putQuire, State.block?]

/-- A lane's thread after an update of some lanes. -/
theorem Quire.onLanes_thread (Q : Quire) (ls : List Nat) (f : Nat → Thread → Thread) (l : Nat) :
    tget? (Q.onLanes ls f).threads l = (tget? Q.threads l).map fun t => if ls.contains l then f l t else t := by
  unfold Quire.onLanes
  generalize Q.threads = T
  induction T with
  | nil => rfl
  | cons e T ih =>
    obtain ⟨i, t⟩ := e
    simp only [List.map_cons]
    by_cases hi : i = l
    · subst hi; cases h : ls.contains i <;> simp [tget?]
    · have : (if ls.contains i = true then (i, f i t) else (i, t)).1 = i := by split <;> rfl
      simp only [tget?, hi, if_false, ← ih]
      split <;> simp

end Sys2Proof.Machine
end

