-- ==== Sys2Proof/Laws/Access.lean ====
section
/-! SUPPORT. What each shared shape of an instruction does, as the statements say it: lanes, uniform registers, transfers,
operations entered, accesses that pass their checks, privileged instructions and their answers. -/

namespace Sys2Proof.Machine

/-! ### Shapes -/

theorem lanes_of {i : Instr} {s : State} {c : Ctx} (h : s.ctx? = some c) {k : Nat} {p : BitVec 3} {n : Bool}
    {g : Ctx → Nat → Thread → Thread} {f : Nat → Thread → Thread} (he : exec i s = laneStep s k p n g)
    (hf : ∀ l t, g c l t = f l t) : Lanes i s c k (c.participants p n) f := by
  unfold Lanes
  rw [he, laneStep_eq h, show g c = f from funext fun l => funext (hf l)]

theorem either_of {i : Instr} {s : State} {k : Nat} {p : BitVec 3} {n : Bool} {f : Quire → Quire}
    (he : exec i s = uniStep s k p n f) (hg : ∀ q, (f q).groups = q.groups) : EitherPlace i s k p n f := by
  refine ⟨fun c h => ?_, fun gs h => ?_⟩
  · unfold Uniform; rw [he, uniStep_eq h _ _ _ _ (hg _)]
  · unfold Handler; rw [he, uniStep_spring h]
    congr 2; funext sp; by_cases h : guardOk sp.gp p n <;> simp [h]

theorem transfers_of {i : Instr} {s : State} {c : Ctx} (h : s.ctx? = some c) {k : Nat} {ls : List Nat} {tgt : Nat → BitVec 64}
    {f : Nat → Thread → Thread} (he : exec i s = .next (s.transfer c k ls tgt f)) : Transfers i s c k ls tgt f := by
  refine ⟨fun ha => ?_, fun l hl => ?_⟩
  · rw [he]
    have : ls.find? (fun l => (tgt l).toNat % 4 != 0) = none := by simpa using ha
    simp only [State.transfer, this]
    rw [mapLanes_advance h, State.leave, State.updGroup, State.putQuire_updQuire]
    simp [Ctx.past, Ctx.gone]
  · rw [he]; simp only [State.transfer, hl]

/-- The same for a transfer that changes the return-address stack (R98). -/
theorem returns_of {i : Instr} {s : State} {c : Ctx} (h : s.ctx? = some c) {k : Nat} {ls : List Nat} {tgt : Nat → BitVec 64}
    {f : Nat → Thread → Thread} {r : List (BitVec 64) → List (BitVec 64)}
    (he : exec i s = .next ((s.predict c ls tgt r).transfer c k ls tgt f)) : Returns i s c k ls tgt f r := by
  refine ⟨fun ha => ?_, fun l hl => ?_⟩
  · rw [he]
    have hn : ls.find? (fun l => (tgt l).toNat % 4 != 0) = none := by simpa using ha
    have hall : (ls.any fun l => (tgt l).toNat % 4 != 0) = false := by simpa using ha
    obtain ⟨-, -, -, hg⟩ := State.ctx_iff.1 h
    simp only [State.transfer, hn, State.predict, hall, Bool.or_false]
    cases ls with
    | nil =>
      simp only [List.isEmpty_nil, if_true]
      rw [mapLanes_advance h, State.leave, State.updGroup, State.putQuire_updQuire]
      simp [Ctx.past, Ctx.gone, Quire.onLanes]
    | cons a l =>
      simp only [List.isEmpty_cons, Bool.false_eq_true, if_false]
      rw [State.updQuire_ctx h, State.putQuire_mapLanes, State.putQuire_advance _ (by simpa using hg), State.leave,
        State.updGroup, State.putQuire_updQuire]
      simp [Ctx.past, Ctx.gone, Quire.onLanes]
  · rw [he]
    have : (ls.any fun l => (tgt l).toNat % 4 != 0) = true := by
      have := List.find?_some hl; have hm := List.mem_of_find?_eq_some hl
      exact List.any_eq_true.2 ⟨l, hm, this⟩
    simp only [State.transfer, hl, State.predict, this, Bool.or_true, if_true]

/-- Threads that leave their group as it goes past the instruction. -/
theorem gone_eq {s : State} {c : Ctx} (h : s.ctx? = some c) (k : Nat) (ls : List Nat) (f : Nat → Thread → Thread) :
    ((s.advance c k).mapLanes c.b c.q ls f).leave c ls = s.putQuire c (c.gone k ls (c.Q.onLanes ls f)) := by
  rw [State.advance_ctx h, State.putQuire_mapLanes, State.leave, State.updGroup, State.putQuire_updQuire]
  simp [Ctx.past, Ctx.gone, Quire.onLanes]

theorem issueStep_eq {s : State} {c : Ctx} {k : Nat} {o : Op} (h : s.ctx? = some c) (hb : o.blk = c.b) (hq : o.q = c.q) :
    s.issueStep c k o = Issued s c k o := by
  unfold State.issueStep Issued
  split
  · rw [State.advance_ctx h]
  · obtain ⟨hc, hB, hQ, hg⟩ := State.ctx_iff.1 h
    have h' : (s.newOp o).ctx? = some c := State.ctx_iff.2 ⟨hc, hB, hQ, hg⟩
    unfold State.issueOp State.incFlag
    rw [hb, hq]
    split
    · rename_i hf
      rw [State.advance_ctx h']
      have : ¬ o.flag < 12 := by omega
      simp [State.putQuire, State.newOp, this, Quire.onLanes]
    · rename_i hf
      rw [mapLanes_advance h']
      have : o.flag < 12 := by omega
      simp [State.putQuire, State.newOp, this]

theorem issues_of {i : Instr} {s : State} {c : Ctx} {k : Nat} {o : Op} (h : s.ctx? = some c)
    (he : exec i s = .next (s.issueStep c k o)) (hb : o.blk = c.b) (hq : o.q = c.q) : Issues i s c k o := by
  unfold Issues
  rw [he, issueStep_eq h hb hq]

theorem stampOrder_place (s : State) (Q : Quire) (o : Op) : (s.stampOrder Q o).blk = o.blk ∧ (s.stampOrder Q o).q = o.q := by
  unfold State.stampOrder
  dsimp only
  split
  · exact ⟨rfl, rfl⟩
  · split <;> exact ⟨rfl, rfl⟩

/-! ### The supervisor core -/

theorem privileged_sup {s : State} {c : Ctx} (h : s.ctx? = some c) (hs : c.B.sup = true) (p : BitVec 3) (n : Bool) (k : Nat) (f : Ctx → Out) :
    privileged s p n k f = f c := by
  simp [privileged, h, hs]

theorem privileged_user {s : State} {c : Ctx} (h : s.ctx? = some c) (hs : c.B.sup = false) {p : BitVec 3} {n : Bool}
    (hg : guardOk c.Q.gp p n = true) (k : Nat) (f : Ctx → Out) :
    privileged s p n k f = .next (s.endTask c.b 5 (some
      { cause := 2, detail := 0, clause := c.gr.clause, widx := c.gr.widx, lane := c.members.headD 0, ea := 0#64 })) := by
  simp [privileged, h, hs, hg, State.raise, State.faultAt, (State.ctx_iff.1 h).2.1, causePrivilege, Group.failing, causeIllegal]

/-- A privileged instruction whose guard is false goes by at either privilege (R34, R35). -/
theorem privileged_false {s : State} {c : Ctx} (h : s.ctx? = some c) (hs : c.B.sup = false) {p : BitVec 3} {n : Bool}
    (hg : guardOk c.Q.gp p n = false) (k : Nat) (f : Ctx → Out) : privileged s p n k f = .next (s.advance c k) := by
  simp [privileged, h, hs, hg]

theorem sysOnce_sup {s : State} {c : Ctx} (h : s.ctx? = some c) (hs : c.B.sup = true) (w : W2) (f : Ctx → Out) :
    sysOnce w s f = if (c.uniform w.p w.n).isEmpty then .next (s.putQuire c (c.past 2 c.Q)) else f c := by
  simp [sysOnce, privileged, h, hs, State.advance_ctx h]

theorem replyG_eq {s : State} {c : Ctx} (h : s.ctx? = some c) (d : BitVec 7) (v : Nat) :
    s.replyG c d v = s.putQuire c (c.past 2 (c.Q.setG d.toNat (BitVec.ofNat 32 v))) := by
  unfold State.replyG
  rw [updQuire_advance h]
  rfl

/-- A fault of a user block's instruction ends its task with the report. -/
theorem raise_user {s : State} {c : Ctx} (h : s.ctx? = some c) (hs : c.B.sup = false) (cause detail lane : Nat) (ea : BitVec 64) :
    s.raise c cause detail lane ea = s.endTask c.b 5 (some
      { cause, detail, clause := c.gr.clause, widx := c.gr.widx, lane, ea, word := c.gr.failing cause }) := by
  simp [State.raise, State.faultAt, (State.ctx_iff.1 h).2.1, hs]

/-! ### Accesses that pass their checks -/

theorem touchTlb_ctx {s : State} {c : Ctx} (h : s.ctx? = some c) (k p v : Nat) : (s.touchTlb k p v).ctx? = some c := by
  obtain ⟨hc, hB, hQ, hg⟩ := State.ctx_iff.1 h
  unfold State.touchTlb
  split
  · exact State.ctx_iff.2 ⟨hc, hB, hQ, hg⟩
  · exact h

theorem touchTlb_rest (s : State) (k p v : Nat) : (s.touchTlb k p v).next = s.next ∧ (s.touchTlb k p v).tarns = s.tarns ∧
    (s.touchTlb k p v).blocks = s.blocks ∧ (s.touchTlb k p v).mem = s.mem ∧ (s.touchTlb k p v).ops = s.ops := by
  unfold State.touchTlb; split <;> exact ⟨rfl, rfl, rfl, rfl, rfl⟩

theorem touches_ctx {c : Ctx} (k p : Nat) (vs : List Nat) :
    ∀ {s : State}, s.ctx? = some c → (vs.foldl (fun s va => s.touchTlb k p va) s).ctx? = some c := by
  induction vs with
  | nil => intro s h; exact h
  | cons v vs ih => intro s h; exact ih (touchTlb_ctx h _ _ _)

theorem touches_rest (k p : Nat) (vs : List Nat) : ∀ (s : State), let r := vs.foldl (fun s va => s.touchTlb k p va) s
    r.next = s.next ∧ r.tarns = s.tarns ∧ r.blocks = s.blocks ∧ r.mem = s.mem ∧ r.ops = s.ops := by
  induction vs with
  | nil => intro s; exact ⟨rfl, rfl, rfl, rfl, rfl⟩
  | cons v vs ih =>
    intro s
    obtain ⟨a, b, c, d, e⟩ := ih (s.touchTlb k p v)
    obtain ⟨a', b', c', d', e'⟩ := touchTlb_rest s k p v
    exact ⟨a.trans a', b.trans b', c.trans c', d.trans d', e.trans e'⟩

theorem lookedUp_ctx {s : State} {c : Ctx} {ls : List Nat} {ea : Nat → BitVec 64} {n : Nat} (h : s.ctx? = some c) :
    (LookedUp s c ls ea n).ctx? = some c := touches_ctx _ _ _ h

theorem lookedUp_rest (s : State) (c : Ctx) (ls : List Nat) (ea : Nat → BitVec 64) (n : Nat) : let r := LookedUp s c ls ea n
    r.next = s.next ∧ r.tarns = s.tarns ∧ r.blocks = s.blocks ∧ r.mem = s.mem ∧ r.ops = s.ops := touches_rest _ _ _ _

theorem xlate_hit {s : State} {c part va : Nat} {u w : Bool} {x : Xlat} (h : (s.core c).tlbHit part va = some x)
    (hp : x.permits u w false va = true) : s.xlate c part u w false va = .ok x := by simp [State.xlate, h, hp]

theorem accessBad_none {s : State} {c : Ctx} {ea n al : Nat} {wr : Bool} {attr : Xlat → Option Nat}
    (h1 : c.B.mayAccess wr ea n = true) (h2 : ea % al = 0)
    (h3 : ∀ va ∈ pagesOf ea n, ∃ x, (s.core c.B.core).tlbHit (s.partOf c.B) va = some x ∧
      x.permits (!c.B.sup) wr false va = true ∧ attr x = none) : s.accessBad c ea n al wr attr = none := by
  simp only [State.accessBad, h1, h2]
  simp
  generalize pagesOf ea n = ps at h3
  induction ps with
  | nil => rfl
  | cons p ps ih =>
    obtain ⟨x, hx, hp, ha⟩ := h3 p (by simp)
    simp only [List.foldl_cons]
    rw [xlate_hit hx hp]
    simp [ha]
    exact ih fun va hv => h3 va (by simp [hv])

theorem pages_of_leased {c : Ctx} {wr : Bool} {ea : Nat → BitVec 64} {n : Nat} (ls : List Nat)
    (h : ∀ l ∈ ls, c.B.mayAccess wr (ea l).toNat n = true) : ∀ a,
    ls.foldl (fun a l => if c.B.mayAccess wr (ea l).toNat n then a ++ pagesOf (ea l).toNat n else a) a =
      ls.foldl (fun a l => a ++ pagesOf (ea l).toNat n) a := by
  induction ls with
  | nil => intro a; rfl
  | cons l ls ih =>
    intro a
    simp only [List.foldl_cons, h l (by simp), if_true]
    exact ih (fun l' hl' => h l' (by simp [hl'])) _

theorem mem_pages {ea : Nat → BitVec 64} {n : Nat} (ls : List Nat) : ∀ a v,
    v ∈ ls.foldl (fun a l => a ++ pagesOf (ea l).toNat n) a → v ∈ a ∨ ∃ l ∈ ls, v ∈ pagesOf (ea l).toNat n := by
  induction ls with
  | nil => intro a v h; exact .inl h
  | cons l ls ih =>
    intro a v h
    rcases ih _ _ h with h | ⟨l', h1, h2⟩
    · rcases List.mem_append.1 h with h | h
      · exact .inl h
      · exact .inr ⟨l, by simp, h⟩
    · exact .inr ⟨l', by simp [h1], h2⟩

/-- Granted accesses pass the checks of R205, and only the TLB's order of use changes. -/
theorem checkAccess_ok {s : State} {c : Ctx} {ls : List Nat} {ea : Nat → BitVec 64} {n al : Nat} {wr : Bool}
    {attr : Xlat → Option Nat} (h : Granted s c ls ea n al wr attr) :
    s.checkAccess c ls ea n al wr attr = .ok (LookedUp s c ls ea n) (AccessesOf s c ls ea) := by
  have hf := pages_of_leased (c := c) (wr := wr) (ea := ea) (n := n) ls (fun l hl => (h l hl).1) []
  unfold State.checkAccess
  simp only [hf]
  have hm : s.missing c.B.core (s.partOf c.B) (ls.foldl (fun a l => a ++ pagesOf (ea l).toNat n) []) = [] := by
    unfold State.missing
    rw [List.map_eq_nil_iff, List.filter_eq_nil_iff]
    intro va hva
    rcases mem_pages ls _ _ hva with h0 | ⟨l, hl, hv⟩
    · simp at h0
    · obtain ⟨x, hx, -⟩ := (h l hl).2.2 va (by simp [hv])
      simp [hx]
  rw [hm]
  have hb : (ls.filterMap fun l => (s.accessBad c (ea l).toNat n al wr attr).map fun k => (l, k)) = [] := by
    rw [List.filterMap_eq_nil_iff]
    intro l hl
    obtain ⟨h1, h2, h3⟩ := h l hl
    rw [accessBad_none h1 h2 fun va hv => by obtain ⟨x, a, b, d, -⟩ := h3 va (by simp [hv]); exact ⟨x, a, b, d⟩]
    rfl
  rw [hb]
  refine congrArg (Chk.ok _) ?_
  unfold AccessesOf
  clear hf hm hb
  induction ls with
  | nil => rfl
  | cons l ls ih =>
    simp only [List.filterMap_cons]
    rw [ih fun l' hl' => h l' (by simp [hl'])]
    obtain ⟨x, a, b, d, -⟩ := (h l (by simp)).2.2 (ea l).toNat (by simp)
    rw [xlate_hit a b, a]
    rfl

/-- The home of a granted access is online. -/
theorem online_granted {s : State} {c : Ctx} {ls : List Nat} {ea : Nat → BitVec 64} {n al : Nat} {wr : Bool}
    {attr : Xlat → Option Nat} (h : Granted s c ls ea n al wr attr) (s1 : State) (hs : s1.tarns = s.tarns) (a : Acc)
    (ha : a ∈ AccessesOf s c ls ea) : s1.homeOffline a.pa = false := by
  simp only [AccessesOf, List.mem_filterMap, Option.map_eq_some_iff] at ha
  obtain ⟨l, hl, x, hx, rfl⟩ := ha
  obtain ⟨y, hy, -, -, ho⟩ := (h l hl).2.2 (ea l).toNat (by simp)
  rw [hx] at hy
  cases hy
  simp only [State.homeOffline, State.tarn, hs] at ho ⊢
  simp [ho]

/-- No granted access is held for an offline home. -/
theorem holdOffline_granted {s : State} {c : Ctx} {ls : List Nat} {ea : Nat → BitVec 64} {n al : Nat} {wr : Bool}
    {attr : Xlat → Option Nat} (h : Granted s c ls ea n al wr attr) (s1 : State) (hs : s1.tarns = s.tarns) :
    s1.holdOffline c (AccessesOf s c ls ea) = (s1, AccessesOf s c ls ea) := by
  have : (AccessesOf s c ls ea).filter (fun a => s1.homeOffline a.pa) = [] :=
    List.filter_eq_nil_iff.2 fun a ha => by simp [online_granted h s1 hs a ha]
  unfold State.holdOffline
  simp only [this]

/-- A granted access waits for no room in a trap queue. -/
theorem trapsFull_granted {s : State} {c : Ctx} {ls : List Nat} {ea : Nat → BitVec 64} {n al : Nat} {wr : Bool}
    {attr : Xlat → Option Nat} (h : Granted s c ls ea n al wr attr) (s1 : State) (hs : s1.tarns = s.tarns) :
    s1.trapsFull c (AccessesOf s c ls ea) = false := by
  have : (AccessesOf s c ls ea).any (fun a => s1.homeOffline a.pa) = false :=
    List.any_eq_false.2 fun a ha => by simp [online_granted h s1 hs a ha]
  simp [State.trapsFull, this]

theorem accessesOf_lanes {s : State} {c : Ctx} {ls : List Nat} {ea : Nat → BitVec 64} {n al : Nat} {wr : Bool}
    {attr : Xlat → Option Nat} (h : Granted s c ls ea n al wr attr) : (AccessesOf s c ls ea).map (·.lane) = ls := by
  unfold AccessesOf
  induction ls with
  | nil => rfl
  | cons l ls ih =>
    obtain ⟨x, a, -⟩ := (h l (by simp)).2.2 (ea l).toNat (by simp)
    simp only [List.filterMap_cons, a, Option.map_some, List.map_cons]
    rw [ih fun l' hl' => h l' (by simp [hl'])]

/-- A granted global access goes on to its own effect. -/
theorem globalAccess_ok {s : State} {c : Ctx} {ls : List Nat} {ea : Nat → BitVec 64} {n al : Nat} {wr : Bool}
    {attr : Xlat → Option Nat} {f : State → List Acc → State} (h : Granted s c ls ea n al wr attr) :
    globalAccess s c ls ea n al wr attr f = .next (f (LookedUp s c ls ea n) (AccessesOf s c ls ea)) := by
  unfold globalAccess
  rw [checkAccess_ok h]
  simp only
  rw [trapsFull_granted h (LookedUp s c ls ea n) (lookedUp_rest s c ls ea n).2.1]
  rw [holdOffline_granted h (LookedUp s c ls ea n) (lookedUp_rest s c ls ea n).2.1]
  rfl

/-- Barrier operands in range and alike in every participant are accepted. -/
theorem barBad_none {ls : List Nat} {count id : Nat → Nat} {n : Nat}
    (h : ∀ l ∈ ls, 1 ≤ count l ∧ count l ≤ n ∧ count l = count (ls.headD 0))
    (hi : ∀ l ∈ ls, id l < 2 ^ 20 ∧ id l = id (ls.headD 0)) : barBad ls count id n = none := by
  unfold barBad
  simp only [List.head?_eq_none_iff, List.filterMap_eq_nil_iff]
  intro l hl
  obtain ⟨h1, h2, h3⟩ := h l hl
  obtain ⟨h4, h5⟩ := hi l hl
  rw [if_neg (by omega), if_neg (by omega), if_neg]
  rw [h3, h5]
  simp

/-! ### Traps and operations -/

theorem updTarn_tarn (s : State) (t : Nat) (f : Tarn → Tarn) : (s.updTarn t f).tarn t = f (s.tarn t) := by
  simp [State.updTarn, State.tarn, tget]

theorem updTarn_tarn_ne (s : State) {t g : Nat} (f : Tarn → Tarn) (h : g ≠ t) : (s.updTarn t f).tarn g = s.tarn g := by
  simp [State.updTarn, State.tarn, tget, tget?_tput_ne _ _ h]

/-- A trap placed on a queue stands behind those before it. -/
theorem postTrap_queue (s : State) (t : Nat) (tr : Trap) : ((s.postTrap t tr).tarn t).traps = (s.tarn t).traps ++ [tr] := by
  unfold State.postTrap; rw [updTarn_tarn]

/-- Completing an operation of no flag takes it from the table and does nothing else. -/
theorem finishOp_plain {s : State} {i : Nat} {o : Op} (h : s.op? i = some o) (hf : 12 ≤ o.flag) : s.finishOp i = s.delOp i := by
  simp [State.finishOp, h, State.decFlag, hf]

end Sys2Proof.Machine
end

