-- ==== Sys2Proof/Laws/Encode.lean ====
section
/-! SUPPORT. Decoding an encoded instruction: the fields of each word come back (R33, R36, R37), and then the instruction. -/

namespace Sys2Proof

/-! ### Parts of joined bit vectors -/

theorem part_hi {m n : Nat} (x : BitVec m) (y : BitVec n) (s k : Nat) (h : n ≤ s) :
    (x ++ y).extractLsb' s k = x.extractLsb' (s - n) k := by
  apply BitVec.eq_of_getLsbD_eq; intro i hi
  simp only [BitVec.getLsbD_extractLsb', BitVec.getLsbD_append, hi, decide_true, Bool.true_and]
  rw [if_neg (by omega)]; congr 1; omega

theorem part_lo {m n : Nat} (x : BitVec m) (y : BitVec n) (s k : Nat) (h : s + k ≤ n) :
    (x ++ y).extractLsb' s k = y.extractLsb' s k := by
  apply BitVec.eq_of_getLsbD_eq; intro i hi
  simp only [BitVec.getLsbD_extractLsb', BitVec.getLsbD_append, hi, decide_true, Bool.true_and]
  rw [if_pos (by omega)]

theorem part_all {n : Nat} (x : BitVec n) : x.extractLsb' 0 n = x := by simp

theorem bit_of_part {n : Nat} (x : BitVec n) (k : Nat) (b : Bool) (h : x.extractLsb' k 1 = BitVec.ofBool b) :
    x.getLsbD k = b := by
  have := congrArg (fun v => BitVec.getLsbD v 0) h
  simpa [BitVec.getLsbD_extractLsb'] using this

/-! ### The fields of a base word -/

theorem base_parts (h : Head) (f : W1) :
    (encodeBase h f).getLsbD 31 = h.set ∧ (encodeBase h f).extractLsb' 25 6 = h.major ∧ baseFields (encodeBase h f) = f := by
  have e (s k : Nat) : (encodeBase h f).extractLsb' s k =
      (BitVec.ofBool h.set ++ h.major ++ f.p ++ BitVec.ofBool f.n ++ f.d ++ f.a ++ f.b).extractLsb' s k := rfl
  refine ⟨bit_of_part _ _ _ ?_, ?_, ?_⟩
  · rw [e]; simp (disch := omega) only [part_hi]; exact part_all _
  · rw [e]; simp (disch := omega) only [part_hi, part_lo]; exact part_all _
  · have hn : (encodeBase h f).getLsbD 21 = f.n := by
      refine bit_of_part _ _ _ ?_
      rw [e]; simp (disch := omega) only [part_hi, part_lo]; exact part_all _
    cases f
    simp only [baseFields, hn, W1.mk.injEq, true_and]
    refine ⟨?_, ?_, ?_, ?_⟩ <;> rw [e] <;> simp (disch := omega) only [part_hi, part_lo] <;> exact part_all _

/-! ### The fields of an extension word -/

theorem ext_parts (h : Head) (x : Ext) :
    (encodeExt h x).extractLsb' 26 6 = h.minor ∧ extFields (encodeExt h x) = x := by
  cases x with
  | mod c ty rnd scope cache bsrc sub =>
    have e (s k : Nat) : (encodeExt h (.mod c ty rnd scope cache bsrc sub)).extractLsb' s k =
      (h.minor ++ 0#1 ++ c ++ ty ++ rnd ++ scope ++ cache ++ bsrc ++ sub).extractLsb' s k := rfl
    have hf : (encodeExt h (.mod c ty rnd scope cache bsrc sub)).getLsbD 25 = false := by
      refine bit_of_part _ _ _ ?_
      rw [e]; simp (disch := omega) only [part_hi, part_lo]; exact part_all _
    refine ⟨?_, ?_⟩
    · rw [e]; simp (disch := omega) only [part_hi]; exact part_all _
    · simp only [extFields, hf, Bool.false_eq_true, if_false, Ext.mod.injEq]
      refine ⟨?_, ?_, ?_, ?_, ?_, ?_, ?_⟩ <;> rw [e] <;> simp (disch := omega) only [part_hi, part_lo] <;> exact part_all _
  | imm ty i =>
    have e (s k : Nat) : (encodeExt h (.imm ty i)).extractLsb' s k = (h.minor ++ 1#1 ++ ty ++ i).extractLsb' s k := rfl
    have hf : (encodeExt h (.imm ty i)).getLsbD 25 = true := by
      refine bit_of_part _ _ _ ?_
      rw [e]; simp (disch := omega) only [part_hi, part_lo]; exact part_all _
    refine ⟨?_, ?_⟩
    · rw [e]; simp (disch := omega) only [part_hi]; exact part_all _
    · simp only [extFields, hf, if_true, Ext.imm.injEq]
      refine ⟨?_, ?_⟩ <;> rw [e] <;> simp (disch := omega) only [part_hi, part_lo] <;> exact part_all _

/-! ### The shapes of instructions -/

/-- The decoder's table for the two-word majors of a set. -/
def twoOf (set : Bool) : Nat → Nat → Option (Option (W2 → Instr)) := if set then twoG else twoL

/-- The decoder's table for the one-word majors of a set. -/
def oneOf (set : Bool) : Nat → Option (W1 → Instr) := if set then oneG else oneL

theorem isTwoWord_base (h : Head) (f : W1) :
    isTwoWord (encodeBase h f) = (twoOf h.set h.major.toNat 0).isSome := by
  obtain ⟨h1, h2, -⟩ := base_parts h f
  simp only [isTwoWord, h1, h2, twoOf]
  cases h.set <;> rfl

theorem raw_w1 (h : Head) (f : W1) (c : W1 → Instr) (rest : List Word) (h0 : twoOf h.set h.major.toNat 0 = none)
    (h1 : oneOf h.set h.major.toNat = some c) : decodeRaw (encodeBase h f :: rest) = .ok (c f, 1) := by
  obtain ⟨e1, e2, e3⟩ := base_parts h f
  have h2 : decodeOne (encodeBase h f) = some (c f) := by
    simp only [decodeOne, e1, e2, e3]
    revert h1; cases h.set <;> intro h1 <;> simp [oneOf] at h1 <;> simp [h1]
  simp [decodeRaw, isTwoWord_base, h0, h2]

theorem raw_w2 (h : Head) (f : W2) (c : W2 → Instr) (rest : List Word) (h0 : (twoOf h.set h.major.toNat 0).isSome = true)
    (h1 : twoOf h.set h.major.toNat h.minor.toNat = some (some c)) :
    decodeRaw (encodeBase h ⟨f.p, f.n, f.d, f.a, f.b⟩ :: encodeExt h f.x :: rest) = .ok (c f, 2) := by
  obtain ⟨e1, e2, e3⟩ := base_parts h ⟨f.p, f.n, f.d, f.a, f.b⟩
  obtain ⟨x1, x2⟩ := ext_parts h f.x
  have h2 : decodeTwo (encodeBase h ⟨f.p, f.n, f.d, f.a, f.b⟩) (encodeExt h f.x) = some (some (c f)) := by
    simp only [decodeTwo, e1, e2, e3, x1, x2]
    revert h1; cases h.set <;> intro h1 <;> simp [twoOf] at h1 <;> simp [h1]
  simp [decodeRaw, isTwoWord_base, h0, h2]

/-- The static checks are all that decode adds to decodeRaw. -/
theorem decode_of_raw (ws : List Word) (i : Instr) (n : Nat) (h : decodeRaw ws = .ok (i, n)) (hw : i.wellFormed = true) :
    decode ws = .ok (i, n) := by
  simp only [Instr.wellFormed, Bool.and_eq_true, Option.isNone_iff_eq_none] at hw
  simp [decode, h, hw.2]

theorem round_w1 (h : Head) (f : W1) (c : W1 → Instr) (i : Instr) (hi : i = c f) (hh : i.head = some h) (hf : i.fields = some (.w1 f))
    (h0 : twoOf h.set h.major.toNat 0 = none) (h1 : oneOf h.set h.major.toNat = some c) (hw : i.wellFormed = true) :
    decode (encode i) = .ok (i, (encode i).length) := by
  have e : encode i = [encodeBase h f] := by simp [encode, hh, hf]
  rw [e]; exact decode_of_raw _ _ _ (hi ▸ raw_w1 h f c [] h0 h1) hw

theorem round_w2 (h : Head) (f : W2) (c : W2 → Instr) (i : Instr) (hi : i = c f) (hh : i.head = some h) (hf : i.fields = some (.w2 f))
    (h0 : (twoOf h.set h.major.toNat 0).isSome = true) (h1 : twoOf h.set h.major.toNat h.minor.toNat = some (some c))
    (hw : i.wellFormed = true) : decode (encode i) = .ok (i, (encode i).length) := by
  have e : encode i = [encodeBase h ⟨f.p, f.n, f.d, f.a, f.b⟩, encodeExt h f.x] := by simp [encode, hh, hf]
  rw [e]; exact decode_of_raw _ _ _ (hi ▸ raw_w2 h f c [] h0 h1) hw

/-- The fields of a branch word. -/
theorem br_parts (s : Bool) (m : BitVec 6) (f : WBr) :
    let w : Word := BitVec.ofBool s ++ m ++ f.p ++ BitVec.ofBool f.n ++ f.off
    w.getLsbD 31 = s ∧ w.extractLsb' 25 6 = m ∧ w.extractLsb' 22 3 = f.p ∧ w.getLsbD 21 = f.n ∧ w.extractLsb' 0 21 = f.off := by
  intro w
  have e (a k : Nat) : w.extractLsb' a k = (BitVec.ofBool s ++ m ++ f.p ++ BitVec.ofBool f.n ++ f.off).extractLsb' a k := rfl
  refine ⟨bit_of_part _ _ _ ?_, ?_, ?_, bit_of_part _ _ _ ?_, ?_⟩ <;> rw [e] <;> simp (disch := omega) only [part_hi, part_lo] <;>
    exact part_all _

/-- The fields of a SYSC word. -/
theorem sysc_parts (s : Bool) (m : BitVec 6) (f : WSysc) :
    let w : Word := BitVec.ofBool s ++ m ++ f.p ++ BitVec.ofBool f.n ++ f.z ++ f.service
    w.getLsbD 31 = s ∧ w.extractLsb' 25 6 = m ∧ w.extractLsb' 22 3 = f.p ∧ w.getLsbD 21 = f.n ∧ w.extractLsb' 16 5 = f.z ∧
      w.extractLsb' 0 16 = f.service := by
  intro w
  have e (a k : Nat) : w.extractLsb' a k = (BitVec.ofBool s ++ m ++ f.p ++ BitVec.ofBool f.n ++ f.z ++ f.service).extractLsb' a k := rfl
  refine ⟨bit_of_part _ _ _ ?_, ?_, ?_, bit_of_part _ _ _ ?_, ?_, ?_⟩ <;> rw [e] <;> simp (disch := omega) only [part_hi, part_lo] <;>
    exact part_all _

theorem raw_br (w : Word) (set : Bool) (f : WBr) (e1 : w.getLsbD 31 = set) (e2 : w.extractLsb' 25 6 = 0#6)
    (e3 : w.extractLsb' 22 3 = f.p) (e4 : w.getLsbD 21 = f.n) (e5 : w.extractLsb' 0 21 = f.off) :
    decodeRaw [w] = .ok (if set then .gbra f else .bra f, 1) := by
  have h1 : isTwoWord w = false := by simp only [isTwoWord, e1, e2]; cases set <;> rfl
  have h2 : decodeOne w = some (if set then .gbra f else .bra f) := by
    simp only [decodeOne, baseFields, e1, e2, e3, e4, e5]; cases set <;> rfl
  simp only [decodeRaw, h1, h2, Bool.false_eq_true, if_false]

theorem round_bra (f : WBr) (hw : (Instr.bra f).wellFormed = true) :
    decode (encode (.bra f)) = .ok (.bra f, (encode (.bra f)).length) := by
  obtain ⟨e1, e2, e3, e4, e5⟩ := br_parts false 0#6 f
  exact decode_of_raw _ _ _ (raw_br _ false f e1 e2 e3 e4 e5) hw

theorem round_gbra (f : WBr) (hw : (Instr.gbra f).wellFormed = true) :
    decode (encode (.gbra f)) = .ok (.gbra f, (encode (.gbra f)).length) := by
  obtain ⟨e1, e2, e3, e4, e5⟩ := br_parts true 0#6 f
  exact decode_of_raw _ _ _ (raw_br _ true f e1 e2 e3 e4 e5) hw

theorem raw_sysc (w : Word) (f : WSysc) (e1 : w.getLsbD 31 = true) (e2 : w.extractLsb' 25 6 = 0x2A#6)
    (e3 : w.extractLsb' 22 3 = f.p) (e4 : w.getLsbD 21 = f.n) (e5 : w.extractLsb' 16 5 = f.z) (e6 : w.extractLsb' 0 16 = f.service) :
    decodeRaw [w] = .ok (.sysc f, 1) := by
  have h1 : isTwoWord w = false := by simp only [isTwoWord, e1, e2]; rfl
  have h2 : decodeOne w = some (.sysc f) := by
    simp only [decodeOne, baseFields, e1, e2, e3, e4, e5, e6]; rfl
  simp only [decodeRaw, h1, h2, Bool.false_eq_true, if_false]

theorem round_sysc (f : WSysc) (hw : (Instr.sysc f).wellFormed = true) :
    decode (encode (.sysc f)) = .ok (.sysc f, (encode (.sysc f)).length) := by
  obtain ⟨e1, e2, e3, e4, e5, e6⟩ := sysc_parts true 0x2A#6 f
  exact decode_of_raw _ _ _ (raw_sysc _ f e1 e2 e3 e4 e5 e6) hw

end Sys2Proof
end

