-- ==== Sys2Proof/Laws/PerInstr.lean ====
section
/-! SUPPORT. One lemma per constructor for each family of statements "for all instructions" (LAWS.json). -/

namespace Sys2Proof.Laws.RoundTrip

/-- Decoding the encoding of a well-formed instruction gives it back, with its number of words. -/
def Statement (i : Instr) : Prop := i.wellFormed = true → decode (encode i) = .ok (i, (encode i).length)

/-- An event has no word, so it is not well formed. -/
theorem of_event {i : Instr} (h : i.fields = none) : Statement i := fun w => by simp [Instr.wellFormed, h] at w

theorem bra (w : WBr) : Statement (.bra w) := round_bra w
theorem brx (w : W1) : Statement (.brx w) := round_w1 ⟨false, 1#6, 0#6, false⟩ w .brx _ rfl rfl rfl rfl rfl
theorem call (w : W2) : Statement (.call w) := round_w2 ⟨false, 2#6, 0#6, false⟩ w .call _ rfl rfl rfl rfl rfl
theorem callx (w : W1) : Statement (.callx w) := round_w1 ⟨false, 3#6, 0#6, false⟩ w .callx _ rfl rfl rfl rfl rfl
theorem ret (w : W1) : Statement (.ret w) := round_w1 ⟨false, 4#6, 0#6, false⟩ w .ret _ rfl rfl rfl rfl rfl
theorem nop (w : W1) : Statement (.nop w) := round_w1 ⟨false, 5#6, 0#6, false⟩ w .nop _ rfl rfl rfl rfl rfl
theorem exit (w : W2) : Statement (.exit w) := round_w2 ⟨false, 6#6, 0#6, false⟩ w .exit _ rfl rfl rfl rfl rfl
theorem tail (w : W2) : Statement (.tail w) := round_w2 ⟨false, 6#6, 1#6, false⟩ w .tail _ rfl rfl rfl rfl rfl
theorem yield (w : W2) : Statement (.yield w) := round_w2 ⟨false, 6#6, 2#6, false⟩ w .yield _ rfl rfl rfl rfl rfl
theorem nap (w : W2) : Statement (.nap w) := round_w2 ⟨false, 6#6, 3#6, false⟩ w .nap _ rfl rfl rfl rfl rfl
theorem qsync (w : W2) : Statement (.qsync w) := round_w2 ⟨false, 6#6, 4#6, false⟩ w .qsync _ rfl rfl rfl rfl rfl
theorem bkpt (w : W2) : Statement (.bkpt w) := round_w2 ⟨false, 6#6, 5#6, false⟩ w .bkpt _ rfl rfl rfl rfl rfl
theorem trap (w : W2) : Statement (.trap w) := round_w2 ⟨false, 6#6, 6#6, false⟩ w .trap _ rfl rfl rfl rfl rfl
theorem rank (w : W2) : Statement (.rank w) := round_w2 ⟨false, 7#6, 0#6, false⟩ w .rank _ rfl rfl rfl rfl rfl
theorem plop (w : W2) : Statement (.plop w) := round_w2 ⟨false, 7#6, 1#6, false⟩ w .plop _ rfl rfl rfl rfl rfl
theorem s2v (w : W2) : Statement (.s2v w) := round_w2 ⟨false, 7#6, 2#6, false⟩ w .s2v _ rfl rfl rfl rfl rfl
theorem s2g (w : W2) : Statement (.s2g w) := round_w2 ⟨false, 7#6, 3#6, false⟩ w .s2g _ rfl rfl rfl rfl rfl
theorem shfl (w : W2) : Statement (.shfl w) := round_w2 ⟨false, 8#6, 0#6, false⟩ w .shfl _ rfl rfl rfl rfl rfl
theorem vote (w : W2) : Statement (.vote w) := round_w2 ⟨false, 9#6, 0#6, false⟩ w .vote _ rfl rfl rfl rfl rfl
theorem matchv (w : W2) : Statement (.matchv w) := round_w2 ⟨false, 10#6, 0#6, false⟩ w .matchv _ rfl rfl rfl rfl rfl
theorem qred (w : W2) : Statement (.qred w) := round_w2 ⟨false, 11#6, 0#6, false⟩ w .qred _ rfl rfl rfl rfl rfl
theorem iaddOneWord (w : W1) : Statement (.iaddOneWord w) := round_w1 ⟨false, 12#6, 0#6, false⟩ w .iaddOneWord _ rfl rfl rfl rfl rfl
theorem iaddTwoWord (w : W2) : Statement (.iaddTwoWord w) := round_w2 ⟨false, 21#6, 0#6, false⟩ w .iaddTwoWord _ rfl rfl rfl rfl rfl
theorem iaddc (w : W2) : Statement (.iaddc w) := round_w2 ⟨false, 21#6, 1#6, false⟩ w .iaddc _ rfl rfl rfl rfl rfl
theorem isubOneWord (w : W1) : Statement (.isubOneWord w) := round_w1 ⟨false, 13#6, 0#6, false⟩ w .isubOneWord _ rfl rfl rfl rfl rfl
theorem isubTwoWord (w : W2) : Statement (.isubTwoWord w) := round_w2 ⟨false, 21#6, 2#6, false⟩ w .isubTwoWord _ rfl rfl rfl rfl rfl
theorem isubb (w : W2) : Statement (.isubb w) := round_w2 ⟨false, 21#6, 3#6, false⟩ w .isubb _ rfl rfl rfl rfl rfl
theorem imulOneWord (w : W1) : Statement (.imulOneWord w) := round_w1 ⟨false, 14#6, 0#6, false⟩ w .imulOneWord _ rfl rfl rfl rfl rfl
theorem imulTwoWord (w : W2) : Statement (.imulTwoWord w) := round_w2 ⟨false, 21#6, 4#6, false⟩ w .imulTwoWord _ rfl rfl rfl rfl rfl
theorem imulh (w : W2) : Statement (.imulh w) := round_w2 ⟨false, 21#6, 5#6, false⟩ w .imulh _ rfl rfl rfl rfl rfl
theorem imad (w : W2) : Statement (.imad w) := round_w2 ⟨false, 21#6, 6#6, false⟩ w .imad _ rfl rfl rfl rfl rfl
theorem imadw (w : W2) : Statement (.imadw w) := round_w2 ⟨false, 21#6, 7#6, false⟩ w .imadw _ rfl rfl rfl rfl rfl
theorem imin (w : W2) : Statement (.imin w) := round_w2 ⟨false, 21#6, 8#6, false⟩ w .imin _ rfl rfl rfl rfl rfl
theorem imax (w : W2) : Statement (.imax w) := round_w2 ⟨false, 21#6, 9#6, false⟩ w .imax _ rfl rfl rfl rfl rfl
theorem iabs (w : W2) : Statement (.iabs w) := round_w2 ⟨false, 21#6, 10#6, false⟩ w .iabs _ rfl rfl rfl rfl rfl
theorem ineg (w : W2) : Statement (.ineg w) := round_w2 ⟨false, 21#6, 11#6, false⟩ w .ineg _ rfl rfl rfl rfl rfl
theorem isad (w : W2) : Statement (.isad w) := round_w2 ⟨false, 21#6, 12#6, false⟩ w .isad _ rfl rfl rfl rfl rfl
theorem andOneWord (w : W1) : Statement (.andOneWord w) := round_w1 ⟨false, 15#6, 0#6, false⟩ w .andOneWord _ rfl rfl rfl rfl rfl
theorem andTwoWord (w : W2) : Statement (.andTwoWord w) := round_w2 ⟨false, 22#6, 0#6, false⟩ w .andTwoWord _ rfl rfl rfl rfl rfl
theorem orOneWord (w : W1) : Statement (.orOneWord w) := round_w1 ⟨false, 16#6, 0#6, false⟩ w .orOneWord _ rfl rfl rfl rfl rfl
theorem orTwoWord (w : W2) : Statement (.orTwoWord w) := round_w2 ⟨false, 22#6, 1#6, false⟩ w .orTwoWord _ rfl rfl rfl rfl rfl
theorem xorOneWord (w : W1) : Statement (.xorOneWord w) := round_w1 ⟨false, 17#6, 0#6, false⟩ w .xorOneWord _ rfl rfl rfl rfl rfl
theorem xorTwoWord (w : W2) : Statement (.xorTwoWord w) := round_w2 ⟨false, 22#6, 2#6, false⟩ w .xorTwoWord _ rfl rfl rfl rfl rfl
theorem andn (w : W2) : Statement (.andn w) := round_w2 ⟨false, 22#6, 3#6, false⟩ w .andn _ rfl rfl rfl rfl rfl
theorem lop3 (w : W2) : Statement (.lop3 w) := round_w2 ⟨false, 22#6, 4#6, false⟩ w .lop3 _ rfl rfl rfl rfl rfl
theorem shlOneWord (w : W1) : Statement (.shlOneWord w) := round_w1 ⟨false, 18#6, 0#6, false⟩ w .shlOneWord _ rfl rfl rfl rfl rfl
theorem shlTwoWord (w : W2) : Statement (.shlTwoWord w) := round_w2 ⟨false, 23#6, 0#6, false⟩ w .shlTwoWord _ rfl rfl rfl rfl rfl
theorem shrOneWord (w : W1) : Statement (.shrOneWord w) := round_w1 ⟨false, 19#6, 0#6, false⟩ w .shrOneWord _ rfl rfl rfl rfl rfl
theorem shrTwoWord (w : W2) : Statement (.shrTwoWord w) := round_w2 ⟨false, 23#6, 1#6, false⟩ w .shrTwoWord _ rfl rfl rfl rfl rfl
theorem sar (w : W2) : Statement (.sar w) := round_w2 ⟨false, 23#6, 2#6, false⟩ w .sar _ rfl rfl rfl rfl rfl
theorem shf (w : W2) : Statement (.shf w) := round_w2 ⟨false, 23#6, 3#6, false⟩ w .shf _ rfl rfl rfl rfl rfl
theorem popc (w : W2) : Statement (.popc w) := round_w2 ⟨false, 23#6, 4#6, false⟩ w .popc _ rfl rfl rfl rfl rfl
theorem clz (w : W2) : Statement (.clz w) := round_w2 ⟨false, 23#6, 5#6, false⟩ w .clz _ rfl rfl rfl rfl rfl
theorem ctz (w : W2) : Statement (.ctz w) := round_w2 ⟨false, 23#6, 6#6, false⟩ w .ctz _ rfl rfl rfl rfl rfl
theorem brev (w : W2) : Statement (.brev w) := round_w2 ⟨false, 23#6, 7#6, false⟩ w .brev _ rfl rfl rfl rfl rfl
theorem bfx (w : W2) : Statement (.bfx w) := round_w2 ⟨false, 23#6, 8#6, false⟩ w .bfx _ rfl rfl rfl rfl rfl
theorem bfi (w : W2) : Statement (.bfi w) := round_w2 ⟨false, 23#6, 9#6, false⟩ w .bfi _ rfl rfl rfl rfl rfl
theorem iset (w : W2) : Statement (.iset w) := round_w2 ⟨false, 24#6, 0#6, false⟩ w .iset _ rfl rfl rfl rfl rfl
theorem isel (w : W2) : Statement (.isel w) := round_w2 ⟨false, 24#6, 1#6, false⟩ w .isel _ rfl rfl rfl rfl rfl
theorem movOneWord (w : W1) : Statement (.movOneWord w) := round_w1 ⟨false, 20#6, 0#6, false⟩ w .movOneWord _ rfl rfl rfl rfl rfl
theorem movTwoWord (w : W2) : Statement (.movTwoWord w) := round_w2 ⟨false, 24#6, 2#6, false⟩ w .movTwoWord _ rfl rfl rfl rfl rfl
theorem movi (w : W2) : Statement (.movi w) := round_w2 ⟨false, 24#6, 3#6, false⟩ w .movi _ rfl rfl rfl rfl rfl
theorem lea (w : W2) : Statement (.lea w) := round_w2 ⟨false, 24#6, 4#6, false⟩ w .lea _ rfl rfl rfl rfl rfl
theorem prmt (w : W2) : Statement (.prmt w) := round_w2 ⟨false, 24#6, 5#6, false⟩ w .prmt _ rfl rfl rfl rfl rfl
theorem faddOneWord (w : W1) : Statement (.faddOneWord w) := round_w1 ⟨false, 28#6, 0#6, false⟩ w .faddOneWord _ rfl rfl rfl rfl rfl
theorem faddTwoWord (w : W2) : Statement (.faddTwoWord w) := round_w2 ⟨false, 30#6, 0#6, false⟩ w .faddTwoWord _ rfl rfl rfl rfl rfl
theorem fmulOneWord (w : W1) : Statement (.fmulOneWord w) := round_w1 ⟨false, 29#6, 0#6, false⟩ w .fmulOneWord _ rfl rfl rfl rfl rfl
theorem fmulTwoWord (w : W2) : Statement (.fmulTwoWord w) := round_w2 ⟨false, 30#6, 1#6, false⟩ w .fmulTwoWord _ rfl rfl rfl rfl rfl
theorem ffma (w : W2) : Statement (.ffma w) := round_w2 ⟨false, 30#6, 2#6, false⟩ w .ffma _ rfl rfl rfl rfl rfl
theorem fmin (w : W2) : Statement (.fmin w) := round_w2 ⟨false, 30#6, 3#6, false⟩ w .fmin _ rfl rfl rfl rfl rfl
theorem fmax (w : W2) : Statement (.fmax w) := round_w2 ⟨false, 30#6, 4#6, false⟩ w .fmax _ rfl rfl rfl rfl rfl
theorem fset (w : W2) : Statement (.fset w) := round_w2 ⟨false, 30#6, 5#6, false⟩ w .fset _ rfl rfl rfl rfl rfl
theorem fclass (w : W2) : Statement (.fclass w) := round_w2 ⟨false, 30#6, 6#6, false⟩ w .fclass _ rfl rfl rfl rfl rfl
theorem frnd (w : W2) : Statement (.frnd w) := round_w2 ⟨false, 30#6, 7#6, false⟩ w .frnd _ rfl rfl rfl rfl rfl
theorem fscl (w : W2) : Statement (.fscl w) := round_w2 ⟨false, 30#6, 8#6, false⟩ w .fscl _ rfl rfl rfl rfl rfl
theorem frcp (w : W2) : Statement (.frcp w) := round_w2 ⟨false, 31#6, 0#6, true⟩ w .frcp _ rfl rfl rfl rfl rfl
theorem frsq (w : W2) : Statement (.frsq w) := round_w2 ⟨false, 31#6, 1#6, true⟩ w .frsq _ rfl rfl rfl rfl rfl
theorem fsqrt (w : W2) : Statement (.fsqrt w) := round_w2 ⟨false, 31#6, 2#6, true⟩ w .fsqrt _ rfl rfl rfl rfl rfl
theorem fex2 (w : W2) : Statement (.fex2 w) := round_w2 ⟨false, 31#6, 3#6, true⟩ w .fex2 _ rfl rfl rfl rfl rfl
theorem flg2 (w : W2) : Statement (.flg2 w) := round_w2 ⟨false, 31#6, 4#6, true⟩ w .flg2 _ rfl rfl rfl rfl rfl
theorem fsin (w : W2) : Statement (.fsin w) := round_w2 ⟨false, 31#6, 5#6, true⟩ w .fsin _ rfl rfl rfl rfl rfl
theorem fcos (w : W2) : Statement (.fcos w) := round_w2 ⟨false, 31#6, 6#6, true⟩ w .fcos _ rfl rfl rfl rfl rfl
theorem hadd2 (w : W2) : Statement (.hadd2 w) := round_w2 ⟨false, 32#6, 0#6, false⟩ w .hadd2 _ rfl rfl rfl rfl rfl
theorem hmul2 (w : W2) : Statement (.hmul2 w) := round_w2 ⟨false, 32#6, 1#6, false⟩ w .hmul2 _ rfl rfl rfl rfl rfl
theorem hfma2 (w : W2) : Statement (.hfma2 w) := round_w2 ⟨false, 32#6, 2#6, false⟩ w .hfma2 _ rfl rfl rfl rfl rfl
theorem hmnx2 (w : W2) : Statement (.hmnx2 w) := round_w2 ⟨false, 32#6, 3#6, false⟩ w .hmnx2 _ rfl rfl rfl rfl rfl
theorem cvt (w : W2) : Statement (.cvt w) := round_w2 ⟨false, 36#6, 0#6, false⟩ w .cvt _ rfl rfl rfl rfl rfl
theorem cvtp (w : W2) : Statement (.cvtp w) := round_w2 ⟨false, 36#6, 1#6, false⟩ w .cvtp _ rfl rfl rfl rfl rfl
theorem cvtx (w : W2) : Statement (.cvtx w) := round_w2 ⟨false, 36#6, 2#6, false⟩ w .cvtx _ rfl rfl rfl rfl rfl
theorem f2i (w : W2) : Statement (.f2i w) := round_w2 ⟨false, 36#6, 3#6, false⟩ w .f2i _ rfl rfl rfl rfl rfl
theorem i2f (w : W2) : Statement (.i2f w) := round_w2 ⟨false, 36#6, 4#6, false⟩ w .i2f _ rfl rfl rfl rfl rfl
theorem qblk (w : W2) : Statement (.qblk w) := round_w2 ⟨false, 37#6, 0#6, false⟩ w .qblk _ rfl rfl rfl rfl rfl
theorem qtile (w : W2) : Statement (.qtile w) := round_w2 ⟨false, 37#6, 1#6, true⟩ w .qtile _ rfl rfl rfl rfl rfl
theorem unq (w : W2) : Statement (.unq w) := round_w2 ⟨false, 37#6, 2#6, false⟩ w .unq _ rfl rfl rfl rfl rfl
theorem plx (w : W2) : Statement (.plx w) := round_w2 ⟨false, 37#6, 3#6, false⟩ w .plx _ rfl rfl rfl rfl rfl
theorem pli (w : W2) : Statement (.pli w) := round_w2 ⟨false, 37#6, 4#6, false⟩ w .pli _ rfl rfl rfl rfl rfl
theorem trlck (w : W2) : Statement (.trlck w) := round_w2 ⟨false, 37#6, 5#6, true⟩ w .trlck _ rfl rfl rfl rfl rfl
theorem sclx (w : W2) : Statement (.sclx w) := round_w2 ⟨false, 37#6, 6#6, false⟩ w .sclx _ rfl rfl rfl rfl rfl
theorem ld (w : W2) : Statement (.ld w) := round_w2 ⟨false, 40#6, 0#6, true⟩ w .ld _ rfl rfl rfl rfl rfl
theorem st (w : W2) : Statement (.st w) := round_w2 ⟨false, 41#6, 0#6, false⟩ w .st _ rfl rfl rfl rfl rfl
theorem lds (w : W2) : Statement (.lds w) := round_w2 ⟨false, 42#6, 0#6, true⟩ w .lds _ rfl rfl rfl rfl rfl
theorem sts (w : W2) : Statement (.sts w) := round_w2 ⟨false, 42#6, 1#6, false⟩ w .sts _ rfl rfl rfl rfl rfl
theorem ldp (w : W2) : Statement (.ldp w) := round_w2 ⟨false, 43#6, 0#6, true⟩ w .ldp _ rfl rfl rfl rfl rfl
theorem stp (w : W2) : Statement (.stp w) := round_w2 ⟨false, 43#6, 1#6, false⟩ w .stp _ rfl rfl rfl rfl rfl
theorem ldt (w : W2) : Statement (.ldt w) := round_w2 ⟨false, 44#6, 0#6, true⟩ w .ldt _ rfl rfl rfl rfl rfl
theorem stt (w : W2) : Statement (.stt w) := round_w2 ⟨false, 44#6, 1#6, false⟩ w .stt _ rfl rfl rfl rfl rfl
theorem tdef (w : W2) : Statement (.tdef w) := round_w2 ⟨false, 44#6, 2#6, false⟩ w .tdef _ rfl rfl rfl rfl rfl
theorem tset (w : W2) : Statement (.tset w) := round_w2 ⟨false, 44#6, 3#6, false⟩ w .tset _ rfl rfl rfl rfl rfl
theorem tqry (w : W2) : Statement (.tqry w) := round_w2 ⟨false, 44#6, 4#6, false⟩ w .tqry _ rfl rfl rfl rfl rfl
theorem pref (w : W2) : Statement (.pref w) := round_w2 ⟨false, 45#6, 0#6, false⟩ w .pref _ rfl rfl rfl rfl rfl
theorem cctl (w : W2) : Statement (.cctl w) := round_w2 ⟨false, 45#6, 1#6, true⟩ w .cctl _ rfl rfl rfl rfl rfl
theorem tagld (w : W2) : Statement (.tagld w) := round_w2 ⟨false, 45#6, 2#6, true⟩ w .tagld _ rfl rfl rfl rfl rfl
theorem tagst (w : W2) : Statement (.tagst w) := round_w2 ⟨false, 45#6, 3#6, false⟩ w .tagst _ rfl rfl rfl rfl rfl
theorem fence (w : W2) : Statement (.fence w) := round_w2 ⟨false, 48#6, 0#6, false⟩ w .fence _ rfl rfl rfl rfl rfl
theorem fsp (w : W1) : Statement (.fsp w) := round_w1 ⟨false, 49#6, 0#6, false⟩ w .fsp _ rfl rfl rfl rfl rfl
theorem atom (w : W2) : Statement (.atom w) := round_w2 ⟨false, 50#6, 0#6, true⟩ w .atom _ rfl rfl rfl rfl rfl
theorem red (w : W2) : Statement (.red w) := round_w2 ⟨false, 51#6, 0#6, true⟩ w .red _ rfl rfl rfl rfl rfl
theorem atoms (w : W2) : Statement (.atoms w) := round_w2 ⟨false, 52#6, 0#6, true⟩ w .atoms _ rfl rfl rfl rfl rfl
theorem atomp (w : W2) : Statement (.atomp w) := round_w2 ⟨false, 52#6, 1#6, true⟩ w .atomp _ rfl rfl rfl rfl rfl
theorem redp (w : W2) : Statement (.redp w) := round_w2 ⟨false, 52#6, 2#6, true⟩ w .redp _ rfl rfl rfl rfl rfl
theorem pusht (w : W2) : Statement (.pusht w) := round_w2 ⟨false, 53#6, 0#6, true⟩ w .pusht _ rfl rfl rfl rfl rfl
theorem taket (w : W2) : Statement (.taket w) := round_w2 ⟨false, 53#6, 1#6, true⟩ w .taket _ rfl rfl rfl rfl rfl
theorem takeh (w : W2) : Statement (.takeh w) := round_w2 ⟨false, 53#6, 2#6, true⟩ w .takeh _ rfl rfl rfl rfl rfl
theorem prop (w : W2) : Statement (.prop w) := round_w2 ⟨false, 54#6, 0#6, true⟩ w .prop _ rfl rfl rfl rfl rfl
theorem dread (w : W2) : Statement (.dread w) := round_w2 ⟨false, 54#6, 1#6, true⟩ w .dread _ rfl rfl rfl rfl rfl
theorem dwait (w : W2) : Statement (.dwait w) := round_w2 ⟨false, 54#6, 2#6, true⟩ w .dwait _ rfl rfl rfl rfl rfl
theorem recy (w : W2) : Statement (.recy w) := round_w2 ⟨false, 54#6, 3#6, true⟩ w .recy _ rfl rfl rfl rfl rfl
theorem dqry (w : W2) : Statement (.dqry w) := round_w2 ⟨false, 55#6, 0#6, true⟩ w .dqry _ rfl rfl rfl rfl rfl
theorem dinit (w : W2) : Statement (.dinit w) := round_w2 ⟨false, 55#6, 1#6, true⟩ w .dinit _ rfl rfl rfl rfl rfl
theorem bara (w : W2) : Statement (.bara w) := round_w2 ⟨false, 56#6, 0#6, false⟩ w .bara _ rfl rfl rfl rfl rfl
theorem bars (w : W2) : Statement (.bars w) := round_w2 ⟨false, 56#6, 1#6, false⟩ w .bars _ rfl rfl rfl rfl rfl
theorem barr (w : W2) : Statement (.barr w) := round_w2 ⟨false, 56#6, 2#6, false⟩ w .barr _ rfl rfl rfl rfl rfl
theorem sbar (w : W2) : Statement (.sbar w) := round_w2 ⟨false, 57#6, 0#6, false⟩ w .sbar _ rfl rfl rfl rfl rfl
theorem sbara (w : W2) : Statement (.sbara w) := round_w2 ⟨false, 57#6, 1#6, true⟩ w .sbara _ rfl rfl rfl rfl rfl
theorem waitx (w : W2) : Statement (.waitx w) := round_w2 ⟨false, 57#6, 2#6, false⟩ w .waitx _ rfl rfl rfl rfl rfl
theorem sigx (w : W2) : Statement (.sigx w) := round_w2 ⟨false, 57#6, 3#6, false⟩ w .sigx _ rfl rfl rfl rfl rfl
theorem acp (w : W2) : Statement (.acp w) := round_w2 ⟨false, 58#6, 0#6, true⟩ w .acp _ rfl rfl rfl rfl rfl
theorem acpg (w : W2) : Statement (.acpg w) := round_w2 ⟨false, 58#6, 1#6, true⟩ w .acpg _ rfl rfl rfl rfl rfl
theorem acpr (w : W2) : Statement (.acpr w) := round_w2 ⟨false, 58#6, 2#6, true⟩ w .acpr _ rfl rfl rfl rfl rfl
theorem cwait (w : W2) : Statement (.cwait w) := round_w2 ⟨false, 59#6, 0#6, false⟩ w .cwait _ rfl rfl rfl rfl rfl
theorem shdw (w : W2) : Statement (.shdw w) := round_w2 ⟨false, 59#6, 1#6, true⟩ w .shdw _ rfl rfl rfl rfl rfl
theorem publ (w : W2) : Statement (.publ w) := round_w2 ⟨false, 59#6, 2#6, true⟩ w .publ _ rfl rfl rfl rfl rfl
theorem abnd (w : W2) : Statement (.abnd w) := round_w2 ⟨false, 59#6, 3#6, true⟩ w .abnd _ rfl rfl rfl rfl rfl
theorem obres (w : W2) : Statement (.obres w) := round_w2 ⟨false, 60#6, 0#6, false⟩ w .obres _ rfl rfl rfl rfl rfl
theorem obrel (w : W2) : Statement (.obrel w) := round_w2 ⟨false, 60#6, 1#6, false⟩ w .obrel _ rfl rfl rfl rfl rfl
theorem obld (w : W2) : Statement (.obld w) := round_w2 ⟨false, 60#6, 2#6, true⟩ w .obld _ rfl rfl rfl rfl rfl
theorem obldg (w : W2) : Statement (.obldg w) := round_w2 ⟨false, 60#6, 3#6, true⟩ w .obldg _ rfl rfl rfl rfl rfl
theorem msign (w : W2) : Statement (.msign w) := round_w2 ⟨false, 60#6, 4#6, false⟩ w .msign _ rfl rfl rfl rfl rfl
theorem mma (w : W2) : Statement (.mma w) := round_w2 ⟨false, 61#6, 0#6, true⟩ w .mma _ rfl rfl rfl rfl rfl
theorem mmaq (w : W2) : Statement (.mmaq w) := round_w2 ⟨false, 61#6, 1#6, true⟩ w .mmaq _ rfl rfl rfl rfl rfl
theorem accz (w : W2) : Statement (.accz w) := round_w2 ⟨false, 61#6, 2#6, true⟩ w .accz _ rfl rfl rfl rfl rfl
theorem accst (w : W2) : Statement (.accst w) := round_w2 ⟨false, 61#6, 3#6, true⟩ w .accst _ rfl rfl rfl rfl rfl
theorem accrd (w : W2) : Statement (.accrd w) := round_w2 ⟨false, 61#6, 4#6, true⟩ w .accrd _ rfl rfl rfl rfl rfl
theorem sprg (w : W2) : Statement (.sprg w) := round_w2 ⟨false, 62#6, 0#6, false⟩ w .sprg _ rfl rfl rfl rfl rfl
theorem sprgw (w : W2) : Statement (.sprgw w) := round_w2 ⟨false, 62#6, 1#6, true⟩ w .sprgw _ rfl rfl rfl rfl rfl
theorem gbra (w : WBr) : Statement (.gbra w) := round_gbra w
theorem gloop (w : W2) : Statement (.gloop w) := round_w2 ⟨true, 1#6, 0#6, false⟩ w .gloop _ rfl rfl rfl rfl rfl
theorem gaddOneWord (w : W1) : Statement (.gaddOneWord w) := round_w1 ⟨true, 2#6, 0#6, false⟩ w .gaddOneWord _ rfl rfl rfl rfl rfl
theorem gaddTwoWord (w : W2) : Statement (.gaddTwoWord w) := round_w2 ⟨true, 21#6, 0#6, false⟩ w .gaddTwoWord _ rfl rfl rfl rfl rfl
theorem gsubOneWord (w : W1) : Statement (.gsubOneWord w) := round_w1 ⟨true, 3#6, 0#6, false⟩ w .gsubOneWord _ rfl rfl rfl rfl rfl
theorem gsubTwoWord (w : W2) : Statement (.gsubTwoWord w) := round_w2 ⟨true, 21#6, 1#6, false⟩ w .gsubTwoWord _ rfl rfl rfl rfl rfl
theorem gmulOneWord (w : W1) : Statement (.gmulOneWord w) := round_w1 ⟨true, 4#6, 0#6, false⟩ w .gmulOneWord _ rfl rfl rfl rfl rfl
theorem gmulTwoWord (w : W2) : Statement (.gmulTwoWord w) := round_w2 ⟨true, 21#6, 2#6, false⟩ w .gmulTwoWord _ rfl rfl rfl rfl rfl
theorem gmad (w : W2) : Statement (.gmad w) := round_w2 ⟨true, 21#6, 3#6, false⟩ w .gmad _ rfl rfl rfl rfl rfl
theorem gandOneWord (w : W1) : Statement (.gandOneWord w) := round_w1 ⟨true, 5#6, 0#6, false⟩ w .gandOneWord _ rfl rfl rfl rfl rfl
theorem gandTwoWord (w : W2) : Statement (.gandTwoWord w) := round_w2 ⟨true, 21#6, 4#6, false⟩ w .gandTwoWord _ rfl rfl rfl rfl rfl
theorem gorOneWord (w : W1) : Statement (.gorOneWord w) := round_w1 ⟨true, 6#6, 0#6, false⟩ w .gorOneWord _ rfl rfl rfl rfl rfl
theorem gorTwoWord (w : W2) : Statement (.gorTwoWord w) := round_w2 ⟨true, 21#6, 5#6, false⟩ w .gorTwoWord _ rfl rfl rfl rfl rfl
theorem gxorOneWord (w : W1) : Statement (.gxorOneWord w) := round_w1 ⟨true, 7#6, 0#6, false⟩ w .gxorOneWord _ rfl rfl rfl rfl rfl
theorem gxorTwoWord (w : W2) : Statement (.gxorTwoWord w) := round_w2 ⟨true, 21#6, 6#6, false⟩ w .gxorTwoWord _ rfl rfl rfl rfl rfl
theorem gshlOneWord (w : W1) : Statement (.gshlOneWord w) := round_w1 ⟨true, 8#6, 0#6, false⟩ w .gshlOneWord _ rfl rfl rfl rfl rfl
theorem gshlTwoWord (w : W2) : Statement (.gshlTwoWord w) := round_w2 ⟨true, 21#6, 7#6, false⟩ w .gshlTwoWord _ rfl rfl rfl rfl rfl
theorem gshrOneWord (w : W1) : Statement (.gshrOneWord w) := round_w1 ⟨true, 9#6, 0#6, false⟩ w .gshrOneWord _ rfl rfl rfl rfl rfl
theorem gshrTwoWord (w : W2) : Statement (.gshrTwoWord w) := round_w2 ⟨true, 21#6, 8#6, false⟩ w .gshrTwoWord _ rfl rfl rfl rfl rfl
theorem gsarOneWord (w : W1) : Statement (.gsarOneWord w) := round_w1 ⟨true, 10#6, 0#6, false⟩ w .gsarOneWord _ rfl rfl rfl rfl rfl
theorem gsarTwoWord (w : W2) : Statement (.gsarTwoWord w) := round_w2 ⟨true, 21#6, 9#6, false⟩ w .gsarTwoWord _ rfl rfl rfl rfl rfl
theorem gminOneWord (w : W1) : Statement (.gminOneWord w) := round_w1 ⟨true, 11#6, 0#6, false⟩ w .gminOneWord _ rfl rfl rfl rfl rfl
theorem gminTwoWord (w : W2) : Statement (.gminTwoWord w) := round_w2 ⟨true, 21#6, 10#6, false⟩ w .gminTwoWord _ rfl rfl rfl rfl rfl
theorem gmaxOneWord (w : W1) : Statement (.gmaxOneWord w) := round_w1 ⟨true, 12#6, 0#6, false⟩ w .gmaxOneWord _ rfl rfl rfl rfl rfl
theorem gmaxTwoWord (w : W2) : Statement (.gmaxTwoWord w) := round_w2 ⟨true, 21#6, 11#6, false⟩ w .gmaxTwoWord _ rfl rfl rfl rfl rfl
theorem gmov (w : W1) : Statement (.gmov w) := round_w1 ⟨true, 13#6, 0#6, false⟩ w .gmov _ rfl rfl rfl rfl rfl
theorem gmovi (w : W2) : Statement (.gmovi w) := round_w2 ⟨true, 14#6, 0#6, false⟩ w .gmovi _ rfl rfl rfl rfl rfl
theorem gset (w : W2) : Statement (.gset w) := round_w2 ⟨true, 15#6, 0#6, false⟩ w .gset _ rfl rfl rfl rfl rfl
theorem gsel (w : W2) : Statement (.gsel w) := round_w2 ⟨true, 16#6, 0#6, false⟩ w .gsel _ rfl rfl rfl rfl rfl
theorem gld (w : W2) : Statement (.gld w) := round_w2 ⟨true, 17#6, 0#6, true⟩ w .gld _ rfl rfl rfl rfl rfl
theorem g2v (w : W1) : Statement (.g2v w) := round_w1 ⟨true, 18#6, 0#6, false⟩ w .g2v _ rfl rfl rfl rfl rfl
theorem v2g (w : W2) : Statement (.v2g w) := round_w2 ⟨true, 19#6, 0#6, false⟩ w .v2g _ rfl rfl rfl rfl rfl
theorem gplop (w : W2) : Statement (.gplop w) := round_w2 ⟨true, 20#6, 0#6, false⟩ w .gplop _ rfl rfl rfl rfl rfl
theorem launch (w : W2) : Statement (.launch w) := round_w2 ⟨true, 32#6, 0#6, true⟩ w .launch _ rfl rfl rfl rfl rfl
theorem spawn (w : W2) : Statement (.spawn w) := round_w2 ⟨true, 33#6, 0#6, true⟩ w .spawn _ rfl rfl rfl rfl rfl
theorem jdec (w : W2) : Statement (.jdec w) := round_w2 ⟨true, 34#6, 0#6, true⟩ w .jdec _ rfl rfl rfl rfl rfl
theorem tstat (w : W2) : Statement (.tstat w) := round_w2 ⟨true, 35#6, 0#6, true⟩ w .tstat _ rfl rfl rfl rfl rfl
theorem tcancel (w : W2) : Statement (.tcancel w) := round_w2 ⟨true, 36#6, 0#6, true⟩ w .tcancel _ rfl rfl rfl rfl rfl
theorem gang (w : W2) : Statement (.gang w) := round_w2 ⟨true, 37#6, 0#6, true⟩ w .gang _ rfl rfl rfl rfl rfl
theorem srrd (w : W2) : Statement (.srrd w) := round_w2 ⟨true, 40#6, 0#6, false⟩ w .srrd _ rfl rfl rfl rfl rfl
theorem srwr (w : W2) : Statement (.srwr w) := round_w2 ⟨true, 41#6, 0#6, false⟩ w .srwr _ rfl rfl rfl rfl rfl
theorem sysc (w : WSysc) : Statement (.sysc w) := round_sysc w
theorem eret (w : W1) : Statement (.eret w) := round_w1 ⟨true, 43#6, 0#6, false⟩ w .eret _ rfl rfl rfl rfl rfl
theorem tlbinv (w : W2) : Statement (.tlbinv w) := round_w2 ⟨true, 44#6, 0#6, false⟩ w .tlbinv _ rfl rfl rfl rfl rfl
theorem lrev (w : W2) : Statement (.lrev w) := round_w2 ⟨true, 45#6, 0#6, true⟩ w .lrev _ rfl rfl rfl rfl rfl
theorem ctxstop (w : W2) : Statement (.ctxstop w) := round_w2 ⟨true, 46#6, 0#6, true⟩ w .ctxstop _ rfl rfl rfl rfl rfl
theorem ctxgo (w : W2) : Statement (.ctxgo w) := round_w2 ⟨true, 47#6, 0#6, false⟩ w .ctxgo _ rfl rfl rfl rfl rfl
theorem wcap (w : W2) : Statement (.wcap w) := round_w2 ⟨true, 48#6, 0#6, false⟩ w .wcap _ rfl rfl rfl rfl rfl
theorem triq (w : W2) : Statement (.triq w) := round_w2 ⟨true, 49#6, 0#6, false⟩ w .triq _ rfl rfl rfl rfl rfl
theorem trirs (w : W2) : Statement (.trirs w) := round_w2 ⟨true, 50#6, 0#6, false⟩ w .trirs _ rfl rfl rfl rfl rfl
theorem twrst (w : W2) : Statement (.twrst w) := round_w2 ⟨true, 51#6, 0#6, true⟩ w .twrst _ rfl rfl rfl rfl rfl
theorem keyld (w : W2) : Statement (.keyld w) := round_w2 ⟨true, 52#6, 0#6, true⟩ w .keyld _ rfl rfl rfl rfl rfl
theorem scrub (w : W2) : Statement (.scrub w) := round_w2 ⟨true, 56#6, 0#6, true⟩ w .scrub _ rfl rfl rfl rfl rfl
theorem tiermv (w : W2) : Statement (.tiermv w) := round_w2 ⟨true, 57#6, 0#6, true⟩ w .tiermv _ rfl rfl rfl rfl rfl
theorem poison (w : W2) : Statement (.poison w) := round_w2 ⟨true, 58#6, 0#6, false⟩ w .poison _ rfl rfl rfl rfl rfl
theorem retire (w : W2) : Statement (.retire w) := round_w2 ⟨true, 59#6, 0#6, true⟩ w .retire _ rfl rfl rfl rfl rfl
theorem hinst (w : W2) : Statement (.hinst w) := round_w2 ⟨true, 60#6, 0#6, true⟩ w .hinst _ rfl rfl rfl rfl rfl
theorem hdrop (w : W2) : Statement (.hdrop w) := round_w2 ⟨true, 61#6, 0#6, true⟩ w .hdrop _ rfl rfl rfl rfl rfl
theorem rowrd (w : W2) : Statement (.rowrd w) := round_w2 ⟨true, 62#6, 0#6, false⟩ w .rowrd _ rfl rfl rfl rfl rfl
theorem rowwr (w : W2) : Statement (.rowwr w) := round_w2 ⟨true, 62#6, 1#6, false⟩ w .rowwr _ rfl rfl rfl rfl rfl
theorem rowred (w : W2) : Statement (.rowred w) := round_w2 ⟨true, 62#6, 2#6, false⟩ w .rowred _ rfl rfl rfl rfl rfl
theorem linerd (w : W2) : Statement (.linerd w) := round_w2 ⟨true, 62#6, 3#6, false⟩ w .linerd _ rfl rfl rfl rfl rfl
theorem linewr (w : W2) : Statement (.linewr w) := round_w2 ⟨true, 62#6, 4#6, false⟩ w .linewr _ rfl rfl rfl rfl rfl
theorem reply (w : W2) : Statement (.reply w) := round_w2 ⟨true, 62#6, 5#6, false⟩ w .reply _ rfl rfl rfl rfl rfl
theorem clauseEntry (b q : Nat) (addr : BitVec 64) : Statement (.clauseEntry b q addr) := of_event rfl
theorem quireExchange (b q : Nat) : Statement (.quireExchange b q) := of_event rfl
theorem forcedExchange (b : Nat) : Statement (.forcedExchange b) := of_event rfl
theorem ageingPick (b q : Nat) : Statement (.ageingPick b q) := of_event rfl
theorem napExpiry (b q lane : Nat) : Statement (.napExpiry b q lane) := of_event rfl
theorem loadCompletion (op : Nat) : Statement (.loadCompletion op) := of_event rfl
theorem transcendentalCompletion (op : Nat) : Statement (.transcendentalCompletion op) := of_event rfl
theorem trackerEntryDrain (core entry : Nat) : Statement (.trackerEntryDrain core entry) := of_event rfl
theorem blockCompletion (b : Nat) : Statement (.blockCompletion b) := of_event rfl
theorem lwin (part : Nat) (rec : BitVec 512) (whole : Bool) : Statement (.lwin part rec whole) := of_event rfl
theorem lwdropRead (reg : Nat) : Statement (.lwdropRead reg) := of_event rfl
theorem bar0RegisterWrite (part off : Nat) (val : BitVec 64) : Statement (.bar0RegisterWrite part off val) := of_event rfl
theorem bar2Access (part off n : Nat) (write : Bool) (data : BitVec 512) : Statement (.bar2Access part off n write data) := of_event rfl
theorem launchAcceptance (op : Nat) : Statement (.launchAcceptance op) := of_event rfl
theorem registration (part succ : Nat) : Statement (.registration part succ) := of_event rfl
theorem joinDecrement (part lid blk : Nat) : Statement (.joinDecrement part lid blk) := of_event rfl
theorem leaseGrant (part lid blk : Nat) : Statement (.leaseGrant part lid blk) := of_event rfl
theorem blockDispatch (core : Nat) : Statement (.blockDispatch core) := of_event rfl
theorem sideDrain (core side : Nat) : Statement (.sideDrain core side) := of_event rfl
theorem gangAcknowledge (part gang member : Nat) : Statement (.gangAcknowledge part gang member) := of_event rfl
theorem gangTimeout (part gang : Nat) : Statement (.gangTimeout part gang) := of_event rfl
theorem gangDecision (part gang : Nat) : Statement (.gangDecision part gang) := of_event rfl
theorem watchdogCheck (b : Nat) : Statement (.watchdogCheck b) := of_event rfl
theorem externalWaitTimeout (op : Nat) : Statement (.externalWaitTimeout op) := of_event rfl
theorem waitxWake (op : Nat) : Statement (.waitxWake op) := of_event rfl
theorem cellAct (op lane : Nat) : Statement (.cellAct op lane) := of_event rfl
theorem resultQuadWrite (op : Nat) : Statement (.resultQuadWrite op) := of_event rfl
theorem requestStamp (req : Nat) : Statement (.requestStamp req) := of_event rfl
theorem stampedRequestAct (req : Nat) : Statement (.stampedRequestAct req) := of_event rfl
theorem sliceRequest (op line : Nat) (evict : List (Nat × Nat)) (badBytes : Nat) : Statement (.sliceRequest op line evict badBytes) := of_event rfl
theorem writeBackDeadline (tarn line : Nat) : Statement (.writeBackDeadline tarn line) := of_event rfl
theorem uncorrectableReread (line : Nat) (lasting : Bool) : Statement (.uncorrectableReread line lasting) := of_event rfl
theorem pageWalk (core vpn : Nat) : Statement (.pageWalk core vpn) := of_event rfl
theorem mauSlot (op lane : Nat) : Statement (.mauSlot op lane) := of_event rfl
theorem poolBankRmw (op lane : Nat) : Statement (.poolBankRmw op lane) := of_event rfl
theorem dequeService (op lane : Nat) : Statement (.dequeService op lane) := of_event rfl
theorem ldtAttempt (op : Nat) : Statement (.ldtAttempt op) := of_event rfl
theorem sttAonCommit (op : Nat) : Statement (.sttAonCommit op) := of_event rfl
theorem qtileCompletion (op : Nat) : Statement (.qtileCompletion op) := of_event rfl
theorem trlckStatusWrite (op : Nat) : Statement (.trlckStatusWrite op) := of_event rfl
theorem entryRead (b : Nat) : Statement (.entryRead b) := of_event rfl
theorem engineStart (b ring : Nat) (words : List Nat) : Statement (.engineStart b ring words) := of_event rfl
theorem commandCompletion (b ring : Nat) : Statement (.commandCompletion b ring) := of_event rfl
theorem pathError (b ring : Nat) (retryFails : Bool) : Statement (.pathError b ring retryFails) := of_event rfl
theorem uncorrectableSourceError (b ring off : Nat) : Statement (.uncorrectableSourceError b ring off) := of_event rfl
theorem publExchange (op : Nat) : Statement (.publExchange op) := of_event rfl
theorem abndDiscard (op : Nat) : Statement (.abndDiscard op) := of_event rfl
theorem matrixCommandStart (b num : Nat) : Statement (.matrixCommandStart b num) := of_event rfl
theorem matrixCommandCompletion (b num : Nat) : Statement (.matrixCommandCompletion b num) := of_event rfl
theorem msignArrival (op : Nat) : Statement (.msignArrival op) := of_event rfl
theorem quadStepStart (tarn quad lid : Nat) : Statement (.quadStepStart tarn quad lid) := of_event rfl
theorem springMessageArrival (b ring : Nat) : Statement (.springMessageArrival b ring) := of_event rfl
theorem handlerStart (spring : Nat) : Statement (.handlerStart spring) := of_event rfl
theorem stepLimit (spring : Nat) : Statement (.stepLimit spring) := of_event rfl
theorem barrierArrival (op : Nat) : Statement (.barrierArrival op) := of_event rfl
theorem scopeBarrierRelease (key phase : Nat) : Statement (.scopeBarrierRelease key phase) := of_event rfl
theorem trapEntry (tarn : Nat) : Statement (.trapEntry tarn) := of_event rfl
theorem ownTrap (tarn : Nat) : Statement (.ownTrap tarn) := of_event rfl
theorem saveAreaComplete (b : Nat) : Statement (.saveAreaComplete b) := of_event rfl
theorem hoffLimitExpiry (b q gid : Nat) : Statement (.hoffLimitExpiry b q gid) := of_event rfl
theorem tarnReadmission (tarn : Nat) : Statement (.tarnReadmission tarn) := of_event rfl
theorem triadDissent (tarn plane copy : Nat) : Statement (.triadDissent tarn plane copy) := of_event rfl
theorem triadResyncComplete (tarn plane : Nat) : Statement (.triadResyncComplete tarn plane) := of_event rfl
theorem duplexMismatch (tarn plane : Nat) (recurs : Bool) : Statement (.duplexMismatch tarn plane recurs) := of_event rfl
theorem dramThermalHalt (tarn : Nat) : Statement (.dramThermalHalt tarn) := of_event rfl
theorem weirStep (tarn : Nat) (up : Bool) : Statement (.weirStep tarn up) := of_event rfl
theorem moduleReset (module : Nat) : Statement (.moduleReset module) := of_event rfl
theorem tsvParityError (spring pa fails : Nat) : Statement (.tsvParityError spring pa fails) := of_event rfl
theorem tsvRetraining (spring : Nat) : Statement (.tsvRetraining spring) := of_event rfl
theorem retrainingComplete (spring : Nat) (ok : Bool) : Statement (.retrainingComplete spring ok) := of_event rfl
theorem activationAlert (spring row : Nat) (slot : Option Nat) : Statement (.activationAlert spring row slot) := of_event rfl
theorem mitigationWindowEnd (spring row : Nat) : Statement (.mitigationWindowEnd spring row) := of_event rfl
theorem podRequestDelivery (op : Nat) : Statement (.podRequestDelivery op) := of_event rfl
theorem flitFailure (tarn : Nat) (lasting : Bool) : Statement (.flitFailure tarn lasting) := of_event rfl
theorem podRekey (tarn : Nat) (ok : Bool) : Statement (.podRekey tarn ok) := of_event rfl
theorem tdispStateTransition (part target : Nat) : Statement (.tdispStateTransition part target) := of_event rfl
theorem tdispError (part : Nat) : Statement (.tdispError part) := of_event rfl
theorem getVersion (part : Nat) : Statement (.getVersion part) := of_event rfl
theorem getCapabilities (part : Nat) : Statement (.getCapabilities part) := of_event rfl
theorem negotiateAlgorithms (part : Nat) : Statement (.negotiateAlgorithms part) := of_event rfl
theorem getDigests (part : Nat) : Statement (.getDigests part) := of_event rfl
theorem getCertificate (part : Nat) : Statement (.getCertificate part) := of_event rfl
theorem challenge (part nonce : Nat) : Statement (.challenge part nonce) := of_event rfl
theorem getMeasurements (part nonce : Nat) : Statement (.getMeasurements part nonce) := of_event rfl
theorem keyExchange (part share : Nat) : Statement (.keyExchange part share) := of_event rfl
theorem finish (part mac : Nat) : Statement (.finish part mac) := of_event rfl
theorem cleanSpanWordDrop (tarn sector word : Nat) : Statement (.cleanSpanWordDrop tarn sector word) := of_event rfl
theorem hostCompletion (op lane : Nat) (unsupported : Bool) : Statement (.hostCompletion op lane unsupported) := of_event rfl
theorem apertureWaitxReread (op : Nat) : Statement (.apertureWaitxReread op) := of_event rfl
theorem forwardingStopFailure (tarn : Nat) : Statement (.forwardingStopFailure tarn) := of_event rfl
theorem lpddr6LinkCrcError (tarn pa fails : Nat) : Statement (.lpddr6LinkCrcError tarn pa fails) := of_event rfl

end Sys2Proof.Laws.RoundTrip
end

