-- ==== Sys2Proof/Tests/Slice0.lean ====
section
/-! SUPPORT. Tests of the model: words decode as the spec encodes them, ill-formed terms are refused, single steps give what the
spec's own examples and rules give, and every statement's hypotheses are met by some state. -/

namespace Sys2Proof.Tests

set_option Elab.async false

open Sys2Proof.Machine

/-! ### Decoding: words written out from R33, R36, R58 and R59 -/

/-- One-word fields: PRED 7, D 5, A 3, B 4. -/
def tW1 : W1 := ⟨7#3, false, 5#7, 3#7, 4#7⟩

/-- Two-word fields: PRED 7, D 5, A 3, B 4, C 6, every modifier 0. -/
def tW2 : W2 := ⟨7#3, false, 5#7, 3#7, 4#7, .mod 6#7 0#5 0#2 0#3 0#2 0#2 0#4⟩

/-- R58, R59: the one-word instructions. -/
theorem test_decode_one_word : List.map (fun w : Nat => (decodeRaw [BitVec.ofNat 32 w]).toOption)
    [0x01C12345, 0x03C14184, 0x07C14184, 0x09C14184, 0x0BC14184, 0x19C14184, 0x1BC14184, 0x1DC14184, 0x1FC14184, 0x21C14184,
      0x23C14184, 0x25C14184, 0x27C14184, 0x29C14184, 0x39C14184, 0x3BC14184, 0x63C14184, 0x81C12345, 0x85C14184, 0x87C14184,
      0x89C14184, 0x8BC14184, 0x8DC14184, 0x8FC14184, 0x91C14184, 0x93C14184, 0x95C14184, 0x97C14184, 0x99C14184, 0x9BC14184,
      0xA5C14184, 0xD5C000A5, 0xD7C14184] =
    List.map (fun i : Instr => some (i, 1))
    [.bra ⟨7#3, false, 0x12345#21⟩, .brx tW1, .callx tW1, .ret tW1, .nop tW1, .iaddOneWord tW1, .isubOneWord tW1,
      .imulOneWord tW1, .andOneWord tW1, .orOneWord tW1, .xorOneWord tW1, .shlOneWord tW1, .shrOneWord tW1, .movOneWord tW1,
      .faddOneWord tW1, .fmulOneWord tW1, .fsp tW1, .gbra ⟨7#3, false, 0x12345#21⟩, .gaddOneWord tW1, .gsubOneWord tW1,
      .gmulOneWord tW1, .gandOneWord tW1, .gorOneWord tW1, .gxorOneWord tW1, .gshlOneWord tW1, .gshrOneWord tW1,
      .gsarOneWord tW1, .gminOneWord tW1, .gmaxOneWord tW1, .gmov tW1, .g2v tW1, .sysc ⟨7#3, false, 0#5, 0x00A5#16⟩, .eret tW1] := by decide +kernel

/-- R58, R59: the two-word instructions of majors 0x00 to 0x0B of the L-set. -/
theorem test_decode_control_and_lanes : List.map (fun w : Nat × Nat => (decodeRaw [BitVec.ofNat 32 w.1, BitVec.ofNat 32 w.2]).toOption)
    [(0x05C14184, 0x00180000), (0x0DC14184, 0x00180000), (0x0DC14184, 0x04180000), (0x0DC14184, 0x08180000),
      (0x0DC14184, 0x0C180000), (0x0DC14184, 0x10180000), (0x0DC14184, 0x14180000), (0x0DC14184, 0x18180000),
      (0x0FC14184, 0x00180000), (0x0FC14184, 0x04180000), (0x0FC14184, 0x08180000), (0x0FC14184, 0x0C180000),
      (0x11C14184, 0x00180000), (0x13C14184, 0x00180000), (0x15C14184, 0x00180000), (0x17C14184, 0x00180000)] =
    List.map (fun i : Instr => some (i, 2))
    [.call tW2, .exit tW2, .tail tW2, .yield tW2, .nap tW2, .qsync tW2, .bkpt tW2, .trap tW2, .rank tW2, .plop tW2, .s2v tW2,
      .s2g tW2, .shfl tW2, .vote tW2, .matchv tW2, .qred tW2] := by decide +kernel

/-- R58, R59: the two-word instructions of majors 0x0C to 0x1B of the L-set. -/
theorem test_decode_integer : List.map (fun w : Nat × Nat => (decodeRaw [BitVec.ofNat 32 w.1, BitVec.ofNat 32 w.2]).toOption)
    [(0x2BC14184, 0x00180000), (0x2BC14184, 0x04180000), (0x2BC14184, 0x08180000), (0x2BC14184, 0x0C180000),
      (0x2BC14184, 0x10180000), (0x2BC14184, 0x14180000), (0x2BC14184, 0x18180000), (0x2BC14184, 0x1C180000),
      (0x2BC14184, 0x20180000), (0x2BC14184, 0x24180000), (0x2BC14184, 0x28180000), (0x2BC14184, 0x2C180000),
      (0x2BC14184, 0x30180000), (0x2DC14184, 0x00180000), (0x2DC14184, 0x04180000), (0x2DC14184, 0x08180000),
      (0x2DC14184, 0x0C180000), (0x2DC14184, 0x10180000), (0x2FC14184, 0x00180000), (0x2FC14184, 0x04180000),
      (0x2FC14184, 0x08180000), (0x2FC14184, 0x0C180000), (0x2FC14184, 0x10180000), (0x2FC14184, 0x14180000),
      (0x2FC14184, 0x18180000), (0x2FC14184, 0x1C180000), (0x2FC14184, 0x20180000), (0x2FC14184, 0x24180000),
      (0x31C14184, 0x00180000), (0x31C14184, 0x04180000), (0x31C14184, 0x08180000), (0x31C14184, 0x0C180000),
      (0x31C14184, 0x10180000), (0x31C14184, 0x14180000)] =
    List.map (fun i : Instr => some (i, 2))
    [.iaddTwoWord tW2, .iaddc tW2, .isubTwoWord tW2, .isubb tW2, .imulTwoWord tW2, .imulh tW2, .imad tW2, .imadw tW2, .imin tW2,
      .imax tW2, .iabs tW2, .ineg tW2, .isad tW2, .andTwoWord tW2, .orTwoWord tW2, .xorTwoWord tW2, .andn tW2, .lop3 tW2,
      .shlTwoWord tW2, .shrTwoWord tW2, .sar tW2, .shf tW2, .popc tW2, .clz tW2, .ctz tW2, .brev tW2, .bfx tW2, .bfi tW2,
      .iset tW2, .isel tW2, .movTwoWord tW2, .movi tW2, .lea tW2, .prmt tW2] := by decide +kernel

/-- R58, R59: the two-word instructions of majors 0x1C to 0x27 of the L-set. -/
theorem test_decode_float_and_conversion : List.map (fun w : Nat × Nat => (decodeRaw [BitVec.ofNat 32 w.1, BitVec.ofNat 32 w.2]).toOption)
    [(0x3DC14184, 0x00180000), (0x3DC14184, 0x04180000), (0x3DC14184, 0x08180000), (0x3DC14184, 0x0C180000),
      (0x3DC14184, 0x10180000), (0x3DC14184, 0x14180000), (0x3DC14184, 0x18180000), (0x3DC14184, 0x1C180000),
      (0x3DC14184, 0x20180000), (0x3FC14184, 0x00180000), (0x3FC14184, 0x04180000), (0x3FC14184, 0x08180000),
      (0x3FC14184, 0x0C180000), (0x3FC14184, 0x10180000), (0x3FC14184, 0x14180000), (0x3FC14184, 0x18180000),
      (0x41C14184, 0x00180000), (0x41C14184, 0x04180000), (0x41C14184, 0x08180000), (0x41C14184, 0x0C180000),
      (0x49C14184, 0x00180000), (0x49C14184, 0x04180000), (0x49C14184, 0x08180000), (0x49C14184, 0x0C180000),
      (0x49C14184, 0x10180000), (0x4BC14184, 0x00180000), (0x4BC14184, 0x04180000), (0x4BC14184, 0x08180000),
      (0x4BC14184, 0x0C180000), (0x4BC14184, 0x10180000), (0x4BC14184, 0x14180000), (0x4BC14184, 0x18180000)] =
    List.map (fun i : Instr => some (i, 2))
    [.faddTwoWord tW2, .fmulTwoWord tW2, .ffma tW2, .fmin tW2, .fmax tW2, .fset tW2, .fclass tW2, .frnd tW2, .fscl tW2, .frcp tW2,
      .frsq tW2, .fsqrt tW2, .fex2 tW2, .flg2 tW2, .fsin tW2, .fcos tW2, .hadd2 tW2, .hmul2 tW2, .hfma2 tW2, .hmnx2 tW2,
      .cvt tW2, .cvtp tW2, .cvtx tW2, .f2i tW2, .i2f tW2, .qblk tW2, .qtile tW2, .unq tW2, .plx tW2, .pli tW2, .trlck tW2,
      .sclx tW2] := by decide +kernel

/-- R58, R59: the two-word instructions of majors 0x28 to 0x2F of the L-set. -/
theorem test_decode_memory_and_tiles : List.map (fun w : Nat × Nat => (decodeRaw [BitVec.ofNat 32 w.1, BitVec.ofNat 32 w.2]).toOption)
    [(0x51C14184, 0x00180000), (0x53C14184, 0x00180000), (0x55C14184, 0x00180000), (0x55C14184, 0x04180000),
      (0x57C14184, 0x00180000), (0x57C14184, 0x04180000), (0x59C14184, 0x00180000), (0x59C14184, 0x04180000),
      (0x59C14184, 0x08180000), (0x59C14184, 0x0C180000), (0x59C14184, 0x10180000), (0x5BC14184, 0x00180000),
      (0x5BC14184, 0x04180000), (0x5BC14184, 0x08180000), (0x5BC14184, 0x0C180000)] =
    List.map (fun i : Instr => some (i, 2))
    [.ld tW2, .st tW2, .lds tW2, .sts tW2, .ldp tW2, .stp tW2, .ldt tW2, .stt tW2, .tdef tW2, .tset tW2, .tqry tW2, .pref tW2,
      .cctl tW2, .tagld tW2, .tagst tW2] := by decide +kernel

/-- R58, R59: the two-word instructions of majors 0x30 to 0x35 of the L-set. -/
theorem test_decode_ordering_and_atomics : List.map (fun w : Nat × Nat => (decodeRaw [BitVec.ofNat 32 w.1, BitVec.ofNat 32 w.2]).toOption)
    [(0x61C14184, 0x00180000), (0x65C14184, 0x00180000), (0x67C14184, 0x00180000), (0x69C14184, 0x00180000),
      (0x69C14184, 0x04180000), (0x69C14184, 0x08180000), (0x6BC14184, 0x00180000), (0x6BC14184, 0x04180000),
      (0x6BC14184, 0x08180000)] =
    List.map (fun i : Instr => some (i, 2))
    [.fence tW2, .atom tW2, .red tW2, .atoms tW2, .atomp tW2, .redp tW2, .pusht tW2, .taket tW2, .takeh tW2] := by decide +kernel

/-- R58, R59: the two-word instructions of majors 0x36 to 0x39 of the L-set. -/
theorem test_decode_cells_and_barriers : List.map (fun w : Nat × Nat => (decodeRaw [BitVec.ofNat 32 w.1, BitVec.ofNat 32 w.2]).toOption)
    [(0x6DC14184, 0x00180000), (0x6DC14184, 0x04180000), (0x6DC14184, 0x08180000), (0x6DC14184, 0x0C180000),
      (0x6FC14184, 0x00180000), (0x6FC14184, 0x04180000), (0x71C14184, 0x00180000), (0x71C14184, 0x04180000),
      (0x71C14184, 0x08180000), (0x73C14184, 0x00180000), (0x73C14184, 0x04180000), (0x73C14184, 0x08180000),
      (0x73C14184, 0x0C180000)] =
    List.map (fun i : Instr => some (i, 2))
    [.prop tW2, .dread tW2, .dwait tW2, .recy tW2, .dqry tW2, .dinit tW2, .bara tW2, .bars tW2, .barr tW2, .sbar tW2, .sbara tW2,
      .waitx tW2, .sigx tW2] := by decide +kernel

/-- R58, R59: the two-word instructions of majors 0x3A to 0x3E of the L-set. -/
theorem test_decode_engine_and_matrix : List.map (fun w : Nat × Nat => (decodeRaw [BitVec.ofNat 32 w.1, BitVec.ofNat 32 w.2]).toOption)
    [(0x75C14184, 0x00180000), (0x75C14184, 0x04180000), (0x75C14184, 0x08180000), (0x77C14184, 0x00180000),
      (0x77C14184, 0x04180000), (0x77C14184, 0x08180000), (0x77C14184, 0x0C180000), (0x79C14184, 0x00180000),
      (0x79C14184, 0x04180000), (0x79C14184, 0x08180000), (0x79C14184, 0x0C180000), (0x79C14184, 0x10180000),
      (0x7BC14184, 0x00180000), (0x7BC14184, 0x04180000), (0x7BC14184, 0x08180000), (0x7BC14184, 0x0C180000),
      (0x7BC14184, 0x10180000), (0x7DC14184, 0x00180000), (0x7DC14184, 0x04180000)] =
    List.map (fun i : Instr => some (i, 2))
    [.acp tW2, .acpg tW2, .acpr tW2, .cwait tW2, .shdw tW2, .publ tW2, .abnd tW2, .obres tW2, .obrel tW2, .obld tW2, .obldg tW2,
      .msign tW2, .mma tW2, .mmaq tW2, .accz tW2, .accst tW2, .accrd tW2, .sprg tW2, .sprgw tW2] := by decide +kernel

/-- R58, R59: the two-word instructions of majors 0x00 to 0x27 of the G-set. -/
theorem test_decode_uniform_and_command : List.map (fun w : Nat × Nat => (decodeRaw [BitVec.ofNat 32 w.1, BitVec.ofNat 32 w.2]).toOption)
    [(0x83C14184, 0x00180000), (0x9DC14184, 0x00180000), (0x9FC14184, 0x00180000), (0xA1C14184, 0x00180000),
      (0xA3C14184, 0x00180000), (0xA7C14184, 0x00180000), (0xA9C14184, 0x00180000), (0xABC14184, 0x00180000),
      (0xABC14184, 0x04180000), (0xABC14184, 0x08180000), (0xABC14184, 0x0C180000), (0xABC14184, 0x10180000),
      (0xABC14184, 0x14180000), (0xABC14184, 0x18180000), (0xABC14184, 0x1C180000), (0xABC14184, 0x20180000),
      (0xABC14184, 0x24180000), (0xABC14184, 0x28180000), (0xABC14184, 0x2C180000), (0xC1C14184, 0x00180000),
      (0xC3C14184, 0x00180000), (0xC5C14184, 0x00180000), (0xC7C14184, 0x00180000), (0xC9C14184, 0x00180000),
      (0xCBC14184, 0x00180000)] =
    List.map (fun i : Instr => some (i, 2))
    [.gloop tW2, .gmovi tW2, .gset tW2, .gsel tW2, .gld tW2, .v2g tW2, .gplop tW2, .gaddTwoWord tW2, .gsubTwoWord tW2,
      .gmulTwoWord tW2, .gmad tW2, .gandTwoWord tW2, .gorTwoWord tW2, .gxorTwoWord tW2, .gshlTwoWord tW2, .gshrTwoWord tW2,
      .gsarTwoWord tW2, .gminTwoWord tW2, .gmaxTwoWord tW2, .launch tW2, .spawn tW2, .jdec tW2, .tstat tW2, .tcancel tW2,
      .gang tW2] := by decide +kernel

/-- R58, R59: the two-word instructions of majors 0x28 to 0x3D of the G-set. -/
theorem test_decode_supervisor : List.map (fun w : Nat × Nat => (decodeRaw [BitVec.ofNat 32 w.1, BitVec.ofNat 32 w.2]).toOption)
    [(0xD1C14184, 0x00180000), (0xD3C14184, 0x00180000), (0xD9C14184, 0x00180000), (0xDBC14184, 0x00180000),
      (0xDDC14184, 0x00180000), (0xDFC14184, 0x00180000), (0xE1C14184, 0x00180000), (0xE3C14184, 0x00180000),
      (0xE5C14184, 0x00180000), (0xE7C14184, 0x00180000), (0xE9C14184, 0x00180000), (0xF1C14184, 0x00180000),
      (0xF3C14184, 0x00180000), (0xF5C14184, 0x00180000), (0xF7C14184, 0x00180000), (0xF9C14184, 0x00180000),
      (0xFBC14184, 0x00180000)] =
    List.map (fun i : Instr => some (i, 2))
    [.srrd tW2, .srwr tW2, .tlbinv tW2, .lrev tW2, .ctxstop tW2, .ctxgo tW2, .wcap tW2, .triq tW2, .trirs tW2, .twrst tW2,
      .keyld tW2, .scrub tW2, .tiermv tW2, .poison tW2, .retire tW2, .hinst tW2, .hdrop tW2] := by decide +kernel

/-- R58, R59: the two-word instructions of majors 0x3E to 0x3E of the G-set. -/
theorem test_decode_handler : List.map (fun w : Nat × Nat => (decodeRaw [BitVec.ofNat 32 w.1, BitVec.ofNat 32 w.2]).toOption)
    [(0xFDC14184, 0x00180000), (0xFDC14184, 0x04180000), (0xFDC14184, 0x08180000), (0xFDC14184, 0x0C180000),
      (0xFDC14184, 0x10180000), (0xFDC14184, 0x14180000)] =
    List.map (fun i : Instr => some (i, 2))
    [.rowrd tW2, .rowwr tW2, .rowred tW2, .linerd tW2, .linewr tW2, .reply tW2] := by decide +kernel

/-- R57: the words of the worked clause. -/
theorem test_decode_worked_clause :
    decode [0x18814184#32] = .ok (.iaddOneWord ⟨2#3, false, 5#7, 3#7, 4#7⟩, 1) ∧
    decode [0x2BC18280#32, 0x02000064#32] = .ok (.iaddTwoWord ⟨7#3, false, 6#7, 5#7, 0#7, .imm 0#5 100#20⟩, 2) ∧
    decode [0x3FC1C300#32, 0#32] = .ok (.frcp ⟨7#3, false, 7#7, 6#7, 0#7, .mod 0#7 0#5 0#2 0#3 0#2 0#2 0#4⟩, 2) := ⟨rfl, rfl, rfl⟩

/-- R36, R128: the table of LOP3 stands in TYPE and SCOPE; R37: an immediate of MOVI. -/
theorem test_decode_fields :
    decode [0x2DC10082#32, 0x100D5800#32] = .ok (.lop3 ⟨7#3, false, 4#7, 1#7, 2#7, .mod 3#7 10#5 3#2 0#3 0#2 0#2 0#4⟩, 2) ∧
    decode [0x31C04080#32, 0x0E012345#32] = .ok (.movi ⟨7#3, false, 1#7, 1#7, 0#7, .imm 0#5 0x12345#20⟩, 2) ∧
    decode [0x49C0C100#32, 0x0001C008#32] = .ok (.cvt ⟨7#3, false, 3#7, 2#7, 0#7, .mod 0#7 14#5 0#2 0#3 0#2 0#2 8#4⟩, 2) := ⟨rfl, rfl, rfl⟩

/-- R48: set-flags and length of the worked clause's header (R57). -/
theorem test_header : headerMark 0xFEA0023E#32 = true ∧ (headerOf 4 0xFEA0023E#32).len = 5 := by decide +kernel

/-! ### Ill-formed terms -/

/-- R47, sub-cause 0x6: an unused field that is not 0, a modifier an instruction does not take, a missing immediate form. -/
theorem test_unused_field : (Instr.nop tW1).wellFormed = false ∧ (Instr.frcp tW2).wellFormed = false ∧
    (Instr.exit ⟨7#3, false, 0#7, 0#7, 0#7, .mod 0#7 0#5 0#2 1#3 0#2 0#2 0#4⟩).wellFormed = false ∧
    (Instr.frcp ⟨7#3, false, 5#7, 3#7, 0#7, .imm 0#5 0#20⟩).wellFormed = false ∧
    (Instr.call ⟨7#3, false, 4#7, 0#7, 0#7, .mod 0#7 0#5 0#2 0#3 0#2 0#2 0#4⟩).wellFormed = false ∧
    (Instr.sysc ⟨7#3, false, 1#5, 0#16⟩).wellFormed = false := by decide +kernel

/-- R44, R45, sub-cause 0x7: a pair at an odd register, a quad not at a multiple of 4, a tile, a handle, a convergence register, a
barrier, a special register and a type that do not exist. -/
theorem test_operand_range :
    (Instr.ld ⟨7#3, false, 5#7, 3#7, 0#7, .imm 0#5 0#20⟩).wellFormed = false ∧
    (Instr.prop ⟨7#3, false, 9#7, 2#7, 4#7, .mod 6#7 0#5 0#2 5#3 0#2 0#2 0#4⟩).wellFormed = false ∧
    (Instr.tqry ⟨7#3, false, 4#7, 64#7, 0#7, .mod 0#7 0#5 0#2 0#3 0#2 0#2 0#4⟩).wellFormed = false ∧
    (Instr.obrel ⟨7#3, false, 32#7, 0#7, 0#7, .mod 0#7 0#5 0#2 0#3 0#2 0#2 0#4⟩).wellFormed = false ∧
    (Instr.s2v ⟨7#3, false, 1#7, 24#7, 0#7, .mod 0#7 0#5 0#2 0#3 0#2 0#2 0#4⟩).wellFormed = false ∧
    (Instr.iaddTwoWord ⟨7#3, false, 1#7, 2#7, 3#7, .mod 0#7 24#5 0#2 0#3 0#2 0#2 0#4⟩).wellFormed = false := by decide +kernel

/-- The same instructions with their fields right are well formed. -/
theorem test_well_formed : (Instr.nop ⟨7#3, false, 0#7, 0#7, 0#7⟩).wellFormed = true ∧
    (Instr.ld ⟨7#3, false, 5#7, 4#7, 0#7, .imm 0#5 0#20⟩).wellFormed = true ∧
    (Instr.prop ⟨7#3, false, 8#7, 2#7, 4#7, .mod 6#7 0#5 0#2 5#3 0#2 0#2 0#4⟩).wellFormed = true ∧
    (Instr.tqry ⟨7#3, false, 4#7, 63#7, 0#7, .mod 0#7 0#5 0#2 0#3 0#2 0#2 0#4⟩).wellFormed = true ∧
    (Instr.sysc ⟨7#3, false, 0#5, 0xFFFF#16⟩).wellFormed = true := by decide +kernel

/-! ### A small state: a block on core 0 with one quire of two threads inside a clause -/

/-- A thread with some registers. -/
def tThread (v : Tab Word) : Thread := { v, p := 4#7, pc := 0x10000#64 }

/-- The issuing group: both lanes, at the first word of a clause of three. -/
def tGroup : Group :=
  { lanes := 3#32, clause := 0x10000#64, words := [0x0BC00000#32, 0x0BC00000#32, 0x0BC00000#32], widx := 1, sfa := 0, sfb := 1, yld := false }

/-- The quire of a user block or of the supervisor core. -/
def tQuire (v w g : Tab Word) : Quire := { threads := [(0, tThread v), (1, tThread w)], groups := [(1, tGroup)], g }

/-- The context that runs it. -/
def tBlock (sup : Bool) (v w g : Tab Word) : Block :=
  { core := if sup then 24 else 0, part := 0, lid := 0, bflat := 0, ltarn := 0, code := 0x10000#64, frame := 0#64, sup, scratch := 4096
    quires := [(0, tQuire v w g)], active := [0], leases := [⟨0x10000, 0x10000, 2⟩, ⟨0x20000, 0x10000, 1⟩] }

/-- Number of the context: a user block's, or the supervisor core's. -/
def tNum (sup : Bool) : Nat := if sup then 0 else 4096

/-- Its pages: readable and executable at 0x10000, readable and writable at 0x20000, a cell page at 0x30000. -/
def tPages : List Xlat := [⟨0, 0x10000, 16, 0x10053#64⟩, ⟨0, 0x20000, 16, 0x20033#64⟩]

/-- The machine. -/
def tState (sup : Bool) (v w g : Tab Word) : State :=
  { State.reset with
    blocks := [(tNum sup, tBlock sup v w g)]
    cores := [(if sup then 24 else 0, { run := some (tNum sup), tlb := tPages, sides := [(0, { owner := some (tNum sup) })] })]
    tarns := [(0, { weir := 0 })], cur := .group (tNum sup) 0 1, next := 5000 }

/-- The issuing group of that machine. -/
def tCtx (sup : Bool) (v w g : Tab Word) : Ctx := ⟨tNum sup, 0, 1, tBlock sup v w g, tQuire v w g, tGroup⟩

/-- Register d of lane 0 after an instruction, as a number. -/
def lane0 (i : Instr) (v w : Tab Word) (d : Nat) : Option Nat :=
  match exec i (tState false v w []) with
  | .next s => (s.threadAt 4096 0 0).map fun t => (t.getV d).toNat
  | _ => none

/-- A predicate of lane 0 after an instruction. -/
def pred0 (i : Instr) (v : Tab Word) (d : Nat) : Option Bool :=
  match exec i (tState false v [] []) with
  | .next s => (s.threadAt 4096 0 0).map fun t => t.getP d
  | _ => none

/-- A modifier form by D, A, B, C, TYPE, RND, BSRC and SUB, and an immediate form by D, A, B, TYPE and IMM20. -/
def tMod (d a b c ty rnd bs sub : Nat) : W2 :=
  ⟨7#3, false, BitVec.ofNat 7 d, BitVec.ofNat 7 a, BitVec.ofNat 7 b,
    .mod (BitVec.ofNat 7 c) (BitVec.ofNat 5 ty) (BitVec.ofNat 2 rnd) 0#3 0#2 (BitVec.ofNat 2 bs) (BitVec.ofNat 4 sub)⟩
def tImm (d a b ty i : Nat) : W2 :=
  ⟨7#3, false, BitVec.ofNat 7 d, BitVec.ofNat 7 a, BitVec.ofNat 7 b, .imm (BitVec.ofNat 5 ty) (BitVec.ofNat 20 i)⟩

/-! ### One step: the spec's worked values -/

/-- R124, R126: saturation and high products. -/
theorem test_saturation : lane0 (.isubTwoWord (tMod 3 1 2 0 7 0 0 1)) [(1, 5#32), (2, 9#32)] [] 3 = some 0 ∧
    lane0 (.imad (tMod 3 1 2 4 3 0 0 1)) [(1, 0x40000000#32), (2, 2#32), (4, 0xFFFFFFFF#32)] [] 3 = some 0x7FFFFFFF ∧
    lane0 (.imulh (tMod 3 1 2 0 3 0 0 0)) [(1, 0xFFFFFFFE#32), (2, 3#32)] [] 3 = some 0xFFFFFFFF ∧
    lane0 (.imulh (tMod 3 1 2 0 7 0 0 0)) [(1, 0xFFFFFFFE#32), (2, 3#32)] [] 3 = some 2 := by decide +kernel

/-- R128 to R130: LOP3 with table 0x56 is a ^ (b | c); shifts beyond the width, and the funnel shift. -/
theorem test_logic_and_shifts : lane0 (.lop3 ⟨7#3, false, 4#7, 1#7, 2#7, .mod 3#7 10#5 3#2 0#3 0#2 0#2 0#4⟩)
      [(1, 0xFF00FF00#32), (2, 0x0F0F0F0F#32), (3, 0x00FF0000#32)] [] 4 = some (0xFF00FF00 ^^^ (0x0F0F0F0F ||| 0x00FF0000)) ∧
    lane0 (.sar (tMod 1 2 40 0 0 0 2 0)) [(2, 0x80000000#32)] [] 1 = some 0xFFFFFFFF ∧
    lane0 (.sar (tMod 1 2 40 0 0 0 2 1)) [(2, 0x80000000#32)] [] 1 = some 0xFF800000 ∧
    lane0 (.shf (tMod 5 2 8 3 0 0 2 0)) [(2, 0xAABBCCDD#32), (3, 0x11223344#32)] [] 5 = some 0x223344AA := by decide +kernel

/-- R132, R134, R135: bit fields, MOVI.hi and LEA. -/
theorem test_fields_and_moves : lane0 (.bfx (tImm 1 2 0 3 0x0C04)) [(2, 0x8765#32)] [] 1 = some 0xFFFFF876 ∧
    lane0 (.bfi (tImm 1 2 3 0 0x0830)) [(2, 5#32), (3, 77#32)] [] 1 = some 77 ∧
    lane0 (.movi (tImm 1 1 0 0 0x12345)) [] [] 1 = some 0x12345000 ∧
    lane0 (.lea (tMod 4 2 9 0 3 0 0 2)) [(2, 0x1000#32), (3, 0x7F00#32), (9, 0xFFFFFFFD#32)] [] 4 = some 0xFF4 := by decide +kernel

/-- R157, R162, R164: the table of worked conversions. -/
theorem test_conversions : lane0 (.cvt (tMod 1 2 0 0 14 0 0 0)) [(2, 0x43960000#32)] [] 1 = some 0x79 ∧
    lane0 (.cvt (tMod 1 2 0 0 14 0 0 0)) [(2, 0x43EB0000#32)] [] 1 = some 0x7F ∧
    lane0 (.cvt (tMod 1 2 0 0 14 0 0 8)) [(2, 0xC3EB0000#32)] [] 1 = some 0xFE ∧
    lane0 (.cvt (tMod 1 2 0 0 11 2 0 0)) [(2, 0x3F808000#32)] [] 1 = some 0x3F81 ∧
    lane0 (.cvt (tMod 1 2 0 0 10 1 0 0)) [(2, 0x477FF000#32)] [] 1 = some 0x7BFF ∧
    lane0 (.cvt (tMod 1 2 0 0 16 0 0 0)) [(2, 0x40400000#32)] [] 1 = some 0x81 := by decide +kernel

/-- R166, R167: float to integer and back. -/
theorem test_integers : lane0 (.f2i (tMod 1 2 0 0 3 2 0 0)) [(2, 0x40200000#32)] [] 1 = some 3 ∧
    lane0 (.f2i (tMod 1 2 0 0 3 0 0 0)) [(2, 0x4F32D05E#32)] [] 1 = some 0x7FFFFFFF ∧
    lane0 (.i2f (tMod 1 2 0 0 9 2 0 3)) [(2, 16777217#32)] [] 1 = some 0x4B800001 ∧
    lane0 (.i2f (tMod 1 2 0 0 10 0 0 3)) [(2, 70000#32)] [] 1 = some 0x7C00 := by decide +kernel

/-- R181, R182: a fused multiply-add rounds once; R186 to R189: classification, rounding and scaling. -/
theorem test_float : lane0 (.ffma (tMod 4 1 2 3 0 0 0 0)) [(1, 0x3F800400#32), (2, 0x3F7FF800#32), (3, 0xBF800000#32)] [] 4 = some 0xB2800000 ∧
    lane0 (.fmulOneWord ⟨7#3, false, 4#7, 1#7, 2#7⟩) [(1, 0x3F800400#32), (2, 0x3F7FF800#32)] [] 4 = some 0x3F800000 ∧
    lane0 (.faddTwoWord (tImm 3 1 0 0 0xBFC00)) [(1, 0x40200000#32)] [] 3 = some 0x3F800000 ∧
    pred0 (.fclass (tImm 2 5 0 0 0x180)) [(5, 0x3F800000#32)] 2 = some true ∧
    lane0 (.frnd (tMod 1 2 0 0 0 3 0 0)) [(2, 0xC0200000#32)] [] 1 = some 0xC0400000 ∧
    lane0 (.fscl (tMod 1 2 3 0 0 0 0 0)) [(2, 0x3FC00000#32), (3, 0xFFFFFF6B#32)] [] 1 = some 2 ∧
    lane0 (.fscl (tMod 1 2 3 0 0 1 0 0)) [(2, 0x3F800000#32), (3, 200#32)] [] 1 = some 0x7F7FFFFF := by decide +kernel

/-- R169: a block of two elements: lane 0 gives the scale e = 129 and its code 96. R174, R176: bit planes and scale arithmetic. -/
theorem test_blocks : lane0 (.qblk (tMod 1 2 0 0 23 0 0 0)) [(2, 0x40400000#32)] [(2, 0xC04CCCCD#32)] 1 = some 0x8160 ∧
    lane0 (.unq (tMod 1 2 3 0 19 0 0 0)) [(2, 0x90#32), (3, 0x81#32)] [] 1 = some 0xC0600000 ∧
    lane0 (.sclx (tMod 1 2 3 0 0 0 0 0)) [(2, 0xF081#32), (3, 0xF07E#32)] [] 1 = some 0xFE80 := by decide +kernel

/-- R112, R115: lane 0 reads lane 1; an FP32 sum of the participants. R110: the rank of the second live thread. -/
theorem test_lanes : lane0 (.shfl (tMod 9 8 1 1 0 0 2 1)) [(8, 10#32)] [(8, 11#32)] 9 = some 11 ∧
    lane0 (.qred (tMod 9 8 0 0 9 0 0 0)) [(8, 0x3F800000#32)] [(8, 0x40000000#32)] 9 = some 0x40400000 ∧
    lane0 (.rank ⟨7#3, false, 4#7, 0#7, 0#7, .mod 0#7 0#5 0#2 1#3 0#2 0#2 0#4⟩) [] [] 5 = some 2 := by decide +kernel

/-! ### Witnesses: every statement's hypotheses are met -/

/-- The state an outcome gives, if it is a next state. -/
def after (o : Out) : State := match o with | .next s => s | _ => State.reset

/-- The user machine, and its issuing group. -/
def tU : State := tState false [] [] []
def tC : Ctx := tCtx false [] [] []

/-- The supervisor machine, and its issuing group. -/
def tSup : State := tState true [] [] []
def tSC : Ctx := tCtx true [] [] []

/-- EveryInstructionDecodesBack. -/
theorem witness_decodes_back : (Instr.ld ⟨7#3, false, 5#7, 4#7, 0#7, .imm 0#5 0#20⟩).wellFormed = true := by decide +kernel

/-- Every statement over an issuing group: there is one, in a user block and on the supervisor core. -/
theorem witness_group : tU.ctx? = some tC ∧ tSup.ctx? = some tSC ∧ tC.B.sup = false ∧ tSC.B.sup = true ∧
    tC.participants 7#3 false = [0, 1] ∧ tC.participants 7#3 true = [] ∧ tC.uniform 7#3 false = [0, 1] ∧
    tSC.uniform 7#3 false = [0, 1] ∧ tSC.uniform 7#3 true = [] := ⟨rfl, rfl, rfl, rfl, by decide +kernel⟩

/-- StepRunsTheDecodedInstruction: a turn of the agenda, an empty agenda, a chosen group, an instruction that goes on and one that
stands before its word, one that clears deque-spin bits, and a handler's step. -/
theorem witness_step :
    actTurn .idle (({ tU with clk := 1, agenda := [], cur := .idle } : State).exchangeDue 1) = .next (({ tU with clk := 1, agenda := [], cur := .idle } : State).exchangeDue 1) ∧
    defaultTurn (({ tU with clk := 1, cur := .idle } : State).exchangeDue 1) = .next (after (defaultTurn (({ tU with clk := 1, cur := .idle } : State).exchangeDue 1))) ∧
    tU.blockOn 0 = some 4096 ∧ tU.running 4096 tC.B = true ∧
    ((tU.chooseQuire 4096 (tC.B.settled 0)).map fun x => (x.1, x.2.gid)) = some (0, some 1) ∧
    tC.gr.nextInstr = some (.nop ⟨7#3, false, 0#7, 0#7, 0#7⟩, 1) ∧
    (let r := after (exec (.nop ⟨7#3, false, 0#7, 0#7, 0#7⟩) tU); r.isHeld 4096 0 1 = false) ∧
    clearsSpin (.nop ⟨7#3, false, 0#7, 0#7, 0#7⟩) = false ∧ clearsSpin (.ld tW2) = true ∧
    (let r := tU.stall tC; r.isHeld 4096 0 1 = true) ∧ tC.Q.groups = [(1, tC.gr)] ∧ tC.gr.widx ≤ tC.gr.words.length :=
  ⟨rfl, rfl, by decide +kernel⟩

/-- RegisterFrames, IntegerArithmetic to PredicatesRanksAndSpecials, CrossLane to ConversionsAndBlocks: the instructions complete. -/
theorem witness_registers : exec (.iaddTwoWord (tMod 1 2 3 0 3 0 0 0)) tU = .next (after (exec (.iaddTwoWord (tMod 1 2 3 0 3 0 0 0)) tU)) ∧
    exec (.gaddTwoWord (tMod 1 2 3 0 3 0 0 0)) tU = .next (after (exec (.gaddTwoWord (tMod 1 2 3 0 3 0 0 0)) tU)) ∧
    exec (.gaddOneWord tW1) tSup = .next (after (exec (.gaddOneWord tW1) tSup)) := ⟨rfl, rfl, rfl⟩

/-- ClauseEntry: threads ready at a header, a fetch that the lease and the TLB allow, a word that is a header and one that is not; a
misaligned header. -/
def tReady (w : List Word) (pc : BitVec 64) : State :=
  { tU with
    cur := .idle, mem := writeBytes [] 0x10000 (w.map bytesOfWord).flatten
    blocks := [(4096, { tC.B with quires := [(0, { threads := [(0, { pc })] })] })] }

theorem witness_clause : let s := tReady [0xFE200002#32, 0x0BC00000#32] 0x10000#64
    ((s.block? 4096).map fun B => (s.running 4096 B, B.mayFetch 0x10000 4, B.mayFetch 0x10000 8, s.fetchMissing B 0x10000#64 1)) =
      some (true, true, true, []) ∧
    ((s.block? 4096).map fun B => ((tget? B.quires 0).map fun Q => s.readyAt B Q 0x10000#64)) = some (some [0]) ∧
    ((s.block? 4096).map fun B => (s.fetchWords B 0x10000 1)) = some [0xFE200002#32] ∧ headerMark 0xFE200002#32 = true ∧
    headerMark 0x0BC00000#32 = false ∧
    ((s.block? 4096).map fun B => checkClause B (headerOf B.ver 0xFE200002#32) [0x0BC00000#32]) = some none ∧
    ((s.block? 4096).map fun B => checkClause B (headerOf B.ver 0xFE200002#32) [0x7FC00000#32]) = some (some (4, 1)) ∧
    ((s.block? 4096).map fun B => B.mayFetch 0x40000 4) = some false ∧
    (s.xlate 0 0 true false true 0x10000).toOption.isSome = true ∧
    (let s := tReady [] 0x10002#64
     ((s.block? 4096).map fun B => ((tget? B.quires 0).map fun Q => s.readyAt B Q 0x10002#64)) = some (some [0])) := by
  decide +kernel

/-- ClauseEntry: the core's choice falls on the header, aligned or not, and its lines are at hand. -/
theorem witness_entry : let at_ (s : State) : Option (Option (Nat × Option Nat × Nat)) :=
      (s.block? 4096).map fun B => (s.chooseQuire 4096 (B.settled s.clk)).map fun x => (x.1, x.2.gid, x.2.addr)
    let s := tReady [0xFE200002#32, 0x0BC00000#32] 0x10000#64
    at_ s = some (some (0, none, 0x10000)) ∧ at_ (tReady [] 0x10002#64) = some (some (0, none, 0x10002)) ∧
    ((s.block? 4096).map fun B => s.fetchAway B 0x10000#64 0 ++ s.fetchAway B 0x10000#64 1) = some [] := by
  decide +kernel

/-- A machine at rest with two quires: quire 0 active, its thread waiting for a nap, quire 1 pending and ready. -/
def tTwo (q0 q1 : Thread) (age : Nat) : State :=
  { tU with
    cur := .idle
    cores := [(0, { run := some 4096, tlb := tPages, tracker := [(0, (4096, [7])), (1, (4096, []))] })]
    blocks := [(4096, { tC.B with
      active := [0], pending := [1]
      quires := [(0, { threads := [(0, q0)], groups := if age = 0 then [] else [(1, { tGroup with lanes := 1#32, age })] }),
                 (1, { threads := [(0, q1)] })] })]
    ops := [(7, { kind := .store, ins := .st tW2, blk := 4096, q := 0, lanes := 1#32 })] }

/-- QuireEvents: a quire stalled long with another ready, one that is not, an aged candidate and one that is not aged, a nap over and one not over, and
tracker entries drained and not. -/
theorem witness_quires : let nap : Thread := { pc := 0x10000#64, wait := .nap 5 false }
    let s := tTwo { pc := 0x10000#64, wait := .waitx 7 } { pc := 0x10000#64 } 0
    let s' := tTwo { pc := 0x10000#64 } { pc := 0x10000#64 } 1500
    ((s.block? 4096).map fun B => (s.oldestReady 4096 B, (tget? B.quires 0).map fun Q => s.stalledLong 4096 0 B Q)) = some (some 1, some true) ∧
    ((s'.block? 4096).map fun B => ((tget? B.quires 0).map fun Q => s'.stalledLong 4096 0 B Q)) = some (some false) ∧
    ((s'.block? 4096).map fun B => (s'.chooseQuire 4096 (B.settled s'.clk)).map fun x => (x.1, x.2.gid, decide (1024 ≤ x.2.age))) =
      some (some (0, some 1, true)) ∧
    ((tU.chooseQuire 4096 (tC.B.settled 0)).map fun x => (x.1, decide (x.2.age < 1024))) = some (0, true) ∧
    ((s.block? 4096).map fun B => (s.running 4096 B, s.chooseQuire 4096 (B.settled s.clk))) = some (true, none) ∧
    (tTwo nap {} 0).threadAt 4096 0 0 = some nap ∧
    tget? (s.core 0).tracker 0 = some (4096, [7]) ∧ (s.op? 7).isSome = true ∧ tget? (s.core 0).tracker 1 = some (4096, []) := by
  decide +kernel

/-- QuireEvents: cycles at which the core's own %clk is and is not a multiple of 256. -/
theorem witness_forced : ({ tU with clk := 256 - Config.clkSkew 0 % 9 } : State).coreClk 0 % 256 = 0 ∧
    ({ tU with clk := 257 - Config.clkSkew 0 % 9 } : State).coreClk 0 % 256 ≠ 0 := by
  have h := Nat.mod_lt (Config.clkSkew 0) (show 9 > 0 by decide)
  constructor
  · show (256 - Config.clkSkew 0 % 9 - 0 + Config.clkSkew 0 % 9) % 256 = 0
    omega
  · show (257 - Config.clkSkew 0 % 9 - 0 + Config.clkSkew 0 % 9) % 256 ≠ 0
    omega

/-- A machine at a spring's handler. -/
def tSpring (g : Tab Word) (n : Nat) : State :=
  let m : Msg := { pa := 0, slot := 0, arg0 := 1#64, arg1 := 2#64, sender := 3#32, src := (4096, 0, 9), scope := 2 }
  { tU with
    cur := .spring 0
    tarns := [(0, { springs := [(0, { run := some m, queue := [m], slots := [(0, (1, [0xFDC00000#32, 0#32])), (1, (2, []))], g, steps := n })] })] }

/-- UniformArithmeticAndLogic, UniformMovesAndControl: a group and a handler; GLOOP at its last turn, at another and with a false
guard; a target that is aligned (an offset of whole words always is). -/
theorem witness_uniform : (tState false [] [] [(4, 1#32)]).ctx? = some (tCtx false [] [] [(4, 1#32)]) ∧ (tSpring [] 0).cur = .spring 0 ∧
    guardOk tC.Q.gp 7#3 false = true ∧
    guardOk tC.Q.gp 7#3 true = false ∧
    (tCtx false [] [] [(4, 1#32)]).Q.getG 4 = 1#32 ∧ (tCtx false [] [] [(4, 3#32)]).Q.getG 4 = 3#32 ∧
    (tC.gr.clause + BitVec.ofInt 64 (4 * ((-3#20 : BitVec 20).toInt))).toNat % 4 = 0 := ⟨rfl, rfl, by decide +kernel⟩

/-- ControlTransfers: targets aligned in every lane, and a lane whose pair is not a multiple of 4. -/
theorem witness_transfers : (((tCtx false [(2, 0x10010#32)] [(2, 0x10012#32)] []).thread 0).getPair 2).toNat % 4 = 0 ∧
    [0, 1].find? (fun l => (((tCtx false [(2, 0x10010#32)] [(2, 0x10012#32)] []).thread l).getPair 2).toNat % 4 != 0) = some 1 := by
  decide +kernel

/-- The user machine with operations outstanding. -/
def tOps (ops : Tab Op) : State := { tU with ops }

/-- A plain outstanding operation of lane 0. -/
def tOp (k : OpKind) (i : Instr) : Op := { kind := k, ins := i, blk := 4096, q := 0, lanes := 1#32 }

/-- ThreadsEnd: a result bound for the core outstanding, a write outstanding with a tracker entry free and with none, nothing
outstanding. -/
theorem witness_ends : let out := tOps [(7, { tOp .store (.st tW2) with elems := [{ lane := 0, va := 0#64, pa := 0, size := 4 }] })]
    tU.opsOf 4096 0 3#32 Op.intoCore = [] ∧ tU.opsOf 4096 0 3#32 Op.writesOut = [] ∧
    (tOps [(7, tOp .copy (.acp tW2))]).opsOf 4096 0 3#32 Op.intoCore ≠ [] ∧
    out.opsOf 4096 0 3#32 Op.intoCore = [] ∧ out.opsOf 4096 0 3#32 Op.writesOut ≠ [] ∧ (out.core 0).freeEntry = some 0 ∧
    ({ tracker := (List.range 8).map fun i => (i, (4096, [7])) } : Core).freeEntry = none ∧
    (tC.participants 7#3 false).head? = some 0 ∧ tC.participants 7#3 true = [] := by decide +kernel

/-- WaitingInstructions: no quire ready in exchange and one ready; debugging off, on with room, on with a full trap queue. -/
theorem witness_waiting : tU.oldestReady 4096 tC.B = none ∧
    (let s := tTwo {} { pc := 0x10000#64 } 0; (s.block? 4096).map (s.oldestReady 4096)) = some (some 1) ∧
    (tU.tarn 0).debug = false ∧ (tC.participants 7#3 false).head? = some 0 ∧ (tC.participants 7#3 false) ≠ [] ∧
    (let T : Tarn := { debug := true, traps := List.replicate 64 { kind := 2 } }
     T.debug = true ∧ 64 ≤ T.traps.length ∧ ({ debug := true } : Tarn).traps.length < 64) := by decide +kernel

/-- CrossLane, CompareSelectMove, FloatArithmetic, ConversionsAndBlocks: forms that meet each condition on their fields. -/
theorem witness_forms : (tMod 1 2 3 4 3 0 0 0).x.sub = 0#4 ∧ (tMod 1 2 3 4 3 0 0 1).x.sub = 1#4 ∧ (tMod 1 2 3 4 3 0 0 2).x.sub = 2#4 ∧
    (tMod 1 2 3 4 3 0 0 8).x.sub.getLsbD 3 = true ∧ (tImm 1 0 3 3 5).a = 0#7 ∧ (tImm 1 1 3 3 5).a = 1#7 ∧ (tMod 1 2 3 4 3 0 0 8).x.isImm = false ∧
    (tImm 1 0 3 3 5).x.isImm = true ∧ tyOf (tMod 1 2 3 4 5 0 0 0) = 5 ∧ tyOf (tMod 1 2 3 4 12 0 0 0) = 12 ∧ tyOf (tMod 1 2 3 4 14 0 0 0) = 14 ∧
    tyOf (tMod 1 2 3 4 16 0 0 0) = 16 ∧ (tC.uniform 7#3 false).head? = some 0 := by decide +kernel

/-- FloatArithmetic, ConversionsAndBlocks: patterns that decode to each kind of value, and magnitudes that round within and beyond the
largest. -/
theorem witness_values : decodeFp .fp32 0x7FC00000 = .nan ∧ decodeFp .fp32 0x7F800000 = .inf false ∧ decodeFp .fp32 0xFF800000 = .inf true ∧
    (decodeFp .fp32 0x80000000).isZero = true ∧ (∃ k i, k ≠ 0 ∧ decodeFp .fp32 0x3F800000 = .num false k i ∧ decodeFp .fp32 0xBF800000 = .num true k i) ∧
    roundMag .e4m3 .rne false 300 0 false ≤ Fmt.e4m3.maxCode ∧ Fmt.e4m3.maxCode < roundMag .e4m3 .rne false 470 0 false :=
  ⟨rfl, rfl, rfl, rfl, ⟨_, _, by decide, rfl, rfl⟩, by decide +kernel⟩

/-- Transcendentals: an outstanding one of one lane, and its counter. -/
theorem witness_transcendental : let o : Op := { tOp .trans (.frcp tW2) with flag := 1, holdV := [5], elems := [.result 0 7] }
    (tOps [(7, o)]).op? 7 = some o ∧ o.kind = .trans ∧ o.holdV = [(5#7 : BitVec 7).toNat] ∧ o.lanes = BitVec.twoPow 32 0 ∧
    0 ∈ (tOps [(7, o)]).opLanes o ∧ o.flag < 12 := by decide +kernel

/-- BitCountsAndFields: an operand with no bit set and one with some; LoadsComplete: values in range. -/
theorem witness_bits : 256 % 2 ^ 8 = 0 ∧ 5 % 2 ^ 8 ≠ 0 ∧ (0 : Nat) < 256 ∧ (255 : Nat) < 2 ^ 8 := by decide
/-- Granted, as a check. -/
def grantedB (s : State) (c : Ctx) (ls : List Nat) (ea : Nat → BitVec 64) (n align : Nat) (write : Bool) (attr : Xlat → Option Nat) : Bool :=
  ls.all fun l => c.B.mayAccess write (ea l).toNat n && (ea l).toNat % align == 0 &&
    ((ea l).toNat :: pagesOf (ea l).toNat n).all fun va =>
      match (s.core c.B.core).tlbHit (s.partOf c.B) va with
      | some x => x.permits (!c.B.sup) write false va && (attr x).isNone && !s.homeOffline (x.pa va)
      | none => false

theorem granted_of {s : State} {c : Ctx} {ls : List Nat} {ea : Nat → BitVec 64} {n align : Nat} {write : Bool} {attr : Xlat → Option Nat}
    (h : grantedB s c ls ea n align write attr = true) : Granted s c ls ea n align write attr := by
  intro l hl
  simp only [grantedB, List.all_eq_true, Bool.and_eq_true, beq_iff_eq] at h
  obtain ⟨⟨h1, h2⟩, h3⟩ := h l hl
  refine ⟨h1, h2, fun va hva => ?_⟩
  have h4 := h3 va hva
  split at h4
  · rename_i x hx
    simp only [Bool.and_eq_true, Bool.not_eq_true', Option.isNone_iff_eq_none] at h4
    exact ⟨x, hx, h4.1.1, h4.1.2, h4.2⟩
  · cases h4

/-- A machine whose threads hold the address 0x20000 in pair V2 and whose quire holds it in pair G2. -/
def tM (sup : Bool) : State := tState sup [(2, 0x20000#32)] [(2, 0x20000#32)] [(2, 0x20000#32)]
def tMC (sup : Bool) : Ctx := tCtx sup [(2, 0x20000#32)] [(2, 0x20000#32)] [(2, 0x20000#32)]

/-- The effective address of an access. -/
def tEa (c : Ctx) (w : W2) (l : Nat) : BitVec 64 :=
  (c.thread l).getPair w.a.toNat + BitVec.ofInt 64 (toSigned 32 (opB c.Q (c.thread l) w false (ofInt 32 w.x.imm20.toInt)))

/-- GlobalLoadStoreIssue, CacheTagAndUniformLoads, Atomics, ExternalWaits, SpringMessages, CommandInstructions, SupervisorInstructions:
accesses of each size and kind whose checks pass, in a user block and on the supervisor core. -/
theorem witness_granted : let w := tImm 5 2 0 3 0
    (tM false).ctx? = some (tMC false) ∧ (tM true).ctx? = some (tMC true) ∧
    Granted (tM false) (tMC false) [0, 1] (tEa (tMC false) w) 4 4 false noCell ∧ Granted (tM false) (tMC false) [0, 1] (tEa (tMC false) w) 4 4 true noCell ∧
    Granted (tM false) (tMC false) [0, 1] (tEa (tMC false) w) 1 1 true noHost ∧
    Granted (tM false) (tMC false) [0, 1] (tEa (tMC false) w) 8 8 true (atomAttr true w) ∧
    Granted (tM false) (tMC false) [0] (tEa (tMC false) w) 64 64 true noHost ∧
    Granted (tM false) (tMC false) [0] (fun _ => (tMC false).Q.getGPair 2) 64 64 false noCell ∧
    Granted (tM true) (tMC true) [0] (fun _ => (tMC true).Q.getGPair 2) 4 4 false noCell ∧
    Granted (tM true) (tMC true) [0] (fun _ => (tMC true).Q.getGPair 2) 96 32 false noCell :=
  ⟨rfl, rfl, granted_of rfl, granted_of rfl, granted_of rfl, granted_of rfl, granted_of rfl, granted_of rfl, granted_of rfl, granted_of rfl⟩

/-- GlobalAccessFaults: an access outside the leases, one that is misaligned, one whose page does not admit it. -/
theorem witness_access_faults : let s := tM false
    let c := tMC false
    c.B.mayAccess true 0x40000 4 = false ∧ c.B.mayAccess true 0x20002 4 = true ∧ 0x20002 % 4 ≠ 0 ∧
    pagesOf 0x10004 4 = [0x10004] ∧ s.missing 0 0 [0x20000] = [] ∧
    s.accessBad c 0x40000 4 4 true noCell = some (causeLease, 0) ∧
    (s.xlate 0 0 true true false 0x10004).toOption = none ∧ (s.xlate 0 0 true false false 0x10004).toOption.isSome = true ∧
    ((tM true).xlate 24 0 false true false 0x10004).toOption = none := by decide +kernel

/-- CacheTagAndUniformLoads: a home in the core's own module; the control range, at an offset a rule describes and at one none does. -/
theorem witness_gld : paModule 0x20000 = tarnModule (coreTarn 0) ∧ (tM true).isPoisoned (lineOf 0x20000) = false ∧
    (tM true).tagsMatch 0 false 0x20000#64 0x20000 8 = true ∧ (tM true).controlRead 0xF00000FF0000 8 = none ∧
    (tMC false).uniform 7#3 true = [] := by decide +kernel
/-- A machine with a side that holds one ready tile, a busy one, a source and an image, in a block that declares the whole side. -/
def tGrid : BitVec 39 := BitVec.ofNat 39 (64 * 2 ^ 16 + 64 * 2 ^ 26 + 9 * 2 ^ 33)
def tImage : BitVec 39 := BitVec.ofNat 39 (64 * 2 ^ 9 + 67 * 2 ^ 16 + 16 * 2 ^ 26 + 14 * 2 ^ 33 + 2 ^ 38)
def tSide : Side :=
  { owner := some 4096
    tiles := [(1, { st := 2, desc := tGrid }), (2, { st := 2, desc := tImage }), (3, { st := 1, desc := tGrid })] }

/-- ScratchpadAccess: an access below, above, misaligned and good; a split without a failure; lanes to switch off. -/
theorem witness_scratchpad : let S : Side := {}
    (-4 : Int) < 0 ∧ ((tC.B.scratch : Int) < 4096 + 4) ∧ (0 : Int) ≤ 8 ∧ (8 : Int) + 4 ≤ tC.B.scratch ∧ (6 : Int).toNat % 4 ≠ 0 ∧ S.tiles = [] ∧
    scratchSplit tU tC (tC.participants 7#3 false) (fun _ => 8) 4 false = ([(0, 8), (1, 8)], []) ∧
    scratchSplit tU tC (tC.participants 7#3 false) (fun _ => 8) 4 true true = ([(0, 8)] ++ [(1, 8)], []) ∧
    tU.scratchBusy tC [(0, 8), (1, 8)] 4 = false ∧
    (let s := tTwo {} {} 0; (s.block? 4096).map (fun B => (tget? B.quires 1).map fun Q => (Q.groups, (tget? Q.threads 0).isSome))) =
      some (some ([], true)) := by decide +kernel

/-- PoolAccess: an offset that passes, and one that is out of range. -/
theorem witness_pool : (0 : Int) ≤ 16 ∧ (16 : Int) + 4 ≤ 2 ^ 25 ∧ (16 : Int).toNat % 4 = 0 ∧ tU.poolBusy 0 = false ∧
    [0, 1].find? (fun l => decide (((fun l => if l = 0 then 16 else 2 ^ 25 - 2) l : Int) < 0 ∨
      2 ^ 25 < ((fun l => if l = 0 then 16 else 2 ^ 25 - 2) l : Int) + 4)) = some 1 ∧
    tC.participants 7#3 false = [0] ++ [1] := by decide +kernel

/-- Deques: a good deque of two entries that holds none, one and both, and an operation of one lane whose turn it is. -/
def tDeque (tail : Nat) : List Host.Cell := writeLE (writeLE (writeLE [] 20 4 tail) 24 4 0x40) 28 4 1

theorem witness_deque : (dequeAt (tDeque 0) 16).bad = false ∧ (dequeAt (tDeque 0) 16).count = 0 ∧ (dequeAt (tDeque 2) 16).count = 2 ^ (dequeAt (tDeque 2) 16).capl ∧
    (dequeAt (tDeque 1) 16).count < 2 ^ (dequeAt (tDeque 1) 16).capl ∧ 16 + 16 ≤ (dequeAt (tDeque 1) 16).slot 1 ∧
    (let o : Op := { tOp .deque (.pusht tW2) with due := 1, elems := [{ lane := 0, va := 0#64, pa := 16, size := 16 }] }
     ({ tOps [(7, o)] with clk := 1 } : State).poolTurn 7 o = true ∧ o.lanes = BitVec.twoPow 32 0 ∧ (tOps [(7, o)]).threadAt 4096 0 0 ≠ none ∧
     ((tOps [(7, o)]).threadAt 4096 0 0).map (·.live) = some true ∧ firstBlock ≤ o.blk) := by decide +kernel

/-- One step: PUSHT, then TAKET, on the spec's deque layout (R290 to R292). -/
theorem test_deque : (dequeAct 0 (tDeque 0) 16 77).2 = (0, 0) ∧ (dequeAct 1 (dequeAct 0 (tDeque 0) 16 77).1 16 0).2 = (0, 77) ∧
    (dequeAct 0 (tDeque 2) 16 5).2.1 = 1 ∧ (dequeAct 1 (tDeque 0) 16 0).2.1 = 2 := by decide +kernel

/-- TileTableAndTransferIssue, TileTransfers: tiles empty, ready and busy; descriptors that are right and not; the operands of QTILE
and TRLCK. -/
theorem witness_tiles : ((tSide.tile 3).busy = true ∧ (tSide.tile 1).busy = false ∧ (tSide.tile 1).st = 2 ∧ (tSide.tile 0).st = 0 ∧
    (∀ e ∈ ({} : Side).tiles, e.2.busy = false) ∧ descOk tGrid.toNat 196608 = true ∧ descOk tGrid.toNat 64 = false ∧
    (tSide.tile 1).desc'.image = false ∧ (tSide.tile 1).desc'.ty = 9 ∧ (tSide.tile 1).desc'.rows = 64 ∧ (tSide.tile 1).desc'.wcols = 64 ∧
    (tSide.tile 2).desc'.image = true ∧ (tSide.tile 2).desc'.ty = tyOf (tMod 2 1 0 0 14 0 0 0) ∧
    (tSide.tile 1).desc'.overlaps (tSide.tile 2).desc' = false ∧
    (tM false).homeOffline 0x20000 = false ∧
    (0x20000 / 65536 : Nat) = (0x20000 + 64 + (tSide.tile 1).desc'.dataSize - 1) / 65536 ∧
    (0x2FFC0 / 65536 : Nat) ≠ (0x2FFC0 + 64 + (tSide.tile 1).desc'.dataSize - 1) / 65536) ∧
    Granted (tM false) (tMC false) [0] (fun _ => 0x20000#64) (64 + (tSide.tile 1).desc'.dataSize) 64 true noHost :=
  ⟨by decide +kernel, granted_of (by decide +kernel)⟩

/-- TileTransfers: an attempt of LDT at its first line: an odd version word, an even one with the tile's header (a 1 x 1 tile of FP32);
at its second line, and at the last read of VER, unchanged and changed; a commit of STT at its home. -/
theorem witness_transfer : let d : BitVec 39 := BitVec.ofNat 39 (1 * 2 ^ 16 + 1 * 2 ^ 26 + 9 * 2 ^ 33)
    let es : List Elem := [{ lane := 0, va := 0#64, pa := 0x20000, size := 64 }, { lane := 0, va := 64#64, pa := 0x20040, size := 64 }]
    let o (k : OpKind) (m : Nat) : Op := { tOp k (.ldt tW2) with elems := es, m }
    let s (m v : Nat) : State := { tOps [(7, o .ldt m)] with mem := writeLE [] 0x20000 8 (v + (descOf d.toNat).header) }
    let bs (v : Nat) : List Byte := leBytes 64 ((s 0 v).readLine 0 (lineOf 0x20000)).toNat
    leNat ((bs 1).take 8) % 2 = 1 ∧ leNat ((bs 2).take 8) % 2 = 0 ∧ bits (leNat ((bs 2).take 8)) 61 32 * 2 ^ 32 = (descOf d.toNat).header ∧
    leNat ((bs 2).take 4) = leNat ((bs 2).take 4) ∧ leNat ((bs 4).take 4) ≠ leNat ((bs 2).take 4) ∧
    ([0, 1, 2].all fun m => match (o .ldt m).elems[m % 2]? with
      | some e => (s m 2).clearToAct (o .ldt m) e && !(s m 2).shut 0 e.pa && !(s m 2).podDown 0 e.pa && !(s m 2).dramHeld (lineOf e.pa) &&
        (s m 2).agentHas 0 (lineOf e.pa) (byteMask 0 4) && !(s m 2).poisonedFor 0 (lineOf e.pa) && (s m 2).tagsMatch 0 e.te e.va e.pa 64
      | none => false) = true ∧
    (o .ldt 0).bad = none ∧ (o .ldt 0).covers = [] ∧ (o .ldt 0).prior = [] ∧ (o .ldt 0).bypass = false ∧
    (s 0 2).stampedFor (o .stt 0) { lane := 0, va := 0#64, pa := 0x20000, size := 64 } = false ∧
    (s 0 2).stampedFor (o .stt 0) { lane := 0, va := 0#64, pa := 2 ^ 36, size := 64 } = true := by
  decide +kernel

/-- Fences: no read and no write outstanding, and one of each; a scratchpad atomic still to act. -/
theorem witness_fences : tU.opsOf 4096 0 3#32 Op.isRead = [] ∧ (tOps [(7, { tOp .load (.ld tW2) with elems := [{ lane := 0, va := 0#64, pa := 0, size := 4 }] })]).opsOf 4096 0 3#32 Op.isRead ≠ [] ∧
    tU.coversOf 4096 0 tC.Q [0, 1] = [] ∧
    (let s := tOps [(7, { tOp .store (.st tW2) with elems := [{ lane := 0, va := 0#64, pa := 0, size := 4 }] })]
     7 ∈ s.coversOf 4096 0 tC.Q [0, 1] ∧ s.performedAt 5 7 = false) ∧
    (tOps [(7, { tOp .lds (.atoms tW2) with elems := [{ lane := 0, va := 0#64, pa := 0, size := 4 }] })]).opsOf 4096 0 3#32
      Op.bankOwed ≠ [] := by decide +kernel

/-- CellIssue: a cell page whose accesses pass the checks; a decision at hand and none. -/
theorem witness_cell_issue : let s : State := { tM false with cores := [(0, { run := some 4096, tlb := [⟨0, 0x20000, 16, 0x100000000020033#64⟩] })] }
    Granted s (tMC false) [0, 1] (fun l => ((tMC false).thread l).getPair 2) 16 16 true cellAttr ∧
    Granted s (tMC false) [0, 1] (fun l => ((tMC false).thread l).getPair 2) 16 16 false cellAttr ∧
    s.cachedDecision 0 0x20000 7 = none ∧
    (({ s with cores := [(0, { dec := [⟨0x20000, 7#30, 5#64, 3#32⟩] })] } : State).cachedDecision 0 0x20000 7).isSome = true :=
  ⟨granted_of rfl, granted_of rfl, by decide +kernel⟩

/-- CellActs: cells in every condition; an arrived element, one at hand, one of another tarn; a decided cell read; a result at hand. -/
theorem witness_cells : cellState (mkCell 0 5 0 0) = 0 ∧ cellState (mkCell 1 5 9 1) = 1 ∧ cellState (mkCell 2 5 9 1) = 2 ∧ cellState (mkCell 3 5 9 1) = 3 ∧
    cellGen (mkCell 1 5 9 1) = 5 ∧ cellGen (mkCell 1 0x3FFFFFFF 9 1) = 0x3FFFFFFF ∧ mkCell 1 0x3FFFFFFF 9 1 < 2 ^ 128 ∧
    (let e (st pa : Nat) : Elem := { lane := 0, va := 0#64, pa, size := 16, st, c := 5#64 }
     let o (e : Elem) : Op := { tOp .cell (.dread tW2) with elems := [e] }
     let s (e : Elem) : State := tOps [(7, o e)]
     (s (e 0 0x20000)).homeOffline 0x20000 = false ∧ (s (e 0 0x20000)).dramHeld (lineOf 0x20000) = false ∧
     (s (e 0 0x20000)).cellHeld 7 0x20000 (0, 0) = false ∧ (s (e 0 0x20000)).serving 0 = true ∧
     (s (e 0 0x20000)).shut 0 0x20000 = false ∧ (s (e 0 0x20000)).sliceGroup (o (e 0 0x20000)) (e 0 0x20000) ≠ [] ∧ (s (e 0 0x20000)).routeOf (o (e 0 0x20000)) (e 0 0x20000) = .here ∧
     (s (e 0 0x20000)).clearToAct (o (e 0 0x20000)) (e 0 0x20000) = true ∧ (s (e 0 0x20000)).released (o (e 0 0x20000)) = true ∧
     coreTarn ((s (e 0 0x20000)).coreOf 4096) = lineHome (lineOf 0x20000) ∧ coreTarn ((s (e 0 0x20000)).coreOf 4096) ≠ lineHome (lineOf (2 ^ 36)) ∧
     (o (e 6 0x20000)).elems.find? (fun x => x.st == 6 && springOf x.pa == springOf 0x20000) = some (e 6 0x20000) ∧
     (e 4 0x20000).done = true ∧ (s (e 4 0x20000)).isPoisoned (lineOf 0x20000) = false ∧ cellOpOf (o (e 4 0x20000)).ins ≠ .dinit ∧
     (cellStep .dread (mkCell 1 5 9 1) 5 0 0).out = some outDecided ∧ (cellStep .dread (mkCell 1 5 9 1) 5 0 0).write = none) := by
  decide +kernel

/-- R306: a proposal to an open cell wins, one to a decided cell loses. -/
theorem test_proposal : (cellStep .prop (mkCell 0 5 0 0) 5 42 3).out = some outWon ∧ (cellStep .prop (mkCell 0 5 0 0) 5 42 3).write = some (mkCell 1 5 42 3) ∧
    (cellStep .prop (mkCell 1 5 42 3) 5 99 4).out = some outLost ∧ (cellStep .prop (mkCell 1 5 42 3) 6 99 4).out = some outStale := by decide +kernel
/-- BarrierIssue: counts in range and alike, out of range, unlike; an object id in range, virtualised and out of range; the gates of a
gang: undecided, committed, aborted. -/
theorem witness_barriers : (1 ≤ 2 ∧ 2 ≤ 512) ∧ (2 < 1 ∨ 512 < 513) ∧ (3 : Nat) ≠ 2 ∧ (64 : Nat) < 2 ^ 20 ∧ (2 : Nat) ^ 20 ≤ 2 ^ 20 ∧
    tC.participants 7#3 false = [0, 1] ∧ (tImm 0 1 0 0 2).x.isImm = true ∧ opB tC.Q (tC.thread 0) (tImm 0 1 0 0 2) false 2 = 2 ∧
    (let g (st : Nat) : State := { tU with parts := [(0, { tarns := [0], gangs := [(7, { desc := 0#512, st })] })] }
     let B : Block := { tC.B with gang := 7 }
     (g 1).gangGate B = 1 ∧ (g 2).gangGate B = 2 ∧ (g 3).gangGate B = 3) := by decide +kernel

/-- BarrierPhases: a phase that waits for two, one whose count differs; a thread that waits at it; a completed scope-barrier phase with
no arrival to tell and with one. -/
theorem witness_phases : ({ n := 2, a := 1 } : Phase).mismatch 2 none = false ∧ ({ n := 2, a := 1 } : Phase).mismatch 3 none = true ∧
    (let o : Op := { tOp .bar (.bara tW2) with n := 2, elems := [{ lane := 0, va := 0#64, pa := 0, size := 0 }] }
     (tOps [(7, o)]).released o = true ∧ (∀ e ∈ o.elems, e.st = 0) ∧ ¬ (0 < ({ } : Phase).last.2)) ∧
    (tTwo { wait := .named 3 1 (some (5, false)) } {} 0).threadAt 4096 0 0 = some { wait := .named 3 1 (some (5, false)) } ∧
    (let o : Op := { tOp .sbar (.sbara tW2) with flag := 1, m := 9, elems := [{ lane := 0, va := 0#64, pa := 3, size := 0, st := 6 }] }
     let s : State := { tOps [(7, o)] with sbarDone := [(9, { n := 2, num := 2 })] }
     s.sbarDone.find? (fun x => x.1 == 9 && x.2.num + 1 == 3) = some (9, { n := 2, num := 2 }) ∧
     s.ops.filter (fun o => o.2.kind == .sbar && o.2.m == 9) = [(7, o)] ∧ s.ops.filter (fun o => o.2.kind == .sbar && o.2.m == 8) = []) := by
  decide +kernel

/-- One step: a phase of two arrivals completes at the second (R320). -/
theorem test_phase : (({ } : Phase).arrive 2 none 0 []).2 = false ∧ ((({ } : Phase).arrive 2 none 0 []).1.arrive 2 none 0 []).2 = true := by
  decide +kernel

/-- ExternalWaits: a waiting WAITX at device memory and at the host aperture, with its timeout over. -/
theorem witness_waits : let e (pa : Nat) : Elem := { lane := 0, va := 0#64, pa, size := 8, c := 5#64 }
    let o (pa : Nat) : Op := { tOp .waitx (.waitx tW2) with elems := [e pa] }
    let s (pa : Nat) : State := { tOps [(7, o pa)] with clk := 9 }
    inHost 0x20000 = false ∧ inHost 0xF80000000000 = true ∧ (e 0x20000).done = false ∧ (s 0x20000).homeOffline 0x20000 = false ∧
    (s 0xF80000000000).homeOffline 0xF80000000000 = false ∧ (s 0x20000).clearToAct (o 0x20000) (e 0x20000) = true ∧
    (s 0x20000).podDown 0 0x20000 = false ∧ (s 0xF80000000000).podDown 0 0xF80000000000 = false ∧ (s 0x20000).poisonedFor 0 (lineOf 0x20000) = false ∧
    (s 0x20000).shut 0 0x20000 = false ∧ (s 0x20000).agentHas 0 (lineOf 0x20000) (byteMask 0 8) = true ∧ (s 0x20000).dramHeld (lineOf 0x20000) = false ∧
    (s 0x20000).tagsMatch 0 false 0#64 0x20000 8 = true ∧ (e 0x20000).c ≠ 0#64 ∧ (e 0x20000).c.toNat ≤ (s 0x20000).clk ∧
    xcond 0 5 5 = true ∧ xcond 0 5 6 = false ∧ ((s 0x20000).threadAt 4096 0 0).map (·.live) = some true := by decide +kernel

/-- LoadsComplete: a load whose value is there. -/
theorem witness_load : let o : Op := { tOp .load (.ld (tImm 5 2 0 3 0)) with
      flag := 1, holdV := [5], elems := [{ lane := 0, va := 0#64, pa := 0x20000, size := 4, st := 3, r := 7#64 }] }
    (tOps [(7, o)]).op? 7 = some o ∧ o.holdV = [(tImm 5 2 0 3 0).d.toNat] ∧ tyBytes (tyOf (tImm 5 2 0 3 0)) ≠ 8 ∧ o.bad = none ∧ o.drop = false ∧
    (∀ e ∈ o.elems, e.st = 3 ∧ e.lane < 32 ∧ o.lanes.getLsbD e.lane = true) ∧ (o.elems.map (·.lane)).Nodup ∧
    ((tOps [(7, o)]).threadAt 4096 0 0).map (·.live) = some true := by decide +kernel

/-- A plain element at an address. -/
def tElem (pa st : Nat) : Elem := { lane := 0, va := 0#64, pa, size := 4, st }

/-- ServiceEvents: elements at hand at a slice, at a MAU, at a pool bank, at the host and at another module's home. -/
theorem witness_service : let o (k : OpKind) (i : Instr) (e : Elem) : Op := { tOp k i with elems := [e] }
    let ld := o .load (.ld tW2) (tElem 0x20000 0)
    let at_ (st : Nat) := o .atom (.atom tW2) (tElem 0x20000 st)
    let far := o .load (.ld tW2) (tElem (2 ^ 48) 0)
    let pl := { o .poolAtom (.atomp tW2) (tElem 16 0) with due := 1 }
    let h := o .store (.st tW2) (tElem 0xF80000000040 0)
    let s (x : Op) : State := tOps [(7, x)]
    (s ld).sliceElems ld (lineOf 0x20000) ≠ [] ∧ (s ld).shut 0 (lineOf 0x20000 * 64) = false ∧ (s ld).serving 0 = true ∧
    ((s (at_ 0)).sliceGroup (at_ 0) (tElem 0x20000 0)).any (tElem 0x20000 0).same = true ∧ (s ld).released ld = true ∧
    (s ld).dramHeld (lineOf 0x20000) = false ∧ (at_ 0).atMau = true ∧ (at_ 6).nextSlot 0x20000 = some (tElem 0x20000 6) ∧
    (s (at_ 0)).routeOf (at_ 0) (tElem 0x20000 0) = .here ∧ (s (at_ 0)).mauHeld 7 0x20000 = false ∧
    coreTarn ((s ld).coreOf 4096) = lineHome (lineOf 0x20000) ∧ coreTarn ((s ld).coreOf 4096) ≠ lineHome (lineOf (2 ^ 36)) ∧
    ({ s pl with clk := 1 } : State).poolTurn 7 pl = true ∧ (s far).podElems far = [tElem (2 ^ 48) 0] ∧ (s far).podDown 0 (2 ^ 48) = false ∧
    ({ s far with tarns := [(0, { port := false })] } : State).podDown 0 (2 ^ 48) = true ∧ tget (s far).flits 0 0 < 2 ^ 32 ∧
    h.elems.find? (fun e => e.lane == 0 && decide (e.st < 2) && inHost e.pa) = some (tElem 0xF80000000040 0) ∧
    (s h).hostBehind 7 h (tElem 0xF80000000040 0) = false ∧ (s h).clearToAct h (tElem 0xF80000000040 0) = true := by decide +kernel

/-- A machine whose tarn 0 walks a page table with pages 2 to 5 of granule numbers 2 to 5, a shadow area at page 4, in partition 0. -/
def tWalk : State :=
  { tM false with
    tarns := [(0, { root := 0x100000#64, tcache := [(0x100000, 0x108001#64), (0x108000, 0x110001#64), (0x110000, 0x118001#64),
      (0x118010, 0x20033#64), (0x118018, 0x30033#64), (0x118020, 0x40033#64), (0x118028, 0x50033#64)] })]
    parts := [(0, { tarns := [0], shbase := 0x40000#64, shsize := 2#64 })] }

/-- RingLinkAndArrayEvents: a request unstamped, stamped and not yet due, and due; dirty and clean guest lines; a second read that is
due; a page to walk; pseudo-channels with parity errors, in retraining, retired, with a window to close; a row of the tier. -/
theorem witness_ring : let r (c : Option Nat) : RingReq := { home := 1, req := .inval 0 0 1, cycle := c }
    let s (c : Option Nat) : State := { tU with clk := 100, ring := [(3, r c)], reread := [lineOf 0x20000] }
    (s none).tarn 1 = {} ∧ ((s none).tarn 1).stamp ≠ some 100 ∧ (s none).behind 3 (r none) = false ∧
    (s (some 4)).reqTurn 3 (r (some 4)) = true ∧
    (s (some 4)).reqHeld (r (some 4)) = false ∧ (100 : Nat) < 50 + 96 ∧
    ((tU.clean 1 5).slice 1 5).dirty = 0#64 ∧ (1 : Nat) ≠ lineHome 5 ∧
    ((({ tU with tarns := [(1, { slices := [(5, { dirty := 1#64, valid := 1#64 })] })] } : State).clean 1 5).slice 1 5).dirty ≠ 0#64 ∧
    (homeOf (lineOf 0x20000 * 64)).isSome = true ∧ (s none).reread.contains (lineOf 0x20000) = true ∧
    (tWalk.walk 0 0 0x20000).2.toOption.isSome = true ∧ inTier 0x20000 = false ∧ homeOf 0x20000 = some (springOf 0x20000 / 64) ∧
    inTier 0x100000000000 = true ∧ homeOf 0x100000000000 = some 0 ∧
    (let sp : Spring := { parity := [1, 2, 3, 4], retrain := true, trained := some 2, mitig := [(9, 5)], acts := [(9, { may := 4096 })] }
     sp.retired = false ∧ 4 ≤ (sp.parity.filter fun k => decide (100 ≤ k + clkPerMs)).length ∧ (9, 5) ∈ sp.mitig ∧ (5 : Nat) ≤ 100 ∧
     100 ≤ 2 + clkPerMs ∧ sp.run = none ∧ 4096 ≤ (tget sp.acts 9 {}).may ∧ (tget sp.acts 9 {}).slot = none) := by decide +kernel

/-- WritesAreRead: a line with a home; a byte mask; no move under way. -/
theorem witness_lines : (homeOf (lineOf 0x20000 * 64)).isSome = true ∧ (0xF#64) ≠ 0#64 ∧ tU.moves = [] := by decide +kernel
/-- A block of that machine with room for copies: declared ring of 8 entries, the whole side, leases over pages 2 to 5. -/
def tEngB : Block :=
  { tBlock false [(2, 0x20000#32), (4, 0x1000#32), (6, 64#32)] [] [] with
    scratch := 196608, ring := 8, leases := [⟨0x20000, 0x40000, 1⟩], ranges := [⟨0x20000, 0x40000, 1⟩] }
def tEng (dring : List Entry) (bytes : List Host.Cell) : State :=
  { tWalk with
    blocks := [(4096, { tEngB with dring, shadows := [(1, { base := 0x20000#64, pages := 1, own := [2], frames := [4], written := [0] })] })]
    cores := [(0, { run := some 4096, tlb := tPages, sides := [(0, { owner := some 4096, bytes })] })] }

/-- A copy of 64 bytes from 0x20000 to the side, or one that a check fails. -/
def tCopy (len : Nat) : Entry := { bits := entryBits 1 2 0 0 false 0 0 0x1000 0x20000 len, seq := 1, ring := 1, id := 9 }

/-- CopyAndShadows: an entry whose checks pass, one that fails at the side and one at its global operand; a full ring and a ring with
room; a completion word that has and has not been reached; a region that may be registered; a handle free and none free. -/
theorem witness_copy : let s := tEng [] []
    (tCopy 64).malformed = false ∧ s.sideBadAtIssue tEngB (tCopy 64) = none ∧ s.globalBadAtIssue tEngB (tCopy 64) = none ∧
    (({ tCopy 64 with bits := entryBits 1 2 0 0 false 0 0 0x40000 0x20000 64 } : Entry).malformed = false) ∧
    s.sideBadAtIssue tEngB { tCopy 64 with bits := entryBits 1 2 0 0 false 0 0 0x40000 0x20000 64 } = some (5, 0x40000) ∧
    s.globalBadAtIssue tEngB { tCopy 64 with bits := entryBits 1 2 0 0 false 0 0 0x1000 0x70000 64 } = some (1, 0x70000) ∧
    tEngB.iring.length < 16 ∧ 16 ≤ (List.replicate 16 (tCopy 64)).length ∧
    (s.doneWord tEngB 0 + 2 ^ 32 - 0) % 2 ^ 32 < 2 ^ 31 ∧ ¬ (s.doneWord tEngB 0 + 2 ^ 32 - 1) % 2 ^ 32 < 2 ^ 31 ∧
    tEngB.mayAccess true 0x20000 65536 = true ∧ s.pagesOk 0 0 0x20000 65536 (fun x va => x.sz == 16 && !x.cell && !inHost (x.pa va)) = true ∧
    s.reserveFrames 0 0 [2] (s.part 0).shUsed = some [4] ∧ s.reserveFrames 0 0 [2] [4, 5] = none ∧
    (tEngB.shadows.any fun x => x.2.overlaps 0x20000 65536) = false ∧
    (((tEng [] []).block? 4096).map fun B => B.shadows.any fun x => x.2.overlaps 0x20000 65536) = some true ∧
    ({ tEngB with shadows := [0, 1, 2, 3].map fun h => (h, { base := 0#64, pages := 1, own := [], frames := [] }) } : Block).shadows.length = 4 ∧
    ((tEngB.quires.map fun q => q.2.threads.map (·.1)) = [[0, 1]]) := by decide +kernel

/-- CopyAndShadows, events: a registered shadow that no command uses, discarded and not. -/
theorem witness_shadow : let o : Op := { tOp .publ (.publ tW2) with elems := [{ lane := 0, va := 0#64, pa := 0, size := 0, st := 7, x := 1#64 }] }
    let S : Shadow := { base := 0x20000#64, pages := 1, own := [2], frames := [4], written := [0] }
    let s : State := { tEng [] [] with ops := [(7, o)] }
    o.handle = 1 ∧ ((s.block? 4096).map fun B => (tget? B.shadows 1, s.shadowBusy o B S)) = some (some S, false) ∧ s.released o = true ∧
    (s.block? 4096).map (s.engineOwes 4096) = some [] ∧ S.discarded = false ∧ ({ S with discarded := true } : Shadow).discarded = true := by decide +kernel

/-- EngineEvents: a notify word ahead, level and beyond the ring; an entry that may start; one that fails; a word of a copy; an entry
done; one that moves, replayed and not. -/
theorem witness_engine : let n (k : Nat) : State := tEng [] (writeLE [] 0 4 k)
    let ahead (k : Nat) : Nat := ((n k).notify tEngB + 2 ^ 32 - (n k).ringHead tEngB) % 2 ^ 32
    ahead 0 = 0 ∧ ahead 1 = 1 ∧ tEngB.ring < ahead 9 ∧ tEngB.ring ≠ 0 ∧ tEngB.dstop = false ∧ tEngB.dring.length < 16 ∧
    (tEng [tCopy 64] []).engineChoice 0 = some (4096, 1) ∧ ((tEng [tCopy 64] []).nextStart 4096 1).map (·.1) = some 0 ∧
    (tEng [] []).entryBad tEngB { tCopy 64 with bits := entryBits 1 2 0 0 false 0 0 0x40000 0x20000 64 } = some (5, 0x40000) ∧ (tCopy 64).kind ≠ 5 ∧
    (tCopy 64).dir = 0 ∧ (tEng [] []).holdsSide 4096 tEngB = true ∧ (tEng [] []).firstBad tEngB (tCopy 64) = none ∧ (tEng [] []).entryPerformed (tCopy 64) = true ∧
    ((tEng [] []).engineRead 0 tEngB (tCopy 64) 0x20000 4 0 64).2 = (.done, 0, []) ∧
    (let e : Entry := { tCopy 64 with stage := 1, work := [(0x20000, 0x1000)] }
     ({ tEngB with dring := [e] } : Block).movingEntry 1 Entry.transfers 0 = some (0, e) ∧ ¬(e.kind = 3 ∧ e.work = []) ∧ e.rp = false ∧ e.fromSide = false ∧
     ((tEng [e] []).workOf tEngB e)[0]? = some (0x20000, 0x1000)) := by decide +kernel

/-- One record of a handle: 64 x 64 BF16 in units 0 to 31, the spec's example (R396). -/
theorem test_record : (hrecOf 0x04B07C00).ok 0x04B07C00 = true ∧ (hrecOf 0x04B07C00).ty = 11 ∧ (hrecOf 0x04B07C00).klen = 64 ∧
    (hrecOf 0x04B07C00).vec = 64 ∧ (hrecOf 0x04B07C20).base = 8192 ∧ (hrecOf 0x04B07C00).overlaps (hrecOf 0x04B07C20) = false := by
  decide +kernel

/-- A block with two reserved handles, a signed convergence register and a BF16 tile. -/
def tMatB : Block :=
  { tEngB with
    handles := [(2, { st := 1, record := 0x04B07C00#64, gen := 1#32 }), (3, { st := 1, record := 0x04B07C20#64, gen := 1#32 })]
    kreg := [(1, { signed := true })] }
def tBf16 : BitVec 39 := BitVec.ofNat 39 (64 * 2 ^ 16 + 32 * 2 ^ 26 + 11 * 2 ^ 33)

/-- ReservationsAndConvergence: a record that is right and one that is not, one that meets another; an MSIGN arrival of one lane. -/
theorem witness_reservations : (tMatB.handle 2).st ≠ 0 ∧ (tMatB.handle 0).st = 0 ∧ (hrecOf 0).ok 0 = false ∧
    (tMatB.handles.any fun e => e.2.st != 0 && e.2.rec_.overlaps (hrecOf 0x04B07C40)) = false ∧
    (tMatB.handles.any fun e => e.2.st != 0 && e.2.rec_.overlaps (hrecOf 0x04B07C00)) = true ∧
    (let o : Op := { tOp .msign (.msign tW2) with n := 2, m := 4, elems := [{ lane := 0, va := 0#64, pa := 0, size := 0 }] }
     (tOps [(7, o)]).released o = true ∧ o.after_ = [] ∧ o.drop = false ∧ firstBlock ≤ o.blk ∧ (tget tC.B.kreg 4 {}).heldArr = [] ∧
     (tget tC.B.kreg 4 {}).a = 0 ∧ (tget tC.B.kreg 4 {}).late (tOps [(7, o)]).clk (arrivalRank tC.B.core o.q 0) = false) ∧ (tget tMatB.kreg 1 {}).signed = true ∧ (tget tMatB.kreg 4 {}).signed = false := by decide +kernel

/-- MatrixIssue: a fill that fits, shapes that agree and that do not, rows and columns in range. -/
theorem witness_matrix_issue : tMatB.mq.length < 8 ∧ fillable (descOf tBf16.toNat) false = true ∧
    fillFits (descOf tBf16.toNat) (tMatB.handle 2).rec_ false (0 + fillRows (descOf tBf16.toNat)) 0 (fillElems (descOf tBf16.toNat)) = true ∧
    shapeOk (tMatB.handle 2).rec_ (tMatB.handle 3).rec_ 0 = true ∧ shapeOk (tMatB.handle 2).rec_ (tMatB.handle 3).rec_ 1 = false ∧
    rowOf 0 % 64 = 0 ∧ rowOf 0 + zRows 0 ≤ 256 ∧ colOf 0 + zCols 0 ≤ 512 ∧ colOf 0 + 32 ≤ 512 ∧
    (descOf tGrid.toNat).image = false ∧ (descOf tGrid.toNat).ty = 9 ∧ rowOf 0 + (descOf tGrid.toNat).rows ≤ 256 ∧
    colOf 0 + (descOf tGrid.toNat).elems ≤ 512 ∧ (tget tMatB.kreg 1 {}).signed = true := by decide +kernel

/-- MatrixEvents: a queued multiplication that may start, one under way, four members of a quad that agree; a region of the
accumulators. -/
def tCmd (i : Instr) (stage : Nat) : MCmd := { ins := i, num := 5, op := 7, vb := 0#32, vc := 0#32, rows := [], stage, clause := 0#64, widx := 1 }
def tQuad : State :=
  { tEng [] [] with
    cores := [0, 1, 2, 3].map fun k => (k, { run := some (4096 + k) })
    blocks := [0, 1, 2, 3].map fun k => (4096 + k, { tMatB with core := k, mq := [tCmd (.mmaq ⟨7#3, false, 2#7, 3#7, 0#7, .mod 1#7 0#5 0#2 0#3 0#2 0#2 0#4⟩) 0] }) }

theorem witness_matrix_events : let m := tCmd (.mma tW2) 0
    let s : State := { tEng [] [] with ops := [(7, tOp .matrix (.mma tW2))] }
    let B : Block := { tMatB with mq := [m] }
    B.mq.find? (fun m => m.num == 5) = some m ∧ s.mayStart B m = true ∧ (tCmd (.mma tW2) 1).stage = 1 ∧ (s.op? 7).isSome = true ∧
    (∀ k < 4, (tQuad.quadMember k 0).isSome = true) ∧
    (match tQuad.quadMember 0 0, tQuad.quadMember 1 0, tQuad.quadMember 2 0, tQuad.quadMember 3 0 with
      | some a, some b, some c, some d => halvesAgree a b && halvesAgree c d && (b.z == a.z && c.z == a.z && d.z == a.z)
      | _, _, _, _ => false) = true ∧
    0 + (tMatB.handle 3).rec_.vec ≤ 512 := by decide +kernel

/-- SpringMessages: an instruction ring with room, a message on its way to a spring of its own tarn, to one of another module, and to
one that is retired. -/
theorem witness_messages : let e : Entry := { tCopy 64 with bits := BitVec.ofNat 256 (5 * 2 ^ 24), ring := 0 }
    let el : Elem := { lane := 0, va := 0#64, pa := 0x20000, size := 64 }
    let o : Op := { tOp .msg (.clauseEntry 4096 0 0#64) with lanes := 0#32, n := 0, m := 9, elems := [el] }
    let s : State := { tOps [(7, o)] with blocks := [(4096, { tC.B with iring := [e] })] }
    tC.B.iring.length < 16 ∧ s.nextMessage 4096 0 = some (7, o) ∧ s.routeOf o el = .here ∧ s.podDown 0 el.pa = false ∧
    (let f : Elem := { el with pa := 2 ^ 48 }
     let p : State := { s with ops := [(7, { o with elems := [f] })] }
     p.nextMessage 4096 0 = some (7, { o with elems := [f] }) ∧ p.routeOf { o with elems := [f] } f = .pod ∧ tget p.flits 0 0 < 2 ^ 32 ∧
     p.podDown 0 f.pa = false) ∧
    (let q : State := s.updSpring (springOf el.pa) fun sp => { sp with retired := true }
     q.nextMessage 4096 0 = some (7, o) ∧ (q.spring (springOf el.pa)).retired = true) ∧
    [e].find? (fun e => e.id == o.m) = some e ∧ (s.spring (springOf el.pa)).retired = false ∧
    (s.spring (springOf el.pa)).moving.contains (el.pa / 65536) = false ∧ ({ moving := [2] } : Spring).moving.contains (el.pa / 65536) = true ∧
    opBG tSC.Q (tMod 4 6 3 8 0 0 2 0) false 0 = 3 ∧ opBG tSC.Q (tMod 4 6 16 8 0 0 2 0) false 0 = 16 := by decide +kernel
/-- SpringHandlers: a message ahead of an idle spring whose slot is empty, disabled and loaded; a handler under way below and at its
step limit; a guard true and false; rows held, poisoned and plain. -/
theorem witness_handlers : let m (k : Nat) : Msg := { pa := 0, slot := k, arg0 := 1#64, arg1 := 2#64, sender := 3#32, src := (4096, 0, 9), scope := 2 }
    let sp (k : Nat) : Spring := { queue := [m k], slots := [(0, (1, [0xFDC00000#32, 0#32])), (1, (2, []))] }
    (sp 0).run = none ∧ (sp 0).retrain = false ∧ (sp 0).queue = [m 0] ∧ tget? (sp 5).slots (m 5).slot = none ∧
    tget? (sp 1).slots (m 1).slot = some (2, []) ∧ tget? (sp 0).slots (m 0).slot = some (1, [0xFDC00000#32, 0#32]) ∧
    (∀ x ∈ (sp 0).mitig, x.2 ≤ 0) ∧ ((tSpring [] 256).spring 0).run = some (m 0) ∧ 256 ≤ ((tSpring [] 256).spring 0).steps ∧
    ((tSpring [] 256).spring 0).at_ < 2 ∧ guardOk ((tSpring [] 0).spring 0).gp 7#3 false = true ∧
    guardOk ((tSpring [] 0).spring 0).gp 7#3 true = false ∧ (tSpring [] 0).rowHeld 0 0 = false ∧
    (∀ x < 16, (tSpring [] 0).isPoisoned (rowLine 0 0 x) = false) ∧ (∀ x < 16, (homeOf (rowLine 0 0 x * 64)).isSome = true) ∧
    (List.range 16).find? (fun x => ({ tSpring [] 0 with poisoned := [rowLine 0 0 3] } : State).isPoisoned (rowLine 0 0 x)) = some 3 ∧
    (4 : Nat) + 16 ≤ 128 := by decide +kernel

/-- A machine with one active launch of two blocks of 64 threads: record 0 is st with a counter. -/
def tRec (map : Nat) : LRec :=
  BitVec.ofNat 512 (0x20000 + 0x30000 * 2 ^ 192 + 2 * 2 ^ 320 + 2 ^ 336 + 2 ^ 352 + 64 * 2 ^ 368 + 2 ^ 378 + 2 ^ 388 + map * 2 ^ 398)
def tTask (st join : Nat) : Task := { lid := 3, bflat := 0, st, join, target := some 0, pend := 1, ranges := [] }
def tLaunch (st join : Nat) (pred : Option Nat) (uid : Nat) : Launch :=
  { record := tRec 1, uid, part := 0, ltarn := 0, tasks := [(0, tTask st join)], pred, codeEnd := 128 }
def tPart (st join : Nat) : State :=
  { tWalk with
    blocks := [(4096, { tBlock false [] [] [] with lid := 3 })]
    parts := [(0, { tarns := [0], launches := [(3, tLaunch st join none 40), (4, tLaunch st join (some 40) 41)] })] }

/-- CommandInstructions: an operation whose release is done and one whose is not; an active launch and a number that names none; blocks
in and out of its range. -/
theorem witness_commands : let o (r : Nat) : Op := { tOp .launch (.jdec tW2) with rel := r, covers := [8], elems := [{ lane := 0, va := 0#64, pa := 0, size := 0 }] }
    let s (r : Nat) : State := { tPart 0 2 with ops := [(7, o r), (8, { tOp .store (.st tW2) with elems := [tElem 0x20000 0] })] }
    (s 0).released (o 0) = true ∧ (s 5).released (o 5) = false ∧ ((s 0).launch? 0 3).isSome = true ∧ (s 0).launch? 0 9 = none ∧
    (tLaunch 0 2 none 40).record.n = 2 ∧ (tLaunch 0 2 none 40).record.n ≤ 2 ∧ 0 < (tLaunch 0 2 none 40).record.n ∧
    (tMod 4 8 5 0 0 0 0 0).x.sub.toNat % 4 = 0 ∧ (tMod 4 8 5 0 0 0 0 1).x.sub.toNat % 4 ≠ 0 ∧ (tMod 4 8 5 0 0 0 0 1).x.sub.getLsbD 0 = true := by
  decide +kernel

/-- DependencesAndLeases: a record that is final, waits for nothing more, for one decrement and for two; a registration on its way; a
ready record whose leases are granted, and one whose code has no page. -/
theorem witness_dependences : ((tPart 4 0).task? 0 3 0).map (·.st) = some 4 ∧ ((tPart 0 0).task? 0 3 0).map (·.join) = some 0 ∧
    ((tPart 0 1).task? 0 3 0).map (·.join) = some 1 ∧ ((tPart 0 2).task? 0 3 0).map (·.join) = some 2 ∧ (tTask 0 2).pend ≠ 0 ∧
    ((tPart 0 2).launch? 0 4).map (·.pred) = some (some 40) ∧ (tPart 0 2).lidOf 0 40 = some 3 ∧ 41 ∉ (tLaunch 0 2 none 40).succ ∧
    (tLaunch 0 2 none 40).broken = false ∧ (tTask 1 0).st = 1 ∧ (tTask 1 0).target = some 0 ∧
    (tPart 1 0).leaseOk 0 0 ⟨0x20000, 128, 1⟩ = true ∧ (tPart 1 0).leaseOk 0 0 ⟨0x20000, 128, 2⟩ = false := by decide +kernel

/-- BlockLife: a queued record at an idle core; a kernel header that is right; a complete block, running and ended; a side to drain. -/
theorem witness_blocks : let T : Tarn := { queues := [(1, [(5, 3, 0)])] }
    let hd : Nat := 0x44584B48 + 4 * 2 ^ 32 + 16 * 2 ^ 40 + 16 * 2 ^ 48 + 64 * 2 ^ 160 + 64 * 2 ^ 192
    let done : Block := { tBlock false [] [] [] with lid := 3, quires := [(0, { threads := [(0, { live := false })] })] }
    coreNum 1 ≠ 24 ∧ (tPart 2 0).coreBusy 1 = false ∧ (tPart 2 0).idleBefore 1 = false ∧ (tPart 2 0).coreIdle (coreTarn 2 * 25 + 1) = true ∧
    ((tPart 2 0).core (coreTarn 2 * 25 + 1)).idleAt = ((tPart 2 0).core 2).idleAt ∧ T.st = .online ∧ T.queueHead = some (1, 5, 3, 0) ∧
    ((tPart 2 0).parts.find? fun p => p.2.tarns.contains 0).map (·.1) = some 0 ∧ ((tPart 2 0).task? 0 3 0).map (·.resume) = some none ∧
    ((tPart 2 0).core 1).freeSide = some 0 ∧ (kheadOf hd).ok = true ∧ (kheadOf 0).ok = false ∧
    1 < (tRec 1).q ∧ 32 * 1 + 31 < (tRec 1).t ∧
    ({ tPart 3 0 with cur := .idle } : State).blockComplete 4096 done = true ∧
    ({ tPart 3 0 with cur := .idle } : State).blockComplete 4096 { done with st := .ending 6 } = true ∧
    (∀ q ∈ done.quires, q.2.fmask = 0#32) ∧ (tget (({ tPart 3 0 with blocks := [] } : State).core 0).sides 0 {}).owner = some 4096 ∧
    ({ tPart 3 0 with blocks := [] } : State).block? 4096 = none := by decide +kernel

/-- GangAndWatchdog: members acknowledged and not, a timer over, an entry undecided; a block that is and is not deadlocked. -/
theorem witness_gang : let d : BitVec 512 := BitVec.ofNat 512 (7 * 2 ^ 96 + 0 * 2 ^ 112 + 3 * 2 ^ 256)
    let g : Gang := { desc := d, acks := [0], timer := some 0, acked := true }
    gMembers d = 3 ∧ (gMembers d).testBit 1 = true ∧ gInit d = 7 / 65536 ∧ 1 ∉ g.acks ∧ g.timer = some 0 ∧ 0 + gTmo d * clkPerUs ≤ 2500 * 200 ∧
    gangKey 1 (7 % 65536) = 65536 + 7 ∧
    (let s : State := tTwo { wait := .qsync 3#32 } { live := false } 0
     let s' : State := { s with ops := [] , cores := [] }
     (s'.block? 4096).map (fun B => (B.sup, B.st, s'.deadlocked 4096 B)) = some (false, .running, true)) ∧
    tU.deadlocked 4096 tC.B = false ∧ (tU.part 0).wdper ≠ 0 ∧ (2500000 : Nat) % clkPerMs = 0 := by decide +kernel

/-- GangAndWatchdog, the decision: an entry that has been decided ABORT. -/
theorem witness_decision : let s : State := { tU with
      tarns := [(0, { root := 0x100000#64, tcache := [(0x100000, 0x108001#64), (0x108000, 0x110001#64), (0x110000, 0x118001#64), (0x118010, 0x100000000020033#64)] })]
      mem := writeLE [] 0x20000 16 (mkCell 1 5 0 0) }
    let d : BitVec 512 := BitVec.ofNat 512 (0x20000 + 5 * 2 ^ 64 + 7 * 2 ^ 96 + 2 ^ 256)
    s.gangDecided 0 0 d ≠ 1 := by decide +kernel

/-- PrivilegeAtUser: a privileged instruction. SystemRegisters: a register that is there and one that is not. -/
theorem witness_privileged : (Instr.srrd tW2).isPrivileged = true ∧ (Instr.eret tW1).isPrivileged = true ∧ (tSup.tarn 0).sysReg 3 = some 0#64 ∧
    (tSup.tarn 0).sysReg 13 = none ∧ tSC.uniform 7#3 false ≠ [] ∧ tSC.uniform 7#3 true = [] := by decide +kernel

/-- TrapsAndServiceCalls: a full trap queue and one with room; a supervisor core that is free and one that is not; a trap of its own; a
handler set and none; a caller that waits. -/
theorem witness_traps : let tr : Trap := { kind := 1, caller := some (4096, 0, 1) }
    (tU.tarn 0).traps.length < 64 ∧ 64 ≤ (List.replicate 64 tr).length ∧ (tU.coversOf 4096 0 tC.Q [0, 1]) = [] ∧
    (tU.supFree 0 = true) ∧ (tSup.supFree 0 = false) ∧ ({ own := [tr] } : Tarn).own = [tr] ∧ ({ traps := [tr] } : Tarn).own = [] ∧
    ({ tvec := 64#64 } : Tarn).tvec ≠ 0#64 ∧ (tSup.threadAt 0 0 0).isSome = true ∧ tr.caller = some (4096, 0, 1) ∧ (4096 : Nat) ≠ 0 ∧
    (1 : Nat).testBit 0 = true ∧ (tTwo { wait := .sysc } {} 0).threadAt 4096 0 0 = some { wait := .sysc } ∧ ({ intrap := true } : Tarn).intrap = true ∧
    (tSup.block? 0).map (·.sup) = some true ∧
    (let s : State := { tTwo { wait := .sysc, fenced := [7] } {} 0 with tarns := [(0, { caller := some (4096, 0, 1) })] }
     (s.tarn 0).caller = some (4096, 0, 1) ∧ s.threadAt 4096 0 0 = some { wait := .sysc, fenced := [7] }) := by decide +kernel

/-- SupervisorInstructions: a save area aligned and not; cores idle, running a block and stopping one; a tarn of the partition and
others; codes 0, 1 and 2 of a run; values of each range. -/
theorem witness_supervisor : let s : State := { tSup with blocks := [(0, tBlock true [] [] []), (4096, tBlock false [] [] [])], cores := [(0, { run := some 4096 })] }
    (0x20000#64).toNat % 65536 = 0 ∧ (0x20010#64).toNat % 65536 ≠ 0 ∧ (s.core 1).run = none ∧ (s.core 0).run = some 4096 ∧
    (s.block? 4096).map (·.st) = some .running ∧ (BlkSt.stopping 0#64 false) ≠ .running ∧ s.ringFolded 0 = false ∧ (s.part 0).tarns.contains 3 = true ∧
    (s.part 0).tarns.contains 12 = false ∧ s.runCode 0 0x20000 1 65536 1 = 0 ∧ s.runCode 0 0x20000 0 65536 1 = 1 ∧ s.runCode 0 0x20040 1 65536 1 = 2 ∧
    (8 : Nat) ≤ 8 ∧ (7 : Nat) < 8 ∧ 32 / 32 % 2 ^ 15 ≠ 0 ∧ (tget (s.tarn 0).planes 1 {}).mode ≠ 2 ∧ (24 : Nat) ≤ 24 ∧ (5 : Nat) < 24 := by
  decide +kernel

/-- ContextSavedOrHeld: a context being stopped that has nothing left to wait for, and one with a transcendental under way; a held
thread whose limit is over, and one whose is not. -/
theorem witness_save : let B : Block := { tBlock false [] [] [] with st := .stopping 0x20000#64 true }
    let s (k : Nat) : State := { tTwo { wait := .offline 0 5 9#64 } {} 1 with clk := k, ops := [] }
    B.atSysc = false ∧ tU.drained 4096 B = true ∧ (tOps [(7, tOp .trans (.frcp tW2))]).drained 4096 B = false ∧
    ((s 0).tarn 0).hoffEn = true ∧ 0 + ((s 0).tarn 0).hoffMs * 2500000 ≤ 250000000 ∧
    ((s 250000000).block? 4096).map (fun B => ((tget? B.quires 0).map fun Q => (tget? Q.groups 1).map fun g => laneList g.lanes)) = some (some (some [0])) := by
  decide +kernel

/-- TriadAndWeir: planes in each mode, a copy that has and has not dissented in the last second; every place of both ladders; clks on
and off the grid of 8. -/
theorem witness_triad : ({ mode := 0 } : Plane).mode = 0 ∧ ({ mode := 2 } : Plane).mode = 2 ∧ ({ mode := 1 } : Plane).mode = 1 ∧
    ({ mode := 1, syncing := [none] } : Plane).syncing = [none] ∧ ({ mode := 1, syncing := [some 2] } : Plane).syncing = [some 2] ∧
    tget? ({ when_ := [(1, 5)] } : Plane).when_ 1 = some 5 ∧ tget? ({ } : Plane).when_ 1 = none ∧ tU.modClk 0 % 8 = 0 ∧
    ({ tU with clk := 3 } : State).modClk 0 % 8 ≠ 0 ∧ ([0, 3, 4, 6, 7] : List Nat)[4]? = some 7 ∧ ([0, 3, 4, 6, 7] : List Nat)[5]? = none ∧
    ([0, 1, 2, 5, 6, 7] : List Nat)[2]? = some 2 := by decide +kernel

/-- R460, R459: up and down the default ladder, and a capped weir; W5 issues in every other cycle. -/
theorem test_weir : weirStep false 0 0 true = 3 ∧ weirStep false 7 0 true = 7 ∧ weirStep false 3 0 false = 0 ∧ weirStep false 3 3 false = 3 ∧
    weirStep true 2 0 true = 5 ∧ weirStep false 0 4 false = 3 ∧ dutyCycle 5 2 = true ∧ dutyCycle 5 7 = false ∧ dutyCycle 7 4 = true := by
  decide +kernel

/-- RingAndReset: a tarn online, folded and forwarding; cool and hot; no reset of it under way; a thread held for it. -/
theorem witness_ring_events : let s : State := { tU with tarns := [(3, { st := .folded }), (4, { st := .forwarding })] }
    (s.tarn 0).st = .online ∧ (s.tarn 3).st = .folded ∧ (s.tarn 4).st = .forwarding ∧ (s.tarn 3).st ≠ .online ∧ (s.tarn 3).temp < 95 ∧
    (∀ x ∈ tU.ops, x.2.kind ≠ .twrst) ∧ (∀ u < 12, (({ tU with tarns := [(3, { st := .folded })] } : State).tarn u).st ≠ .forwarding) ∧
    (tTwo { wait := .offline 0 5 9#64 } {} 1).threadAt 4096 0 0 = some { wait := .offline 0 5 9#64 } ∧ tarnModule 12 = 1 ∧ paModule (2 ^ 48) = 1 := by
  decide +kernel

/-- HostAndTrust: an interface that runs and one that does not; registers in and out of range; a page of the window; the TDISP states. -/
theorem witness_host : (tU.part 0).tdisp = .unlocked ∧ ({ tdisp := .run } : Part).tdisp = .run ∧ (tU.part 0).tarns.any (fun g => tarnModule g == 0 / 16) = true ∧ ({} : Part).tarns = [] ∧
    (0x70000#64).toNat % 65536 = 0 ∧ (65535#64).toNat < 65536 ∧ (tWalk.part 0).tarns = [0] ∧ pieces 0x20000 8 = [(0x20000, 8)] ∧
    ((tWalk.part 0).hwbase.toNat + 0x20000) % 2 ^ 64 = 0x20000 ∧ 0x20000 % 64 + 8 ≤ 64 ∧ 0x20000 + 8 ≤ 2 ^ 36 ∧
    (match (tWalk.walk 0 0 0x20000).2 with | .ok x => x.permits true true false 0x20000 && x.permits true false false 0x20000 && x.pa 0x20000 == 0x20000 | .error _ => false) = true ∧
    inHost 0x20000 = false ∧ tWalk.homeOffline 0x20000 = false ∧ tWalk.isPoisoned (lineOf 0x20000) = false ∧
    (tWalk.readVa 0 0 0x20000 8).2.isSome = true ∧ (3 : Nat) ≤ 3 := by decide +kernel

/-- StepRunsTheDecodedInstruction: an event that names the core's choice, a header's group or an aged one. -/
theorem witness_named : (after (execClauseEntry 4096 0 0x10000#64 (tReady [0xFE200002#32, 0x0BC00000#32] 0x10000#64))).cur = .group 4096 0 5000 ∧
    (after (execAgeingPick 4096 0 (tTwo { pc := 0x10000#64 } { pc := 0x10000#64 } 1500))).cur = .group 4096 0 1 := by decide +kernel

/-- TileTransfers: a commit at its home with a span of another tarn over its line, and one with none; a line that no write has
met. -/
theorem witness_sharers : let e : Elem := { lane := 0, va := 0#64, pa := 0x20000, size := 64 }
    let o : Op := { tOp .stt (.stt tW2) with elems := [e] }
    let s (l : List (Nat × Nat × Nat)) : State := { tOps [(7, o)] with tarns := [(0, { spans := l })] }
    (s []).routeOf o e = .here ∧ (s []).spanSharers (lineOf e.pa) (BitVec.allOnes 64) 0 = [] ∧
    (s [(lineOf 0x20000 / 4 * 16 + 2, 0, 63)]).spanSharers (lineOf e.pa) (BitVec.allOnes 64) 0 ≠ [] ∧ (s []).writersOf o e = [] ∧
    o.covers = [] ∧ o.prior = [] ∧ o.met = [] ∧ o.bad = none := by decide +kernel

/-- ServiceEvents: the next line of a POISON at its own tarn; a read at the host with no posted write ahead of it. -/
theorem witness_line_work : let e : Elem := { lane := 0, va := 0x20000#64, pa := 0, size := 0, x := 3#64 }
    let o : Op := { tOp .poison (.poison tW2) with elems := [e] }
    let s := tOps [(7, o)]
    e.r = 0#64 ∧ e.st = 0 ∧ o.n < o.workLines ∧ s.shut (coreTarn (s.coreOf o.blk)) (o.workLine * 64) = false ∧
    coreTarn (s.coreOf o.blk) = lineHome o.workLine ∧ s.dramHeld o.workLine = false ∧
    (tOps [(7, { tOp .load (.ld tW2) with elems := [tElem 0xF80000000040 0] })]).hostAhead 7 (tElem 0xF80000000040 0) = false := by
  decide +kernel

/-- An error strikes the only command that a ring can offer it. -/
theorem movingEntry_one {B : Block} {ring : Nat} {p : Entry → Bool} {x : Nat × Entry} (h : B.moving ring p = [x]) (k : Nat) :
    B.movingEntry ring p k = some x := by simp [Block.movingEntry, h, Nat.mod_one]

/-- CopyAndShadows, EngineEvents: a tile of a copy that is and is not busy; a region no access of which is still to act; the one
started command of a ring is what an error strikes, whatever the choice. -/
theorem witness_choice : let o : Op := { tOp .publ (.publ tW2) with elems := [{ lane := 0, va := 0#64, pa := 0, size := 0, st := 7, x := 1#64 }] }
    let S : Shadow := { base := 0x20000#64, pages := 1, own := [2], frames := [4], written := [0] }
    let e : Entry := { tCopy 64 with stage := 1, work := (tEng [] []).workOf tEngB (tCopy 64) }
    let B : Block := { tEngB with dring := [e] }
    ({ tEng [] [] with ops := [(7, o)] } : State).regionRead o tEngB S = false ∧ B.dring ≠ [] ∧
    (∀ k, B.movingEntry 1 Entry.transfers k = some (0, e)) ∧
    (∀ k, B.movingEntry 1 (fun e => !e.fromSide && decide (0 / 4 < ((tEng [e] []).workOf B e).length) &&
        (((tEng [e] []).workOf B e).drop (0 / 4)).all e.work.contains) k = some (0, e)) ∧
    (let t (n : Nat) : Entry := { tCopy 64 with bits := entryBits 1 2 0 0 true 0 0 n 0x20000 64 }
     (t 3).isTile = true ∧ (tSide.tile (t 3).tileNum).busy = true ∧ (tSide.tile (t 1).tileNum).busy = false) := by
  refine ⟨by decide +kernel, by decide, fun k => ?_, fun k => ?_, by decide +kernel⟩
  · exact movingEntry_one (by decide +kernel) k
  · exact movingEntry_one (by decide +kernel) k

/-- MatrixIssue: a half that fits its quadrant, and one that does not. -/
theorem witness_own_half : ownFits 0 (tMatB.handle 2).rec_ 0 = true ∧ ownFits 2 (tMatB.handle 2).rec_ 0 = true ∧
    ownFits 0 (tMatB.handle 2).rec_ 255 = false := by decide +kernel

/-- SpringMessages, SpringHandlers: a queue with no room, messages held behind it; rows whose lines may be used. -/
theorem witness_held : let m : Msg := { pa := 0, slot := 0, arg0 := 1#64, arg1 := 2#64, sender := 3#32, src := (4096, 0, 9), scope := 2 }
    64 ≤ (List.replicate 64 m).length ∧ ({ held := [m] } : Spring).held ≠ [] ∧ (∀ x, x < 16 → (tSpring [] 0).dramHeld (rowLine 0 0 x) = false) := by
  decide +kernel

/-- CommandInstructions, BlockLife, GangAndWatchdog: what a command reads is at hand, and the homes of its record take requests; a
block that runs. -/
theorem witness_reads : let o : Op := { tOp .launch (.launch tW2) with elems := [{ lane := 0, va := 0x20000#64, pa := 0, size := 0 }] }
    let s : State := { tPart 0 2 with ops := [(7, o)] }
    (s.opReads 7 o 0 0 [(0x20000, 64)]).2 = true ∧ (s.launchReads 7 o 0 0 (tRec 0) true).2 = true ∧ (s.launchReads 7 o 0 0 (tRec 0) false).2 = true ∧
    o.m = 0 ∧ s.vaShut 0 0 (tRec 1).code 64 = false ∧ s.vaShut 0 0 (tRec 1).lblk (64 + ((tRec 1).n + 63) / 64 * 8) = false ∧
    ({ desc := 0#512 } : Gang).prop = [] ∧ tU.running 4096 tC.B = true := by decide +kernel

/-- ContextSavedOrHeld: a save area whose home takes writes, not yet opened and opened; a RESUME record with a place and with none; a
multiplication that waits for its partners. -/
theorem witness_save_stages : let B (w : Bool) : Block := { tBlock false [] [] [] with st := .stopping 0x20000#64 true, writing := w }
    let s (n : Nat) : State := { tPart 0 2 with tarns := [(0, { (tWalk.tarn 0) with store := n })] }
    tWalk.vaShut 0 0 0x20000 saveBytes = false ∧ (B false).writing = false ∧ (B true).writing = true ∧ (s 0).hasPlace 0 0 = true ∧ (s 256).hasPlace 0 0 = false ∧
    (let m := tCmd (.mmaq tW2) 0
     let C : Block := { tMatB with mq := [m] }
     m.unmatched = true ∧ ({ tEng [] [] with ops := [(7, tOp .matrix (.mmaq tW2))] } : State).mayStart C m = true) := by decide +kernel

/-- TriadAndWeir, HostAndTrust: the copy that is resynchronised and another; a line of the window that nothing holds. -/
theorem witness_planes : ({ mode := 1, syncing := [some 2] } : Plane).resyncing = some 2 ∧ ({ mode := 1, syncing := [some 2] } : Plane).resyncing ≠ some 1 ∧
    tWalk.dramHeld (lineOf 0x20000) = false ∧ (0 : Nat) < 16 ∧ (0x38 : Nat) < 0x40 := by decide +kernel

/-- One step from reset with an instruction placed (log 9): MOVI.hi runs in lane 0 of a block on core 0. -/
theorem test_placed : ((after (step (State.reset.withFetchWord 64 0x0E01234531C04080))).threadAt 4096 0 0).map (fun t => (t.getV 1).toNat) =
    some 0x12345000 := by decide +kernel

end Sys2Proof.Tests
end

/-! Thread control: the instructions that wait, let another quire issue, or stop for the debug agent (R104 to R106, R117, R119). -/

namespace Sys2Proof.Machine

/-- A rule that leaves every thread as it is leaves the quire as it is. -/
@[simp] theorem Quire.onLanes_id (Q : Quire) (ls : List Nat) : Q.onLanes ls (fun _ t => t) = Q := by
  simp [Quire.onLanes]

/-- An instruction that only goes past its own words changes no thread. -/
theorem lanes_of_advance {i : Instr} {s : State} {c : Ctx} (h : s.ctx? = some c) {k : Nat}
    (he : exec i s = .next (s.advance c k)) : Lanes i s c k [] fun _ t => t := by
  rw [Lanes, he, State.advance_ctx h, Quire.onLanes_nil]

/-- Threads changed after the group has gone past the instruction. -/
theorem advance_mapLanes {s : State} {c : Ctx} (h : s.ctx? = some c) (k : Nat) (ls : List Nat) (f : Nat → Thread → Thread) :
    (s.advance c k).mapLanes c.b c.q ls f = s.putQuire c (c.past k (c.Q.onLanes ls f)) := by
  rw [State.advance_ctx h, State.putQuire_mapLanes]
  rfl

section
variable {s : State} {c : Ctx} (h : s.ctx? = some c) (w : W2)
include h

/-! ### NOP, NAP and QSYNC -/

/-- R119: NOP has no effect other than its issue slot. -/
theorem exec_nop (o : W1) : Lanes (.nop o) s c 1 [] fun _ t => t := by
  have hl : Lanes (.nop o) s c 1 (c.participants o.p o.n) fun _ t => t := lanes_of h rfl fun _ _ => rfl
  simpa [Lanes] using hl

/-- R106: QSYNC parks its participants, each with its mask, and then every QSYNC of the quire is tested. -/
theorem exec_qsync : exec (.qsync w) s = .next (s.putQuire c (Quire.qsyncTest (c.past 2
    (c.Q.onLanes (c.participants w.p w.n) fun l t =>
      { t with wait := .qsync (BitVec.ofNat 32 (opB c.Q t w false 0) ||| BitVec.twoPow 32 l) })))) := by
  change execQsync w s = _
  simp only [execQsync, h]
  rw [mapLanes_advance h, State.putQuire_updQuire]

/-! ### YIELD (R104) -/

/-- Without a participant YIELD only goes by. -/
theorem exec_yield_nobody (hls : c.participants w.p w.n = []) : exec (.yield w) s = .next (s.advance c 2) := by
  change execYield w s = _
  simp [execYield, h, hls]

/-- With no ready quire pending, YIELD gives up the quire's next issue cycle. -/
theorem exec_yield_skip (hls : c.participants w.p w.n ≠ []) (hq : s.oldestReady c.b c.B = none) :
    exec (.yield w) s = .next (s.putQuire c { c.past 2 c.Q with skip := true }) := by
  change execYield w s = _
  simp [execYield, h, hls, hq, State.advance_ctx h]

/-- With a ready quire pending, YIELD exchanges its quire for the oldest of them. -/
theorem exec_yield_exchange (hls : c.participants w.p w.n ≠ []) {q : Nat} (hq : s.oldestReady c.b c.B = some q) :
    exec (.yield w) s = .next ((s.putQuire c (c.past 2 c.Q)).exchange c.b c.q q) := by
  change execYield w s = _
  simp [execYield, h, hls, hq, State.advance_ctx h]

/-! ### BKPT (R117, R443) -/

/-- With debugging off, or with no participant, BKPT only goes by. -/
theorem exec_bkpt_off (hd : (s.tarn (coreTarn c.B.core)).debug = false ∨ c.participants w.p w.n = []) :
    exec (.bkpt w) s = .next (s.advance c 2) := by
  change execBkpt w s = _
  simp only [execBkpt, h]
  split
  · rfl
  next hls => rw [if_neg (by simpa [hls] using hd)]

/-- With debugging on, BKPT stands before a full trap queue. -/
theorem exec_bkpt_full {l : Nat} (hd : (s.tarn (coreTarn c.B.core)).debug = true) (hl : (c.participants w.p w.n).head? = some l)
    (hfull : 64 ≤ (s.tarn (coreTarn c.B.core)).traps.length) : exec (.bkpt w) s = .next (s.stall c) := by
  obtain ⟨ls, hls⟩ := List.head?_eq_some_iff.1 hl
  change execBkpt w s = _
  simp only [execBkpt, h, hls, hd, if_true, if_pos hfull]

/-- With debugging on and room in the trap queue, BKPT parks its participants, stops the block and posts a DEBUG trap. -/
theorem exec_bkpt_stops {l : Nat} (hd : (s.tarn (coreTarn c.B.core)).debug = true) (hl : (c.participants w.p w.n).head? = some l)
    (hroom : (s.tarn (coreTarn c.B.core)).traps.length < 64) : exec (.bkpt w) s =
      .next (((s.putQuire c (c.past 2 (c.Q.onLanes (c.participants w.p w.n) fun _ t => { t with wait := .bkpt }))).updBlock c.b
        fun B => { B with st := .debug }).postTrap (coreTarn c.B.core)
          { kind := 7, addr := BitVec.ofNat 64 w.x.imm20.toNat, ident := identOf c.B c.q l, blk := some c.b }) := by
  obtain ⟨ls, hls⟩ := List.head?_eq_some_iff.1 hl
  change execBkpt w s = _
  simp only [execBkpt, h, hls, hd, if_true, if_neg (Nat.not_le.2 hroom), advance_mapLanes h]

end

/-- Settles O16: NOP, NAP and QSYNC by what they do to their participants; YIELD by whether some pending quire is ready; BKPT by
debugging off or on, and by room in the trap queue. -/
theorem waitingInstructions : Obligations.WaitingInstructions := by
  intro s c o w h
  exact ⟨exec_nop h o, lanes_of h rfl fun _ _ => rfl, exec_qsync h w,
    fun hls => lanes_of_advance h (exec_yield_nobody h w hls),
    exec_yield_skip h w,
    fun _ hls => exec_yield_exchange h w hls,
    fun hd => lanes_of_advance h (exec_bkpt_off h w hd),
    fun _ => exec_bkpt_full h w,
    fun _ => exec_bkpt_stops h w⟩

end Sys2Proof.Machine

/-! Integer arithmetic: the exact values of R122 as bit vectors, and the instructions of R124 to R127. -/

namespace Sys2Proof.Machine

/-! ### Exact values and bit vectors -/

theorem cast_two_pow (n : Nat) : ((2 ^ n : Nat) : Int) = 2 ^ n := Int.natCast_pow 2 n

/-- The two's complement of the low bits of a number is the signed value of those bits. -/
theorem toSigned_eq_toInt (n x : Nat) : toSigned n x = (BitVec.ofNat n x).toInt := by
  rw [BitVec.toInt_eq_toNat_cond, BitVec.toNat_ofNat, toSigned]
  cases n with
  | zero => simp [Nat.mod_one]
  | succ n =>
    have half : 2 ^ (n + 1) = 2 * 2 ^ n := Nat.pow_succ'
    simp only [Nat.add_sub_cancel]
    by_cases hm : 2 ^ n ≤ x % 2 ^ (n + 1)
    · rw [if_pos hm, if_neg (by omega), cast_two_pow]
    · rw [if_neg hm, if_pos (by omega)]

/-- The low bits of an integer are those of the bit vector it gives. -/
theorem ofInt_eq_toNat (n : Nat) (x : Int) : ofInt n x = (BitVec.ofInt n x).toNat := by
  rw [BitVec.toNat_ofInt, ofInt, cast_two_pow]

@[simp] theorem ofNat_ofInt (n : Nat) (x : Int) : BitVec.ofNat n (ofInt n x) = BitVec.ofInt n x := by
  rw [ofInt_eq_toNat, BitVec.ofNat_toNat, BitVec.setWidth_eq]

@[simp] theorem toSigned_toNat {n : Nat} (x : BitVec n) : toSigned n x.toNat = x.toInt := by
  rw [toSigned_eq_toInt, BitVec.ofNat_toNat, BitVec.setWidth_eq]

/-- TYPE 0 is I32 (R122). -/
theorem valOf_zero (x : Word) : valOf 0 x.toNat = x.toInt := toSigned_toNat x

/-- Without `.sat` a result of the one-word forms wraps (R124). -/
theorem ofNat_reduce_zero (x : Int) : BitVec.ofNat 32 (reduce 0 false x) = BitVec.ofInt 32 x := ofNat_ofInt 32 x

theorem ofNat_toNat_word (x : Word) : BitVec.ofNat 32 x.toNat = x := by rw [BitVec.ofNat_toNat, BitVec.setWidth_eq]

/-- A word keeps the low 32 bits of a number. -/
theorem ofNat_mod_word (x : Nat) : BitVec.ofNat 32 (x % 2 ^ 32) = BitVec.ofNat 32 x :=
  BitVec.eq_of_toNat_eq (by simp)

/-! ### The one-word results (R124) -/

theorem addN_word (x y : Word) : BitVec.ofNat 32 (addN 0 false x.toNat y.toNat) = x + y := by
  rw [addN, ofNat_reduce_zero, valOf_zero, valOf_zero, BitVec.ofInt_add, BitVec.ofInt_toInt, BitVec.ofInt_toInt]

theorem subN_word (x y : Word) : BitVec.ofNat 32 (subN 0 false x.toNat y.toNat) = x - y := by
  rw [subN, ofNat_reduce_zero, valOf_zero, valOf_zero, Int.sub_eq_add_neg, BitVec.ofInt_add, BitVec.ofInt_neg,
    BitVec.ofInt_toInt, BitVec.ofInt_toInt, BitVec.sub_eq_add_neg]

theorem mulN_word (x y : Word) : BitVec.ofNat 32 (mulN 0 false x.toNat y.toNat) = x * y := by
  rw [mulN, ofNat_reduce_zero, valOf_zero, valOf_zero, BitVec.ofInt_mul, BitVec.ofInt_toInt, BitVec.ofInt_toInt]

/-! ### Carry and borrow (R125) -/

/-- The word written is the exact sum's, and the carry says that the sum does not fit. -/
theorem addCarry_word (x : Word) (b : Nat) (cin : Bool) : let y := x.toNat + b % 2 ^ 32 + if cin then 1 else 0
    BitVec.ofNat 32 (addCarry x.toNat b cin).1 = BitVec.ofNat 32 y ∧ (addCarry x.toNat b cin).2 = decide (2 ^ 32 ≤ y) := by
  simp only [addCarry, Nat.mod_eq_of_lt x.isLt, ofNat_mod_word, and_self]

/-- The word written is the exact difference's, and the borrow says that the difference is negative. -/
theorem subBorrow_word (x : Word) (b : Nat) (cin : Bool) : let k : Nat := if cin then 1 else 0
    BitVec.ofNat 32 (subBorrow x.toNat b cin).1 = BitVec.ofInt 32 ((x.toNat : Int) - (b % 2 ^ 32 : Nat) - k) ∧
      (subBorrow x.toNat b cin).2 = decide (x.toNat < b % 2 ^ 32 + k) := by
  simp only [subBorrow, Nat.mod_eq_of_lt x.isLt, ofNat_ofInt, decide_eq_decide]
  cases cin
  · exact ⟨rfl, show (x.toNat : Int) - (b % 2 ^ 32 : Nat) - 0 < 0 ↔ x.toNat < b % 2 ^ 32 + 0 by omega⟩
  · exact ⟨rfl, show (x.toNat : Int) - (b % 2 ^ 32 : Nat) - 1 < 0 ↔ x.toNat < b % 2 ^ 32 + 1 by omega⟩

/-! ### Sums of absolute differences (R127) -/

/-- The sum of a function over the numbers below a bound. -/
def sumBelow (f : Nat → Nat) : Nat → Nat
  | 0 => 0
  | n + 1 => sumBelow f n + f n

/-- The model forms such a sum by a fold. -/
theorem foldl_range_add (f : Nat → Nat) (k n : Nat) :
    (List.range n).foldl (fun acc i => acc + f i) k = k + sumBelow f n := by
  induction n with
  | zero => rfl
  | succ n ih => rw [List.range_succ, List.foldl_append, ih, List.foldl_cons, List.foldl_nil, Nat.add_assoc, sumBelow]

/-- At N8 every byte counts by itself. -/
theorem sadN_bytes (a b c : Nat) : let d (i : Nat) : Nat := ((bits a (8 * i + 7) (8 * i) : Int) - bits b (8 * i + 7) (8 * i)).natAbs
    BitVec.ofNat 32 (sadN 5 a b c) = BitVec.ofNat 32 (c + d 0 + d 1 + d 2 + d 3) := by
  simp only [sadN, if_true, foldl_range_add, sumBelow, Nat.zero_add, Nat.add_assoc,
    ofNat_mod_word]

/-- At the other types the values are compared as a whole. -/
theorem sadN_values {ty : Nat} (h : ty ≠ 5) (a b c : Nat) :
    sadN ty a b c = (((valOf ty a - valOf ty b).natAbs + valOf ty c) % 2 ^ 32).toNat := if_neg h

theorem w64_of_bytes {w : W2} (h : tyOf w = 5) : w.x.w64 = false := by
  have : w.x.ty = 5#5 := BitVec.eq_of_toNat_eq h
  simp [Ext.w64, this]

/-! ### Shapes -/

/-- A one-word instruction over two V registers. -/
theorem lanes_bin1 {i : Instr} {s : State} {c : Ctx} (h : s.ctx? = some c) {o : W1} {g : Nat → Nat → Nat} {f : Word → Word → Word}
    (he : exec i s = bin1 o s g) (hf : ∀ x y : Word, BitVec.ofNat 32 (g x.toNat y.toNat) = f x y) :
    Lanes i s c 1 (c.participants o.p o.n) fun _ t => t.setV o.d.toNat (f (t.getV o.a.toNat) (t.getV o.b.toNat)) :=
  lanes_of h he fun _ t => congrArg (t.setV o.d.toNat) (hf _ _)

theorem setV_setP_congr {t : Thread} {n k : Nat} {x y : Word} {p q : Bool} (hx : x = y) (hp : p = q) :
    (t.setV n x).setP k p = (t.setV n y).setP k q := by rw [hx, hp]

/-- Settles O8: the one-word forms are the operations of words, a carry or a borrow goes with its word, and every other result is the
exact value reduced once. -/
theorem integerArithmetic : Obligations.IntegerArithmetic := by
  refine ⟨fun s c o w h => ?sums, fun s c w h => ?carries, fun s c w h => ?rest⟩
  case sums =>
    exact ⟨lanes_bin1 h rfl addN_word, lanes_bin1 h rfl subN_word, lanes_bin1 h rfl mulN_word, lanes_of h rfl fun _ _ => rfl,
      lanes_of h rfl fun _ _ => rfl, lanes_of h rfl fun _ _ => rfl, lanes_of h rfl fun _ _ => rfl⟩
  case carries =>
    refine ⟨lanes_of h rfl fun _ t => ?_, lanes_of h rfl fun _ t => ?_⟩
    · exact (addCarry_word _ _ _).elim setV_setP_congr
    · exact (subBorrow_word _ _ _).elim setV_setP_congr
  case rest =>
    refine ⟨lanes_of h rfl fun _ _ => rfl, lanes_of h rfl fun _ t => ?_, lanes_of h rfl fun _ _ => rfl,
      lanes_of h rfl fun _ _ => rfl, lanes_of h rfl fun _ _ => rfl, lanes_of h rfl fun _ _ => rfl,
      fun hty => lanes_of h rfl fun _ t => ?_, fun hty => lanes_of h rfl fun _ t => ?_⟩
    · exact congrArg (t.setPair w.d.toNat) (ofNat_ofInt 64 _)
    · exact congrArg (t.wr w.x.w64 w.d) (sadN_values hty _ _ _)
    · rw [hty, w64_of_bytes hty]
      exact congrArg (t.setV w.d.toNat) (sadN_bytes _ _ _)

end Sys2Proof.Machine

/-! Bitwise instructions and shifts (R128 to R130). -/

namespace Sys2Proof.Machine

/-! ### Bits of a sum of powers of two -/

/-- A sum of distinct powers of two has the bits that were chosen. -/
theorem testBit_sumBelow (p : Nat → Bool) (n : Nat) :
    ∀ j, (sumBelow (fun i => if p i then 2 ^ i else 0) n).testBit j = (decide (j < n) && p j) := by
  induction n with
  | zero => intro j; rw [sumBelow, Nat.zero_testBit, decide_eq_false (Nat.not_lt_zero j), Bool.false_and]
  | succ n ih =>
    intro j
    have small : sumBelow (fun i => if p i then 2 ^ i else 0) n < 2 ^ n :=
      Nat.lt_pow_two_of_testBit _ fun i hi => by rw [ih, decide_eq_false (Nat.not_lt.2 hi), Bool.false_and]
    have top : (if p n then 2 ^ n else 0) = 2 ^ n * (p n).toNat := by
      cases p n
      · rfl
      · exact (Nat.mul_one _).symm
    rw [sumBelow, top, Nat.add_comm, Nat.testBit_two_pow_mul_add _ small, ih]
    by_cases hj : j < n
    · rw [if_pos hj, decide_eq_true hj, decide_eq_true (Nat.lt_succ_of_lt hj)]
    · rw [if_neg hj]
      by_cases he : j = n
      · subst he
        rw [Nat.sub_self, decide_eq_true (Nat.lt_succ_self j), Bool.true_and]
        cases p j <;> rfl
      · have beyond : 2 ^ 1 ≤ 2 ^ (j - n) := Nat.pow_le_pow_right (by decide) (by omega)
        rw [decide_eq_false (by omega), Bool.false_and]
        exact Nat.testBit_lt_two_pow (Nat.lt_of_lt_of_le (Bool.toNat_lt _) beyond)

/-- LOP3's result has at each place the table's bit for the operands' bits there (R128). -/
theorem testBit_lop3N (t : BitVec 8) (a b c : Nat) {j : Nat} (hj : j < 32) : (lop3N t a b c).testBit j =
    t.getLsbD ((if a.testBit j then 1 else 0) + (if b.testBit j then 2 else 0) + (if c.testBit j then 4 else 0)) := by
  have sum : lop3N t a b c = sumBelow (fun j => if t.getLsbD ((if a.testBit j then 1 else 0) + (if b.testBit j then 2 else 0) +
      (if c.testBit j then 4 else 0)) then 2 ^ j else 0) 32 := (foldl_range_add _ 0 32).trans (Nat.zero_add _)
  rw [sum]
  exact (testBit_sumBelow _ 32 j).trans (by rw [decide_eq_true hj, Bool.true_and])

theorem ofNat_and_word (x y : Word) : BitVec.ofNat 32 (x.toNat &&& y.toNat) = x &&& y := by
  rw [BitVec.ofNat_and, ofNat_toNat_word, ofNat_toNat_word]

theorem ofNat_or_word (x y : Word) : BitVec.ofNat 32 (x.toNat ||| y.toNat) = x ||| y := by
  rw [BitVec.ofNat_or, ofNat_toNat_word, ofNat_toNat_word]

theorem ofNat_xor_word (x y : Word) : BitVec.ofNat 32 (x.toNat ^^^ y.toNat) = x ^^^ y := by
  rw [BitVec.ofNat_xor, ofNat_toNat_word, ofNat_toNat_word]

/-! ### The width of a type -/

/-- The instruction is 64 bits wide when its type is (R122). -/
theorem tyBits_tyOf (w : W2) : tyBits (tyOf w) = if w.x.w64 then 64 else 32 := by
  have wide : (tyOf w = 4 ∨ tyOf w = 8) ↔ w.x.w64 = true := by simp [tyOf, Ext.w64, BitVec.toNat_eq]
  by_cases h : w.x.w64 = true
  · rw [if_pos h, tyBits, if_pos (wide.2 h)]
  · rw [if_neg h, tyBits, if_neg (mt wide.1 h)]

/-- A register operand lies below 2^W. -/
theorem rd_lt (t : Thread) (w : W2) (n : BitVec 7) : t.rd w.x.w64 n < 2 ^ tyBits (tyOf w) := by
  rw [tyBits_tyOf, Thread.rd]
  cases w.x.w64
  · exact (t.getV n.toNat).isLt
  · exact (t.getPair n.toNat).isLt

/-! ### Shifts for every count (R129) -/

theorem shlN_eq (W : Nat) (wrap : Bool) (a n : Nat) : shlN W wrap a n = a * 2 ^ shCount W wrap n % 2 ^ W := by
  rw [shlN]
  by_cases h : W ≤ shCount W wrap n
  · rw [if_pos h, Nat.mod_eq_zero_of_dvd (Nat.dvd_mul_left_of_dvd (Nat.pow_dvd_pow 2 h) a)]
  · rw [if_neg h]

theorem shrN_eq {W a : Nat} (ha : a < 2 ^ W) (wrap : Bool) (n : Nat) : shrN W wrap a n = a / 2 ^ shCount W wrap n := by
  rw [shrN, Nat.mod_eq_of_lt ha]
  by_cases h : W ≤ shCount W wrap n
  · rw [if_pos h, Nat.div_eq_of_lt (Nat.lt_of_lt_of_le ha (Nat.pow_le_pow_right (by decide) h))]
  · rw [if_neg h]

/-- Shifted right by its width or more, a signed value leaves its sign alone. -/
theorem toSigned_ediv_of_le {W k : Nat} (h : W ≤ k) (a : Nat) :
    toSigned W a / 2 ^ k = if toSigned W a < 0 then -1 else 0 := by
  have bound : (2 : Int) ^ W ≤ 2 ^ k := by
    rw [← cast_two_pow, ← cast_two_pow]
    exact Int.ofNat_le.2 (Nat.pow_le_pow_right (by decide) h)
  have low : -(2 : Int) ^ W ≤ 2 * toSigned W a := toSigned_eq_toInt W a ▸ BitVec.le_two_mul_toInt
  have high : 2 * toSigned W a < (2 : Int) ^ W := toSigned_eq_toInt W a ▸ BitVec.two_mul_toInt_lt
  by_cases hn : toSigned W a < 0
  · rw [if_pos hn, Int.ediv_eq_neg_one_of_neg_of_le hn (by omega)]
  · rw [if_neg hn, Int.ediv_eq_zero_of_lt (by omega) (by omega)]

theorem sarN_eq (W : Nat) (wrap : Bool) (a n : Nat) : sarN W wrap a n = ofInt W (toSigned W a / 2 ^ shCount W wrap n) := by
  rw [sarN]
  by_cases h : W ≤ shCount W wrap n
  · rw [if_pos h, toSigned_ediv_of_le h, toSigned_ediv_of_le (Nat.le_refl W)]
  · rw [if_neg h]

theorem shlN_word (x n : Word) : BitVec.ofNat 32 (shlN 32 false x.toNat n.toNat) = BitVec.ofNat 32 (x.toNat * 2 ^ n.toNat) := by
  rw [shlN_eq]
  exact ofNat_mod_word _

theorem shrN_word (x n : Word) : BitVec.ofNat 32 (shrN 32 false x.toNat n.toNat) = BitVec.ofNat 32 (x.toNat / 2 ^ n.toNat) := by
  rw [shrN_eq x.isLt]
  rfl

/-- Settles O9: the bitwise instructions are those of words, LOP3 reads its table bit by bit, and a count that reaches the width
gives what the exact shift gives. -/
theorem logicAndShifts : Obligations.LogicAndShifts := by
  refine ⟨⟨fun s c o w h => ?bitwise, fun t a b c j hj => testBit_lop3N t a b c hj⟩, fun s c o w h => ?shifts⟩
  case bitwise =>
    exact ⟨lanes_bin1 h rfl ofNat_and_word, lanes_bin1 h rfl ofNat_or_word, lanes_bin1 h rfl ofNat_xor_word,
      lanes_of h rfl fun _ _ => rfl, lanes_of h rfl fun _ _ => rfl, lanes_of h rfl fun _ _ => rfl, lanes_of h rfl fun _ _ => rfl,
      lanes_of h rfl fun _ _ => rfl⟩
  case shifts =>
    exact ⟨lanes_bin1 h rfl shlN_word, lanes_bin1 h rfl shrN_word,
      lanes_of h rfl fun _ t => congrArg (t.wr w.x.w64 w.d) (shlN_eq _ _ _ _),
      lanes_of h rfl fun _ t => congrArg (t.wr w.x.w64 w.d) (shrN_eq (rd_lt t w w.a) _ _),
      lanes_of h rfl fun _ t => congrArg (t.wr w.x.w64 w.d) (sarN_eq _ _ _ _), lanes_of h rfl fun _ _ => rfl⟩

end Sys2Proof.Machine

/-! Bit counts, bit reversal, bit fields and the byte permute (R131, R132, R136). -/

namespace Sys2Proof.Machine

/-! ### Bit counts (R131) -/

theorem popcN_succ (W a : Nat) : popcN (W + 1) a = popcN W a + if a.testBit W then 1 else 0 := by
  rw [popcN, popcN, List.range_succ, List.filter_append, List.length_append]
  cases h : a.testBit W <;> simp [h]

/-- The low W bits are all 0 when the number that they form is. -/
theorem mod_two_pow_eq_zero_iff {W a : Nat} : a % 2 ^ W = 0 ↔ ∀ j < W, a.testBit j = false := by
  constructor
  · intro h j hj
    have := Nat.testBit_mod_two_pow a W j
    simpa [h, hj] using this.symm
  · intro h
    refine Nat.eq_of_testBit_eq fun j => ?_
    rw [Nat.zero_testBit, Nat.testBit_mod_two_pow, Bool.and_eq_false_iff, decide_eq_false_iff_not]
    exact (Nat.lt_or_ge j W).symm.imp Nat.not_lt.2 (h j)

theorem clzN_of_zero {W a : Nat} (h : a % 2 ^ W = 0) : clzN W a = W := if_pos h

/-- Above the 0 bits that CLZ counts stands nothing, and below them the highest 1. -/
theorem clzN_spec {W a : Nat} (h : a % 2 ^ W ≠ 0) : clzN W a < W ∧ a.testBit (W - 1 - clzN W a) = true ∧
    ∀ j, W - 1 - clzN W a < j → j < W → a.testBit j = false := by
  have top : (a % 2 ^ W).log2 < W := (Nat.log2_lt h).2 (Nat.mod_lt _ (Nat.two_pow_pos W))
  have place : W - 1 - clzN W a = (a % 2 ^ W).log2 := by rw [clzN, if_neg h, ilog2]; omega
  have low : ∀ j < W, (a % 2 ^ W).testBit j = a.testBit j := fun j hj => by simp [Nat.testBit_mod_two_pow, hj]
  refine ⟨by rw [clzN, if_neg h]; omega, ?_, fun j hj hW => ?_⟩
  · rw [place, ← low _ top, Nat.testBit_log2 h]
  · rw [place] at hj
    rw [← low j hW]
    exact Nat.testBit_lt_two_pow (Nat.lt_of_lt_of_le Nat.lt_log2_self (Nat.pow_le_pow_right (by decide) hj))

theorem ctzN_of_zero {W a : Nat} (h : a % 2 ^ W = 0) : ctzN W a = W := by
  have nowhere : (List.range W).find? (fun i => a.testBit i) = none :=
    List.find?_range_eq_none.2 fun i hi => by simp [mod_two_pow_eq_zero_iff.1 h i hi]
  rw [ctzN, nowhere, Option.getD_none]

/-- CTZ of a number that is not 0 is the place of its lowest 1. -/
theorem ctzN_spec {W a : Nat} (h : a % 2 ^ W ≠ 0) : a.testBit (ctzN W a) = true ∧ ∀ j, j < ctzN W a → a.testBit j = false := by
  cases hf : (List.range W).find? fun i => a.testBit i with
  | none =>
    refine absurd (mod_two_pow_eq_zero_iff.2 fun j hj => ?_) h
    simpa using List.find?_range_eq_none.1 hf j hj
  | some i =>
    obtain ⟨hi, -, hlow⟩ := List.find?_range_eq_some.1 hf
    rw [ctzN, hf, Option.getD_some]
    exact ⟨hi, fun j hj => by simpa using hlow j hj⟩

theorem sumBelow_succ_left (f : Nat → Nat) (n : Nat) : sumBelow f (n + 1) = f 0 + sumBelow (fun i => f (i + 1)) n := by
  induction n with
  | zero => exact Nat.add_comm _ _
  | succ n ih => rw [sumBelow, ih, sumBelow, Nat.add_assoc]

theorem sumBelow_congr {f g : Nat → Nat} {n : Nat} (h : ∀ i < n, f i = g i) : sumBelow f n = sumBelow g n := by
  induction n with
  | zero => rfl
  | succ n ih => rw [sumBelow, sumBelow, ih fun i hi => h i (Nat.lt_succ_of_lt hi), h n (Nat.lt_succ_self n)]

/-- A sum taken from the other end is the same. -/
theorem sumBelow_reflect (f : Nat → Nat) (n : Nat) : sumBelow (fun i => f (n - 1 - i)) n = sumBelow f n := by
  induction n with
  | zero => rfl
  | succ n ih =>
    rw [sumBelow_succ_left, sumBelow, Nat.add_comm, ← ih, Nat.add_sub_cancel, Nat.sub_zero]
    exact congrArg (· + f n) (sumBelow_congr fun i _ => by rw [Nat.sub_sub, Nat.add_comm])

/-- BREV's result has at each place the operand's bit at the mirrored place. -/
theorem testBit_brevN {W j : Nat} (a : Nat) (hj : j < W) : (brevN W a).testBit j = a.testBit (W - 1 - j) := by
  have mirrored : brevN W a = sumBelow (fun i => if a.testBit (W - 1 - i) then 2 ^ i else 0) W := by
    rw [brevN, foldl_range_add, Nat.zero_add, ← sumBelow_reflect]
    exact sumBelow_congr fun i hi => by rw [Nat.sub_sub_self (Nat.le_sub_one_of_lt hi)]
  rw [mirrored, testBit_sumBelow, decide_eq_true hj, Bool.true_and]

/-! ### Bit fields (R132) -/

/-- The position and the length that operand b holds. -/
theorem field_bits {p k : Nat} (hp : p < 256) (hk : k < 256) : bits (p + 256 * k) 7 0 = p ∧ bits (p + 256 * k) 15 8 = k := by
  simp only [bits]
  omega

/-- Sign extension to a word repeats the highest of n bits. -/
theorem testBit_signExtended {n j : Nat} (f : Nat) (hn : 0 < n) (hj : j < 32) :
    (ofInt 32 (toSigned n f)).testBit j = f.testBit (if j < n then j else n - 1) := by
  rw [toSigned_eq_toInt, ofInt_eq_toNat]
  change ((BitVec.ofNat n f).signExtend 32).getLsbD j = _
  rw [BitVec.getLsbD_signExtend, BitVec.msb_eq_getLsbD_last, BitVec.getLsbD_ofNat, BitVec.getLsbD_ofNat, decide_eq_true hj,
    Bool.true_and]
  by_cases h : j < n
  · rw [if_pos h, if_pos h, decide_eq_true h, Bool.true_and]
  · rw [if_neg h, if_neg h, decide_eq_true (Nat.sub_one_lt_of_lt hn), Bool.true_and]

theorem testBit_bfxN (ty a : Nat) {p k j : Nat} (hp : p < 256) (hk : k < 256) (hj : j < 32) : let e := min (p + k) 32
    (bfxN ty a (p + 256 * k)).testBit j =
      (if 32 ≤ p ∨ k = 0 then false
       else if j < e - p then a.testBit (p + j)
       else if ty = 0 ∨ ty = 7 then false else a.testBit (e - 1)) := by
  intro e
  obtain ⟨pos, len⟩ := field_bits hp hk
  simp only [bfxN, pos, len]
  by_cases empty : 32 ≤ p ∨ k = 0
  · rw [if_pos empty, if_pos empty, Nat.zero_testBit]
  · rw [if_neg empty, if_neg empty]
    have field (i : Nat) : (a / 2 ^ p % 2 ^ (e - p)).testBit i = (decide (i < e - p) && a.testBit (p + i)) := by
      rw [Nat.testBit_mod_two_pow, Nat.testBit_div_two_pow, Nat.add_comm]
    by_cases zero : ty = 0 ∨ ty = 7
    · rw [if_pos zero, if_pos zero, field]
      by_cases h : j < e - p
      · rw [if_pos h, decide_eq_true h, Bool.true_and]
      · rw [if_neg h, decide_eq_false h, Bool.false_and]
    · have nonempty : 0 < e - p := by omega
      have last : p + (e - p - 1) = e - 1 := by omega
      rw [if_neg zero, if_neg zero, testBit_signExtended _ nonempty hj, field]
      by_cases h : j < e - p
      · rw [if_pos h, if_pos h, decide_eq_true h, Bool.true_and]
      · rw [if_neg h, if_neg h, decide_eq_true (Nat.sub_one_lt_of_lt nonempty), Bool.true_and, last]

theorem testBit_bfiN (a c j : Nat) {p k : Nat} (hp : p < 256) (hk : k < 256) : (bfiN a (p + 256 * k) c).testBit j =
    if p ≤ j ∧ j < min (p + k) 32 then a.testBit (j - p) else c.testBit j := by
  obtain ⟨pos, len⟩ := field_bits hp hk
  simp only [bfiN, pos, len]
  by_cases nonempty : p < 32 ∧ 0 < k
  · rw [if_pos nonempty]
    generalize he : min (p + k) 32 = e
    have hpe : p ≤ e := by omega
    -- The result is the part of c below the field, the field, and the part of c above it, each shifted to its place.
    have parts (low field high : Nat) : low + field * 2 ^ p + high * 2 ^ e = 2 ^ p * (2 ^ (e - p) * high + field) + low := by
      have whole : 2 ^ e = 2 ^ p * 2 ^ (e - p) := by rw [← Nat.pow_add, Nat.add_sub_cancel' hpe]
      rw [whole, Nat.mul_add, Nat.mul_comm field, Nat.mul_comm high, Nat.mul_assoc]
      ac_rfl
    rw [parts, Nat.testBit_two_pow_mul_add _ (Nat.mod_lt _ (Nat.two_pow_pos p)),
      Nat.testBit_two_pow_mul_add _ (Nat.mod_lt _ (Nat.two_pow_pos _)), Nat.testBit_mod_two_pow, Nat.testBit_mod_two_pow,
      Nat.testBit_div_two_pow]
    by_cases below : j < p
    · rw [if_pos below, if_neg (by omega), decide_eq_true below, Bool.true_and]
    · rw [if_neg below]
      by_cases inside : j < e
      · have : j - p < e - p := by omega
        rw [if_pos this, if_pos ⟨Nat.not_lt.1 below, inside⟩, decide_eq_true this, Bool.true_and]
      · rw [if_neg (by omega), if_neg (by omega), show j - p - (e - p) + e = j by omega]
  · rw [if_neg nonempty, if_neg (by omega)]

/-! ### The byte permute (R136) -/

/-- What selector byte s makes of the eight bytes of x. -/
def prmtByte (x s : Nat) : Nat :=
  let v := x / 2 ^ (8 * (s % 8)) % 256
  if s / 8 % 4 = 0 then v else if s / 8 % 4 = 1 then 0 else if s / 8 % 4 = 2 then 255 else if 128 ≤ v then 255 else 0

theorem prmtByte_lt (x s : Nat) : prmtByte x s < 256 := by
  unfold prmtByte
  dsimp only
  repeat' split
  all_goals omega

/-- Byte i of a number (R4). -/
theorem bits_byte (v i : Nat) : bits v (8 * i + 7) (8 * i) = v / 2 ^ (8 * i) % 256 :=
  congrArg (fun k => v / 2 ^ (8 * i) % 2 ^ k) (show 8 * i + 7 + 1 - 8 * i = 8 by omega)

/-- The kind of a selector byte stands in its bits [4:3]. -/
theorem prmtByte_eq (x s : Nat) : (let v := x / 2 ^ (8 * (s % 8)) % 256
    if bits s 4 3 = 1 then 0 else if bits s 4 3 = 2 then 255
    else if bits s 4 3 = 3 then (if 128 ≤ v then 255 else 0) else v) = prmtByte x s := by
  have kind : bits s 4 3 = s / 8 % 4 := rfl
  have : s / 8 % 4 < 4 := Nat.mod_lt _ (by decide)
  simp only [prmtByte, kind]
  generalize s / 8 % 4 = m at this
  obtain rfl | rfl | rfl | rfl : m = 0 ∨ m = 1 ∨ m = 2 ∨ m = 3 := by omega
  all_goals simp

/-- PRMT's result is its four bytes, each at its place. -/
theorem prmtN_eq_sum (a b c : Nat) :
    prmtN a b c = sumBelow (fun i => prmtByte (c * 2 ^ 32 + a) (b / 2 ^ (8 * i) % 256) * 2 ^ (8 * i)) 4 := by
  simp only [prmtN, bits_byte]
  rw [foldl_range_add, Nat.zero_add]
  exact sumBelow_congr fun i _ => congrArg (· * 2 ^ (8 * i)) (prmtByte_eq _ _)

/-- A byte of a number that is written out in four bytes. -/
theorem byte_of_sum {f : Nat → Nat} (hf : ∀ i, f i < 256) {i : Nat} (hi : i < 4) :
    sumBelow (fun j => f j * 2 ^ (8 * j)) 4 / 2 ^ (8 * i) % 256 = f i := by
  have h0 := hf 0
  have h1 := hf 1
  have h2 := hf 2
  have h3 := hf 3
  simp only [sumBelow]
  obtain rfl | rfl | rfl | rfl : i = 0 ∨ i = 1 ∨ i = 2 ∨ i = 3 := by omega
  all_goals omega

theorem prmtN_byte (a b c : Nat) {i : Nat} (hi : i < 4) :
    prmtN a b c / 2 ^ (8 * i) % 256 = prmtByte (c * 2 ^ 32 + a) (b / 2 ^ (8 * i) % 256) := by
  rw [prmtN_eq_sum]
  exact byte_of_sum (f := fun i => prmtByte (c * 2 ^ 32 + a) (b / 2 ^ (8 * i) % 256)) (fun _ => prmtByte_lt _ _) hi

/-- Settles O10: the bit counts, the fields and the permute by what stands at each place of their results. -/
theorem bitCountsAndFields : Obligations.BitCountsAndFields := by
  refine ⟨⟨fun s c w h => ?counts, fun _ => rfl, popcN_succ, fun W a hz => ⟨clzN_of_zero hz, ctzN_of_zero hz⟩,
    fun W a => clzN_spec, fun W a => ctzN_spec, fun W a j => testBit_brevN a⟩,
    fun s c w h => ?fields, fun ty a p k j => testBit_bfxN ty a,
    fun a p k c j hp hk _ => testBit_bfiN a c j hp hk, fun a b c i _ => prmtN_byte a b c⟩
  case counts =>
    exact ⟨lanes_of h rfl fun _ _ => rfl, lanes_of h rfl fun _ _ => rfl, lanes_of h rfl fun _ _ => rfl,
      lanes_of h rfl fun _ _ => rfl⟩
  case fields =>
    exact ⟨lanes_of h rfl fun _ _ => rfl, lanes_of h rfl fun _ _ => rfl, lanes_of h rfl fun _ _ => rfl⟩

end Sys2Proof.Machine

/-! Compare, select, moves and address arithmetic (R133 to R135). -/

namespace Sys2Proof.Machine

/-- The condition code of a compare is SUB[2:0] (R133). -/
theorem sub_low (x : BitVec 4) : (x &&& 7#4).toNat = x.toNat % 8 := by
  rw [BitVec.toNat_and]
  exact Nat.and_two_pow_sub_one_eq_mod _ 3

theorem icond_eq (a b : Int) : icond 0 a b = decide (a = b) := rfl

theorem icond_ne (a b : Int) : icond 1 a b = decide (a ≠ b) := decide_not.symm

/-- The word that stands for a condition (R133). -/
theorem ofNat_boolWord (x : Bool) : BitVec.ofNat 32 (boolWord x) = if x then 0xFFFFFFFF#32 else 0#32 := by
  cases x <;> rfl

/-- A word that is read and written again is the same (R134). -/
theorem ofNat_rd_narrow (t : Thread) (n : BitVec 7) : BitVec.ofNat 32 (t.rd false n) = t.getV n.toNat :=
  ofNat_toNat_word _

/-- Settles O11: a compare by its condition code and the kind of its destination, the others by the value they write. -/
theorem compareSelectMove : Obligations.CompareSelectMove := by
  intro s c o w h val A B ls cmp
  have condition (t : Thread) : icond (w.x.sub &&& 7#4).toNat (val (A t)) (val (B t)) = cmp t := by
    rw [sub_low]
    simp only [cmp]
    generalize w.x.sub.toNat % 8 = k
    match k with
    | 0 => exact icond_eq _ _
    | 1 => exact icond_ne _ _
    | 2 | 3 | 4 | _ + 5 => rfl
  refine ⟨fun hv => lanes_of h rfl fun _ t => ?word, fun hp => lanes_of h rfl fun _ t => ?predicate, lanes_of h rfl fun _ _ => rfl,
    lanes_of h rfl fun _ t => congrArg (t.setV o.d.toNat) (ofNat_rd_narrow t o.a), lanes_of h rfl fun _ _ => rfl,
    fun ha => lanes_of h rfl fun _ t => ?signed, fun ha => lanes_of h rfl fun _ t => ?high,
    lanes_of h rfl fun _ t => congrArg (t.setPair w.d.toNat) (ofNat_ofInt 64 _)⟩
  case word => rw [hv, if_neg Bool.false_ne_true, ← condition, ← ofNat_boolWord]; rfl
  case predicate => rw [hp, if_pos rfl, ← condition]
  case signed | high => rw [ha]; rfl

end Sys2Proof.Machine

/-! Facts about conditions and lists that the core library does not name. -/

namespace Sys2Proof.Machine

theorem ite_of_iff {α : Type} {b c : Prop} [Decidable b] [Decidable c] {x y u v : α} (h : b ↔ c) (ht : x = u) (he : y = v) :
    (if b then x else y) = if c then u else v := ite_congr (propext h) (fun _ => ht) fun _ => he

theorem foldl_congr_mem {α σ : Type} {f g : σ → α → σ} {as : List α} (h : ∀ s, ∀ a ∈ as, f s a = g s a) (s : σ) :
    as.foldl f s = as.foldl g s := by
  induction as generalizing s with
  | nil => rfl
  | cons a as ih =>
    rw [List.foldl_cons, List.foldl_cons, h s a List.mem_cons_self, ih fun s b hb => h s b (List.mem_cons_of_mem _ hb)]

theorem exists_mem_of_cons {α : Type} {P : α → Prop} {a : α} {as : List α} : (∃ x ∈ a :: as, P x) ↔ P a ∨ ∃ x ∈ as, P x := by
  simp only [List.mem_cons, or_and_right, exists_or, exists_eq_left]

/-- A list grows from the empty one by a last element at a time. -/
theorem append_induction {α : Type} {P : List α → Prop} (nil : P []) (append_singleton : ∀ as a, P as → P (as ++ [a])) (as : List α) :
    P as := by
  have reversed (as : List α) : P as.reverse := by
    induction as with
    | nil => exact nil
    | cons a as ih => exact List.reverse_cons ▸ append_singleton _ a ih
  exact List.reverse_reverse as ▸ reversed as.reverse

end Sys2Proof.Machine

/-! Every instruction decodes back (R33, R36, R37, R58, R59). -/

namespace Sys2Proof.Machine

open Laws in
/-- Settles O1: each instruction by its own round trip; an event has no word, so none is well formed. -/
theorem everyInstructionDecodesBack : Obligations.EveryInstructionDecodesBack := by
  intro i
  cases i with
  | bra w => exact RoundTrip.bra w
  | brx w => exact RoundTrip.brx w
  | call w => exact RoundTrip.call w
  | callx w => exact RoundTrip.callx w
  | ret w => exact RoundTrip.ret w
  | nop w => exact RoundTrip.nop w
  | exit w => exact RoundTrip.exit w
  | tail w => exact RoundTrip.tail w
  | yield w => exact RoundTrip.yield w
  | nap w => exact RoundTrip.nap w
  | qsync w => exact RoundTrip.qsync w
  | bkpt w => exact RoundTrip.bkpt w
  | trap w => exact RoundTrip.trap w
  | rank w => exact RoundTrip.rank w
  | plop w => exact RoundTrip.plop w
  | s2v w => exact RoundTrip.s2v w
  | s2g w => exact RoundTrip.s2g w
  | shfl w => exact RoundTrip.shfl w
  | vote w => exact RoundTrip.vote w
  | matchv w => exact RoundTrip.matchv w
  | qred w => exact RoundTrip.qred w
  | iaddOneWord w => exact RoundTrip.iaddOneWord w
  | iaddTwoWord w => exact RoundTrip.iaddTwoWord w
  | iaddc w => exact RoundTrip.iaddc w
  | isubOneWord w => exact RoundTrip.isubOneWord w
  | isubTwoWord w => exact RoundTrip.isubTwoWord w
  | isubb w => exact RoundTrip.isubb w
  | imulOneWord w => exact RoundTrip.imulOneWord w
  | imulTwoWord w => exact RoundTrip.imulTwoWord w
  | imulh w => exact RoundTrip.imulh w
  | imad w => exact RoundTrip.imad w
  | imadw w => exact RoundTrip.imadw w
  | imin w => exact RoundTrip.imin w
  | imax w => exact RoundTrip.imax w
  | iabs w => exact RoundTrip.iabs w
  | ineg w => exact RoundTrip.ineg w
  | isad w => exact RoundTrip.isad w
  | andOneWord w => exact RoundTrip.andOneWord w
  | andTwoWord w => exact RoundTrip.andTwoWord w
  | orOneWord w => exact RoundTrip.orOneWord w
  | orTwoWord w => exact RoundTrip.orTwoWord w
  | xorOneWord w => exact RoundTrip.xorOneWord w
  | xorTwoWord w => exact RoundTrip.xorTwoWord w
  | andn w => exact RoundTrip.andn w
  | lop3 w => exact RoundTrip.lop3 w
  | shlOneWord w => exact RoundTrip.shlOneWord w
  | shlTwoWord w => exact RoundTrip.shlTwoWord w
  | shrOneWord w => exact RoundTrip.shrOneWord w
  | shrTwoWord w => exact RoundTrip.shrTwoWord w
  | sar w => exact RoundTrip.sar w
  | shf w => exact RoundTrip.shf w
  | popc w => exact RoundTrip.popc w
  | clz w => exact RoundTrip.clz w
  | ctz w => exact RoundTrip.ctz w
  | brev w => exact RoundTrip.brev w
  | bfx w => exact RoundTrip.bfx w
  | bfi w => exact RoundTrip.bfi w
  | iset w => exact RoundTrip.iset w
  | isel w => exact RoundTrip.isel w
  | movOneWord w => exact RoundTrip.movOneWord w
  | movTwoWord w => exact RoundTrip.movTwoWord w
  | movi w => exact RoundTrip.movi w
  | lea w => exact RoundTrip.lea w
  | prmt w => exact RoundTrip.prmt w
  | faddOneWord w => exact RoundTrip.faddOneWord w
  | faddTwoWord w => exact RoundTrip.faddTwoWord w
  | fmulOneWord w => exact RoundTrip.fmulOneWord w
  | fmulTwoWord w => exact RoundTrip.fmulTwoWord w
  | ffma w => exact RoundTrip.ffma w
  | fmin w => exact RoundTrip.fmin w
  | fmax w => exact RoundTrip.fmax w
  | fset w => exact RoundTrip.fset w
  | fclass w => exact RoundTrip.fclass w
  | frnd w => exact RoundTrip.frnd w
  | fscl w => exact RoundTrip.fscl w
  | frcp w => exact RoundTrip.frcp w
  | frsq w => exact RoundTrip.frsq w
  | fsqrt w => exact RoundTrip.fsqrt w
  | fex2 w => exact RoundTrip.fex2 w
  | flg2 w => exact RoundTrip.flg2 w
  | fsin w => exact RoundTrip.fsin w
  | fcos w => exact RoundTrip.fcos w
  | hadd2 w => exact RoundTrip.hadd2 w
  | hmul2 w => exact RoundTrip.hmul2 w
  | hfma2 w => exact RoundTrip.hfma2 w
  | hmnx2 w => exact RoundTrip.hmnx2 w
  | cvt w => exact RoundTrip.cvt w
  | cvtp w => exact RoundTrip.cvtp w
  | cvtx w => exact RoundTrip.cvtx w
  | f2i w => exact RoundTrip.f2i w
  | i2f w => exact RoundTrip.i2f w
  | qblk w => exact RoundTrip.qblk w
  | qtile w => exact RoundTrip.qtile w
  | unq w => exact RoundTrip.unq w
  | plx w => exact RoundTrip.plx w
  | pli w => exact RoundTrip.pli w
  | trlck w => exact RoundTrip.trlck w
  | sclx w => exact RoundTrip.sclx w
  | ld w => exact RoundTrip.ld w
  | st w => exact RoundTrip.st w
  | lds w => exact RoundTrip.lds w
  | sts w => exact RoundTrip.sts w
  | ldp w => exact RoundTrip.ldp w
  | stp w => exact RoundTrip.stp w
  | ldt w => exact RoundTrip.ldt w
  | stt w => exact RoundTrip.stt w
  | tdef w => exact RoundTrip.tdef w
  | tset w => exact RoundTrip.tset w
  | tqry w => exact RoundTrip.tqry w
  | pref w => exact RoundTrip.pref w
  | cctl w => exact RoundTrip.cctl w
  | tagld w => exact RoundTrip.tagld w
  | tagst w => exact RoundTrip.tagst w
  | fence w => exact RoundTrip.fence w
  | fsp w => exact RoundTrip.fsp w
  | atom w => exact RoundTrip.atom w
  | red w => exact RoundTrip.red w
  | atoms w => exact RoundTrip.atoms w
  | atomp w => exact RoundTrip.atomp w
  | redp w => exact RoundTrip.redp w
  | pusht w => exact RoundTrip.pusht w
  | taket w => exact RoundTrip.taket w
  | takeh w => exact RoundTrip.takeh w
  | prop w => exact RoundTrip.prop w
  | dread w => exact RoundTrip.dread w
  | dwait w => exact RoundTrip.dwait w
  | recy w => exact RoundTrip.recy w
  | dqry w => exact RoundTrip.dqry w
  | dinit w => exact RoundTrip.dinit w
  | bara w => exact RoundTrip.bara w
  | bars w => exact RoundTrip.bars w
  | barr w => exact RoundTrip.barr w
  | sbar w => exact RoundTrip.sbar w
  | sbara w => exact RoundTrip.sbara w
  | waitx w => exact RoundTrip.waitx w
  | sigx w => exact RoundTrip.sigx w
  | acp w => exact RoundTrip.acp w
  | acpg w => exact RoundTrip.acpg w
  | acpr w => exact RoundTrip.acpr w
  | cwait w => exact RoundTrip.cwait w
  | shdw w => exact RoundTrip.shdw w
  | publ w => exact RoundTrip.publ w
  | abnd w => exact RoundTrip.abnd w
  | obres w => exact RoundTrip.obres w
  | obrel w => exact RoundTrip.obrel w
  | obld w => exact RoundTrip.obld w
  | obldg w => exact RoundTrip.obldg w
  | msign w => exact RoundTrip.msign w
  | mma w => exact RoundTrip.mma w
  | mmaq w => exact RoundTrip.mmaq w
  | accz w => exact RoundTrip.accz w
  | accst w => exact RoundTrip.accst w
  | accrd w => exact RoundTrip.accrd w
  | sprg w => exact RoundTrip.sprg w
  | sprgw w => exact RoundTrip.sprgw w
  | gbra w => exact RoundTrip.gbra w
  | gloop w => exact RoundTrip.gloop w
  | gaddOneWord w => exact RoundTrip.gaddOneWord w
  | gaddTwoWord w => exact RoundTrip.gaddTwoWord w
  | gsubOneWord w => exact RoundTrip.gsubOneWord w
  | gsubTwoWord w => exact RoundTrip.gsubTwoWord w
  | gmulOneWord w => exact RoundTrip.gmulOneWord w
  | gmulTwoWord w => exact RoundTrip.gmulTwoWord w
  | gmad w => exact RoundTrip.gmad w
  | gandOneWord w => exact RoundTrip.gandOneWord w
  | gandTwoWord w => exact RoundTrip.gandTwoWord w
  | gorOneWord w => exact RoundTrip.gorOneWord w
  | gorTwoWord w => exact RoundTrip.gorTwoWord w
  | gxorOneWord w => exact RoundTrip.gxorOneWord w
  | gxorTwoWord w => exact RoundTrip.gxorTwoWord w
  | gshlOneWord w => exact RoundTrip.gshlOneWord w
  | gshlTwoWord w => exact RoundTrip.gshlTwoWord w
  | gshrOneWord w => exact RoundTrip.gshrOneWord w
  | gshrTwoWord w => exact RoundTrip.gshrTwoWord w
  | gsarOneWord w => exact RoundTrip.gsarOneWord w
  | gsarTwoWord w => exact RoundTrip.gsarTwoWord w
  | gminOneWord w => exact RoundTrip.gminOneWord w
  | gminTwoWord w => exact RoundTrip.gminTwoWord w
  | gmaxOneWord w => exact RoundTrip.gmaxOneWord w
  | gmaxTwoWord w => exact RoundTrip.gmaxTwoWord w
  | gmov w => exact RoundTrip.gmov w
  | gmovi w => exact RoundTrip.gmovi w
  | gset w => exact RoundTrip.gset w
  | gsel w => exact RoundTrip.gsel w
  | gld w => exact RoundTrip.gld w
  | g2v w => exact RoundTrip.g2v w
  | v2g w => exact RoundTrip.v2g w
  | gplop w => exact RoundTrip.gplop w
  | launch w => exact RoundTrip.launch w
  | spawn w => exact RoundTrip.spawn w
  | jdec w => exact RoundTrip.jdec w
  | tstat w => exact RoundTrip.tstat w
  | tcancel w => exact RoundTrip.tcancel w
  | gang w => exact RoundTrip.gang w
  | srrd w => exact RoundTrip.srrd w
  | srwr w => exact RoundTrip.srwr w
  | sysc w => exact RoundTrip.sysc w
  | eret w => exact RoundTrip.eret w
  | tlbinv w => exact RoundTrip.tlbinv w
  | lrev w => exact RoundTrip.lrev w
  | ctxstop w => exact RoundTrip.ctxstop w
  | ctxgo w => exact RoundTrip.ctxgo w
  | wcap w => exact RoundTrip.wcap w
  | triq w => exact RoundTrip.triq w
  | trirs w => exact RoundTrip.trirs w
  | twrst w => exact RoundTrip.twrst w
  | keyld w => exact RoundTrip.keyld w
  | scrub w => exact RoundTrip.scrub w
  | tiermv w => exact RoundTrip.tiermv w
  | poison w => exact RoundTrip.poison w
  | retire w => exact RoundTrip.retire w
  | hinst w => exact RoundTrip.hinst w
  | hdrop w => exact RoundTrip.hdrop w
  | rowrd w => exact RoundTrip.rowrd w
  | rowwr w => exact RoundTrip.rowwr w
  | rowred w => exact RoundTrip.rowred w
  | linerd w => exact RoundTrip.linerd w
  | linewr w => exact RoundTrip.linewr w
  | reply w => exact RoundTrip.reply w
  | _ => exact RoundTrip.of_event rfl

end Sys2Proof.Machine

/-! Uniform arithmetic, logic and shifts over G registers (R138). -/

namespace Sys2Proof.Machine

/-! ### Shapes -/

/-- A uniform instruction completes by a rule that leaves the quire's groups, read as the statement says it. -/
theorem either_to {i : Instr} {s : State} {k : Nat} {p : BitVec 3} {n : Bool} {g f : Quire → Quire}
    (he : exec i s = uniStep s k p n g) (hg : ∀ q, (g q).groups = q.groups) (hf : ∀ q, g q = f q) : EitherPlace i s k p n f :=
  (show g = f from funext hf) ▸ either_of he hg

/-- A one-word uniform instruction over two G registers. -/
theorem either_bin1 {i : Instr} {s : State} {o : W1} {g : Nat → Nat → Nat} {f : Word → Word → Word} (he : exec i s = gbin1 o s g)
    (hf : ∀ x y : Word, BitVec.ofNat 32 (g x.toNat y.toNat) = f x y) :
    EitherPlace i s 1 o.p o.n fun q => q.setG o.d.toNat (f (q.getG o.a.toNat) (q.getG o.b.toNat)) :=
  either_to he (fun _ => rfl) fun q => congrArg (q.setG o.d.toNat) (hf _ _)

/-- The same with the operands as numbers. -/
theorem either_setG {i : Instr} {s : State} {o : W1} {g f : Nat → Nat → Nat} (he : exec i s = gbin1 o s g)
    (hf : ∀ x y : Word, BitVec.ofNat 32 (g x.toNat y.toNat) = BitVec.ofNat 32 (f x.toNat y.toNat)) :
    EitherPlace i s 1 o.p o.n fun q =>
      q.setG o.d.toNat (BitVec.ofNat 32 (f (q.getG o.a.toNat).toNat (q.getG o.b.toNat).toNat)) :=
  either_to he (fun _ => rfl) fun q => congrArg (q.setG o.d.toNat) (hf _ _)

/-- A two-word uniform instruction over two operands at the width of its type. -/
theorem either_bin2 {i : Instr} {s : State} {w : W2} {g : Nat → Nat → Nat} {f : Quire → Nat} (he : exec i s = gbin2 w s g)
    (hf : ∀ q, g (q.rd w.x.w64 w.a) (opBG q w w.x.w64 (immByType (tyOf w) w.x.imm20)) = f q) :
    EitherPlace i s 2 w.p w.n fun q => q.wr w.x.w64 w.d (f q) :=
  either_to he (fun q => Quire.wr_groups q _ _ _) fun q => congrArg (q.wr w.x.w64 w.d) (hf q)

/-- The same with a 32-bit operand b whose immediate is zero-extended. -/
theorem either_bin2z {i : Instr} {s : State} {w : W2} {g : Nat → Nat → Nat} {f : Quire → Nat} (he : exec i s = gbin2z w s g)
    (hf : ∀ q, g (q.rd w.x.w64 w.a) (opBG q w false w.x.imm20.toNat) = f q) :
    EitherPlace i s 2 w.p w.n fun q => q.wr w.x.w64 w.d (f q) :=
  either_to he (fun q => Quire.wr_groups q _ _ _) fun q => congrArg (q.wr w.x.w64 w.d) (hf q)

/-- A uniform register operand lies below 2^W. -/
theorem Quire.rd_lt (q : Quire) (w : W2) (n : BitVec 7) : q.rd w.x.w64 n < 2 ^ tyBits (tyOf w) := by
  rw [tyBits_tyOf, Quire.rd]
  cases w.x.w64
  · exact (q.getG n.toNat).isLt
  · exact (q.getGPair n.toNat).isLt

/-! ### Words -/

theorem minN_word (x y : Word) : BitVec.ofNat 32 (minN 0 x.toNat y.toNat) = if x.toInt ≤ y.toInt then x else y := by
  rw [minN, valOf_zero, valOf_zero, apply_ite (BitVec.ofNat 32), ofNat_toNat_word, ofNat_toNat_word]

theorem maxN_word (x y : Word) : BitVec.ofNat 32 (maxN 0 x.toNat y.toNat) = if y.toInt ≤ x.toInt then x else y := by
  rw [maxN, valOf_zero, valOf_zero, apply_ite (BitVec.ofNat 32), ofNat_toNat_word, ofNat_toNat_word]

theorem sarN_word (x n : Word) : BitVec.ofNat 32 (sarN 32 false x.toNat n.toNat) =
    BitVec.ofNat 32 (toSigned 32 x.toNat / 2 ^ n.toNat % 2 ^ 32).toNat :=
  congrArg (BitVec.ofNat 32) (sarN_eq 32 false x.toNat n.toNat)

/-- Settles O12: the one-word forms are the operations of words, the two-word forms write the exact result reduced once. -/
theorem uniformArithmeticAndLogic : Obligations.UniformArithmeticAndLogic := by
  refine ⟨fun s o w => ?arithmetic, fun s o w => ?logic⟩
  case arithmetic =>
    have mad : exec (.gmad w) s = uniStep s 2 w.p w.n _ := (rfl : execGmad w s = _)
    exact ⟨either_bin1 rfl addN_word, either_bin1 rfl subN_word, either_bin1 rfl mulN_word, either_bin1 rfl minN_word,
      either_bin1 rfl maxN_word, either_bin2 rfl fun _ => rfl, either_bin2 rfl fun _ => rfl, either_bin2 rfl fun _ => rfl,
      either_to mad (fun q => Quire.wr_groups q _ _ _) fun _ => rfl, either_bin2 rfl fun _ => rfl, either_bin2 rfl fun _ => rfl⟩
  case logic =>
    exact ⟨either_setG (f := (· &&& ·)) rfl fun _ _ => rfl, either_setG (f := (· ||| ·)) rfl fun _ _ => rfl,
      either_setG (f := (· ^^^ ·)) rfl fun _ _ => rfl, either_setG (f := fun x k => x * 2 ^ k) rfl shlN_word,
      either_setG (f := fun x k => x / 2 ^ k) rfl shrN_word,
      either_setG (f := fun x k => (toSigned 32 x / 2 ^ k % 2 ^ 32).toNat) rfl sarN_word,
      either_bin2z rfl fun _ => rfl, either_bin2z rfl fun _ => rfl, either_bin2z rfl fun _ => rfl,
      either_bin2z rfl fun _ => shlN_eq _ _ _ _, either_bin2z rfl fun q => shrN_eq (q.rd_lt w w.a) _ _,
      either_bin2z rfl fun _ => sarN_eq _ _ _ _⟩

end Sys2Proof.Machine

/-! Uniform moves and control (R138 to R144): GLOOP at a count of 0. -/

namespace Sys2Proof.Machine

/-! ### A register file that lists a register at 0 -/

/-- A quire whose register file lists G0 with the value 0 that an unlisted register reads, its group before a GLOOP. -/
def zeroListedQuire : Quire :=
  { g := [(0, 0#32)]
    groups := [(1, { lanes := 1#32, clause := 0#64, words := [0#32, 0#32], widx := 1, sfa := 15, sfb := 15, yld := false })] }

/-- The block of that quire. -/
def zeroListedBlock : Block :=
  { core := 0, part := 0, lid := 0, bflat := 0, ltarn := 0, code := 0#64, frame := 0#64, quires := [(0, zeroListedQuire)] }

/-- The machine in which that group issues. -/
def zeroListed : State := { State.reset with blocks := [(firstBlock, zeroListedBlock)], cur := .group firstBlock 0 1 }

/-- GLOOP G0 with its guard true. -/
def loopG0 : W2 := ⟨7#3, false, 0#7, 0#7, 0#7, .imm 0#5 0#20⟩

/-- The uniform registers of the quire after an outcome. -/
def gAfter : Out → Option (Tab Word)
  | .next t => (t.quireAt firstBlock 0).map (·.g)
  | _ => none

/-- GLOOP writes the count back, which unlists a register listed at 0 (R144). -/
theorem gAfter_gloop : gAfter (exec (.gloop loopG0) zeroListed) = some [] := by decide

/-- Refutes O13: at a count of 0 GLOOP writes the 0 back, and so the state is not the old one where G0 was listed at 0. -/
theorem not_uniformMovesAndControl : ¬ Obligations.UniformMovesAndControl := by
  intro ⟨_, control⟩
  obtain ⟨inGroup, -⟩ := control zeroListed ⟨7#3, false, 0#21⟩ loopG0
  obtain ⟨-, atZero, -⟩ := inGroup ⟨firstBlock, 0, 1, zeroListedBlock, zeroListedQuire, _⟩ rfl
  have same : exec (.gloop loopG0) zeroListed = .next _ := atZero (.inr (by decide))
  have kept := congrArg gAfter same
  rw [gAfter_gloop] at kept
  exact absurd kept (by decide)

end Sys2Proof.Machine

/-! The frame of the arithmetic and logic forms (R87, R120, R137). -/

namespace Sys2Proof.Machine

/-- What a step that replaces the issuing quire leaves: memory, other blocks and the other quires of the block. -/
theorem State.putQuire_frame {s : State} {c : Ctx} (h : s.ctx? = some c) (Q : Quire) :
    OnlyBlock s (s.putQuire c Q) c.b ∧ ∀ q, q ≠ c.q → (s.putQuire c Q).quireAt c.b q = s.quireAt c.b q := by
  obtain ⟨-, hB, -, -⟩ := State.ctx_iff.1 h
  refine ⟨s.putQuire_onlyBlock c Q, fun q hq => ?_⟩
  have hB' : (s.putQuire c Q).block? c.b = some { c.B with quires := tput c.B.quires c.q Q } := by
    simp [State.block?, State.putQuire]
  simp only [State.quireAt, hB, hB', tget?_tput_ne _ _ hq]

/-- A write to a V register or pair changes the registers it names and nothing else of the thread. -/
theorem Thread.wr_frame (t : Thread) (wide : Bool) (d : BitVec 7) (x : Nat) :
    { t.wr wide d x with v := t.v } = t ∧ ∀ r, r ∉ destRegs d wide → (t.wr wide d x).getV r = t.getV r := by
  cases wide
  · refine ⟨rfl, fun r hr => Thread.getV_setV_ne t _ ?_⟩
    simpa [destRegs] using hr
  · refine ⟨rfl, fun r hr => ?_⟩
    obtain ⟨h0, h1⟩ : r ≠ d.toNat ∧ r ≠ d.toNat + 1 := by simpa [destRegs] using hr
    exact (Thread.getV_setV_ne _ _ h1).trans (Thread.getV_setV_ne t _ h0)

/-- The same of a uniform register or pair. -/
theorem Quire.wr_frame (q : Quire) (wide : Bool) (d : BitVec 7) (x : Nat) :
    (q.wr wide d x).threads = q.threads ∧ (q.wr wide d x).gp = q.gp ∧ (q.wr wide d x).fmask = q.fmask ∧
      ∀ r, r ∉ destRegs d wide → (q.wr wide d x).getG r = q.getG r := by
  cases wide
  · refine ⟨rfl, rfl, rfl, fun r hr => Quire.getG_setG_ne q _ ?_⟩
    simpa [destRegs] using hr
  · refine ⟨rfl, rfl, rfl, fun r hr => ?_⟩
    obtain ⟨h0, h1⟩ : r ≠ d.toNat ∧ r ≠ d.toNat + 1 := by simpa [destRegs] using hr
    exact (Quire.getG_setG_ne _ _ h1).trans (Quire.getG_setG_ne q _ h0)

/-- What a lane form may change: of its participants the registers `ds`, and nothing else but the place of its group. -/
def LaneFrame (s t : State) (c : Ctx) (ls ds : List Nat) : Prop :=
  (∀ a, cellGet t.mem a = cellGet s.mem a) ∧ (∀ a, cellGet t.host a = cellGet s.host a) ∧ OnlyBlock s t c.b ∧
  (∀ q, q ≠ c.q → t.quireAt c.b q = s.quireAt c.b q) ∧
  ∃ Q, t.quireAt c.b c.q = some Q ∧ Q.g = c.Q.g ∧ Q.gp = c.Q.gp ∧ Q.fmask = c.Q.fmask ∧
    (∀ l, l ∉ ls → tget? Q.threads l = tget? c.Q.threads l) ∧
    (∀ l th, l ∈ ls → tget? c.Q.threads l = some th → ∃ th', tget? Q.threads l = some th' ∧
      { th' with v := th.v } = th ∧ ∀ r, r ∉ ds → th'.getV r = th.getV r)

/-- What a uniform form may change: of its quire the uniform registers `ds`, and nothing else but the place of its group. -/
def UniformFrame (s t : State) (c : Ctx) (ds : List Nat) : Prop :=
  (∀ a, cellGet t.mem a = cellGet s.mem a) ∧ (∀ a, cellGet t.host a = cellGet s.host a) ∧ OnlyBlock s t c.b ∧
  (∀ q, q ≠ c.q → t.quireAt c.b q = s.quireAt c.b q) ∧
  ∃ Q, t.quireAt c.b c.q = some Q ∧ Q.threads = c.Q.threads ∧ Q.gp = c.Q.gp ∧ Q.fmask = c.Q.fmask ∧
    ∀ r, r ∉ ds → Q.getG r = c.Q.getG r

/-- A lane form whose rule writes one register or pair. -/
theorem laneFrame_of {i : Instr} {s t : State} {c : Ctx} (h : s.ctx? = some c) {k : Nat} {p : BitVec 3} {n : Bool} {wide : Bool}
    {d : BitVec 7} {f : Ctx → Nat → Thread → Thread} (he : exec i s = laneStep s k p n f)
    (hf : ∀ l t, ∃ x, f c l t = t.wr wide d x) (ht : exec i s = .next t) :
    LaneFrame s t c (c.participants p n) (destRegs d wide) := by
  rw [he, laneStep_eq h] at ht
  obtain rfl := Host.Outcome.next.inj ht
  obtain ⟨hOnly, hOthers⟩ := State.putQuire_frame h (c.past k (c.Q.onLanes (c.participants p n) (f c)))
  refine ⟨fun _ => rfl, fun _ => rfl, hOnly, hOthers, _, State.putQuire_quireAt _ _ _, rfl, rfl, rfl, fun l hl => ?_,
    fun l th hl hth => ⟨f c l th, ?_, ?_⟩⟩
  · refine (Quire.onLanes_thread _ _ _ l).trans ?_
    simp [hl]
  · refine (Quire.onLanes_thread _ _ _ l).trans ?_
    simp [hl, hth]
  · obtain ⟨x, hx⟩ := hf l th
    rw [hx]
    exact th.wr_frame wide d x

/-- A uniform form whose rule writes one register or pair. -/
theorem uniformFrame_of {i : Instr} {s t : State} {c : Ctx} (h : s.ctx? = some c) {k : Nat} {p : BitVec 3} {n : Bool} {wide : Bool}
    {d : BitVec 7} {f : Quire → Nat} (he : exec i s = uniStep s k p n fun q => q.wr wide d (f q)) (ht : exec i s = .next t) :
    UniformFrame s t c (destRegs d wide) := by
  rw [he, uniStep_eq h _ _ _ _ (Quire.wr_groups _ _ _ _)] at ht
  obtain rfl := Host.Outcome.next.inj ht
  obtain ⟨hOnly, hOthers⟩ := State.putQuire_frame h (c.past k (if guardOk c.Q.gp p n then c.Q.wr wide d (f c.Q) else c.Q))
  refine ⟨fun _ => rfl, fun _ => rfl, hOnly, hOthers, _, State.putQuire_quireAt _ _ _, ?_⟩
  by_cases hg : guardOk c.Q.gp p n = true
  · simp only [hg, if_true]
    exact c.Q.wr_frame wide d (f c.Q)
  · simp only [hg]
    exact ⟨rfl, rfl, rfl, fun _ _ => rfl⟩

theorem uniformFrame_bin1 {i : Instr} {s t : State} {c : Ctx} (h : s.ctx? = some c) {o : W1} {g : Nat → Nat → Nat}
    (he : exec i s = gbin1 o s g) (ht : exec i s = .next t) : UniformFrame s t c [o.d.toNat] :=
  uniformFrame_of (wide := false) h he ht

theorem uniformFrame_bin2 {i : Instr} {s t : State} {c : Ctx} (h : s.ctx? = some c) {w : W2} {g : Nat → Nat → Nat}
    (he : exec i s = gbin2 w s g) (ht : exec i s = .next t) : UniformFrame s t c (destRegs w.d w.x.w64) := uniformFrame_of h he ht

theorem uniformFrame_bin2z {i : Instr} {s t : State} {c : Ctx} (h : s.ctx? = some c) {w : W2} {g : Nat → Nat → Nat}
    (he : exec i s = gbin2z w s g) (ht : exec i s = .next t) : UniformFrame s t c (destRegs w.d w.x.w64) := uniformFrame_of h he ht

/-- The one-word lane forms. -/
theorem laneFrame_oneWord {i : Instr} {s t : State} {c : Ctx} (h : s.ctx? = some c) {o : W1}
    (hi : i ∈ [Instr.iaddOneWord o, .isubOneWord o, .imulOneWord o, .andOneWord o, .orOneWord o, .xorOneWord o, .shlOneWord o,
      .shrOneWord o, .movOneWord o]) (ht : exec i s = .next t) : LaneFrame s t c (c.participants o.p o.n) [o.d.toNat] := by
  simp only [List.mem_cons, List.not_mem_nil, or_false] at hi
  obtain rfl | rfl | rfl | rfl | rfl | rfl | rfl | rfl | rfl := hi <;>
    exact laneFrame_of (wide := false) h rfl (fun _ _ => ⟨_, rfl⟩) ht

/-- The two-word lane forms. -/
theorem laneFrame_twoWord {i : Instr} {s t : State} {c : Ctx} (h : s.ctx? = some c) {w : W2}
    (hi : i ∈ [Instr.iaddTwoWord w, .isubTwoWord w, .imulTwoWord w, .imad w, .imulh w, .imin w, .imax w, .iabs w, .ineg w,
      .andTwoWord w, .orTwoWord w, .xorTwoWord w, .andn w, .shlTwoWord w, .shrTwoWord w, .sar w]) (ht : exec i s = .next t) :
    LaneFrame s t c (c.participants w.p w.n) (destRegs w.d w.x.w64) := by
  simp only [List.mem_cons, List.not_mem_nil, or_false] at hi
  obtain rfl | rfl | rfl | rfl | rfl | rfl | rfl | rfl | rfl | rfl | rfl | rfl | rfl | rfl | rfl | rfl := hi <;>
    exact laneFrame_of h rfl (fun _ _ => ⟨_, rfl⟩) ht

/-- The one-word uniform forms. -/
theorem uniformFrame_oneWord {i : Instr} {s t : State} {c : Ctx} (h : s.ctx? = some c) {o : W1}
    (hi : i ∈ [Instr.gaddOneWord o, .gsubOneWord o, .gmulOneWord o, .gandOneWord o, .gorOneWord o, .gxorOneWord o, .gshlOneWord o,
      .gshrOneWord o, .gsarOneWord o, .gminOneWord o, .gmaxOneWord o]) (ht : exec i s = .next t) :
    UniformFrame s t c [o.d.toNat] := by
  simp only [List.mem_cons, List.not_mem_nil, or_false] at hi
  obtain rfl | rfl | rfl | rfl | rfl | rfl | rfl | rfl | rfl | rfl | rfl := hi <;> exact uniformFrame_bin1 h rfl ht

/-- The two-word uniform forms. -/
theorem uniformFrame_twoWord {i : Instr} {s t : State} {c : Ctx} (h : s.ctx? = some c) {w : W2}
    (hi : i ∈ [Instr.gaddTwoWord w, .gsubTwoWord w, .gmulTwoWord w, .gmad w, .gandTwoWord w, .gorTwoWord w, .gxorTwoWord w])
    (ht : exec i s = .next t) : UniformFrame s t c (destRegs w.d w.x.w64) := by
  simp only [List.mem_cons, List.not_mem_nil, or_false] at hi
  have mad : exec (.gmad w) s = uniStep s 2 w.p w.n _ := (rfl : execGmad w s = _)
  obtain rfl | rfl | rfl | rfl | rfl | rfl | rfl := hi
  case inl | inr.inl | inr.inr.inl => exact uniformFrame_bin2 h rfl ht
  case inr.inr.inr.inl => exact uniformFrame_of h mad ht
  all_goals exact uniformFrame_bin2z h rfl ht

/-- Settles O5: every listed form is a step of lanes, or of a quire, that writes one register or pair. -/
theorem registerFrames : Obligations.RegisterFrames := by
  refine ⟨fun s t c i p n ds h hi ht => ?lanes, fun s t c i ds h hi ht => ?uniform⟩
  case lanes =>
    obtain ⟨o, hi, rfl, rfl, rfl⟩ | ⟨w, hi, rfl, rfl, rfl⟩ := hi
    · exact laneFrame_oneWord h hi ht
    · exact laneFrame_twoWord h hi ht
  case uniform =>
    obtain ⟨o, hi, rfl⟩ | ⟨w, hi, rfl⟩ := hi
    · exact uniformFrame_oneWord h hi ht
    · exact uniformFrame_twoWord h hi ht

end Sys2Proof.Machine

/-! Entry to a clause (R48 to R50, R57, R61, R353). -/

namespace Sys2Proof.Machine

/-! ### Changes of the cores alone -/

/-- Only the cores' own state may differ: caches, TLBs and scratchpads. -/
def OnlyCores (s t : State) : Prop := ∃ C, t = { s with cores := C }

theorem OnlyCores.refl (s : State) : OnlyCores s s := ⟨_, rfl⟩

theorem OnlyCores.trans {s t u : State} (h : OnlyCores s t) (h' : OnlyCores t u) : OnlyCores s u := by
  obtain ⟨C, rfl⟩ := h
  obtain ⟨D, rfl⟩ := h'
  exact ⟨D, rfl⟩

theorem onlyCores_updCore (s : State) (k : Nat) (f : Core → Core) : OnlyCores s (s.updCore k f) := ⟨_, rfl⟩

theorem onlyCores_touchTlb (s : State) (k p v : Nat) : OnlyCores s (s.touchTlb k p v) := by
  unfold State.touchTlb
  split
  · exact ⟨_, rfl⟩
  · exact OnlyCores.refl s

theorem onlyCores_icFill (s : State) (k pa : Nat) : OnlyCores s (s.icFill k pa) := by
  unfold State.icFill
  exact onlyCores_updCore _ _ _

/-- A fold of steps that each change only the cores. -/
theorem onlyCores_foldl {α : Type} {f : State → α → State} (hf : ∀ s a, OnlyCores s (f s a)) (l : List α) :
    ∀ s, OnlyCores s (l.foldl f s) := by
  induction l with
  | nil => exact OnlyCores.refl
  | cons a l ih => exact fun s => (hf s a).trans (ih _)

/-! ### Faults -/

/-- What a table answers after its entries were changed in place. -/
theorem tget?_map {α β : Type} (f : α → β) (k : Nat) (t : Tab α) :
    tget? (t.map fun e => (e.1, f e.2)) k = (tget? t k).map f := by
  induction t with
  | nil => rfl
  | cons e t ih =>
    by_cases he : e.1 = k
    · simp [tget?, he]
    · simpa [tget?, he] using ih

/-- A fault of a user block ends its task with the report. -/
theorem faultAt_user {s : State} {b : Nat} {B : Block} (hB : s.block? b = some B) (hs : B.sup = false) (q : Nat) (clause : BitVec 64)
    (widx cause detail lane : Nat) (ea : BitVec 64) (word : Word) : s.faultAt b q clause widx cause detail lane ea word =
      s.endTask b 5 (some { cause, detail, clause, widx, lane, ea, word }) := by
  simp [State.faultAt, hB, hs]

/-- A quire whose task has ended. -/
def Quire.ended (Q : Quire) : Quire :=
  { Q with groups := [], threads := Q.threads.map fun t => (t.1, { t.2 with live := false, wait := .none, acq := none, spin := false }) }

/-- A block whose task has ended (R64, R86, R392). -/
def Block.ended (B : Block) (st : Nat) (rep : Option Report) : Block :=
  { B with
    st := match B.st with | .ending k => .ending k | _ => .ending st
    report := B.report <|> rep
    quires := B.quires.map fun e => (e.1, e.2.ended)
    iring := B.iring.map Entry.abort
    dring := B.dring.map Entry.abort
    mq := B.mq.filter fun m => m.stage != 0 || !(match m.ins with | .mmaq _ => true | _ => false) }

theorem endTask_blocks {s : State} {b : Nat} {B : Block} (hB : s.block? b = some B) (st : Nat) (rep : Option Report) :
    (s.endTask b st rep).blocks = tput s.blocks b (B.ended st rep) := by
  unfold State.endTask
  rw [hB]
  exact (apply_ite State.blocks _ _ _).trans (ite_self (tput s.blocks b (B.ended st rep)))

theorem endTask_block? {s : State} {b : Nat} {B : Block} (hB : s.block? b = some B) (st : Nat) (rep : Option Report) :
    (s.endTask b st rep).block? b = some (B.ended st rep) := by
  simp [State.block?, endTask_blocks hB]

/-- A block whose task has ended has no group. -/
theorem endTask_groupsOf {s : State} {b : Nat} {B : Block} (hB : s.block? b = some B) (q st : Nat) (rep : Option Report) :
    (s.endTask b st rep).groupsOf b q = [] := by
  simp only [State.groupsOf, endTask_block? hB, Block.ended, tget?_map]
  cases tget? B.quires q <;> rfl

/-- A number that a table answers under stands in it. -/
theorem mem_keys_of_tget? {α : Type} {t : Tab α} {k : Nat} {v : α} (h : tget? t k = some v) : k ∈ t.map (·.1) := by
  induction t with
  | nil => simp [tget?] at h
  | cons e t ih =>
    by_cases he : e.1 = k
    · simp [he]
    · simp only [tget?, if_neg he] at h
      exact List.mem_cons_of_mem _ (ih h)

/-! ### The entry -/

section
variable {s : State} {b q : Nat} {addr : BitVec 64} {B : Block} {Q : Quire} (hB : s.block? b = some B) (hQ : tget? B.quires q = some Q)

/-- The core's choice falls on the header. -/
def State.choosesHeader (s : State) (b q : Nat) (B : Block) (addr : BitVec 64) : Prop :=
  ∃ c, s.chooseQuire b (B.settled s.clk) = some (q, c) ∧ c.gid = none ∧ c.addr = addr.toNat

include hB in
theorem exec_clauseEntry_other (hc : ¬s.choosesHeader b q B addr) : exec (.clauseEntry b q addr) s = .next s := by
  change execClauseEntry b q addr s = _
  simp only [execClauseEntry, hB]
  split
  next q' c h =>
    rw [if_neg]
    rintro ⟨rfl, hg, ha⟩
    exact hc ⟨c, h, hg, ha⟩
  next => rfl

include hB in
theorem exec_clauseEntry_chosen (hc : s.choosesHeader b q B addr) : exec (.clauseEntry b q addr) s = enterNamed b q addr s := by
  obtain ⟨c, h, hg, ha⟩ := hc
  change execClauseEntry b q addr s = _
  simp only [execClauseEntry, hB, h, hg, ha, and_self, if_true]

include hB in
/-- An entry that ends the task names no group. -/
theorem enterNamed_ends {rep : Report} (h : enterClause b q addr s = .next (s.endTask b 5 (some rep))) :
    enterNamed b q addr s = .next (s.endTask b 5 (some rep)) := by
  simp [enterNamed, h, endTask_groupsOf hB]

/-- The header word at an address, and the header and the clause that it makes. -/
abbrev State.headWord (s : State) (B : Block) (addr : BitVec 64) : Word := (s.fetchWords B addr.toNat 1).headD 0#32
abbrev State.headAt (s : State) (B : Block) (addr : BitVec 64) : Header := headerOf B.ver (s.headWord B addr)
abbrev State.clauseAt (s : State) (B : Block) (addr : BitVec 64) : List Word :=
  (s.fetchWords B addr.toNat ((s.headAt B addr).len + 1)).drop 1

/-- The core's caches after a word was fetched. -/
def State.fetched (k part : Nat) (s : State) (va : Nat) : State :=
  match s.xlate k part true false true va with
  | .ok x => (s.touchTlb k part va).icFill k (x.pa va)
  | .error _ => s

theorem onlyCores_fetched (k part : Nat) (s : State) (va : Nat) : OnlyCores s (s.fetched k part va) := by
  unfold State.fetched
  split
  · exact (onlyCores_touchTlb _ _ _ _).trans (onlyCores_icFill _ _ _)
  · exact OnlyCores.refl s

/-- Words 0 to n of a clause can be fetched (R57, R353). -/
def State.fetchable (s : State) (B : Block) (addr : BitVec 64) (n : Nat) : Prop :=
  B.mayFetch addr.toNat (4 * (n + 1)) = true ∧ s.fetchMissing B addr n = [] ∧ s.fetchAway B addr n = [] ∧
    ∀ va ∈ [wordAddr addr 0, wordAddr addr n], ∃ x, s.xlate B.core (s.partOf B) true false true va = .ok x

variable (hs : B.sup = false) (hr : s.running b B = true) (hl : s.readyAt B Q addr ≠ [])
include hB hQ hs hr hl

theorem enterClause_misaligned (ha : addr.toNat % 4 ≠ 0) : enterClause b q addr s = .next (s.endTask b 5 (some
    { cause := 1, detail := 0xC, clause := addr, widx := 0, lane := (s.readyAt B Q addr).headD 0, ea := 0#64 })) := by
  simp [enterClause, hB, hQ, hr, hl, ha, faultAt_user hB hs, causeIllegal]

variable (ha : addr.toNat % 4 = 0)
include ha

theorem enterClause_unleased (hm : B.mayFetch addr.toNat 4 = false) : enterClause b q addr s = .next (s.endTask b 5 (some
    { cause := 4, detail := 0, clause := addr, widx := 0, lane := (s.readyAt B Q addr).headD 0
      ea := BitVec.ofNat 64 (wordAddr addr 0) })) := by
  simp [enterClause, hB, hQ, hr, hl, ha, hm, faultAt_user hB hs, causeLease]

variable (h0 : s.fetchable B addr 0)
include h0

theorem enterClause_unmarked (hh : headerMark (s.headWord B addr) = false) :
    enterClause b q addr s = .next (s.endTask b 5 (some
      { cause := 1, detail := 1, clause := addr, widx := 0, lane := (s.readyAt B Q addr).headD 0, ea := 0#64
        word := s.headWord B addr })) := by
  obtain ⟨hm, hw, hy, hx⟩ := h0
  obtain ⟨x, hx⟩ := hx _ List.mem_cons_self
  simp at hh hm
  simp [enterClause, hB, hQ, hr, hl, ha, hs, hm, hw, hy, hx, hh, faultAt_user hB hs, causeIllegal]

variable (hh : headerMark (s.headWord B addr) = true)
  (hn : s.fetchable B addr (s.headAt B addr).len)
include hh hn

theorem enterClause_bad {sub i : Nat} (hc : checkClause B (s.headAt B addr) (s.clauseAt B addr) = some (sub, i)) :
    enterClause b q addr s = .next (s.endTask b 5 (some
      { cause := 1, detail := sub, clause := addr, widx := i, lane := (s.readyAt B Q addr).headD 0, ea := 0#64
        word := (s.headWord B addr :: s.clauseAt B addr).getD i 0#32 })) := by
  obtain ⟨hm, hw, hy, hx⟩ := h0
  obtain ⟨x, hx⟩ := hx _ List.mem_cons_self
  obtain ⟨hm', hw', hy', hx'⟩ := hn
  obtain ⟨x', hx'⟩ := hx' _ (List.mem_cons_of_mem _ List.mem_cons_self)
  simp [State.headAt, State.headWord, State.clauseAt] at hh hm hm' hw' hy' hx' hc
  simp [enterClause, hB, hQ, hr, hl, ha, hs, hm, hw, hy, hx, hh, hm', hw', hy', hx', hc,
    faultAt_user hB hs, causeIllegal, State.headAt, State.headWord]

theorem enterClause_enters (hc : checkClause B (s.headAt B addr) (s.clauseAt B addr) = none) :
    ∃ s1, OnlyCores s s1 ∧ enterClause b q addr s =
      .next (s1.enter b q addr (s.readyAt B Q addr) (s.headAt B addr) (s.clauseAt B addr)) := by
  obtain ⟨hm, hw, hy, hx⟩ := h0
  obtain ⟨x, hx⟩ := hx _ List.mem_cons_self
  obtain ⟨hm', hw', hy', hx'⟩ := hn
  obtain ⟨x', hx'⟩ := hx' _ (List.mem_cons_of_mem _ List.mem_cons_self)
  refine ⟨[wordAddr addr 0, wordAddr addr (s.headAt B addr).len].foldl (State.fetched B.core (s.partOf B)) s,
    onlyCores_foldl (onlyCores_fetched _ _) _ _, ?_⟩
  simp [State.headAt, State.headWord, State.clauseAt] at hh hm hm' hw' hy' hx' hc
  simp [enterClause, hB, hQ, hr, hl, ha, hs, hm, hw, hy, hx, hh, hm', hw', hy', hx', hc,
    State.fetched, State.headAt, State.headWord] <;> rfl

end

/-- A quire as a group of some lanes has entered a clause under a group number (R50). -/
def Quire.entering (Q : Quire) (n : Nat) (cl : BitVec 64) (ls : List Nat) (h : Header) (ws : List Word) : Quire :=
  { Q with
    threads := Q.threads.map fun t => if ls.contains t.1 then (t.1, t.2.acquireFlags h.wait) else t
    groups := tput Q.groups n { lanes := laneMask ls, clause := cl, words := ws, widx := 1, sfa := h.sfa, sfb := h.sfb, yld := h.yld }
    headAge := tdel Q.headAge cl.toNat }

theorem State.enter_block? {s : State} {b q : Nat} {B : Block} {Q : Quire} (hB : s.block? b = some B)
    (hQ : tget? B.quires q = some Q) (cl : BitVec 64) (ls : List Nat) (h : Header) (ws : List Word) :
    (s.enter b q cl ls h ws).block? b = some { B with quires := tput B.quires q (Q.entering s.next cl ls h ws) } := by
  simp only [State.enter, State.updQuire_eq hB hQ]
  simp [State.block?, Quire.entering]

/-- An entry leaves memory and the tarns. -/
theorem State.enter_rest (s : State) (b q : Nat) (cl : BitVec 64) (ls : List Nat) (h : Header) (ws : List Word) :
    (s.enter b q cl ls h ws).mem = s.mem ∧ (s.enter b q cl ls h ws).tarns = s.tarns := by
  unfold State.enter State.updQuire State.updBlock
  split <;> exact ⟨rfl, rfl⟩

/-- What stands after a group has entered a clause and has been named (R50, R57). -/
theorem enterNamed_enters {s s1 : State} {b q : Nat} {addr : BitVec 64} {B : Block} {Q : Quire} (hB : s.block? b = some B)
    (hQ : tget? B.quires q = some Q) (h1 : OnlyCores s s1) {ls : List Nat} {h : Header} {ws : List Word}
    (he : enterClause b q addr s = .next (s1.enter b q addr ls h ws)) :
    ∃ t Q', enterNamed b q addr s = .next t ∧ t.quireAt b q = some Q' ∧
      Q'.threads = Q.threads.map (fun th => if ls.contains th.1 then (th.1, th.2.acquireFlags h.wait) else th) ∧
      tget? Q'.groups s.next = some { lanes := laneMask ls, clause := addr, words := ws, widx := 1, sfa := h.sfa, sfb := h.sfb, yld := h.yld } ∧
      (∀ g, g ≠ s.next → tget? Q'.groups g = tget? Q.groups g) ∧ t.cur = .group b q s.next ∧ t.mem = s.mem ∧ t.tarns = s.tarns := by
  obtain ⟨C, rfl⟩ := h1
  have entered := State.enter_block? (s := { s with cores := C }) hB hQ addr ls h ws
  obtain ⟨hmem, htarns⟩ := State.enter_rest { s with cores := C } b q addr ls h ws
  have quire : tget? (tput B.quires q (Q.entering s.next addr ls h ws)) q = some (Q.entering s.next addr ls h ws) :=
    tget?_tput_self _ _ _
  have group : tget? (Q.entering s.next addr ls h ws).groups s.next = some _ := tget?_tput_self _ _ _
  have named : ((({ s with cores := C } : State).enter b q addr ls h ws).groupsOf b q).contains s.next = true := by
    simp only [State.groupsOf, entered, quire, List.contains_iff_mem]
    exact mem_keys_of_tget? group
  refine ⟨{ ({ s with cores := C } : State).enter b q addr ls h ws with cur := .group b q s.next }, _, ?_, ?_, rfl, group,
    fun g hg => tget?_tput_ne _ _ hg, rfl, hmem, htarns⟩
  · simp only [enterNamed, he, named, if_true]
  · change (State.enter _ b q addr ls h ws).quireAt b q = _
    simp only [State.quireAt, entered, quire]

/-- Settles O6: each failed check by the report that ends the task, and an entry by the quire it leaves. -/
theorem clauseEntry : Obligations.ClauseEntry := by
  intro s b q addr B Q hB hQ
  refine ⟨exec_clauseEntry_other hB, fun hc hr hl hs => ?_⟩
  have ends {rep : Report} (h : enterClause b q addr s = .next (s.endTask b 5 (some rep))) :
      exec (.clauseEntry b q addr) s = .next (s.endTask b 5 (some rep)) :=
    (exec_clauseEntry_chosen hB hc).trans (enterNamed_ends hB h)
  refine ⟨fun ha => ends (enterClause_misaligned hB hQ hs hr hl ha), fun ha hm => ends (enterClause_unleased hB hQ hs hr hl ha hm),
    fun ha h0 => ⟨fun hh => ends (enterClause_unmarked hB hQ hs hr hl ha h0 hh), fun hh hn =>
      ⟨fun sub i hk => ends (enterClause_bad hB hQ hs hr hl ha h0 hh hn hk), fun hk => ?_⟩⟩⟩
  rw [exec_clauseEntry_chosen hB hc]
  obtain ⟨s1, h1, he⟩ := enterClause_enters hB hQ hs hr hl ha h0 hh hn hk
  exact enterNamed_enters hB hQ h1 he

end Sys2Proof.Machine

/-! Exchanges of quires (R93, R101): a quire whose only group still stands at a TAIL. -/

namespace Sys2Proof.Machine

/-- A quire without a live thread whose group still stands at the TAIL that ended lane 0. -/
def standingTailQuire : Quire :=
  { groups := [(1, { lanes := 1#32, clause := 0#64, words := [], widx := 1, sfa := 15, sfb := 15, yld := false, ended := 1#32 })] }

/-- A block with that quire active and an empty one pending. -/
def standingTailBlock : Block :=
  { core := 0, part := 0, lid := 0, bflat := 0, ltarn := 0, code := 0#64, frame := 0#64
    quires := [(0, standingTailQuire), (1, {})], active := [0], pending := [1] }

/-- The machine with that block. -/
def standingTail : State := { State.reset with blocks := [(firstBlock, standingTailBlock)] }

/-- The leaving quire goes to the tail of the pending set though none of its threads is live. -/
theorem exchange_standingTail :
    ((standingTail.exchange firstBlock 0 1).block? firstBlock).map (·.pending) = some [0] := by decide

/-- Refutes O7: a quire without a live thread that still stands at a TAIL is kept pending by an exchange. -/
theorem not_quireEvents : ¬ Obligations.QuireEvents := by
  intro ⟨_, _, exchanges, _⟩
  obtain ⟨B', hB', -, pending, -⟩ := exchanges standingTail firstBlock 0 1 standingTailBlock standingTailQuire {} rfl rfl rfl
  have kept := exchange_standingTail
  rw [hB', Option.map_some, pending] at kept
  exact absurd kept (by decide)

end Sys2Proof.Machine

/-! Floating-point sums, products, extremes, comparison, classification and integral values (R179 to R189, R158). -/

namespace Sys2Proof.Machine

/-! ### Exact sums -/

/-- The value is a number. -/
def Fp.finite : Fp → Bool
  | .num .. => true
  | _ => false

@[simp] theorem Fp.finite_num (a : Bool) (k : Nat) (i : Int) : (Fp.num a k i).finite = true := rfl

@[simp] theorem Fp.isNan_num (a : Bool) (k : Nat) (i : Int) : (Fp.num a k i).isNan = false := rfl
@[simp] theorem Fp.isNan_inf (a : Bool) : (Fp.inf a).isNan = false := rfl
@[simp] theorem Fp.isNan_nan : Fp.nan.isNan = true := rfl

theorem Fp.isNan_iff {x : Fp} : x.isNan = true ↔ x = .nan := by cases x <;> simp [Fp.isNan]

theorem Fp.isZero_num (a : Bool) (k : Nat) (i : Int) : (Fp.num a k i).isZero = decide (k = 0) := by
  cases k <;> simp [Fp.isZero]

theorem Fp.isZero_iff {x : Fp} : x.isZero = true ↔ ∃ a i, x = .num a 0 i := by
  cases x with
  | nan => simp [Fp.isZero]
  | inf a => simp [Fp.isZero]
  | num a k i => simp [Fp.isZero_num]

/-- The integer that a number forms over an exponent at most its own. -/
def signedAt (a : Bool) (k : Nat) (i e : Int) : Int := (if a then -1 else 1) * ((k * 2 ^ (i - e).toNat : Nat) : Int)

theorem scaled_num (a : Bool) (k : Nat) (i e : Int) : (Fp.num a k i).scaled e = signedAt a k i e := by
  cases a <;> simp [Fp.scaled, signedAt]

theorem signedAt_self (a : Bool) (k : Nat) (i : Int) : signedAt a k i i = if a then -(k : Int) else k := by
  cases a <;> simp [signedAt]

/-- The exact sum of two numbers that are not 0 (R182). -/
theorem sumFp_two {k l : Nat} (hk : k ≠ 0) (hl : l ≠ 0) (a b : Bool) (i j : Int) :
    sumFp [.num a k i, .num b l j] = (signedAt a k i (min i j) + signedAt b l j (min i j), min i j) := by
  simp [sumFp, Fp.isZero_num, hk, hl, Fp.expo, scaled_num]

theorem signedAt_ne_zero (a : Bool) {k : Nat} (hk : k ≠ 0) (i : Int) : signedAt a k i i ≠ 0 := by
  rw [signedAt_self]
  cases a <;> simp [hk]

/-- A zero adds nothing to an exact sum. -/
theorem sumFp_zero_right {k : Nat} (hk : k ≠ 0) (a b : Bool) (i j : Int) :
    sumFp [.num a k i, .num b 0 j] = (signedAt a k i i, i) := by
  simp [sumFp, Fp.isZero_num, hk, Fp.expo, scaled_num]

theorem sumFp_zero_left {k : Nat} (hk : k ≠ 0) (a b : Bool) (i j : Int) :
    sumFp [.num b 0 j, .num a k i] = (signedAt a k i i, i) := by
  simp [sumFp, Fp.isZero_num, hk, Fp.expo, scaled_num]

theorem sumFp_one {k : Nat} (hk : k ≠ 0) (a : Bool) (i : Int) : sumFp [.num a k i] = (signedAt a k i i, i) := by
  simp [sumFp, Fp.isZero_num, hk, Fp.expo, scaled_num]

theorem sumFp_zeros (a b : Bool) (i j : Int) : (sumFp [.num a 0 i, .num b 0 j]).1 = 0 := by
  simp [sumFp, Fp.isZero_num]

/-! ### One rounding (R182) -/

section
variable (f : Fmt) (m : Rnd)

/-- The zero of a sign. -/
def Fmt.zero (f : Fmt) (neg : Bool) : Nat := if neg then f.signBit else 0

theorem finishTerms_nan {ts : List Fp} (h : .nan ∈ ts) : finishTerms f m ts = f.nanCode := by
  have : ts.any Fp.isNan = true := List.any_eq_true.2 ⟨_, h, rfl⟩
  simp [finishTerms, this]

/-- Among numbers stands no NaN and no infinity. -/
theorem finite_any {ts : List Fp} (h : ∀ t ∈ ts, t.finite = true) :
    ts.any Fp.isNan = false ∧ ∀ b, (ts.any fun t => t == .inf b) = false := by
  refine ⟨List.any_eq_false.2 fun t ht hn => ?_, fun b => List.any_eq_false.2 fun t ht hi => ?_⟩
  · have := h t ht
    rw [Fp.isNan_iff.1 hn] at this
    exact absurd this (by decide)
  · have := h t ht
    rw [eq_of_beq hi] at this
    exact absurd this (by simp [Fp.finite])

/-- A sum of numbers that is not 0 is converted. -/
theorem finishTerms_num {ts : List Fp} (h : ∀ t ∈ ts, t.finite = true) (hr : (sumFp ts).1 ≠ 0) :
    finishTerms f m ts = convert f m false (.num (decide ((sumFp ts).1 < 0)) (sumFp ts).1.natAbs (sumFp ts).2) := by
  obtain ⟨hn, hi⟩ := finite_any h
  simp [finishTerms, hn, hi, hr]

/-- A sum of numbers that is 0 has a sign of its own only where every term is a negative zero. -/
theorem finishTerms_zero {ts : List Fp} (h : ∀ t ∈ ts, t.finite = true) (hr : (sumFp ts).1 = 0) :
    finishTerms f m ts = f.zero ((ts.all fun t => t.isZero && t.isNeg) || decide (m = .rd)) := by
  obtain ⟨hn, hi⟩ := finite_any h
  simp only [finishTerms, hn, hi, hr]
  cases ts.all fun t => t.isZero && t.isNeg <;> cases m <;> simp [Fmt.zero]

/-- A sum with infinities of one sign is that infinity. -/
theorem finishTerms_inf {ts : List Fp} {a : Bool} (hn : .nan ∉ ts) (ha : .inf a ∈ ts) (hb : .inf (!a) ∉ ts) :
    finishTerms f m ts = convert f m false (.inf a) := by
  have h0 : ts.any Fp.isNan = false := List.any_eq_false.2 fun t ht h => hn (Fp.isNan_iff.1 h ▸ ht)
  cases a with
  | false =>
    have hb : Fp.inf true ∉ ts := hb
    simp [finishTerms, h0, ha, hb]
  | true =>
    have hb : Fp.inf false ∉ ts := hb
    simp [finishTerms, h0, ha, hb]

theorem convert_signedAt (a : Bool) {k : Nat} (hk : k ≠ 0) (i : Int) :
    convert f m false (.num (decide (signedAt a k i i < 0)) (signedAt a k i i).natAbs i) = convert f m false (.num a k i) := by
  have : decide (signedAt a k i i < 0) = a ∧ (signedAt a k i i).natAbs = k := by
    rw [signedAt_self]
    cases a <;> simp
    omega
  rw [this.1, this.2]

/-! ### What the arithmetic instructions form (R182) -/

variable {x y z : Nat}

theorem arith_nan (h : decodeFp f x = .nan ∨ decodeFp f y = .nan) :
    addBits f m x y = f.nanCode ∧ mulBits f m x y = f.nanCode ∧ fmaBits f m x y z = f.nanCode := by
  have hm : mulFp (decodeFp f x) (decodeFp f y) = .nan := by
    rcases h with h | h <;> rw [h]
    · rfl
    · cases decodeFp f x <;> rfl
  refine ⟨finishTerms_nan f m ?_, finishTerms_nan f m ?_, finishTerms_nan f m ?_⟩
  · rcases h with h | h <;> simp [h]
  · simp [hm]
  · simp [hm]

theorem fmaBits_nan (h : decodeFp f z = .nan) : fmaBits f m x y z = f.nanCode := finishTerms_nan f m (by simp [h])

theorem mulBits_inf_zero {a : Bool} (hx : decodeFp f x = .inf a) (hy : (decodeFp f y).isZero = true) :
    mulBits f m x y = f.nanCode ∧ mulBits f m y x = f.nanCode := by
  obtain ⟨b, i, hy⟩ := Fp.isZero_iff.1 hy
  exact ⟨finishTerms_nan f m (by rw [hx, hy]; exact List.mem_cons_self), finishTerms_nan f m (by rw [hx, hy]; exact List.mem_cons_self)⟩

theorem addBits_inf_inf {a : Bool} (hx : decodeFp f x = .inf a) (hy : decodeFp f y = .inf (!a)) : addBits f m x y = f.nanCode := by
  unfold addBits
  rw [hx, hy]
  cases a <;> rfl

theorem addBits_zeros {a b : Bool} {i j : Int} (hx : decodeFp f x = .num a 0 i) (hy : decodeFp f y = .num b 0 j) :
    addBits f m x y = f.zero ((a && b) || decide (m = .rd)) := by
  unfold addBits
  rw [hx, hy, finishTerms_zero f m (by simp) (sumFp_zeros a b i j)]
  simp [Fp.isZero, Fp.isNeg]

theorem addBits_cancel {a : Bool} {i : Int} {k : Nat} (hk : k ≠ 0) (hx : decodeFp f x = .num a k i)
    (hy : decodeFp f y = .num (!a) k i) : addBits f m x y = f.zero (decide (m = .rd)) := by
  unfold addBits
  rw [hx, hy, finishTerms_zero f m (by simp)]
  · simp [Fp.isZero_num, hk]
  · rw [sumFp_two hk hk, Int.min_self, signedAt_self, signedAt_self]
    cases a <;> simp only [Bool.not_false, Bool.not_true, Bool.false_eq_true, if_false, if_true] <;> omega

theorem addBits_inf {a : Bool} (hx : decodeFp f x = .inf a) (hn : decodeFp f y ≠ .nan) (hi : decodeFp f y ≠ .inf (!a)) :
    addBits f m x y = convert f m false (.inf a) ∧ addBits f m y x = convert f m false (.inf a) := by
  have hb : Fp.inf (!a) ≠ .inf a := by cases a <;> simp
  exact ⟨finishTerms_inf f m (by simp [hx, Ne.symm hn]) (by simp [hx]) (by simp [hx, Ne.symm hi]),
    finishTerms_inf f m (by simp [hx, Ne.symm hn]) (by simp [hx]) (by simp [hx, Ne.symm hi])⟩

theorem addBits_zero {a : Bool} {k : Nat} {i : Int} (hk : k ≠ 0) (hx : decodeFp f x = .num a k i)
    (hy : (decodeFp f y).isZero = true) :
    addBits f m x y = convert f m false (decodeFp f x) ∧ addBits f m y x = convert f m false (decodeFp f x) := by
  obtain ⟨b, j, hy⟩ := Fp.isZero_iff.1 hy
  have nz := signedAt_ne_zero a hk i
  unfold addBits
  rw [hx, hy, finishTerms_num f m (by simp) (by rw [sumFp_zero_right hk]; exact nz),
    finishTerms_num f m (by simp) (by rw [sumFp_zero_left hk]; exact nz), sumFp_zero_right hk, sumFp_zero_left hk]
  exact ⟨convert_signedAt f m a hk i, convert_signedAt f m a hk i⟩

section
variable {a b : Bool} {k l : Nat} {i j : Int} (hk : k ≠ 0) (hl : l ≠ 0) (hx : decodeFp f x = .num a k i) (hy : decodeFp f y = .num b l j)
include hk hl hx hy

theorem mulBits_num : mulBits f m x y = convert f m false (.num (a != b) (k * l) (i + j)) := by
  have hkl : k * l ≠ 0 := Nat.mul_ne_zero hk hl
  unfold mulBits
  rw [hx, hy, mulFp, finishTerms_num f m (by simp) (by rw [sumFp_one hkl]; exact signedAt_ne_zero _ hkl _), sumFp_one hkl]
  exact convert_signedAt f m (a != b) hkl (i + j)

theorem addBits_num (hs : signedAt a k i (min i j) + signedAt b l j (min i j) ≠ 0) : addBits f m x y =
    convert f m false (.num (decide (signedAt a k i (min i j) + signedAt b l j (min i j) < 0))
      (signedAt a k i (min i j) + signedAt b l j (min i j)).natAbs (min i j)) := by
  unfold addBits
  rw [hx, hy, finishTerms_num f m (by simp) (by rw [sumFp_two hk hl]; exact hs), sumFp_two hk hl]

theorem fmaBits_zero (hz : (decodeFp f z).isZero = true) :
    fmaBits f m x y z = convert f m false (.num (a != b) (k * l) (i + j)) := by
  have hkl : k * l ≠ 0 := Nat.mul_ne_zero hk hl
  obtain ⟨c, r, hz⟩ := Fp.isZero_iff.1 hz
  unfold fmaBits
  rw [hx, hy, hz, mulFp, finishTerms_num f m (by simp) (by rw [sumFp_zero_right hkl]; exact signedAt_ne_zero _ hkl _),
    sumFp_zero_right hkl]
  exact convert_signedAt f m (a != b) hkl (i + j)

omit hk hl in
theorem fmaBits_inf {c : Bool} (hz : decodeFp f z = .inf c) : fmaBits f m x y z = convert f m false (.inf c) := by
  unfold fmaBits
  rw [hx, hy, hz, mulFp]
  exact finishTerms_inf f m (by simp) (by simp) (by simp)

theorem fmaBits_num {c : Bool} {p : Nat} {r : Int} (hp : p ≠ 0) (hz : decodeFp f z = .num c p r) :
    let S := signedAt (a != b) (k * l) (i + j) (min (i + j) r) + signedAt c p r (min (i + j) r)
    (S ≠ 0 → fmaBits f m x y z = convert f m false (.num (decide (S < 0)) S.natAbs (min (i + j) r))) ∧
      (S = 0 → fmaBits f m x y z = f.zero (decide (m = .rd))) := by
  have hkl : k * l ≠ 0 := Nat.mul_ne_zero hk hl
  intro S
  unfold fmaBits
  rw [hx, hy, hz, mulFp]
  refine ⟨fun hs => ?_, fun hs => ?_⟩
  · rw [finishTerms_num f m (by simp) (by rw [sumFp_two hkl hp]; exact hs), sumFp_two hkl hp]
  · rw [finishTerms_zero f m (by simp) (by rw [sumFp_two hkl hp]; exact hs)]
    simp [Fp.isZero_num, hkl]

end

end

/-! ### Comparison, classes, integral values and scaling (R185 to R189, R158) -/

/-- FSET's condition by the order of the patterns' keys, and whether one is NaN (R186). -/
theorem fcond_eq (sub : BitVec 4) (x y : Nat) :
    let u := (decodeFp .fp32 x).isNan || (decodeFp .fp32 y).isNan
    let key (v : Nat) : Int := if v / 2 ^ 31 % 2 = 1 then -((v % 2 ^ 31 : Nat) : Int) else ((v % 2 ^ 31 : Nat) : Int)
    fcond (sub &&& 7#4).toNat x y = (match sub.toNat % 8 with
      | 0 => !u && decide (key x = key y) | 1 => u || decide (key x ≠ key y)
      | 2 => !u && decide (key x < key y) | 3 => !u && decide (key x ≤ key y)
      | 4 => !u && decide (key y < key x) | 5 => !u && decide (key y ≤ key x)
      | 6 => !u | _ => u) := by
  intro u key
  have keyed (v : Nat) : cmpKey v = if (decodeFp .fp32 v).isNan then none else some (key v) := rfl
  rw [sub_low, fcond, keyed, keyed]
  have : sub.toNat % 8 < 8 := Nat.mod_lt _ (by decide)
  simp only [u]
  generalize sub.toNat % 8 = k at this
  obtain rfl | rfl | rfl | rfl | rfl | rfl | rfl | rfl : k = 0 ∨ k = 1 ∨ k = 2 ∨ k = 3 ∨ k = 4 ∨ k = 5 ∨ k = 6 ∨ k = 7 := by omega
  all_goals cases (decodeFp .fp32 x).isNan <;> cases (decodeFp .fp32 y).isNan <;> simp [bne, Bool.beq_eq_decide_eq]

/-- The classes of R187. -/
theorem fclassOf_eq (x : Nat) :
    let E := x / 2 ^ 23 % 256
    let M := x % 2 ^ 23
    let n := x / 2 ^ 31 % 2 = 1
    (E = 255 → M ≠ 0 → fclassOf x = if M / 2 ^ 22 % 2 = 0 then 0 else 1) ∧ (E = 255 → M = 0 → fclassOf x = if n then 2 else 9) ∧
    (E = 0 → M = 0 → fclassOf x = if n then 5 else 6) ∧ (E = 0 → M ≠ 0 → fclassOf x = if n then 4 else 7) ∧
    (E ≠ 0 → E ≠ 255 → fclassOf x = if n then 3 else 8) := by
  intro E M n
  have quiet : 2 ^ 22 ≤ M ↔ ¬M / 2 ^ 22 % 2 = 0 := by
    have : M < 2 ^ 23 := Nat.mod_lt _ (by decide)
    omega
  refine ⟨fun he hm => ?_, fun he hm => ?_, fun he hm => ?_, fun he hm => ?_, fun he he' => ?_⟩
  all_goals simp only [fclassOf, E, M, n] at *
  · simp only [he, if_true, if_neg hm, quiet]
    split <;> simp_all
  all_goals simp_all

/-- A number is 0 where its rounding to an integer is, and FRND keeps its sign (R188). -/
theorem frndBits_num (m : Rnd) {x : Nat} {a : Bool} {k : Nat} {i : Int} (hk : k ≠ 0) (hx : decodeFp .fp32 x = .num a k i) :
    frndBits m x = if roundInt m a k i = 0 then (if a then 2 ^ 31 else 0)
      else convert .fp32 .rne false (.num a (roundInt m a k i).natAbs 0) := by
  simp only [frndBits, hx, if_neg hk, Int.natAbs_eq_zero]

/-! ### Rounding to an integer (R158) -/

/-- A number without a fraction is its own integer. -/
theorem roundInt_whole (m : Rnd) (a : Bool) (k j : Nat) : roundInt m a k j = (if a then -(k : Int) else k) * 2 ^ j := by
  have : roundTo m a k j 0 false = k * 2 ^ j := by simp [roundTo]
  simp only [roundInt, this]
  cases a <;> simp [Int.neg_mul]

/-- The integer part of a magnitude over 2^j, one more where it rounds up. -/
theorem roundTo_fraction (m : Rnd) (a : Bool) (k : Nat) {j : Nat} (hj : 0 < j) : roundTo m a k (-(j : Int)) 0 false =
    if roundsUp m a (k / 2 ^ j % 2 == 1) (if 2 ^ (j - 1) < k % 2 ^ j then .gt else if k % 2 ^ j < 2 ^ (j - 1) then .lt else .eq)
      (k % 2 ^ j != 0) then k / 2 ^ j + 1 else k / 2 ^ j := by
  simp [roundTo, Nat.ne_of_gt hj]

/-- A floor by its bounds. -/
theorem ediv_eq_of_bounds {n q d r : Int} (h : n = d * q + r) (h0 : 0 ≤ r) (h1 : r < d) : n / d = q := by
  refine ((Int.ediv_emod_unique (by omega)).2 ⟨?_, h0, h1⟩).1
  rw [h, Int.add_comm]

/-- The parts of a magnitude over 2^j: its integer part, what remains, and half a unit. -/
theorem fraction_parts (k : Nat) {j : Nat} (hj : 0 < j) : ∃ t r h : Nat, k / 2 ^ j = t ∧ k % 2 ^ j = r ∧ 2 ^ (j - 1) = h ∧
    2 ^ j = 2 * h ∧ ((2 : Int) ^ j = 2 * h) ∧ k = 2 * h * t + r ∧ r < 2 * h := by
  have hh : 2 ^ j = 2 * 2 ^ (j - 1) := by rw [← Nat.pow_succ', Nat.succ_eq_add_one, Nat.sub_add_cancel hj]
  refine ⟨_, _, _, rfl, rfl, rfl, hh, ?_, ?_, ?_⟩
  · rw [← cast_two_pow, hh]; push_cast; rfl
  · rw [← hh]; exact (Nat.div_add_mod k _).symm
  · rw [← hh]; exact Nat.mod_lt _ (Nat.two_pow_pos j)

/-- The magnitude that rounding to the nearest takes, of two neighbours (R158). -/
def nearest (t r h : Nat) : Nat :=
  if roundsUp .rne false (t % 2 == 1) (if h < r then .gt else if r < h then .lt else .eq) (r != 0) then t + 1 else t

/-- It lies within half a unit, and is even where it lies half a unit away. -/
theorem nearest_spec {t r h k : Nat} (hk : k = 2 * h * t + r) (hr : r < 2 * h) :
    (2 * ((nearest t r h : Int) * (2 * h) - k)).natAbs ≤ 2 * h ∧
      ((2 * ((nearest t r h : Int) * (2 * h) - k)).natAbs = 2 * h → nearest t r h % 2 = 0) := by
  have below : (t : Int) * (2 * h) - k = -r := by rw [hk]; push_cast; grind
  have above : ((t + 1 : Nat) : Int) * (2 * h) - k = 2 * h - r := by rw [hk]; push_cast; grind
  unfold nearest
  rcases Nat.lt_trichotomy h r with hc | rfl | hc
  · simp only [roundsUp, if_pos hc, if_true, above]
    omega
  · simp only [roundsUp, Nat.lt_irrefl, if_false]
    split
    next odd =>
      rw [above]
      have : t % 2 = 1 := by simpa using odd
      omega
    next even =>
      rw [below]
      have : ¬t % 2 = 1 := by simpa using even
      omega
  · simp only [roundsUp, if_pos hc, if_neg (Nat.lt_asymm hc), Bool.false_eq_true, if_false, below]
    omega

/-- The rounding modes where there is a fraction: down, up, towards 0, and to the nearest (R158). -/
theorem roundInt_fraction (a : Bool) (k : Nat) {j : Nat} (hj : 0 < j) :
    let v : Int := if a then -(k : Int) else k
    let r := roundInt .rne a k (-(j : Int))
    roundInt .rd a k (-(j : Int)) = v / 2 ^ j ∧ roundInt .ru a k (-(j : Int)) = -(-v / 2 ^ j) ∧
    roundInt .rz a k (-(j : Int)) = (if a then -((k / 2 ^ j : Nat) : Int) else ((k / 2 ^ j : Nat) : Int)) ∧
    (2 * (r * 2 ^ j - v)).natAbs ≤ 2 ^ j ∧ ((2 * (r * 2 ^ j - v)).natAbs = 2 ^ j → r % 2 = 0) := by
  obtain ⟨t, r, h, ht, hr, hh, hD, hDi, hk, hlt⟩ := fraction_parts k hj
  have floor : (k : Int) / (2 * h : Int) = t := ediv_eq_of_bounds (r := r) (by rw [hk]; push_cast; grind) (by omega) (by omega)
  have ceil : -(k : Int) / (2 * h : Int) = if r = 0 then -(t : Int) else -(t : Int) - 1 := by
    split
    next h0 => exact ediv_eq_of_bounds (r := 0) (by rw [hk, h0]; push_cast; grind) (by omega) (by omega)
    next h0 => exact ediv_eq_of_bounds (r := 2 * h - r) (by rw [hk]; push_cast; grind) (by omega) (by omega)
  have up (a : Bool) : roundTo .ru a k (-(j : Int)) 0 false = if r = 0 ∨ a = true then t else t + 1 := by
    rw [roundTo_fraction _ _ _ hj, ht, hr]
    by_cases h0 : r = 0 <;> cases a <;> simp [roundsUp, h0]
  have down (a : Bool) : roundTo .rd a k (-(j : Int)) 0 false = if r = 0 ∨ a = false then t else t + 1 := by
    rw [roundTo_fraction _ _ _ hj, ht, hr]
    by_cases h0 : r = 0 <;> cases a <;> simp [roundsUp, h0]
  have zero (a : Bool) : roundTo .rz a k (-(j : Int)) 0 false = t := by
    rw [roundTo_fraction _ _ _ hj, ht]
    simp [roundsUp]
  have near (a : Bool) : roundTo .rne a k (-(j : Int)) 0 false = nearest t r h := by
    rw [roundTo_fraction _ _ _ hj, ht, hr, hh]
    rfl
  obtain ⟨close, even⟩ := nearest_spec hk hlt
  intro v r'
  simp only [v, r', roundInt, up, down, zero, near, hD, hDi]
  cases a with
  | false =>
    refine ⟨by simpa using floor.symm, ?_, by simpa using floor.symm, by simpa using close, fun he => ?_⟩
    · simp only [Bool.false_eq_true, or_false, if_false, ceil]
      split <;> push_cast <;> grind
    · have := even (by simpa using he)
      simp only [Bool.false_eq_true, if_false]
      omega
  | true =>
    have mirror : (2 * (-(nearest t r h : Int) * (2 * h) - -(k : Int))).natAbs = (2 * ((nearest t r h : Int) * (2 * h) - k)).natAbs := by
      rw [← Int.natAbs_neg]; congr 1; grind
    refine ⟨?_, by simpa using floor.symm, by simpa using floor.symm, ?_, ?_⟩
    · simp only [Bool.true_eq_false, or_false, if_true, ceil]
      split <;> push_cast <;> grind
    · simp only [if_true]
      rw [mirror]; exact close
    · simp only [if_true]
      rw [mirror]
      intro he
      have := even he
      omega

/-- Settles O19: the lane forms are the model's rules word for word; an exact value is rounded once, and the rest is said by patterns. -/
theorem floatArithmetic : Obligations.FloatArithmetic := by
  refine ⟨⟨fun s c o w h => ?arith, fun f m x y z => ?value⟩, fun s c w h => ?other, fun f x y => ?extreme, fclassOf_eq,
    fun m x n => ?integral, fun m a k j => ⟨roundInt_whole m a k j, ?modes⟩⟩
  case arith =>
    exact ⟨lanes_of h rfl fun _ _ => rfl, lanes_of h rfl fun _ _ => rfl, lanes_of h rfl fun _ _ => rfl, lanes_of h rfl fun _ _ => rfl,
      lanes_of h rfl fun _ _ => rfl, lanes_of h rfl fun _ _ => rfl, lanes_of h rfl fun _ _ => rfl, lanes_of h rfl fun _ _ => rfl⟩
  case value =>
    exact ⟨arith_nan f m, fmaBits_nan f m, fun _ => mulBits_inf_zero f m, fun _ => addBits_inf_inf f m,
      fun _ _ _ _ => addBits_zeros f m, fun _ _ _ => addBits_cancel f m, fun _ => addBits_inf f m,
      fun _ _ _ => addBits_zero f m, fun a k i b l j hk hl hx hy => ⟨mulBits_num f m hk hl hx hy, addBits_num f m hk hl hx hy,
        fmaBits_zero f m hk hl hx hy, fun _ => fmaBits_inf f m hx hy, fun _ _ _ => fmaBits_num f m hk hl hx hy⟩⟩
  case other =>
    intro ls z x y put e half u key cond
    have condition (t : Thread) : fcond (w.x.sub &&& 7#4).toNat (x t) (y t) = cond t := fcond_eq w.x.sub (x t) (y t)
    refine ⟨lanes_of h rfl fun _ _ => rfl, lanes_of h rfl fun _ _ => rfl, lanes_of h rfl fun _ _ => rfl,
      fun hv => lanes_of h rfl fun _ t => ?_, fun hp => lanes_of h rfl fun _ t => ?_, fun hi hv => lanes_of h rfl fun _ t => ?_,
      fun hp => lanes_of h rfl fun _ t => ?_, lanes_of h rfl fun _ _ => rfl, lanes_of h rfl fun _ _ => rfl⟩
    · rw [hv, if_neg Bool.false_ne_true, ← condition, ← ofNat_boolWord]; rfl
    · rw [hp, if_pos rfl, ← condition]; rfl
    · rw [hi, hv]; rfl
    · exact if_pos (by simpa using hp)
  case extreme =>
    intro key nan
    have number (v : Nat) (h : ¬nan v) : (decodeFp f v).isNan = false :=
      Bool.eq_false_iff.2 fun hn => h (Fp.isNan_iff.1 hn)
    have none (v : Nat) (h : nan v) : (decodeFp f v).isNan = true := Fp.isNan_iff.2 h
    refine ⟨fun g hx hy => ?_, fun g hx hy => ?_, fun g hx hy => ?_, fun hx hy => ?_⟩
    · simp [minMaxBits, none x hx, none y hy]
    · simp [minMaxBits, none x hx, number y hy]
    · simp [minMaxBits, number x hx, none y hy]
    · simp [minMaxBits, number x hx, number y hy, orderKey, key]
  case integral =>
    refine ⟨fun hx => ?_, fun a hx => ?_, fun a i hx => ?_, fun a k i hk hx => ⟨frndBits_num m hk hx, ?_⟩⟩
    · simp [frndBits, fsclBits, hx]
    · simp [frndBits, fsclBits, hx]
    · simp [frndBits, fsclBits, hx]
    · simp [fsclBits, hx, hk, clampInt]
  case modes =>
    rcases Nat.eq_zero_or_pos j with rfl | hj
    · have whole (m : Rnd) : roundInt m a k (-(0 : Nat) : Int) = if a then -(k : Int) else k := by
        simpa using roundInt_whole m a k 0
      simp only [whole]
      cases a <;> simp
    · exact roundInt_fraction a k hj

end Sys2Proof.Machine

/-! Every floating, conversion and block instruction completes; QTILE and TRLCK on ready tiles (R157 to R189, R170, R175). -/

namespace Sys2Proof.Machine

/-! ### Operations that enter as the group goes past -/

theorem laneMask_ne_zero {ls : List Nat} {l : Nat} (hl : l ∈ ls) (h : l < 32) : laneMask ls ≠ 0#32 := by
  have bit : ∀ (ls : List Nat) (m : BitVec 32), (l ∈ ls ∨ m.getLsbD l = true) →
      (ls.foldl (fun m l => m ||| BitVec.twoPow 32 l) m).getLsbD l = true := by
    intro ls
    induction ls with
    | nil => intro m hm; simpa using hm
    | cons a ls ih =>
      intro m hm
      refine ih _ ?_
      by_cases ha : l = a
      · right; subst ha; simp [h]
      · simp only [List.mem_cons, ha, false_or] at hm
        exact hm.imp id fun hb => by simp [hb]
  intro h0
  have := bit ls 0#32 (.inl hl)
  rw [show ls.foldl _ _ = laneMask ls from rfl, h0] at this
  simp at this

/-- The participants are lanes of a quire. -/
theorem Ctx.participants_lt {c : Ctx} {p : BitVec 3} {n : Bool} {l : Nat} (h : l ∈ c.participants p n) : l < 32 := by
  have := (List.mem_filter.1 (List.mem_filter.1 h).1).1
  simpa using this

theorem laneMask_participants {c : Ctx} {p : BitVec 3} {n : Bool} (h : c.participants p n ≠ []) :
    laneMask (c.participants p n) ≠ 0#32 := by
  obtain ⟨l, hl⟩ := List.exists_mem_of_ne_nil _ h
  exact laneMask_ne_zero hl (Ctx.participants_lt hl)

@[simp] theorem stampOrder_kind (s : State) (Q : Quire) (o : Op) : (s.stampOrder Q o).kind = o.kind := by
  unfold State.stampOrder; dsimp only; split
  · rfl
  · split <;> rfl
@[simp] theorem stampOrder_ins (s : State) (Q : Quire) (o : Op) : (s.stampOrder Q o).ins = o.ins := by
  unfold State.stampOrder; dsimp only; split
  · rfl
  · split <;> rfl
@[simp] theorem stampOrder_lanes (s : State) (Q : Quire) (o : Op) : (s.stampOrder Q o).lanes = o.lanes := by
  unfold State.stampOrder; dsimp only; split
  · rfl
  · split <;> rfl
@[simp] theorem stampOrder_flag (s : State) (Q : Quire) (o : Op) : (s.stampOrder Q o).flag = o.flag := by
  unfold State.stampOrder; dsimp only; split
  · rfl
  · split <;> rfl
@[simp] theorem stampOrder_blk (s : State) (Q : Quire) (o : Op) : (s.stampOrder Q o).blk = o.blk := (stampOrder_place s Q o).1
@[simp] theorem stampOrder_q (s : State) (Q : Quire) (o : Op) : (s.stampOrder Q o).q = o.q := (stampOrder_place s Q o).2

/-- An operation of some thread stands under the next number, and nothing outside the blocks and the operations has changed. -/
theorem issued_of_lanes {s : State} {c : Ctx} {k : Nat} {o : Op} (h : o.lanes ≠ 0#32) :
    tget? (Issued s c k o).ops s.next = some o ∧ ∃ B O n, Issued s c k o = { s with blocks := B, ops := O, next := n } := by
  unfold Issued
  rw [if_neg h]
  exact ⟨tget?_tput_self _ _ _, _, _, _, rfl⟩

/-! ### Tiles of a side -/

theorem sideOf_setTile (s : State) (B : Block) (n : Nat) (f : Tile → Tile) :
    B.sideOf (s.setTile B n f) = { B.sideOf s with tiles := tput (B.sideOf s).tiles n (f ((B.sideOf s).tile n)) } := by
  unfold State.setTile State.updSide Block.sideOf
  rw [State.core_updCore_self]
  exact tget_tput_self ..

theorem sideOf_setTile_bytes (s : State) (B : Block) (n : Nat) (f : Tile → Tile) :
    (B.sideOf (s.setTile B n f)).bytes = (B.sideOf s).bytes := by rw [sideOf_setTile]

theorem tile_setTile (s : State) (B : Block) (n k : Nat) (f : Tile → Tile) :
    (B.sideOf (s.setTile B n f)).tile k = if k = n then f ((B.sideOf s).tile n) else (B.sideOf s).tile k := by
  rw [sideOf_setTile]
  unfold Side.tile tget
  rw [tget?_tput]
  split <;> rfl

/-! ### What the forms write -/

section
variable {i : Instr} {s : State} {c : Ctx} (h : s.ctx? = some c) {k : Nat} {p : BitVec 3} {n : Bool}
include h

/-- A lane instruction whose effect on a thread has a shape. -/
theorem lanes_shape {R : Thread → Thread → Prop} {g : Ctx → Nat → Thread → Thread} (he : exec i s = laneStep s k p n g)
    (hg : ∀ l t, R t (g c l t)) : ∃ f : Nat → Thread → Thread, Lanes i s c k (c.participants p n) f ∧ ∀ l t, R t (f l t) :=
  ⟨g c, lanes_of h he fun _ _ => rfl, hg⟩

/-- The same, where the effect depends on the other participants. -/
theorem lanes_shape_together {R : Thread → Thread → Prop} {f : Nat → Thread → Thread}
    (he : exec i s = .next ((s.mapLanes c.b c.q (c.participants p n) f).advance c k)) (hf : ∀ l t, R t (f l t)) :
    ∃ f : Nat → Thread → Thread, Lanes i s c k (c.participants p n) f ∧ ∀ l t, R t (f l t) :=
  ⟨f, by rw [Lanes, he, mapLanes_advance h], hf⟩

end

theorem intBits_wide (ty : Nat) : intBits ty = 64 ↔ ty = 4 ∨ ty = 8 := by
  unfold intBits
  split <;> simp_all

/-- A float form that writes a 32-bit register. -/
theorem floatForm {s : State} {c : Ctx} (h : s.ctx? = some c) (w : W2) :
    ∀ i ∈ [Instr.faddTwoWord w, .fmulTwoWord w, .ffma w, .fmin w, .fmax w, .frnd w, .fscl w, .hadd2 w, .hmul2 w, .hfma2 w,
      .hmnx2 w, .cvt w, .cvtp w, .cvtx w, .i2f w, .qblk w, .unq w, .plx w, .pli w, .sclx w],
    ∃ f : Nat → Thread → Thread, Lanes i s c 2 (c.participants w.p w.n) f ∧ ∀ l t, ∃ x, f l t = t.setV w.d.toNat x := by
  have together {i : Instr} {f : Nat → Thread → Thread} := lanes_shape_together (i := i) (f := f) (k := 2) (p := w.p) (n := w.n) h
    (R := fun t u => ∃ x, u = t.setV w.d.toNat x)
  have alone {i : Instr} {g : Ctx → Nat → Thread → Thread} := lanes_shape (i := i) (g := g) (k := 2) (p := w.p) (n := w.n) h
    (R := fun t u => ∃ x, u = t.setV w.d.toNat x)
  simp only [List.forall_mem_cons, List.not_mem_nil, false_imp_iff, implies_true, and_true]
  refine ⟨alone rfl ?_, alone rfl ?_, alone rfl ?_, alone rfl ?_, alone rfl ?_, alone rfl ?_, alone rfl ?_, alone rfl ?_, alone rfl ?_,
    alone rfl ?_, alone rfl ?_, alone rfl ?_, alone rfl fun l t => ?cvtp, alone rfl ?_, alone rfl ?_, ?qblk,
    alone rfl ?_, ?plx, ?pli, alone rfl ?_⟩
  case cvtp =>
    dsimp only
    split
    · exact ⟨_, rfl⟩
    · exact ⟨_, rfl⟩
  case qblk =>
    refine together (by change execQblk w s = _; rw [execQblk, h]) ?_
    exact fun _ _ => ⟨_, rfl⟩
  case plx =>
    refine together (by change execPlx w s = _; rw [execPlx, h]) ?_
    exact fun _ _ => ⟨_, rfl⟩
  case pli =>
    refine together (by change execPli w s = _; rw [execPli, h]) ?_
    exact fun _ _ => ⟨_, rfl⟩
  all_goals exact fun _ _ => ⟨_, rfl⟩

/-! ### QTILE and TRLCK -/

/-- The operation of a tile instruction (R170, R175). -/
def TileOp (c : Ctx) (w : W2) (i : Instr) (k : OpKind) (o : Op) : Prop :=
  o.kind = k ∧ o.ins = i ∧ o.lanes = laneMask (c.participants w.p false) ∧ o.flag = c.flag w.n ∧ o.blk = c.b ∧ o.q = c.q

section
variable {s : State} {c : Ctx} (h : s.ctx? = some c) (w : W2) (hls : c.participants w.p false ≠ [])
include h hls

/-- The operation stands, and no side, tarn or memory has changed with it. -/
theorem tileOp_issued {i : Instr} {k : OpKind} {o : Op} (ho : TileOp c w i k o) {t : State}
    (ht : .next (s.issueStep c 2 o) = (.next t : Out)) : tget? t.ops s.next = some o ∧ c.B.sideOf t = c.B.sideOf s ∧ t.mem = s.mem ∧ t.tarns = s.tarns ∧ t.host = s.host := by
  obtain ⟨-, -, hl, -, hb, hq⟩ := ho
  rw [issueStep_eq h hb hq, Host.Outcome.next.injEq] at ht
  obtain ⟨hop, B, O, n, hrest⟩ := issued_of_lanes (s := s) (c := c) (k := 2) (hl ▸ laneMask_participants hls)
  rw [← ht]
  refine ⟨hop, ?_⟩
  rw [hrest]
  exact ⟨rfl, rfl, rfl, rfl⟩

theorem exec_qtile_ready : let A := (c.B.sideOf s).tile w.a.toNat
    let D := (c.B.sideOf s).tile w.d.toNat
    A.st = 2 → D.st = 2 → A.desc'.image = false → A.desc'.ty = 9 → A.desc'.rows = 64 → A.desc'.wcols = 64 →
      D.desc'.image = true → D.desc'.ty = tyOf w → A.desc'.overlaps D.desc' = false →
      let s1 := (s.setTile c.B w.a.toNat fun T => { T with st := 3 }).setTile c.B w.d.toNat fun T => { T with st := 1 }
      ∃ o, exec (.qtile w) s = .next (s1.issueStep c 2 o) ∧ TileOp c w (.qtile w) .qtile o := by
  intro A D hA hD ha ha9 har hac hd hdt ho s1
  change ∃ o, execQtile w s = _ ∧ _
  obtain ⟨l, ls, hl⟩ := List.exists_cons_of_ne_nil hls
  simp only [A, D] at *
  simp only [execQtile, h, hl, Tile.busy, hA, hD, ha, ha9, har, hac, hd, hdt, ho, ne_eq, not_true_eq_false, or_self, Bool.false_eq_true,
    if_false, Nat.reduceEqDiff, Bool.true_eq_false, Nat.reduceBEq, Bool.or_self]
  exact ⟨_, rfl, by simp [TileOp, Ctx.op, hl]⟩

theorem exec_trlck_ready : let A := (c.B.sideOf s).tile w.a.toNat
    A.st = 2 → A.desc'.image = true → ∃ o,
      exec (.trlck w) s = .next ((s.setTile c.B w.a.toNat fun T => { T with st := 3 }).issueStep c 2 o) ∧
        TileOp c w (.trlck w) .trlck o := by
  intro A hA ha
  change ∃ o, execTrlck w s = _ ∧ _
  obtain ⟨l, ls, hl⟩ := List.exists_cons_of_ne_nil hls
  simp only [A] at *
  simp only [execTrlck, h, hl, Tile.busy, hA, ha, or_self, Bool.false_eq_true, if_false, Nat.reduceEqDiff, Bool.true_eq_false,
    Nat.reduceBEq, Bool.or_self]
  exact ⟨_, rfl, by simp [TileOp, Ctx.op, hl]⟩

end

/-- Settles O20: each lane form is one function of a thread; the tile forms issue an operation after they have set their tiles. -/
theorem floatAndTileFormsComplete : Obligations.FloatAndTileFormsComplete := by
  refine ⟨⟨fun s c o i h => ?one, fun s c w i h => floatForm h w i, fun s c w i h => ?pred, fun s c w h => ?f2i⟩,
    fun s c w h hls => ⟨fun hA hD ha ha9 har hac hd hdt ho => ?qtile, fun hA ha => ?trlck⟩⟩
  case one =>
    revert i
    simp only [List.forall_mem_cons, List.not_mem_nil, false_imp_iff, implies_true, and_true]
    exact ⟨⟨_, lanes_of h rfl fun _ _ => rfl, fun _ _ => ⟨_, rfl⟩⟩, ⟨_, lanes_of h rfl fun _ _ => rfl, fun _ _ => ⟨_, rfl⟩⟩⟩
  case pred =>
    revert i
    simp only [List.forall_mem_cons, List.not_mem_nil, false_imp_iff, implies_true, and_true]
    refine ⟨⟨_, lanes_of h rfl fun _ _ => rfl, fun _ t => ?_⟩, ⟨_, lanes_of h rfl fun _ _ => rfl, fun _ t => ?_⟩⟩
    all_goals
      dsimp only
      split
      · exact .inr ⟨_, rfl⟩
      · exact .inl ⟨_, rfl⟩
  case f2i =>
    refine ⟨_, lanes_of h rfl fun _ _ => rfl, fun _ t => ⟨BitVec.ofNat 64 (f2i (tyOf w) (rndOf w.x) (srcValue (w.x.sub &&& 7#4).toNat (t.rd false w.a))), ?_⟩⟩
    simp only [Thread.wr, intBits_wide, beq_iff_eq]
    split
    · rfl
    · rw [BitVec.setWidth_ofNat_of_le (by decide)]
  case qtile =>
    obtain ⟨o, he, ho'⟩ := exec_qtile_ready h w hls hA hD ha ha9 har hac hd hdt ho
    have hne : w.a.toNat ≠ w.d.toNat := fun e => by
      rw [e] at ha
      exact absurd (ha.symm.trans hd) (by decide)
    obtain ⟨hop, hside, hrest⟩ := tileOp_issued (s := (s.setTile c.B w.a.toNat fun T => { T with st := 3 }).setTile c.B w.d.toNat
      fun T => { T with st := 1 }) h w hls ho' rfl
    obtain ⟨hk, hi, hl, hf, -, -⟩ := ho'
    refine ⟨_, o, he, hop, hk, hi, hl, hf, ?_⟩
    rw [hside]
    simp only [tile_setTile, sideOf_setTile_bytes, if_neg hne, if_true, Option.some.injEq, forall_eq', true_and]
    exact hrest
  case trlck =>
    obtain ⟨o, he, ho'⟩ := exec_trlck_ready h w hls hA ha
    obtain ⟨hop, hside, hrest⟩ := tileOp_issued (s := s.setTile c.B w.a.toNat fun T => { T with st := 3 }) h w hls ho' rfl
    obtain ⟨hk, hi, hl, hf, -, -⟩ := ho'
    refine ⟨_, o, he, hop, hk, hi, hl, hf, ?_⟩
    rw [hside]
    simp only [tile_setTile, sideOf_setTile_bytes, if_true, reduceCtorEq, false_imp_iff, implies_true, true_and]
    exact hrest

end Sys2Proof.Machine

/-! The rule Convert at a format without mantissa bits (R157). -/

namespace Sys2Proof.Machine

/-- A format of 8 exponent bits and no mantissa bit: every magnitude pattern but 0 is a power of 2. -/
def powersOfTwo : Fmt := ⟨8, 0, 127, true⟩

/-- Three halfway units lie between the patterns 2 and 3: the multiple 1 of the unit is odd, so the tie rounds up, to an odd pattern. -/
theorem roundMag_powersOfTwo : roundMag powersOfTwo .rne false 3 (-126) false = 3 := by decide

/-- Refutes O21: its clause on ties to even speaks of every format, and with no mantissa bit the pattern next to an odd multiple of the
unit is not even. -/
theorem not_conversionsAndBlocks : ¬ Obligations.ConversionsAndBlocks := by
  rintro ⟨-, convertSteps, -⟩
  obtain ⟨-, -, -, -, -, -, -, rounding⟩ := convertSteps powersOfTwo .rne false false 3 (-126)
  obtain ⟨-, -, nearest⟩ := rounding 0 0 (by decide) (by decide)
  obtain ⟨-, -, even⟩ := nearest rfl
  rw [roundMag_powersOfTwo] at even
  exact absurd (even (by decide)) (by decide)

end Sys2Proof.Machine

/-! Transcendentals (R190, R192). -/

namespace Sys2Proof.Machine

theorem laneList_twoPow : ∀ l < 32, laneList (BitVec.twoPow 32 l) = [l] := by decide

theorem mem_laneList {m : BitVec 32} {l : Nat} : l ∈ laneList m ↔ l < 32 ∧ m.getLsbD l = true := by
  simp [laneList]

/-- A live thread of an operation is one of its lanes. -/
theorem State.opLanes_mem {s : State} {o : Op} {l : Nat} (h : l ∈ s.opLanes o) : l ∈ laneList o.lanes := by
  unfold State.opLanes at h
  split at h
  · simp at h
  · split at h
    · split at h
      · exact (List.mem_filter.1 h).1
      · simp at h
    · simp at h

theorem extractLsb'_eq_ofNat (x : BitVec 64) : x.extractLsb' 0 32 = BitVec.ofNat 32 x.toNat := by
  apply BitVec.eq_of_toNat_eq
  simp

/-- The end of an operation that counts in a flag (R50). -/
theorem State.finishOp_flag {s : State} {i : Nat} {o : Op} (h : s.op? i = some o) (hf : o.flag < 12) :
    s.finishOp i = (s.delOp i).mapLanes o.blk o.q (laneList o.lanes) fun _ t => t.setFlag o.flag (t.flag o.flag - 1) := by
  simp only [State.finishOp, h, State.decFlag, if_neg (Nat.not_le.2 hf)]

/-- A transcendental issues with the result of its minor. -/
theorem transIssue_eq {i : Instr} {s : State} {c : Ctx} (h : s.ctx? = some c) {w : W2} {k : Nat} (he : exec i s = transIssue i k w s) :
    Issues i s c 2 { c.op .trans i (laneMask (c.participants w.p false)) (c.flag w.n) with
      holdV := [w.d.toNat]
      elems := (c.participants w.p false).map fun l =>
        .result l (transcend k (rndOf w.x) (ftzOf w) ((c.thread l).rd false w.a)) } := by
  refine issues_of h ?_ rfl rfl
  rw [he, transIssue, h]

/-- Settles O22: every transcendental is `transIssue` of its minor, and the completion is a write of the elements and the end of the
operation. -/
theorem transcendentals : Obligations.Transcendentals := by
  have complete (s : State) (i : Nat) (o : Op) (h : s.op? i = some o) (hk : o.kind = .trans) :
      exec (.transcendentalCompletion i) s =
        .next ((s.writeElems o false (BitVec.ofNat 7 (o.holdV.headD 0)) o.elems).finishOp i) := by
    change execTranscendentalCompletion i s = _
    simp [execTranscendentalCompletion, h, hk]
  refine ⟨fun s c w h => ⟨transIssue_eq h rfl, transIssue_eq h rfl, transIssue_eq h rfl, transIssue_eq h rfl, transIssue_eq h rfl,
    transIssue_eq h rfl, transIssue_eq h rfl⟩, complete, fun s i o d e h hk hd he hl hlive hf => ?_⟩
  have hlt : e.lane < 32 := (mem_laneList.1 (State.opLanes_mem hlive)).1
  have written : s.writeElems o false (BitVec.ofNat 7 (o.holdV.headD 0)) o.elems =
      s.mapLanes o.blk o.q [e.lane] fun _ t => t.setV d.toNat (e.r.extractLsb' 0 32) := by
    simp [State.writeElems, hd, he, hlive, Thread.wr, extractLsb'_eq_ofNat]
  have hop : (s.mapLanes o.blk o.q [e.lane] fun _ t => t.setV d.toNat (e.r.extractLsb' 0 32)).op? i = some o := by
    simpa [State.op?] using h
  rw [complete s i o h hk, written, State.finishOp_flag hop hf, hl, laneList_twoPow _ hlt]

end Sys2Proof.Machine

/-! LD and ST at issue (R205, R208, R209). -/

namespace Sys2Proof.Machine

theorem destRegs_beq (d : BitVec 7) (n : Nat) : destRegs d (n == 8) = if n = 8 then [d.toNat, d.toNat + 1] else [d.toNat] := by
  simp [destRegs]

/-- An operation that its granted accesses' lanes enter. -/
theorem granted_issues {s : State} {c : Ctx} (h : s.ctx? = some c) {ls : List Nat} {ea : Nat → BitVec 64} {n : Nat} (k : Nat) {o o' : Op}
    (ho : o = o') (hb : o.blk = c.b) (hq : o.q = c.q) : (LookedUp s c ls ea n).issueStep c k ((LookedUp s c ls ea n).stampOrder c.Q o) =
      Issued (LookedUp s c ls ea n) c k ((LookedUp s c ls ea n).stampOrder c.Q o') := by
  rw [issueStep_eq (lookedUp_ctx h) ((stampOrder_blk _ _ _).trans hb) ((stampOrder_q _ _ _).trans hq), ho]

/-- Settles O23: the checks pass, so the accesses are those of the pages, and their operation enters. -/
theorem globalLoadStoreIssue : Obligations.GlobalLoadStoreIssue := by
  intro s c w h n ea lane
  refine ⟨fun hg => ?_, fun hg => ?_⟩
  · intro ls s1 acq o t
    change execLd w s = _
    have hnext : s1.next = s.next := (lookedUp_rest s c ls ea n).1
    rw [execLd, h]
    refine (globalAccess_ok hg).trans ?_
    simp only [accessesOf_lanes hg]
    rw [granted_issues h 2 (o' := o) (by simp only [destRegs_beq]; rfl) rfl rfl]
    simp only [State.holdAcquire]
    rw [← hnext]
  · intro ls s1 rel o
    change execSt w s = _
    rw [execSt, h]
    refine (globalAccess_ok hg).trans ?_
    simp only [accessesOf_lanes hg]
    have hrel : (if (w.x.cache != 3#2 && w.x.sub.getLsbD 0) = true then w.x.scope.toNat else 0) = rel := by simp [rel]
    rw [hrel]
    exact congrArg _ (granted_issues h 2 rfl rfl rfl)

end Sys2Proof.Machine

/-! The check of an access whose walk met an offline home (R205, R456). -/

namespace Sys2Proof.Machine

/-- The supervisor core of tarn 0, core 24, knows that the walk for page 0 could not read an entry because its home is offline. -/
def walkAway : State := { State.reset with cores := [(24, { noXlat := [(0, levelAway)] })] }

/-- Its context, with its one thread in a group. -/
def supervisorCtx : Ctx :=
  ⟨0, 0, 1, Block.supervisor 0, {}, { lanes := 1#32, clause := 0#64, words := [], widx := 1, sfa := 15, sfb := 15, yld := false }⟩

/-- The check of a 4-byte read at address 0 there reports HOME-OFFLINE. -/
theorem accessBad_walkAway : walkAway.accessBad supervisorCtx 0 4 4 false noCell = some (causeHomeOffline, 0) := by decide

theorem xlate_walkAway : walkAway.xlate 24 (walkAway.partOf (Block.supervisor 0)) false false false 0 = .error levelAway := rfl

/-- Refutes O24: a supervisor core's walk that met an offline home (R456) reports HOME-OFFLINE, where the statement has TRANSLATION with
the answer of the walk as its level. -/
theorem not_globalAccessFaults : ¬ Obligations.GlobalAccessFaults := by
  rintro ⟨-, order⟩
  obtain ⟨-, -, -, untranslated, -⟩ := order walkAway supervisorCtx 0 4 4 false noCell
  have := untranslated levelAway (by decide) rfl (by decide) xlate_walkAway
  rw [accessBad_walkAway] at this
  exact absurd this (by decide)

end Sys2Proof.Machine

/-! The prefetch that makes a page's TLB entry the most recently used (R202, R228). -/

namespace Sys2Proof.Machine

/-- Entries of two pages that may be read. -/
def firstPage : Xlat := ⟨0, 0, 16, 16#64⟩
def secondPage : Xlat := ⟨0, 65536, 16, 65552#64⟩

/-- One thread, about to issue a prefetch of address 0. -/
def prefetchQuire : Quire :=
  { threads := [(0, {})]
    groups := [(1, { lanes := 1#32, clause := 0#64, words := [0#32, 0#32], widx := 1, sfa := 15, sfb := 15, yld := false })] }

/-- A block of that quire that may access all memory. -/
def prefetchBlock : Block :=
  { core := 0, part := 0, lid := 0, bflat := 0, ltarn := 0, code := 0#64, frame := 0#64, sup := true, quires := [(0, prefetchQuire)] }

/-- The core has used the second page after the first. -/
def prefetching : State :=
  { State.reset with
    blocks := [(firstBlock, prefetchBlock)], cur := .group firstBlock 0 1, cores := [(0, { tlb := [firstPage, secondPage] })] }

/-- What issues. -/
def prefetchCtx : Ctx :=
  ⟨firstBlock, 0, 1, prefetchBlock, prefetchQuire,
    { lanes := 1#32, clause := 0#64, words := [0#32, 0#32], widx := 1, sfa := 15, sfb := 15, yld := false }⟩

/-- PREF of the address in V0 and V1, which is 0. -/
def prefetch : W2 := ⟨7#3, false, 0#7, 0#7, 0#7, .imm 0#5 0#20⟩

/-- The TLB of core 0 after an outcome. -/
def tlbAfter : Out → Option (List Xlat)
  | .next t => some (t.core 0).tlb
  | _ => none

theorem tlbAfter_pref : tlbAfter (exec (.pref prefetch) prefetching) = some [secondPage, firstPage] := by decide

theorem prefetch_granted (ea : Nat → BitVec 64) (h0 : ea 0 = 0#64) :
    Granted prefetching prefetchCtx (prefetchCtx.participants prefetch.p prefetch.n) ea 1 1 false noHost := by
  have lanes : prefetchCtx.participants prefetch.p prefetch.n = [0] := by decide
  have pages : pagesOf 0 1 = [0] := by decide
  rw [lanes]
  intro l hl
  rw [List.mem_singleton.1 hl, h0]
  refine ⟨rfl, rfl, fun va hva => ⟨firstPage, ?_⟩⟩
  have hva : va = 0 := by simpa [pages] using hva
  rw [hva]
  decide

/-- Refutes O25: a prefetch looks its page up, so that its TLB entry becomes the most recently used; the statement's state after PREF
has the TLB as it was. -/
theorem not_cacheTagAndUniformLoads : ¬ Obligations.CacheTagAndUniformLoads := by
  rintro ⟨accesses, -⟩
  obtain ⟨-, -, pref⟩ := accesses prefetching prefetchCtx prefetch rfl
  have h := congrArg tlbAfter (pref (prefetch_granted _ (by decide)) (by decide))
  rw [tlbAfter_pref] at h
  exact absurd h (by decide)

end Sys2Proof.Machine

/-! Scratchpad and pool accesses (R215, R216, R223, R366). -/

namespace Sys2Proof.Machine

/-! ### Bytes of a memory -/

/-- The stores of some lanes, one after the other, change only the bytes that one of them names. -/
theorem cellGet_stores_outside {α : Type} (a v : α → Nat) (n c : Nat) : ∀ (xs : List α) (m : List Host.Cell),
    (∀ x ∈ xs, c < a x ∨ a x + n ≤ c) → cellGet (xs.foldl (fun m x => writeLE m (a x) n (v x)) m) c = cellGet m c
  | [], _, _ => rfl
  | x :: xs, m, h => by
    rw [List.foldl_cons, cellGet_stores_outside a v n c xs _ fun y hy => h y (List.mem_cons_of_mem _ hy),
      cellGet_writeLE_outside _ _ _ _ _ (h x List.mem_cons_self)]

/-- A number read depends on its bytes only. -/
theorem readLE_congr {m m' : List Host.Cell} : ∀ (n a : Nat), (∀ c, a ≤ c → c < a + n → cellGet m c = cellGet m' c) →
    readLE m a n = readLE m' a n
  | 0, _, _ => rfl
  | n + 1, a, h => by
    rw [readLE, readLE, h a (by omega) (by omega), readLE_congr n (a + 1) fun c h1 h2 => h c (by omega) (by omega)]

theorem cellGet_writeBytes (bs : List Byte) : ∀ (m : List Host.Cell) (a : Nat) {i : Nat} (h : i < bs.length),
    cellGet (writeBytes m a bs) (a + i) = bs[i] := by
  induction bs with
  | nil => intro m a i h; exact absurd h (by simp)
  | cons b bs ih =>
    intro m a i h
    cases i with
    | zero => rw [writeBytes, cellGet_writeBytes_outside _ _ _ _ (.inl (by omega)), Nat.add_zero, cellGet_cellPut_self]; rfl
    | succ i =>
      rw [writeBytes, show a + (i + 1) = a + 1 + i by omega, ih _ _ (by simpa using h)]
      rfl

/-- The words of a ring header after NOTIFY keep their bytes (R366). -/
theorem keepHeader_inside {B : Block} (hr : B.ring ≠ 0) (old new : List Host.Cell) {a : Nat} (h4 : 4 ≤ a) (h64 : a < 64) :
    cellGet (B.keepHeader old new) a = cellGet old a := by
  obtain ⟨i, rfl⟩ := Nat.exists_eq_add_of_le h4
  have hi : i < (readBytes old 4 60).length := by simp [readBytes]; omega
  rw [Block.keepHeader, if_neg hr, cellGet_writeBytes _ _ _ hi]
  simp [readBytes]

theorem keepHeader_outside (B : Block) (old new : List Host.Cell) {a : Nat} (h : B.ring = 0 ∨ a < 4 ∨ 64 ≤ a) :
    cellGet (B.keepHeader old new) a = cellGet new a := by
  unfold Block.keepHeader
  split
  · rfl
  · next hr => exact cellGet_writeBytes_outside _ _ _ _ ((h.resolve_left hr).imp_right fun h => by simpa [readBytes] using h)

/-! ### Writes performed at once -/

/-- A write performed at once enters an operation or nothing. -/
theorem keepWrite_eq (s : State) (Q : Quire) (o : Op) : ∃ O n, s.keepWrite Q o = { s with ops := O, next := n } := by
  unfold State.keepWrite
  dsimp only
  split
  · exact ⟨_, _, rfl⟩
  · exact ⟨_, _, rfl⟩

@[simp] theorem State.laneFaults_nil (s : State) (c : Ctx) : s.laneFaults c [] = s := rfl

/-! ### Lane faults -/

/-- A quire whose lane a fault switches off (R216). -/
def Quire.laneOff (Q : Quire) (l cause off : Nat) : Quire :=
  { Q.onLanes [l] fun _ t => { t with live := false, wait := .none, acq := none, spin := false } with
    fmask := Q.fmask ||| laneMask [l]
    firstCause := Q.firstCause <|> some (cause, off)
    groups := Q.groups.map fun g => (g.1, { g.2 with lanes := g.2.lanes &&& ~~~ (laneMask [l]) }) }

/-- An update of a quire is what is found there. -/
theorem quireAt_updQuire {s : State} {b q : Nat} {B : Block} {Q : Quire} (hB : s.block? b = some B) (hQ : tget? B.quires q = some Q)
    (f : Quire → Quire) : (s.updQuire b q f).block? b = some { B with quires := tput B.quires q (f Q) } := by
  simp only [State.updQuire_eq hB hQ, State.block?, tget?_tput_self]

theorem quireAt_laneFault {s : State} {b q l : Nat} {B : Block} {Q : Quire} (hB : s.block? b = some B) (hQ : tget? B.quires q = some Q)
    (cause off : Nat) : (s.laneFault b q [l] cause off).quireAt b q = some (Q.laneOff l cause off).qsyncTest := by
  unfold State.laneFault
  simp only [List.isEmpty_cons, Bool.false_eq_true, if_false]
  rw [State.quireAt, quireAt_updQuire (quireAt_updQuire hB hQ _) (tget?_tput_self _ _ _)]
  exact tget?_tput_self _ _ _

theorem sideOf_updSide (s : State) (B : Block) (f : Side → Side) : B.sideOf (s.updSide B f) = f (B.sideOf s) := by
  unfold State.updSide Block.sideOf
  rw [State.core_updCore_self]
  exact tget_tput_self ..

/-! ### Loads and stores -/

theorem core_updSide_ne (s : State) (B : Block) (f : Side → Side) {k : Nat} (hk : k ≠ B.core) : (s.updSide B f).core k = s.core k :=
  State.core_updCore_ne s _ hk

section
variable {s : State} {c : Ctx} (h : s.ctx? = some c) {w : W2} {xs : List (Nat × Nat)} {n : Nat} (hn : tyBytes (tyOf w) = n)
include h hn

theorem exec_lds (hs : scratchSplit s c (c.participants w.p false) (offsetOf c w) n false = (xs, [])) (hb : s.scratchBusy c xs n = false)
    {o : Op} (ho : o = { c.op .lds (.lds w) (laneMask (xs.map (·.1))) (c.flag w.n) with
        holdV := if n = 8 then [w.d.toNat, w.d.toNat + 1] else [w.d.toNat]
        elems := xs.map fun x =>
          { lane := x.1, va := 0#64, pa := x.2, size := n, st := 3, r := BitVec.ofNat 64 (readLE (c.B.sideOf s).bytes x.2 n) } }) :
    exec (.lds w) s = .next (((Issued s c 2 o).observeAll o).meetStatus c xs n) := by
  change execLds w s = _
  rw [← issueStep_eq h (ho ▸ rfl) (ho ▸ rfl)]
  simp only [execLds, h, hn, hs, hb, Bool.false_eq_true, if_false, State.laneFaults_nil, destRegs_beq, ho]

/-- The bytes of the side after the stores of an STS. -/
def Ctx.stored (c : Ctx) (w : W2) (n : Nat) (xs : List (Nat × Nat)) (m : List Host.Cell) : List Host.Cell :=
  c.B.keepHeader m (xs.foldl (fun m x => writeLE m x.2 n ((c.thread x.1).rd (n == 8) w.d)) m)

theorem exec_sts (hs : scratchSplit s c (c.participants w.p w.n) (offsetOf c w) n true true = (xs, [])) (hb : s.scratchBusy c xs n = false) :
    ∃ t, exec (.sts w) s = .next t ∧ (c.B.sideOf t).bytes = c.stored w n xs (c.B.sideOf s).bytes ∧
      t.quireAt c.b c.q = some (c.past 2 c.Q) ∧ t.mem = s.mem ∧ t.host = s.host ∧ t.tarns = s.tarns ∧ t.tags = s.tags ∧
      ∀ k, k ≠ c.B.core → t.core k = s.core k := by
  change ∃ t, execSts w s = _ ∧ _
  obtain ⟨O, m, hk⟩ := keepWrite_eq (s.updSide c.B fun S => { S with bytes := c.stored w n xs S.bytes }) c.Q
    { c.op .sts (.sts w) (laneMask (xs.map (·.1))) 15 with
        elems := xs.map fun x => { lane := x.1, va := 0#64, pa := x.2, size := n, st := 3 } }
  refine ⟨{ (s.updSide c.B fun S => { S with bytes := c.stored w n xs S.bytes }).putQuire c (c.past 2 c.Q) with ops := O, next := m },
    ?_, congrArg Side.bytes (sideOf_updSide s c.B fun S => { S with bytes := c.stored w n xs S.bytes }), State.putQuire_quireAt _ _ _,
    rfl, rfl, rfl, rfl, fun k hk => core_updSide_ne s c.B (fun S => { S with bytes := c.stored w n xs S.bytes }) hk⟩
  simp only [Ctx.stored] at hk
  simp only [execSts, h, hn, hs, hb, Bool.false_eq_true, if_false, State.laneFaults_nil, hk]
  rw [State.advance_ctx (c := c)]
  · rfl
  · exact h

end

/-- Settles O26: the checks by their order; a load and a store by what they leave in the side; a lane fault by its quire. -/
theorem scratchpadAccess : Obligations.ScratchpadAccess := by
  refine ⟨fun B S write o n => ?bad, fun s c w xs h => ⟨fun hs hb => exec_lds h rfl hs hb rfl, fun hs hb => ?store⟩,
    fun s b q l cause off B Q th hB hQ hg ht hl => ?off⟩
  case bad =>
    refine ⟨fun h => if_pos h, fun h0 h1 hm => ?_, fun h0 h1 hm ht => ?_⟩
    · rw [scratchBad, if_neg (by omega), if_pos (by simpa using hm)]
    · rw [scratchBad, if_neg (by omega), if_neg (by simpa using hm), if_neg]
      simp [Side.forbids, ht]
  case off =>
    have nobody : (Q.laneOff l cause off).groups = [] := by simp [Quire.laneOff, hg]
    refine ⟨_, quireAt_laneFault hB hQ cause off, ?_⟩
    rw [Quire.qsyncTest, nobody]
    refine ⟨?_, ?_, ?_⟩
    · simp [Quire.laneOff, laneMask]
    · cases hc : Q.firstCause <;> simp [Quire.laneOff, hc]
    · refine (Quire.onLanes_thread Q [l] (fun _ t => { t with live := false, wait := Wait.none, acq := Option.none, spin := false }) l).trans ?_
      simp [ht]
  case store =>
    obtain ⟨t, he, hbytes, hquire, hrest⟩ := exec_sts h rfl hs hb
    have inside (a : Nat) (hr : c.B.ring ≠ 0) (h4 : 4 ≤ a) (h64 : a < 64) :
        cellGet (c.B.sideOf t).bytes a = cellGet (c.B.sideOf s).bytes a := by
      rw [hbytes]
      exact keepHeader_inside hr _ _ h4 h64
    refine ⟨t, he, hbytes, fun a ha => ?_, inside, fun ys x hx hout => ?_, hquire, hrest⟩
    · by_cases hr : c.B.ring = 0 ∨ a < 4 ∨ 64 ≤ a
      · rw [hbytes, Ctx.stored, keepHeader_outside _ _ _ hr]
        exact cellGet_stores_outside _ _ _ _ _ _ ha
      · exact inside a (by omega) (by omega) (by omega)
    · have : readLE (c.B.sideOf t).bytes x.2 (tyBytes (tyOf w)) = readLE (xs.foldl (fun m x => writeLE m x.2 (tyBytes (tyOf w))
          ((c.thread x.1).rd (tyBytes (tyOf w) == 8) w.d)) (c.B.sideOf s).bytes) x.2 (tyBytes (tyOf w)) := by
        refine readLE_congr _ _ fun a h1 h2 => ?_
        rw [hbytes, Ctx.stored, keepHeader_outside _ _ _ (by omega)]
      rw [this, hx, List.foldl_append]
      exact readLE_writeLE _ _ _ _

end Sys2Proof.Machine

/-! Pool loads and stores (R223). -/

namespace Sys2Proof.Machine

/-- The lanes of a mask rise. -/
theorem laneList_rising (m : BitVec 32) : (laneList m).Pairwise (· < ·) := List.pairwise_lt_range.filter _

theorem Ctx.participants_rising (c : Ctx) (p : BitVec 3) (n : Bool) : (c.participants p n).Pairwise (· < ·) :=
  (laneList_rising c.gr.lanes).filter _

/-- The checks of a pool access pass when every lane's does. -/
theorem poolBad_none {ls : List Nat} {off : Nat → Int} {n align : Nat}
    (h : ∀ l ∈ ls, 0 ≤ off l ∧ off l + n ≤ 2 ^ 25 ∧ (off l).toNat % align = 0) : poolBad ls off n align = none := by
  unfold poolBad
  rw [List.head?_eq_none_iff, List.filterMap_eq_nil_iff]
  intro l hl
  obtain ⟨h0, h1, h2⟩ := h l hl
  have : ¬(off l < 0 ∨ (poolSize : Int) < off l + n) := by unfold poolSize; omega
  simp [this, h2]

/-- The first lane out of range, where the lanes before it pass their checks. -/
theorem poolBad_range {ls : List Nat} {off : Nat → Int} {n align l : Nat} (hup : ls.Pairwise (· < ·))
    (hl : ls.find? (fun l => decide (off l < 0 ∨ 2 ^ 25 < off l + n)) = some l)
    (h : ∀ k ∈ ls, k < l → 0 ≤ off k ∧ off k + n ≤ 2 ^ 25 ∧ (off k).toNat % align = 0) :
    poolBad ls off n align = some (l, causePoolRange) := by
  obtain ⟨hbad, as, bs, hls, -⟩ := List.find?_eq_some_iff_append.1 hl
  have before : poolBad as off n align = none := poolBad_none fun k hk =>
    h k (by simp [hls, hk]) ((List.pairwise_append.1 (hls ▸ hup)).2.2 k hk l List.mem_cons_self)
  have range : off l < 0 ∨ (poolSize : Int) < off l + n := by simpa [poolSize] using hbad
  unfold poolBad at before ⊢
  rw [List.head?_eq_none_iff] at before
  rw [hls, List.filterMap_append, before, List.nil_append, List.filterMap_cons, if_pos range]
  rfl

section
variable {s : State} {c : Ctx} (h : s.ctx? = some c) {w : W2} {n : Nat} (hn : tyBytes (tyOf w) = n)
  (hbusy : s.poolBusy (coreTarn c.B.core) = false)
include h hn hbusy

/-- A pool load reads the pool as it issues. -/
theorem exec_ldp (hfine : ∀ l ∈ c.participants w.p false,
      0 ≤ offsetOf c w l ∧ offsetOf c w l + n ≤ 2 ^ 25 ∧ (offsetOf c w l).toNat % n = 0)
    (hfree : s.poolConflict c (c.participants w.p false) (offsetOf c w) n = false) {o : Op}
    (ho : o = { c.op .ldp (.ldp w) (laneMask (c.participants w.p false)) (c.flag w.n) with
        holdV := if n = 8 then [w.d.toNat, w.d.toNat + 1] else [w.d.toNat]
        elems := (c.participants w.p false).map fun l =>
          { lane := l, va := 0#64, pa := (offsetOf c w l).toNat, size := n, st := 3
            r := BitVec.ofNat 64 (readLE (s.tarn (coreTarn c.B.core)).pool (offsetOf c w l).toNat n) } }) :
    exec (.ldp w) s = .next ((Issued s c 2 o).observeAll o) := by
  change execLdp w s = _
  rw [← issueStep_eq h (ho ▸ rfl) (ho ▸ rfl)]
  simp only [execLdp, h, hn, poolAccess, poolBad_none hfine, hbusy, hfree, Bool.or_self, Bool.false_eq_true, if_false, destRegs_beq, ho]

/-- The bytes of the pool after the stores of an STP. -/
def Ctx.pooled (c : Ctx) (w : W2) (n : Nat) (m : List Host.Cell) : List Host.Cell :=
  (c.participants w.p w.n).foldl (fun m l => writeLE m (offsetOf c w l).toNat n ((c.thread l).rd (n == 8) w.d)) m

/-- A pool store changes the pool of its own tarn. -/
theorem exec_stp (hfine : ∀ l ∈ c.participants w.p w.n,
      0 ≤ offsetOf c w l ∧ offsetOf c w l + n ≤ 2 ^ 25 ∧ (offsetOf c w l).toNat % n = 0)
    (hfree : s.poolConflict c (c.participants w.p w.n) (offsetOf c w) n = false) :
    ∃ t, exec (.stp w) s = .next t ∧ (t.tarn (coreTarn c.B.core)).pool = c.pooled w n (s.tarn (coreTarn c.B.core)).pool ∧
      t.quireAt c.b c.q = some (c.past 2 c.Q) ∧ t.mem = s.mem ∧ t.host = s.host ∧ t.cores = s.cores ∧ t.tags = s.tags ∧
      ∀ u, u ≠ coreTarn c.B.core → t.tarn u = s.tarn u := by
  change ∃ t, execStp w s = _ ∧ _
  obtain ⟨O, m, hk⟩ := keepWrite_eq (s.updTarn (coreTarn c.B.core) fun T => { T with pool := c.pooled w n T.pool }) c.Q
    { c.op .stp (.stp w) (laneMask (c.participants w.p w.n)) 15 with
        elems := (c.participants w.p w.n).map fun l => { lane := l, va := 0#64, pa := (offsetOf c w l).toNat, size := n, st := 3 } }
  refine ⟨{ (s.updTarn (coreTarn c.B.core) fun T => { T with pool := c.pooled w n T.pool }).putQuire c (c.past 2 c.Q) with
      ops := O, next := m }, ?_, congrArg Tarn.pool (updTarn_tarn s _ fun T => { T with pool := c.pooled w n T.pool }),
    State.putQuire_quireAt _ _ _, rfl, rfl, rfl, rfl, fun u hu => updTarn_tarn_ne s (fun T => { T with pool := c.pooled w n T.pool }) hu⟩
  simp only [Ctx.pooled] at hk
  simp only [execStp, h, hn, poolAccess, poolBad_none hfine, hbusy, hfree, Bool.or_self, Bool.false_eq_true, if_false, hk]
  rw [State.advance_ctx (c := c)]
  · rfl
  · exact h

end

/-- Settles O27: the checks of every participant, then a read of the pool, or a store that changes the tarn's own pool. -/
theorem poolAccess_holds : Obligations.PoolAccess := by
  intro s c w h n T off fine
  refine ⟨fun hf hb hc => exec_ldp h rfl hb hf hc rfl, fun hf hb hc => ?store, fun l hu hl hf => ?fault⟩
  case store =>
    obtain ⟨t, he, hpool, hrest⟩ := exec_stp h rfl hb hf hc
    refine ⟨t, he, fun a ha => ?_, fun ls l hls => ?_, hrest⟩
    · rw [hpool]
      exact cellGet_stores_outside _ _ _ _ _ _ ha
    · rw [hpool, Ctx.pooled, hls, List.foldl_append]
      exact readLE_writeLE _ _ _ _
  case fault =>
    change execStp w s = _
    have hbad : poolBad (c.participants w.p w.n) (offsetOf c w) n n = _ := poolBad_range (c.participants_rising w.p w.n) hl hf
    simp only [execStp, h, poolAccess]
    rw [hbad]
    dsimp only
    rw [raise_user h hu]
    rfl

end Sys2Proof.Machine

/-! Atomics, reductions and deque operations at issue; the combining operations (R278 to R294). -/

namespace Sys2Proof.Machine

/-- A pool request whose checks pass enters its operation. -/
theorem poolIssue_ok {s : State} {c : Ctx} (h : s.ctx? = some c) {ls : List Nat} {w : W2} {n : Nat} {o : Op} (hb : o.blk = c.b)
    (hq : o.q = c.q) (hf : ∀ l ∈ ls, ((c.thread l).getV w.a.toNat).toNat + n ≤ 2 ^ 25 ∧ ((c.thread l).getV w.a.toNat).toNat % n = 0) :
    poolIssue s c ls w n n o = .next ((Issued s c 2 { s.stampOrder c.Q o with
      due := s.poolDue (s.stampOrder c.Q o)
      before_ := (s.ops.filter fun x => (x.2.kind == .poolAtom || x.2.kind == .deque) && x.2.blk == c.b && x.2.q == c.q).map (·.1) }).holdAcquire
        c ls o.acq s.next) := by
  have checked : poolBad ls (poolOff c w) n n = none := poolBad_none fun l hl => by
    obtain ⟨h1, h2⟩ := hf l hl
    have : poolOff c w l = ((c.thread l).getV w.a.toNat).toNat := rfl
    rw [this]
    refine ⟨Int.natCast_nonneg _, by exact_mod_cast h1, by simpa using h2⟩
  rw [poolIssue, checked]
  dsimp only
  rw [issueStep_eq h]
  · exact (stampOrder_blk s c.Q o).trans hb
  · exact (stampOrder_q s c.Q o).trans hq

/-- Settles O28: the checks pass, so the elements enter; each combining operation is its row of R280's table. -/
theorem atomics : Obligations.Atomics := by
  refine ⟨fun s c w h => ?issue, fun ty o x c hty ho hx => ?combine⟩
  case combine =>
    have : ty ≠ 9 ∧ ¬(ty = 12 ∨ ty = 13) := by omega
    obtain ⟨h9, h12⟩ := this
    have integer (k : Nat) : combine k ty o x c = (match k with
        | 0 => (o + x) % 2 ^ tyBits ty | 1 => if valOf ty o ≤ valOf ty x then o else x | 2 => if valOf ty x ≤ valOf ty o then o else x
        | 3 => o &&& x | 4 => o ||| x | 5 => o ^^^ x | 6 => x | _ => if o = c then x else o) := by
      unfold combine
      rw [if_neg h9, if_neg h12]
      rfl
    refine ⟨integer 0, ?_, ?_, integer 3, integer 4, integer 5, integer 6, integer 7, rfl, rfl, rfl, rfl⟩
    · rw [integer 1]
      exact apply_ite (valOf ty) _ _ _
    · rw [integer 2, Int.max_comm]
      exact apply_ite (valOf ty) _ _ _
  case issue =>
    intro n ls sc regs op wait ea s1 elems po mine pool deq take
    refine ⟨fun hg => ?_, fun hg => ?_, fun xs hs hb => ?_, fun hf => ⟨?_, ?_⟩, fun hf => ⟨?_, ?_, ?_⟩⟩
    · change execAtom w s = _
      have hnext : (LookedUp s c ls ea n).next = s.next := (lookedUp_rest s c ls ea n).1
      rw [execAtom, h]
      refine (globalAccess_ok hg).trans ?_
      simp only [accessesOf_lanes hg]
      rw [granted_issues h 2 rfl rfl rfl, hnext]
      simp only [destRegs_beq]
      rfl
    · change execRed w s = _
      rw [execRed, h]
      refine (globalAccess_ok hg).trans ?_
      simp only [accessesOf_lanes hg]
      exact congrArg _ (granted_issues h 2 rfl rfl rfl)
    · change execAtoms w s = _
      have hn : atomSize w = n := rfl
      have hs' : scratchSplit s c (c.participants w.p false) (fun l => ((c.thread l).rd false w.a : Int)) n true = (xs, []) := hs
      simp only [execAtoms, h, hn, hs']
      simp only [hb, Bool.false_eq_true, if_false, State.laneFaults_nil]
      rw [issueStep_eq h (stampOrder_blk ..) (stampOrder_q ..)]
      simp only [destRegs_beq]
      rfl
    · change execAtomp w s = _
      simp only [execAtomp, h, destRegs_beq]
      exact poolIssue_ok h rfl rfl hf
    · change execRedp w s = _
      rw [execRedp, h]
      exact poolIssue_ok h rfl rfl hf
    · change execPusht w s = _
      rw [execPusht, dequeIssue, h]
      exact poolIssue_ok h rfl rfl hf
    · change execTaket w s = _
      rw [execTaket, dequeIssue, h]
      exact poolIssue_ok h rfl rfl hf
    · change execTakeh w s = _
      rw [execTakeh, dequeIssue, h]
      exact poolIssue_ok h rfl rfl hf

end Sys2Proof.Machine

/-! A deque operation that has met a write that is still outstanding (R238, R292). -/

namespace Sys2Proof.Machine

/-- One element of a take, at pool offset 0. -/
def takeElem : Elem := { lane := 0, va := 0#64, pa := 0, size := 16 }

/-- A TAKET that has met the writes of operation 2. -/
def takeOp : Op :=
  { kind := .deque, ins := .taket ⟨7#3, false, 0#7, 0#7, 0#7, .imm 0#5 0#20⟩, blk := firstBlock, q := 0, lanes := 1#32, flag := 15
    n := 1, elems := [takeElem], due := 1, met := [2] }

/-- A write of another block, outstanding. -/
def otherWrite : Op := { kind := .store, ins := .st ⟨7#3, false, 0#7, 0#7, 0#7, .imm 0#5 0#20⟩, blk := firstBlock + 1, q := 0, lanes := 1#32, flag := 15 }

def takeQuire : Quire := { threads := [(0, {})] }

def takeBlock : Block :=
  { core := 0, part := 0, lid := 0, bflat := 0, ltarn := 0, code := 0#64, frame := 0#64, quires := [(0, takeQuire)] }

/-- Both operations outstanding, the take at its bank. -/
def taking : State := { State.reset with clk := 1, blocks := [(firstBlock, takeBlock)], ops := [(1, takeOp), (2, otherWrite)] }

/-- Whether operation 1 still stands after an outcome. -/
def takeStands : Out → Bool
  | .next t => (t.op? 1).isSome
  | _ => false

theorem takeStands_dequeService : takeStands (exec (.dequeService 1 takeElem.lane) taking) = true := by decide

/-- Refutes O29: a take that has met a write stays in the table until that write is performed (R238), though what it covers and what came
before it is performed. -/
theorem not_deques : ¬ Obligations.Deques := by
  rintro ⟨-, service⟩
  obtain ⟨t, th, he, -, -, -, -, -, gone, -⟩ := service taking 1 takeOp takeElem takeBlock takeQuire {} rfl rfl rfl rfl (by decide) (by decide)
    rfl rfl (by decide) (Nat.le_refl _) rfl rfl rfl rfl
  have stands := takeStands_dequeService
  rw [he, takeStands, gone (by decide)] at stands
  exact absurd stands (by decide)

end Sys2Proof.Machine

/-! The tile table, and LDT and STT at issue (R218, R219, R221, R224 to R226). -/

namespace Sys2Proof.Machine

/-! ### The tile table -/

section
variable {s : State} {c : Ctx} (h : s.ctx? = some c) (w : W2)
include h

theorem stepsPast_setTile (k n : Nat) (f : Tile → Tile) :
    (s.setTile c.B n f).advance c k = (s.putQuire c (c.past k c.Q)).setTile c.B n f := by
  rw [State.advance_ctx (c := c)]
  · rfl
  · exact h

theorem stepsPast_updSide (k : Nat) (f : Side → Side) :
    (s.updSide c.B f).advance c k = (s.putQuire c (c.past k c.Q)).updSide c.B f := by
  rw [State.advance_ctx (c := c)]
  · rfl
  · exact h

theorem exec_tileTable_nobody (hls : c.participants w.p w.n = []) :
    exec (.tdef w) s = .next (s.putQuire c (c.past 2 c.Q)) ∧ exec (.tset w) s = .next (s.putQuire c (c.past 2 c.Q)) := by
  change execTdef w s = _ ∧ execTset w s = _
  simp only [execTdef, execTset, h, hls, State.advance_ctx h, and_self]

variable {l : Nat} {ls : List Nat} (hls : c.participants w.p w.n = l :: ls)
include hls

/-- TDEF by the state of its tile and the descriptor of the lowest participant (R218, R219, R221). -/
theorem exec_tdef : let off := ((c.thread l).getPair w.a.toNat).toNat
    exec (.tdef w) s = .next (if ((c.B.sideOf s).tile w.d.toNat).busy then s.stall c
      else if descOk off c.B.scratch then
        (s.putQuire c (c.past 2 c.Q)).setTile c.B w.d.toNat fun _ => { st := 2, desc := BitVec.ofNat 39 off }
      else (s.putQuire c (c.past 2 c.Q)).laneFault c.b c.q (l :: ls) 3 w.d.toNat) := by
  change execTdef w s = _
  simp only [execTdef, h, hls, stepsPast_setTile h, State.advance_ctx h, State.tileFault]
  split
  · rfl
  · split <;> rfl

/-- TSET of one tile (R221). -/
theorem exec_tset_one (hone : w.x.sub.getLsbD 0 = false) :
    exec (.tset w) s = .next (if ((c.B.sideOf s).tile w.d.toNat).busy then s.stall c
      else if ((c.B.sideOf s).tile w.d.toNat).st = 0 then (s.putQuire c (c.past 2 c.Q)).laneFault c.b c.q (l :: ls) 3 w.d.toNat
      else (s.putQuire c (c.past 2 c.Q)).setTile c.B w.d.toNat fun T => { T with st := 0 }) := by
  change execTset w s = _
  simp only [execTset, h, hls, hone, Bool.false_eq_true, if_false, stepsPast_setTile h, State.advance_ctx h, State.tileFault]
  split
  · rfl
  · split <;> rfl

/-- TSET.all (R221). -/
theorem exec_tset_all (hall : w.x.sub.getLsbD 0 = true) (hfree : ∀ e ∈ (c.B.sideOf s).tiles, e.2.busy = false) :
    exec (.tset w) s = .next ((s.putQuire c (c.past 2 c.Q)).updSide c.B fun S => { S with tiles := [] }) := by
  change execTset w s = _
  have : ((c.B.sideOf s).tiles.any fun e => e.2.busy) = false := List.any_eq_false.2 fun e he => by simp [hfree e he]
  simp only [execTset, h, hls, hall, if_true, this, Bool.false_eq_true, if_false, stepsPast_updSide h]

end

/-! ### Tile objects -/

/-- The lines of an object with their pages (R225). -/
def objectLines (s : State) (c : Ctx) (ea : BitVec 64) (size : Nat) (write : Bool) : List (BitVec 64 × Xlat) :=
  (List.range ((size + 63) / 64)).filterMap fun i =>
    let va := ea + BitVec.ofNat 64 (64 * i)
    match s.xlate c.B.core (s.partOf c.B) (!c.B.sup) write false va.toNat with
    | .ok p => some (va, p)
    | .error _ => none

section
variable {s : State} {c : Ctx} {l : Nat} {ls : List Nat} {ea : BitVec 64} {size : Nat} {write aon : Bool}
  (hg : Granted s c [l] (fun _ => ea) size 64 write noHost) {f : State → List (BitVec 64 × Nat × Bool) → State}
include hg

/-- An object whose checks pass. -/
theorem tileAccess_ok (ha : aon = false ∨ ea.toNat / 65536 = (ea.toNat + size - 1) / 65536)
    (hon : ∀ y ∈ objectLines (LookedUp s c [l] (fun _ => ea) size) c ea size write,
      (LookedUp s c [l] (fun _ => ea) size).homeOffline (y.2.pa y.1.toNat) = false) :
    tileAccess s c l ls ea size write aon f = .next (f (LookedUp s c [l] (fun _ => ea) size)
      ((objectLines (LookedUp s c [l] (fun _ => ea) size) c ea size write).map fun y => (y.1, y.2.pa y.1.toNat, y.2.te))) := by
  have within : (aon && decide (ea.toNat / 65536 ≠ (ea.toNat + size - 1) / 65536)) = false := by
    rcases ha with ha | ha <;> simp [ha]
  simp only [tileAccess, checkAccess_ok hg, within, Bool.false_eq_true, if_false]
  generalize hL : List.filterMap _ _ = L
  have lines : L = (objectLines (LookedUp s c [l] (fun _ => ea) size) c ea size write).map
      fun y => (y.1, y.2.pa y.1.toNat, y.2.te, y.2) := by
    rw [← hL, objectLines, List.map_filterMap]
    congr 1
    funext i
    dsimp only
    cases (LookedUp s c [l] (fun _ => ea) size).xlate c.B.core ((LookedUp s c [l] (fun _ => ea) size).partOf c.B) (!c.B.sup) write false
      (ea + BitVec.ofNat 64 (64 * i)).toNat <;> rfl
  have online : ((objectLines (LookedUp s c [l] (fun _ => ea) size) c ea size write).map
      fun y => (y.1, y.2.pa y.1.toNat, y.2.te, y.2)).find? (fun y => (LookedUp s c [l] (fun _ => ea) size).homeOffline y.2.1) = none := by
    rw [List.find?_eq_none]
    intro y hy
    obtain ⟨x, hx, rfl⟩ := List.mem_map.1 hy
    simp [hon x hx]
  rw [lines, online]
  simp only [List.map_map]
  rfl

/-- An `.aon` object that does not lie within one page (R226). -/
theorem tileAccess_span (h : s.ctx? = some c) (hs : c.B.sup = false) (ha : aon = true) (hp : ea.toNat / 65536 ≠ (ea.toNat + size - 1) / 65536) :
    tileAccess s c l ls ea size write aon f = .next ((LookedUp s c [l] (fun _ => ea) size).endTask c.b 5 (some
      { cause := causeAonSpan, detail := 0, clause := c.gr.clause, widx := c.gr.widx, lane := l, ea })) := by
  have beyond : (aon && decide (ea.toNat / 65536 ≠ (ea.toNat + size - 1) / 65536)) = true := by simp [ha, hp]
  simp only [tileAccess, checkAccess_ok hg, beyond, if_true]
  rw [raise_user (lookedUp_ctx h) hs]
  rfl

end

theorem withTile_ready {s : State} {c : Ctx} {ls : List Nat} {n : Nat} {f : Tile → Out} (hT : ((c.B.sideOf s).tile n).st = 2) :
    withTile s c ls n f = f ((c.B.sideOf s).tile n) := by
  simp [withTile, Tile.busy, hT]

theorem withTile_busy {s : State} {c : Ctx} {ls : List Nat} {n : Nat} {f : Tile → Out} (hT : ((c.B.sideOf s).tile n).busy = true) :
    withTile s c ls n f = .next (s.stall c) := by
  simp [withTile, hT]

/-- A transfer's operation stands under the next number; the sides, tarns and memory are as they were. -/
theorem issueStep_rest {s : State} {c : Ctx} {k : Nat} {o : Op} (h : s.ctx? = some c) (hb : o.blk = c.b) (hq : o.q = c.q)
    (hl : o.lanes ≠ 0#32) : tget? (s.issueStep c k o).ops s.next = some o ∧ c.B.sideOf (s.issueStep c k o) = c.B.sideOf s ∧
      (s.issueStep c k o).mem = s.mem ∧ (s.issueStep c k o).tarns = s.tarns := by
  obtain ⟨hop, B, O, n, hrest⟩ := issued_of_lanes (s := s) (c := c) (k := k) hl
  rw [issueStep_eq h hb hq]
  refine ⟨hop, ?_⟩
  rw [hrest]
  exact ⟨rfl, rfl, rfl⟩

/-- Settles O30: TDEF, TSET and TQRY by the entry of their tile; LDT and STT by the checks of their object. -/
theorem tileTableAndTransferIssue : Obligations.TileTableAndTransferIssue := by
  refine ⟨fun s c w h => ?table, fun s c w l h => ?transfer⟩
  case table =>
    refine ⟨exec_tileTable_nobody h w, fun l hl => ?_, lanes_of h rfl fun _ _ => rfl⟩
    obtain ⟨ls, hls⟩ := List.head?_eq_some_iff.1 hl
    refine ⟨fun hb => ?_, fun hb hd => ?_, fun hb hd => ?_, fun h1 hb hst => ?_, fun h1 hst => ?_, exec_tset_all h w hls⟩
    · exact (exec_tdef h w hls).trans (by rw [if_pos hb])
    · exact (exec_tdef h w hls).trans (by rw [if_neg (by simp [hb]), if_pos hd])
    · rw [hls]
      exact (exec_tdef h w hls).trans (by rw [if_neg (by simp [hb]), if_neg (by simp [hd])])
    · exact (exec_tset_one h w hls h1).trans (by rw [if_neg (by simp [hb]), if_neg hst])
    · rw [hls]
      exact (exec_tset_one h w hls h1).trans (by rw [if_neg (by simp [Tile.busy, hst]), if_pos hst])
  case transfer =>
    intro n T x ea size s1 lines online
    refine ⟨fun hT hl hg hon => ?_, fun hT hl hg hon => ⟨fun ha hs hp => ?_, fun ha => ?_⟩, fun i hT hi => ?_⟩
    · obtain ⟨ls, hls⟩ := List.head?_eq_some_iff.1 hl
      change execLdt w s = _
      simp only [execLdt, h, hls]
      refine (withTile_ready hT).trans ((tileAccess_ok hg (.inl rfl) hon).trans (congrArg _ ?_))
      have h1 : (s1.setTile c.B n fun T => { T with st := 1 }).ctx? = some c := lookedUp_ctx h
      rw [List.map_map]
      exact issueStep_eq h1 (stampOrder_blk ..) (stampOrder_q ..)
    · obtain ⟨ls, hls⟩ := List.head?_eq_some_iff.1 hl
      change execStt w s = _
      simp only [execStt, h, hls]
      exact (withTile_ready hT).trans (tileAccess_span hg h hs ha hp)
    · obtain ⟨ls, hls⟩ := List.head?_eq_some_iff.1 hl
      change ∃ t, execStt w s = _ ∧ _
      simp only [execStt, h, hls]
      refine ⟨_, (withTile_ready hT).trans (tileAccess_ok hg ha hon), ?_⟩
      have h1 : (s1.setTile c.B n fun T => { T with st := 3 }).ctx? = some c := lookedUp_ctx h
      have hlanes : laneMask (l :: ls) ≠ 0#32 := hls ▸ laneMask_participants (by simp [hls])
      obtain ⟨hnext, htarns, -, hmem, -⟩ := lookedUp_rest s c [l] (fun _ => ea) size
      have drains (o : Op) (hb : o.blk = c.b) (hq : o.q = c.q) (hk : o.kind = .stt) (hl : o.lanes = laneMask (l :: ls)) (hf : o.flag = 15) :
          let t := (s1.setTile c.B n fun T => { T with st := 3 }).issueStep c 2 (s1.stampOrder c.Q o)
          ((c.B.sideOf t).tile n).st = 3 ∧ t.mem = s.mem ∧ t.tarns = s.tarns ∧
            ∃ o, tget? t.ops s.next = some o ∧ o.kind = .stt ∧ o.lanes = laneMask (l :: ls) ∧ o.flag = 15 := by
        obtain ⟨hop, hside, hm, ht⟩ := issueStep_rest (k := 2) h1 ((stampOrder_blk s1 c.Q o).trans hb) ((stampOrder_q s1 c.Q o).trans hq)
          (by rw [stampOrder_lanes, hl]; exact hlanes)
        refine ⟨?_, hm.trans hmem, ht.trans htarns, _, hnext ▸ hop, ?_, ?_, ?_⟩
        · rw [hside, tile_setTile, if_pos rfl]
        · rw [stampOrder_kind, hk]
        · rw [stampOrder_lanes, hl]
        · rw [stampOrder_flag, hf]
      exact drains _ rfl rfl rfl rfl rfl
    · rcases hi with ⟨rfl, hl⟩ | ⟨rfl, hl⟩
      · obtain ⟨ls, hls⟩ := List.head?_eq_some_iff.1 hl
        change execLdt w s = _
        simp only [execLdt, h, hls]
        exact withTile_busy hT
      · obtain ⟨ls, hls⟩ := List.head?_eq_some_iff.1 hl
        change execStt w s = _
        simp only [execStt, h, hls]
        exact withTile_busy hT

end Sys2Proof.Machine

/-! Fences and FSP (R243, R244). -/

namespace Sys2Proof.Machine

theorem mem_addNew {a : Nat} (ns : List Nat) : ∀ l : List Nat, a ∈ addNew l ns ↔ a ∈ l ∨ a ∈ ns := by
  induction ns with
  | nil => simp [addNew]
  | cons n ns ih =>
    intro l
    have step : addNew l (n :: ns) = addNew (if l.contains n then l else l ++ [n]) ns := rfl
    rw [step, ih]
    by_cases hn : n ∈ l
    · have : l.contains n = true := by simpa using hn
      simp only [this, if_true, List.mem_cons]
      constructor
      · exact fun h => h.imp_right .inr
      · rintro (h | rfl | h)
        · exact .inl h
        · exact .inl hn
        · exact .inr h
    · have : l.contains n = false := by simpa using hn
      simp only [this, Bool.false_eq_true, if_false, List.mem_append, List.mem_cons, List.not_mem_nil, or_false, or_assoc]

/-- What an acquire takes: what a release at a common instance of the lesser scope covers (R237). -/
theorem mem_acquired {acq place a : Nat} {rs : List (Nat × Nat × Nat)} : a ∈ acquired acq place rs ↔
    acq ≠ 0 ∧ ∃ r ∈ rs, r.2.2 = a ∧ sameInstance (min r.1 acq) r.2.1 place = true := by
  have fold : ∀ (rs : List (Nat × Nat × Nat)) (l : List Nat),
      a ∈ rs.foldl (fun a r => if acq != 0 && sameInstance (min r.1 acq) r.2.1 place then addNew a [r.2.2] else a) l ↔
        a ∈ l ∨ acq ≠ 0 ∧ ∃ r ∈ rs, r.2.2 = a ∧ sameInstance (min r.1 acq) r.2.1 place = true := by
    intro rs
    induction rs with
    | nil => simp
    | cons r rs ih =>
      intro l
      have head : a ∈ (if (acq != 0 && sameInstance (min r.1 acq) r.2.1 place) = true then addNew l [r.2.2] else l) ↔
          a ∈ l ∨ acq ≠ 0 ∧ r.2.2 = a ∧ sameInstance (min r.1 acq) r.2.1 place = true := by
        by_cases hr : (acq != 0 && sameInstance (min r.1 acq) r.2.1 place) = true
        · obtain ⟨h0, hi⟩ : acq ≠ 0 ∧ sameInstance (min r.1 acq) r.2.1 place = true := by simpa using hr
          rw [if_pos hr, mem_addNew, List.mem_singleton]
          simp [h0, hi, eq_comm]
        · have no : ¬(acq ≠ 0 ∧ sameInstance (min r.1 acq) r.2.1 place = true) := by simpa using hr
          rw [if_neg hr]
          exact ⟨.inl, fun h => h.elim id fun ⟨h0, _, hi⟩ => absurd ⟨h0, hi⟩ no⟩
      rw [List.foldl_cons, ih, exists_mem_of_cons, head, or_assoc, ← and_or_left]
  have := fold rs []
  rw [acquired, this]
  simp

section
variable {s : State} {c : Ctx} (h : s.ctx? = some c) (w : W2)
include h

/-- A block's own fields change as its group goes past the instruction. -/
theorem updBlock_advance (f : Block → Block) (hf : (f c.B).quires = c.B.quires) (k : Nat) : (s.updBlock c.b f).advance c k =
    { s with blocks := tput s.blocks c.b { f c.B with quires := tput c.B.quires c.q (c.past k c.Q) } } := by
  obtain ⟨-, hB, hQ, hg⟩ := State.ctx_iff.1 h
  have hQ' : tget? (f c.B).quires c.q = some c.Q := hf ▸ hQ
  have updated : s.updBlock c.b f = s.setBlock c.b (f c.B) := by rw [State.updBlock, hB]
  rw [updated, State.advance, State.updGroup, State.updQuire_eq (State.block?_setBlock_self ..) hQ', hg, hf]
  simp only [State.setBlock, tput_tput]
  rfl

/-- What a thread records as its group goes past a fence (R243). -/
def Ctx.fencePassed (c : Ctx) (s : State) (acq rel l : Nat) (t : Thread) : Thread :=
  let met : Thread := if acq = 0 then t else
    { t with synced := addNew t.synced (acquired acq (c.B.core * 32 + c.q) t.readSet), readSet := [] }
  if rel = 0 then met else { met with fenced := s.happenBefore c.b c.q l (tget c.Q.threads l met), fsc := max t.fsc rel }

omit h in
theorem fenceLanes_eq (ls : List Nat) (acq rel : Nat) :
    s.fenceLanes c.b c.q c.Q ls acq rel c.B.core = s.mapLanes c.b c.q ls (c.fencePassed s acq rel) := by
  unfold State.fenceLanes
  congr 1
  funext l t
  unfold Ctx.fencePassed
  by_cases ha : acq = 0 <;> simp [ha, threadPlace]

/-- A fence by what its participants wait for. -/
theorem exec_fence {ls cov : List Nat} {acq rel : Nat} (hls : c.participants w.p w.n = ls)
    (hacq : (if w.x.sub.toNat % 4 = 2 then 0 else w.x.scope.toNat) = acq) (hrel : (if w.x.sub.toNat % 4 = 1 then 0 else w.x.scope.toNat) = rel)
    (hcov : (if rel = 0 then [] else s.coversOf c.b c.q c.Q ls) = cov) :
    exec (.fence w) s = .next (if ls = [] then s.advance c 2
      else if acq ≠ 0 ∧ s.opsOf c.b c.q (laneMask ls) Op.isRead ≠ [] then s.stall c
      else if ∃ i ∈ cov, s.performedAt rel i = false then (s.pushBack rel cov).stall c
      else if w.x.sub.toNat % 4 = 0 then
        ((s.mapLanes c.b c.q ls (c.fencePassed s acq rel)).advance c 2).scOrder c.b c.q c.B.core w.x.scope.toNat ls
      else (s.mapLanes c.b c.q ls (c.fencePassed s acq rel)).advance c 2) := by
  change execFence w s = _
  have reads : (acq != 0 && !(s.opsOf c.b c.q (laneMask ls) Op.isRead).isEmpty) = true ↔
      acq ≠ 0 ∧ s.opsOf c.b c.q (laneMask ls) Op.isRead ≠ [] := by simp
  have covered : (!(cov.all fun i => s.performedAt rel i)) = true ↔ ∃ i ∈ cov, s.performedAt rel i = false := by simp
  simp only [execFence, h, hls, hacq, hrel, hcov, fenceLanes_eq, State.readsDone, List.isEmpty_iff, reads, covered,
    apply_ite Host.Outcome.next]

/-- FSP by the scratchpad writes of its participants (R244). -/
theorem exec_fsp (o : W1) {ls spad : List Nat} (hls : c.participants o.p o.n = ls)
    (hspad : s.opsOf c.b c.q (laneMask ls) Op.bankOwed = spad) :
    exec (.fsp o) s = .next (if ls = [] then s.advance c 1 else if spad ≠ [] then s.stall c
      else { s with blocks := tput s.blocks c.b { c.B with
        quires := tput c.B.quires c.q (c.past 1 c.Q)
        handles := c.B.handles.map fun h => (h.1, { h.2 with cache := none }) } }) := by
  change execFsp o s = _
  have waits : (!spad.isEmpty) = true ↔ spad ≠ [] := by simp
  have emptied : (s.updBlock c.b fun B => { B with handles := B.handles.map fun h => (h.1, { h.2 with cache := none }) }).advance c 1 =
      { s with blocks := tput s.blocks c.b { c.B with
        quires := tput c.B.quires c.q (c.past 1 c.Q)
        handles := c.B.handles.map fun h => (h.1, { h.2 with cache := none }) } } := by
    exact updBlock_advance h (fun B => { B with handles := B.handles.map fun h => (h.1, { h.2 with cache := none }) }) rfl 1
  simp only [execFsp, h, hls, hspad, List.isEmpty_iff, waits, emptied, apply_ite Host.Outcome.next]

end

/-- Settles O32: each instruction is a choice among going past, standing, and recording what the fence orders. -/
theorem fences : Obligations.Fences := by
  intro s c w o h ls kind acq rel cov reads met spad passed
  have he := exec_fence h w (ls := ls) (acq := acq) (rel := rel) (cov := cov) rfl rfl rfl rfl
  have hf := exec_fsp h o (ls := c.participants o.p o.n) (spad := spad) rfl rfl
  refine ⟨fun hl => ?_, fun hl ha hr => ?_, fun hl hr hc => ?_, fun hl hr hc => ⟨fun hk => ?_, fun hk => ?_⟩, fun _ _ _ => mem_acquired,
    fun hl => ?_, fun hl hs => ?_, fun hl hs => ?_⟩
  · exact lanes_of_advance h (he.trans (by rw [if_pos hl]))
  · exact he.trans (by rw [if_neg hl, if_pos ⟨ha, hr⟩])
  · exact he.trans (by rw [if_neg hl, if_neg (fun h => hr.elim h.1 h.2), if_pos hc])
  · rw [Lanes, he, if_neg hl, if_neg (fun h => hr.elim h.1 h.2), if_neg (by simpa using hc)]
    rw [if_neg hk, mapLanes_advance h]
    rfl
  · rw [he, if_neg hl, if_neg (fun h => hr.elim h.1 h.2), if_neg (by simpa using hc)]
    rw [if_pos hk]
    rfl
  · exact lanes_of_advance h (hf.trans (by rw [if_pos hl]))
  · exact hf.trans (by rw [if_neg hl, if_pos hs])
  · exact hf.trans (by rw [if_neg hl, if_neg fun h => h hs])

end Sys2Proof.Machine

/-! Cell operations at issue (R299 to R314). -/

namespace Sys2Proof.Machine

/-- The operation that a cell instruction enters, with an element for each access. -/
def Ctx.cellOp (c : Ctx) (w : W2) (ins : Instr) (rel acq : Nat) (regs : List Nat) (es : List Elem) : Op :=
  { c.op .cell ins (laneMask (c.participants w.p false)) (c.flag w.n) with holdV := regs, rel, acq, elems := es }

/-- The element of an access, with its result where a decision cache has it (R309). -/
def Ctx.cellElem (c : Ctx) (gen val : Ctx → Nat → Nat) (cached : Acc → Option Decision) (a : Acc) : Elem :=
  let e : Elem := { lane := a.lane, va := a.ea, pa := a.pa, size := 16, x := BitVec.ofNat 64 (val c a.lane)
                    c := BitVec.ofNat 64 (gen c a.lane + 2 ^ 32 * (identOf c.B c.q a.lane).toNat) }
  match cached a with
  | some d => e.quad (quadOf (mkCell 1 d.gen.toNat d.value.toNat d.winner.toNat) outDecided) 4
  | none => e

/-- The decisions that a DREAD has found are installed. -/
def State.installHits (s : State) (core : Nat) (cached : Acc → Option Decision) (as : List Acc) : State :=
  as.foldl (fun s a => match cached a with | some d => s.installDecision core d | none => s) s

theorem installHits_rest (core : Nat) (cached : Acc → Option Decision) : ∀ (as : List Acc) (s : State),
    (s.installHits core cached as).next = s.next ∧ (s.installHits core cached as).cur = s.cur ∧ (s.installHits core cached as).blocks = s.blocks
  | [], _ => ⟨rfl, rfl, rfl⟩
  | a :: as, s => by
    obtain ⟨h1, h2, h3⟩ := installHits_rest core cached as (match cached a with | some d => s.installDecision core d | none => s)
    have head : (s.installHits core cached (a :: as)) =
      (match cached a with | some d => s.installDecision core d | none => s).installHits core cached as := rfl
    rw [head, h1, h2, h3]
    cases cached a <;> exact ⟨rfl, rfl, rfl⟩

theorem installHits_none (s : State) (core : Nat) {cached : Acc → Option Decision} (hc : ∀ a, cached a = none) (as : List Acc) :
    s.installHits core cached as = s := by
  induction as with
  | nil => rfl
  | cons a as ih =>
    rw [State.installHits, List.foldl_cons, hc]
    exact ih

/-- Only the accesses that a cache has count. -/
theorem installHits_filter (s : State) (core : Nat) (cached : Acc → Option Decision) (as : List Acc) :
    (as.filter fun a => (cached a).isSome).foldl (fun s a => match cached a with | some d => s.installDecision core d | none => s) s =
      s.installHits core cached as := by
  induction as generalizing s with
  | nil => rfl
  | cons a as ih =>
    rw [State.installHits, List.foldl_cons]
    cases hc : cached a with
    | none => rw [List.filter_cons_of_neg (by simp [hc])]; exact ih s
    | some d => rw [List.filter_cons_of_pos (by simp [hc]), List.foldl_cons, hc]; exact ih _

section
variable {s : State} {c : Ctx} {ls : List Nat} {ea : Nat → BitVec 64} {n al : Nat} {wr : Bool} {attr : Xlat → Option Nat}
  (hg : Granted s c ls ea n al wr attr)
include hg

/-- No part of the granted accesses is held for an offline home. -/
theorem holdOffline_part (p : Acc → Bool) : (LookedUp s c ls ea n).holdOffline c ((AccessesOf s c ls ea).filter p) =
    (LookedUp s c ls ea n, (AccessesOf s c ls ea).filter p) := by
  have : ((AccessesOf s c ls ea).filter p).filter (fun a => (LookedUp s c ls ea n).homeOffline a.pa) = [] :=
    List.filter_eq_nil_iff.2 fun a ha => by
      simp [online_granted hg (LookedUp s c ls ea n) (lookedUp_rest s c ls ea n).2.1 a (List.mem_filter.1 ha).1]
  unfold State.holdOffline
  simp only [this]

theorem trapsFull_part (p : Acc → Bool) : (LookedUp s c ls ea n).trapsFull c ((AccessesOf s c ls ea).filter p) = false := by
  have : ((AccessesOf s c ls ea).filter p).any (fun a => (LookedUp s c ls ea n).homeOffline a.pa) = false :=
    List.any_eq_false.2 fun a ha => by
      simp [online_granted hg (LookedUp s c ls ea n) (lookedUp_rest s c ls ea n).2.1 a (List.mem_filter.1 ha).1]
  simp [State.trapsFull, this]

end

/-- A cell operation whose checks pass. -/
theorem cellIssue_ok {s : State} {c : Ctx} (h : s.ctx? = some c) {ins : Instr} {w : W2} {sc : Nat} {gen val : Ctx → Nat → Nat} {wr : Bool}
    (hwr : (cellOpOf ins == .prop || cellOpOf ins == .recy || cellOpOf ins == .dinit) = wr)
    (hg : Granted s c (c.participants w.p false) (fun l => (c.thread l).getPair w.a.toNat) 16 16 wr cellAttr)
    {s1 : State} (hs1 : LookedUp s c (c.participants w.p false) (fun l => (c.thread l).getPair w.a.toNat) 16 = s1)
    {as : List Acc} (has : AccessesOf s c (c.participants w.p false) (fun l => (c.thread l).getPair w.a.toNat) = as)
    {cached : Acc → Option Decision} (hc : ∀ a, (if cellOpOf ins == .dread && !w.x.sub.getLsbD 0 then
      s1.cachedDecision c.B.core a.pa (gen c a.lane) else none) = cached a) {o : Op}
    (ho : o = c.cellOp w ins (if wr then sc else 0) (if cellOpOf ins == .dinit then 0 else sc)
      (if cellOpOf ins == .dinit then [] else [w.d.toNat, w.d.toNat + 1, w.d.toNat + 2, w.d.toNat + 3]) (as.map (c.cellElem gen val cached))) :
    cellIssue ins w sc gen val s = .next ((o.elems.filter Elem.done).foldl (fun r e => (r.noteMet s.next o e).observe o e)
      ((Issued (s1.installHits c.B.core cached as) c 2 ((s1.installHits c.B.core cached as).stampOrder c.Q o)).holdAcquire c
        (c.participants w.p false) o.acq s.next)) := by
  have part := holdOffline_part hg fun a => (cached a).isNone
  have room := trapsFull_part hg fun a => (cached a).isNone
  have lanes := accessesOf_lanes hg
  have hnext : s1.next = s.next := by rw [← hs1]; exact (lookedUp_rest ..).1
  have hctx : s1.ctx? = some c := by rw [← hs1]; exact lookedUp_ctx h
  obtain ⟨hinext, hicur, hiblocks⟩ := installHits_rest c.B.core cached as s1
  have hictx : (s1.installHits c.B.core cached as).ctx? = some c := by
    rw [← hctx]; unfold State.ctx? State.block?; rw [hicur, hiblocks]
  rw [hs1, has] at part room
  rw [has] at lanes
  have all : (as.filter fun a => (as.filter fun a => (cached a).isSome).any (·.lane == a.lane) ||
      (as.filter fun a => (cached a).isNone).any (·.lane == a.lane)) = as := by
    refine List.filter_eq_self.2 fun a ha => ?_
    cases hca : cached a with
    | none => exact Bool.or_eq_true_iff.2 (.inr (List.any_eq_true.2 ⟨a, List.mem_filter.2 ⟨ha, by simp [hca]⟩, by simp⟩))
    | some d => exact Bool.or_eq_true_iff.2 (.inl (List.any_eq_true.2 ⟨a, List.mem_filter.2 ⟨ha, by simp [hca]⟩, by simp⟩))
  simp only [cellIssue, h, hwr, checkAccess_ok hg, hs1, has, hc, room, part, Bool.false_eq_true, if_false, all, lanes]
  generalize hF : List.foldl _ s1 (List.filter _ as) = F
  have hF : F = s1.installHits c.B.core cached as := hF.symm.trans (installHits_filter s1 c.B.core cached as)
  rw [hF, hinext, hnext, ← issueStep_eq hictx (by rw [stampOrder_blk, ho]; rfl) (by rw [stampOrder_q, ho]; rfl), ho]
  rfl

section
variable {s : State} {c : Ctx} (h : s.ctx? = some c) (w : W2) {s1 : State} {as : List Acc}
  (hs1 : LookedUp s c (c.participants w.p false) (fun l => (c.thread l).getPair w.a.toNat) 16 = s1)
  (has : AccessesOf s c (c.participants w.p false) (fun l => (c.thread l).getPair w.a.toNat) = as)
include h hs1 has

/-- A cell operation that no decision cache answers. -/
theorem cellIssue_uncached {ins : Instr} {sc : Nat} {gen val : Ctx → Nat → Nat} {wr : Bool}
    (hwr : (cellOpOf ins == .prop || cellOpOf ins == .recy || cellOpOf ins == .dinit) = wr) (hk : (cellOpOf ins == .dread) = false)
    (hg : Granted s c (c.participants w.p false) (fun l => (c.thread l).getPair w.a.toNat) 16 16 wr cellAttr) {o : Op}
    (ho : o = c.cellOp w ins (if wr then sc else 0) (if cellOpOf ins == .dinit then 0 else sc)
      (if cellOpOf ins == .dinit then [] else [w.d.toNat, w.d.toNat + 1, w.d.toNat + 2, w.d.toNat + 3])
      (as.map (c.cellElem gen val fun _ => none))) :
    cellIssue ins w sc gen val s = .next ((o.elems.filter Elem.done).foldl (fun r e => (r.noteMet s.next o e).observe o e)
      ((Issued s1 c 2 (s1.stampOrder c.Q o)).holdAcquire c (c.participants w.p false) o.acq s.next)) := by
  rw [cellIssue_ok h hwr hg hs1 has (cached := fun _ => none) (fun a => by simp [hk]) ho, installHits_none _ _ fun _ => rfl]

end

/-- Settles O33: the checks pass, so each access enters its element; a DREAD's may have its result at hand. -/
theorem cellIssue_holds : Obligations.CellIssue := by
  intro s c w h ls ea s1 as gen dgen sc dsc four elem op done hit read
  refine ⟨fun hg => ⟨?_, ?_, ?_⟩, fun hg => ⟨?_, ?_, ?_⟩⟩
  · change execProp w s = _
    exact cellIssue_uncached h w rfl rfl (ins := .prop w) (wr := true) rfl rfl hg (o := op (.prop w) sc sc four _) rfl
  · change execRecy w s = _
    exact cellIssue_uncached h w rfl rfl (ins := .recy w) (wr := true) rfl rfl hg (o := op (.recy w) sc sc four _) rfl
  · change execDinit w s = _
    exact cellIssue_uncached h w rfl rfl (ins := .dinit w) (wr := true) rfl rfl hg (o := op (.dinit w) dsc 0 [] _) rfl
  · change execDwait w s = _
    exact cellIssue_uncached h w rfl rfl (ins := .dwait w) (wr := false) rfl rfl hg (o := op (.dwait w) 0 sc four _) rfl
  · change execDqry w s = _
    exact cellIssue_uncached h w rfl rfl (ins := .dqry w) (wr := false) rfl rfl hg (o := op (.dqry w) 0 sc four _) rfl
  · change execDread w s = _
    refine cellIssue_ok h (ins := .dread w) (wr := false) rfl hg rfl rfl (cached := hit) (fun a => ?_) (o := op (.dread w) 0 sc four _) rfl
    change (if (true && !w.x.sub.getLsbD 0) = true then _ else _) = (if w.x.sub.getLsbD 0 = true then _ else _)
    cases w.x.sub.getLsbD 0 <;> rfl

end Sys2Proof.Machine

/-! Barrier arrivals at issue (R318 to R326). -/

namespace Sys2Proof.Machine

theorem postTrap_ctx {s : State} {c : Ctx} (h : s.ctx? = some c) (t : Nat) (r : Trap) : (s.postTrap t r).ctx? = some c := h

/-- A count out of range of the lowest participant is found first (R321). -/
theorem barBad_count {ls : List Nat} {count id : Nat → Nat} {n l : Nat} (hl : ls.head? = some l) (h : count l < 1 ∨ n < count l) :
    barBad ls count id n = some (l, causeBarCount) := by
  obtain ⟨ls, rfl⟩ := List.head?_eq_some_iff.1 hl
  rw [barBad, List.filterMap_cons, if_pos h]
  rfl

theorem barBad_id {ls : List Nat} {count id : Nat → Nat} {n l : Nat} (hl : ls.head? = some l) (h1 : 1 ≤ count l) (hn : count l ≤ n)
    (hid : 2 ^ 20 ≤ id l) : barBad ls count id n = some (l, causeBarId) := by
  obtain ⟨ls, rfl⟩ := List.head?_eq_some_iff.1 hl
  rw [barBad, List.filterMap_cons, if_neg (by omega), if_pos hid]
  rfl

/-- The second of two participants differs from the first. -/
theorem barBad_mismatch {count : Nat → Nat} {n l k : Nat} (h1 : 1 ≤ count l) (hn : count l ≤ n) (h1' : 1 ≤ count k) (hn' : count k ≤ n)
    (hne : count k ≠ count l) : barBad [l, k] count (fun _ => 0) n = some (k, causeBarMismatch) := by
  have hl : ¬(count l < 1 ∨ n < count l) := by omega
  have hk : ¬(count k < 1 ∨ n < count k) := by omega
  simp only [barBad, List.headD_cons, List.filterMap_cons, hl, hk, if_false]
  simp [hne]

section
variable {s : State} {c : Ctx} (h : s.ctx? = some c) (w : W2)
include h

/-- A named barrier's arrival whose counts agree enters its operation, and the threads of a waiting form wait. -/
theorem namedIssue_ok {ins : Instr} {waits : Bool} {res : Option (Nat × Bool)} {count : Nat → Nat}
    (hc : (fun l => opB c.Q (c.thread l) w false w.x.imm20.toNat) = count) {ls : List Nat} (hls : c.participants w.p w.n = ls)
    (hf : ∀ l ∈ ls, 1 ≤ count l ∧ count l ≤ 512 ∧ count l = count (ls.headD 0)) {o : Op}
    (ho : { c.op .bar ins (laneMask ls) 15 with
        rel := 2, n := count (ls.headD 0), m := w.a.toNat
        elems := ls.map fun l => { lane := l, va := 0#64, pa := 0, size := 0, x := BitVec.ofNat 64 (if res.isSome then (c.thread l).rd false (cField w) else 0) } } = o) :
    namedIssue ins w waits res s = .next (if waits then
      (Issued s c 2 (s.stampOrder c.Q o)).mapLanes c.b c.q ls fun _ t => { t with wait := .named w.a.toNat 0 res }
      else Issued s c 2 (s.stampOrder c.Q o)) := by
  have good : barBad ls count (fun _ => 0) 512 = none := barBad_none hf fun _ _ => ⟨by decide, rfl⟩
  subst hc hls
  simp only [namedIssue, h]
  rw [good]
  dsimp only
  rw [issueStep_eq h (stampOrder_blk ..) (stampOrder_q ..), ← ho]

/-- The state that told the supervisor of a virtualised id (R325). -/
def State.toldOf (s : State) (c : Ctx) (sc id : Nat) (ls : List Nat) : State :=
  if 64 ≤ id ∧ ls ≠ [] then
    s.postTrap (s.sbarTarn c.B.part sc c.B.core)
      { kind := 2, detail := 5, addr := BitVec.ofNat 64 id, ident := identOf c.B c.q (ls.headD 0), blk := some c.b }
  else s

/-- A scope barrier's arrival whose operands agree: the gang's gate at `.pod`, else its operation. -/
theorem scopeIssue_ok {ins : Instr} {kind : OpKind} {neg : Bool} {flag : Ctx → Nat} {count id : Nat → Nat}
    (hc : (fun l => opB c.Q (c.thread l) w false w.x.imm20.toNat) = count) (hid : (fun l => (c.thread l).rd false w.a) = id)
    {ls : List Nat} (hls : c.participants w.p neg = ls) {sc : Nat} (hsc : sbarScope w = sc)
    (hf : ∀ l ∈ ls, 1 ≤ count l ∧ count l ≤ 2 ^ 26 ∧ count l = count (ls.headD 0))
    (ha : ∀ l ∈ ls, id l < 2 ^ 20 ∧ id l = id (ls.headD 0)) {o : Op}
    (ho : { c.op kind ins (laneMask ls) (flag c) with
        rel := sc, n := count (ls.headD 0), m := sbarKey c.B.part sc (instanceOf sc c.B.core) (id (ls.headD 0))
        elems := ls.map fun l => { lane := l, va := 0#64, pa := 0, size := 0 } } = o)
    {t : State} (ht : s.toldOf c sc (id (ls.headD 0)) ls = t) :
    scopeIssue ins kind w neg flag s = .next (if sc = 6 ∧ ls ≠ [] ∧ s.gangGate c.B = 1 then s.stall c
      else if sc = 6 ∧ ls ≠ [] ∧ s.gangGate c.B = 3 then s.endTask c.b 7 none
      else if kind = .bar then (Issued t c 2 (t.stampOrder c.Q o)).mapLanes c.b c.q ls fun _ t =>
          { t with wait := .scope sc (id (ls.headD 0)) (sbarKey c.B.part sc (instanceOf sc c.B.core) (id (ls.headD 0))) 0 }
      else Issued t c 2 (t.stampOrder c.Q o)) := by
  have good : barBad ls count id (2 ^ 26) = none := barBad_none hf ha
  have hctx : t.ctx? = some c := by rw [← ht]; unfold State.toldOf; split <;> exact h
  subst hc hls hsc hid
  have nonempty : (!(c.participants w.p neg).isEmpty) = true ↔ c.participants w.p neg ≠ [] := by simp
  simp only [scopeIssue, h]
  rw [good]
  simp only [nonempty, apply_ite Host.Outcome.next]
  refine ite_of_iff Iff.rfl rfl (ite_of_iff Iff.rfl rfl ?_)
  have enters : Issued t c 2 (t.stampOrder c.Q o) = t.issueStep c 2 (t.stampOrder c.Q o) := by
    refine (issueStep_eq hctx ?_ ?_).symm
    · rw [stampOrder_blk, ← ho]; rfl
    · rw [stampOrder_q, ← ho]; rfl
  rw [enters, ← ht, ← ho]
  rfl

theorem namedIssue_bad {ins : Instr} {waits : Bool} {res : Option (Nat × Bool)} {l k : Nat}
    (hb : barBad (c.participants w.p w.n) (fun l => opB c.Q (c.thread l) w false w.x.imm20.toNat) (fun _ => 0) 512 = some (l, k)) :
    namedIssue ins w waits res s = .next (s.raise c k 0 l 0#64) := by
  simp only [namedIssue, h, hb]

theorem scopeIssue_bad {ins : Instr} {kind : OpKind} {neg : Bool} {flag : Ctx → Nat} {l k : Nat}
    (hb : barBad (c.participants w.p neg) (fun l => opB c.Q (c.thread l) w false w.x.imm20.toNat) (fun l => (c.thread l).rd false w.a) (2 ^ 26) =
      some (l, k)) : scopeIssue ins kind w neg flag s = .next (s.raise c k 0 l 0#64) := by
  simp only [scopeIssue, h]
  rw [hb]

end

/-- Settles O35: the checks at issue by the first that fails, and the operation that enters when none does. -/
theorem barrierIssue : Obligations.BarrierIssue := by
  intro s c w h ls count first op enter park contr nb id sc key told fine alike
  have bad (l k : Nat) (n : Nat) (hb : barBad ls count (fun _ => 0) 512 = some (l, k)) :
      exec (.bara w) s = .next (s.raise c k 0 l 0#64) ∧ exec (.bars w) s = .next (s.raise c k 0 l 0#64) ∧
      exec (.barr w) s = .next (s.raise c k 0 l 0#64) := ⟨namedIssue_bad h w hb, namedIssue_bad h w hb, namedIssue_bad h w hb⟩
  have gate (hf : fine ls (2 ^ 26)) (ha : alike ls) := scopeIssue_ok h w (ins := .sbar w) (kind := .bar) (neg := w.n) (flag := fun _ => 15)
    (count := count) (id := id) rfl rfl (ls := ls) rfl (sc := sc) rfl hf ha rfl rfl
  refine ⟨fun hf => ⟨namedIssue_ok h w rfl rfl hf rfl, namedIssue_ok h w rfl rfl hf rfl, namedIssue_ok h w rfl rfl hf rfl⟩,
    fun hf ha h6 => ?_, fun hf ha h6 => ?_, fun hl hf ha h6 hg => ?_, fun hl hf ha h6 hg => ?_, fun hl hf ha h6 hg => ?_,
    fun l hl hc => bad l _ 0 (barBad_count hl hc), fun l hl hc => scopeIssue_bad h w (barBad_count hl hc),
    fun l hl h1 hn hi => scopeIssue_bad h w (barBad_id hl h1 hn hi), fun l k hls h1 hn h1' hn' hne => bad k _ 0 ?_⟩
  · exact (gate hf ha).trans (by rw [if_neg (by simp [h6]), if_neg (by simp [h6]), if_pos rfl]; rfl)
  · exact (scopeIssue_ok h w (count := count) (id := id) rfl rfl rfl (sc := sc) rfl hf ha rfl rfl).trans
      (by rw [if_neg (by simp [h6]), if_neg (by simp [h6]), if_neg (by decide)]; rfl)
  · exact (gate hf ha).trans (by rw [if_pos ⟨h6, hl, hg⟩])
  · exact (gate hf ha).trans (by rw [if_neg (by simp [hg]), if_pos ⟨h6, hl, hg⟩])
  · refine (gate hf ha).trans ?_
    rw [if_neg (by simp [hg]), if_neg (by simp [hg]), if_pos rfl, ← h6]
    rfl
  · rw [hls]
    exact barBad_mismatch h1 hn h1' hn' hne

end Sys2Proof.Machine

/-! Words written out from the encodings (R33, R36, R48, R57 to R59), the reset state, control transfers (R97 to R99), predicates,
ranks and special registers (R109 to R111). -/

namespace Sys2Proof.Machine

/-- Settles O2: each list of words is decoded by the model. -/
theorem wordsDecodeAsWritten : Obligations.WordsDecodeAsWritten := by
  refine ⟨?_, ?_, ?_, ?_, ?_, ?_, ?_, ?_, ?_⟩ <;> rfl

/-- Settles O4: every part of the reset state is the default of its table. -/
theorem resetState : Obligations.ResetState := by
  refine ⟨?_, rfl, rfl, rfl, rfl, fun _ => rfl, fun t => ?_, fun k => ?_, fun p => ?_⟩
  · exact ⟨rfl, rfl⟩
  · exact ⟨rfl, rfl, rfl, rfl, rfl, rfl, rfl, rfl, rfl, rfl, rfl, rfl, rfl⟩
  · exact ⟨rfl, rfl, rfl, rfl, rfl⟩
  · cases p <;> exact ⟨rfl, rfl, rfl⟩

theorem Ctx.target_eq (c : Ctx) (v : Nat) (off : Int) : c.target (decide (c.B.ver < v)) off =
    (if c.B.ver < v then BitVec.ofNat 64 (wordAddr c.gr.clause c.gr.widx) else c.gr.clause) + BitVec.ofInt 64 (4 * off) := by
  simp [Ctx.target]

/-- Settles O14: each control transfer is the rule of R97 with its own target, and CALL, CALLX and RET the one that also changes
the return-address stack. -/
theorem controlTransfers : Obligations.ControlTransfers := by
  intro s c b o w h origin back pair
  refine ⟨?bra, ?brx, ?ret, ?call, ?callx⟩
  case bra =>
    refine transfers_of h ?_
    change execBra b s = _
    simp only [execBra, h, Ctx.target_eq]; rfl
  case brx =>
    refine transfers_of h ?_
    change execBrx o s = _
    simp only [execBrx, h]; rfl
  case ret =>
    refine returns_of h ?_
    change execRet o s = _
    simp only [execRet, h]; rfl
  case call =>
    refine returns_of h ?_
    change execCall w s = _
    simp only [execCall, h, Ctx.target_eq]; rfl
  case callx =>
    refine returns_of h ?_
    change execCallx o s = _
    simp only [execCallx, h]; rfl

/-- Settles O17: PLOP, RANK and S2V are lane instructions; S2G writes the lowest participant's value. -/
theorem predicatesRanksAndSpecials : Obligations.PredicatesRanksAndSpecials := by
  intro s c w h ls
  refine ⟨?plop, ?rank, ?s2v, ?none, ?some, fun l => ?numbers, fun l => ?ranks⟩
  case plop => exact lanes_of h rfl fun _ _ => rfl
  case rank => exact lanes_of h rfl fun _ _ => rfl
  case s2v => exact lanes_of h rfl fun _ _ => rfl
  case none =>
    intro hls
    refine lanes_of_advance h ?_
    change execS2g w s = _
    simp only [execS2g, h, show c.participants w.p w.n = [] from hls]
  case some =>
    intro l hl
    obtain ⟨rest, hls⟩ : ∃ rest, c.participants w.p w.n = l :: rest := List.head?_eq_some_iff.1 hl
    change execS2g w s = _
    simp only [execS2g, h, hls]
    rw [updQuire_advance h 2 _ rfl]
    rfl
  case numbers => exact ⟨rfl, rfl, rfl, rfl, rfl⟩
  case ranks => exact ⟨rfl, rfl⟩

end Sys2Proof.Machine

/-! Privilege (R438, R59) and the system registers (R439). -/

namespace Sys2Proof.Machine

/-! ### At user privilege -/

section
variable {s : State} {c : Ctx} (h : s.ctx? = some c) (hs : c.B.sup = false) {i : Instr}
include h hs

/-- What a privileged instruction does in a block of user privilege: the trap, or nothing under a false guard. -/
theorem privileged_acts {p : BitVec 3} {n : Bool} {k : Nat} {f : Ctx → Out} (he : exec i s = privileged s p n k f) :
    (guardOk c.Q.gp p n = true → exec i s = .next (s.endTask c.b 5 (some
      { cause := 2, detail := 0, clause := c.gr.clause, widx := c.gr.widx, lane := c.members.headD 0, ea := 0#64 }))) ∧
    (guardOk c.Q.gp p n = false → exec i s = .next (s.putQuire c (c.past k c.Q))) :=
  ⟨fun hg => he.trans (privileged_user h hs hg k f), fun hg => he.trans (by rw [privileged_false h hs hg, State.advance_ctx h])⟩

/-- The same for a two-word instruction that sets no flag. -/
theorem privileged_acts_plain {w : W2} (hw : w2Of i = w) (hk : setsFlag i = false) {f : Ctx → Out}
    (he : exec i s = privileged s w.p w.n 2 f) :
    (guardOk c.Q.gp (w2Of i).p ((w2Of i).n && !setsFlag i) = true → exec i s = .next (s.endTask c.b 5 (some
      { cause := 2, detail := 0, clause := c.gr.clause, widx := c.gr.widx, lane := c.members.headD 0, ea := 0#64 }))) ∧
    (guardOk c.Q.gp (w2Of i).p ((w2Of i).n && !setsFlag i) = false → exec i s = .next (s.putQuire c (c.past 2 c.Q))) := by
  rw [hw, hk, Bool.not_false, Bool.and_true]
  exact privileged_acts h hs he

/-- The same for one that sets a flag: its NEG bit is no part of its guard. -/
theorem privileged_acts_flag {w : W2} (hw : w2Of i = w) (hk : setsFlag i = true) {f : Ctx → Out}
    (he : exec i s = privileged s w.p false 2 f) :
    (guardOk c.Q.gp (w2Of i).p ((w2Of i).n && !setsFlag i) = true → exec i s = .next (s.endTask c.b 5 (some
      { cause := 2, detail := 0, clause := c.gr.clause, widx := c.gr.widx, lane := c.members.headD 0, ea := 0#64 }))) ∧
    (guardOk c.Q.gp (w2Of i).p ((w2Of i).n && !setsFlag i) = false → exec i s = .next (s.putQuire c (c.past 2 c.Q))) := by
  rw [hw, hk, Bool.not_true, Bool.and_false]
  exact privileged_acts h hs he

end

/-- Settles O53: each privileged instruction is the rule `privileged` at its own words, with the guard that R34 gives it. -/
theorem privilegeAtUser : Obligations.PrivilegeAtUser := by
  intro s c h hs acts
  refine ⟨fun o => privileged_acts h hs rfl, fun i hi he => ?_⟩
  unfold Instr.isPrivileged at hi
  split at hi
  case h_3 o => exact absurd rfl (he o)
  case h_5 | h_6 | h_11 | h_12 | h_13 | h_14 | h_16 | h_17 | h_18 => exact privileged_acts_flag h hs rfl rfl rfl
  case h_1 | h_2 | h_4 | h_7 | h_8 | h_9 | h_10 | h_15 => exact privileged_acts_plain h hs rfl rfl rfl
  case h_19 => cases hi

/-! ### System registers -/

section
variable {s : State} {c : Ctx} (h : s.ctx? = some c) (hs : c.B.sup = true)
include h

/-- A change of a tarn leaves the group where it was. -/
theorem updTarn_advance (t : Nat) (f : Tarn → Tarn) (k : Nat) :
    (s.updTarn t f).advance c k = (s.updTarn t f).putQuire c (c.past k c.Q) :=
  State.advance_ctx (s := s.updTarn t f) (State.ctx_iff.2 (State.ctx_iff.1 h)) k

include hs

/-- A privileged instruction whose guard is false only goes on. -/
theorem sysOnce_none {i : Instr} {w : W2} {f : Ctx → Out} (he : exec i s = sysOnce w s f) (hu : c.uniform w.p w.n = []) :
    Uniform i s c 2 false id := by
  simp [Uniform, he, sysOnce_sup h hs, hu]

/-- One whose guard is true acts. -/
theorem sysOnce_acts {w : W2} (hu : c.uniform w.p w.n ≠ []) (f : Ctx → Out) : sysOnce w s f = f c := by
  simp [sysOnce_sup h hs, hu]

end

theorem State.illegal_eq (s : State) (c : Ctx) (d : Nat) :
    s.illegal c d = .next (s.raise c causeIllegal d (c.members.headD 0) 0#64) := rfl

/-- What SRRD and SRWR do on a supervisor core. -/
theorem srrd_srwr {s : State} {c : Ctx} (h : s.ctx? = some c) (hs : c.B.sup = true) (w : W2) (hu : c.uniform w.p w.n ≠ []) :
    (∀ v, (s.tarn (coreTarn c.B.core)).sysReg w.x.imm20.toNat = some v →
      Uniform (.srrd w) s c 2 true (fun q => q.setGPair w.d.toNat v) ∧
      exec (.srwr w) s = .next ((s.updTarn (coreTarn c.B.core) fun T =>
        T.setSysReg w.x.imm20.toNat (c.Q.getGPair w.a.toNat)).putQuire c (c.past 2 c.Q))) ∧
    ((s.tarn (coreTarn c.B.core)).sysReg w.x.imm20.toNat = none →
      exec (.srrd w) s = .next (s.raise c causeIllegal 7 (c.members.headD 0) 0#64) ∧
      exec (.srwr w) s = .next (s.raise c causeIllegal 7 (c.members.headD 0) 0#64)) := by
  have rd : exec (.srrd w) s = _ := sysOnce_acts h hs hu _
  have wr : exec (.srwr w) s = _ := sysOnce_acts h hs hu _
  refine ⟨fun v hv => ⟨?_, ?_⟩, fun hv => ⟨?_, ?_⟩⟩
  · rw [Uniform, rd, hv]
    exact congrArg Host.Outcome.next (updQuire_advance h 2 _ rfl)
  · simp only [wr, hv, Option.isNone_some, Bool.false_eq_true, if_false, updTarn_advance h]
  · rw [rd, hv]; rfl
  · simp only [wr, hv, Option.isNone_none, if_true, State.illegal_eq]

theorem low_bits_off (v : BitVec 64) : BitVec.ofNat 64 (v.toNat / 2 ^ 15 * 2 ^ 15) = v &&& ~~~ 0x7FFF#64 := by
  have : BitVec.ofNat 64 (v.toNat / 2 ^ 15 * 2 ^ 15) = (v >>> 15) <<< 15 := by
    apply BitVec.eq_of_toNat_eq
    simp [Nat.shiftLeft_eq, Nat.shiftRight_eq_div_pow]
  rw [this]
  have mask : ∀ i : Fin 64, (0x7FFF#64)[i] = decide (i.val < 15) := by decide
  ext i hi
  rw [BitVec.getElem_and, BitVec.getElem_not, show (0x7FFF#64)[i] = decide (i < 15) from mask ⟨i, hi⟩]
  by_cases hl : i < 15
  · simp [hl]
  · simp [hl, show 15 + (i - 15) = i by omega, BitVec.getLsbD_eq_getElem hi]

/-- Settles O54: SRRD and SRWR by their guard and their number, then the table and its writes number by number. -/
theorem systemRegisters : Obligations.SystemRegisters := by
  refine ⟨fun s c w h hs => ?instructions, fun T => ?table, fun T v => ?writes⟩
  case instructions =>
    exact ⟨fun hu => ⟨sysOnce_none h hs rfl hu, sysOnce_none h hs rfl hu⟩, fun v hu => (srrd_srwr h hs w hu).1 v,
      fun hu => (srrd_srwr h hs w hu).2⟩
  case table =>
    have bit (x : Bool) : BitVec.ofNat 64 (if x then 1 else 0) = if x then 1#64 else 0#64 := by cases x <;> rfl
    refine ⟨rfl, rfl, rfl, rfl, rfl, rfl, rfl, rfl, congrArg some (bit _), fun h1 h2 h3 => ?_, fun h1 => ?_, congrArg some (bit _),
      congrArg some (bit _), fun n hn => ?_⟩
    · simp [Tarn.sysReg, Nat.mod_eq_of_lt h1, Nat.mod_eq_of_lt h2, Nat.mod_eq_of_lt h3]
    · simp [Tarn.sysReg, Nat.mod_eq_of_lt h1]
    · obtain ⟨k, rfl⟩ := Nat.exists_eq_add_of_le' hn
      rfl
  case writes =>
    refine ⟨?_, ?_, low_bits_off v, rfl, rfl, rfl, ?_, fun n m hm => ?_⟩
    · simp [Tarn.sysReg, Tarn.setSysReg]
    · simp [Tarn.setSysReg]
    · simp [Tarn.setSysReg, bits, Nat.shiftRight_eq_div_pow]
    · unfold Tarn.setSysReg
      split
      all_goals unfold Tarn.sysReg; split <;> trivial

end Sys2Proof.Machine

/-! Threads that end: EXIT, TAIL and TRAP (R100, R101, R118). -/

namespace Sys2Proof.Machine

/-- The threads of some lanes end (R86). -/
def ended (_ : Nat) (t : Thread) : Thread := { t with live := false, wait := .none, acq := none, spin := false }

/-- The issuing group of a quire already put back changes by a rule. -/
theorem State.putQuire_updGroup (s : State) (c : Ctx) {Q : Quire} {g : Group} (hg : tget? Q.groups c.gid = some g) (f : Group → Group) :
    (s.putQuire c Q).updGroup c.b c.q c.gid f = s.putQuire c { Q with groups := tput Q.groups c.gid (f g) } := by
  rw [State.updGroup, State.putQuire_updQuire, hg]

/-- Threads end: they leave the group, and each QSYNC of the quire is tested again. -/
theorem State.putQuire_endThreads (s : State) (c : Ctx) {Q : Quire} {g : Group} (hg : tget? Q.groups c.gid = some g) (ls : List Nat) :
    (s.putQuire c Q).endThreads c ls = s.putQuire c (Quire.qsyncTest { Q.onLanes ls ended with
      groups := tput Q.groups c.gid { g with lanes := g.lanes &&& ~~~ (laneMask ls) } }) := by
  change (((s.putQuire c Q).mapLanes c.b c.q ls ended).leave c ls).updQuire c.b c.q Quire.qsyncTest = _
  rw [State.putQuire_mapLanes, State.leave, State.putQuire_updGroup (Q := Q.onLanes ls ended) s c hg, State.putQuire_updQuire]
  rfl

/-- What TAIL makes of its quire: its group as `g`; at its first issue the participants end as well. -/
def Ctx.tailed (c : Ctx) (ls : List Nat) (g : Group) : Quire :=
  if c.gr.ended = 0#32 then
    Quire.qsyncTest { c.Q.onLanes ls ended with groups := tput c.Q.groups c.gid { g with lanes := g.lanes &&& ~~~ (laneMask ls) } }
  else { c.Q with groups := tput c.Q.groups c.gid g }

/-- The group of a quire put back with the group `g`, and the participants of a first issue ended. -/
theorem State.putQuire_tailed (c : Ctx) (s' : State) (ls : List Nat) (g : Group)
    {first : Decidable (c.gr.ended = 0#32)} : (if c.gr.ended = 0#32 then (s'.putQuire c { c.Q with groups := tput c.Q.groups c.gid g }).endThreads c ls
      else s'.putQuire c { c.Q with groups := tput c.Q.groups c.gid g }) = s'.putQuire c (c.tailed ls g) := by
  by_cases hf : c.gr.ended = 0#32
  · rw [if_pos hf, Ctx.tailed, if_pos hf, State.putQuire_endThreads (g := g) s' c (by simp)]
    simp [Quire.onLanes]
  · rw [if_neg hf, Ctx.tailed, if_neg hf]

section
variable {s : State} {c : Ctx} (h : s.ctx? = some c)
include h

theorem State.updGroup_ctx (f : Group → Group) :
    s.updGroup c.b c.q c.gid f = s.putQuire c { c.Q with groups := tput c.Q.groups c.gid (f c.gr) } := by
  obtain ⟨-, -, -, hg⟩ := State.ctx_iff.1 h
  rw [State.updGroup, State.updQuire_ctx h, hg]

theorem exec_exit (w : W2) : exec (.exit w) s = .next (s.putQuire c (Quire.qsyncTest (c.gone 2 (c.participants w.p w.n)
    (c.Q.onLanes (c.participants w.p w.n) ended)))) := by
  change execExit w s = _
  simp only [execExit, h]
  rw [State.advance_ctx h, State.putQuire_endThreads (g := { c.gr with widx := c.gr.widx + 2, stage := 0 }) s c
    (by simp [Ctx.past])]
  simp [Ctx.past, Ctx.gone, Quire.onLanes]

/-- TAIL stands: its group is held with the lanes that it has ended. -/
theorem tail_stands (m : BitVec 32) : ((s.updGroup c.b c.q c.gid fun g => { g with ended := m }).stall c) =
    s.putQuire c { c.Q with groups := tput c.Q.groups c.gid { c.gr with ended := m, held := true } } := by
  rw [State.updGroup_ctx h, State.stall, State.putQuire_updGroup (g := { c.gr with ended := m }) s c (by simp)]
  simp

/-- TAIL goes on past its two words. -/
theorem tail_goes : ((s.advance c 2).updGroup c.b c.q c.gid fun g => { g with ended := 0#32 }) =
    s.putQuire c { c.Q with groups := tput c.Q.groups c.gid { c.gr with widx := c.gr.widx + 2, stage := 0, ended := 0#32 } } := by
  rw [State.advance_ctx h, State.putQuire_updGroup (g := { c.gr with widx := c.gr.widx + 2, stage := 0 }) s c (by simp [Ctx.past])]
  simp [Ctx.past]

/-- The same when a tracker entry has been filled. -/
theorem tail_goes_tracked (k : Nat) (f : Core → Core) :
    (((s.updCore k f).advance c 2).updGroup c.b c.q c.gid fun g => { g with ended := 0#32 }) = (s.updCore k f).putQuire c
      { c.Q with groups := tput c.Q.groups c.gid { c.gr with widx := c.gr.widx + 2, stage := 0, ended := 0#32 } } :=
  tail_goes (s := s.updCore k f) (State.ctx_iff.2 (State.ctx_iff.1 h))

/-- TRAP ends the task of its lowest participant. -/
theorem exec_trap (w : W2) :
    (c.participants w.p w.n = [] → Lanes (.trap w) s c 2 [] fun _ t => t) ∧
    (∀ l, (c.participants w.p w.n).head? = some l → c.B.sup = false →
      exec (.trap w) s = .next (s.endTask c.b 5 (some
        { cause := 3, detail := 0, clause := c.gr.clause, widx := c.gr.widx, lane := l, ea := BitVec.ofNat 64 w.x.imm20.toNat }))) := by
  refine ⟨fun hls => lanes_of_advance h ?_, fun l hl hs => ?_⟩
  · change execTrap w s = _
    simp only [execTrap, h, hls]
  · obtain ⟨rest, hls⟩ := List.head?_eq_some_iff.1 hl
    change execTrap w s = _
    simp only [execTrap, h, hls]
    rw [raise_user h hs]
    rfl

/-- TAIL stands while a result bound for the core is outstanding or no tracker entry is free, and else goes on (R101). -/
theorem exec_tail (w : W2) {ls : List Nat} (hls : (if c.gr.ended = 0#32 then c.participants w.p w.n else laneList c.gr.ended) = ls)
    {m : BitVec 32} (hm : laneMask ls = m) {out : List Nat} (ho : s.opsOf c.b c.q (c.gr.lanes ||| m) Op.writesOut = out)
    {stands : State} (hst : s.putQuire c (c.tailed ls { c.gr with ended := m, held := true }) = stands)
    {goes : State → State}
    (hgo : (fun s => s.putQuire c (c.tailed ls { c.gr with widx := c.gr.widx + 2, stage := 0, ended := 0#32 })) = goes) :
    (ls = [] → exec (.tail w) s = .next (s.putQuire c (c.past 2 c.Q))) ∧
    (ls ≠ [] → s.opsOf c.b c.q m Op.intoCore ≠ [] → exec (.tail w) s = .next stands) ∧
    (ls ≠ [] → s.opsOf c.b c.q m Op.intoCore = [] →
      (out = [] → exec (.tail w) s = .next (goes s)) ∧
      (out ≠ [] → (s.core c.B.core).freeEntry = none → exec (.tail w) s = .next stands) ∧
      (∀ i, out ≠ [] → (s.core c.B.core).freeEntry = some i →
        exec (.tail w) s = .next (goes (s.updCore c.B.core fun C => { C with tracker := tput C.tracker i (c.b, out) })))) := by
  subst hls hm ho hst hgo
  have unfolded : exec (.tail w) s = execTail w s := rfl
  simp only [unfolded, execTail, h, List.isEmpty_iff, Bool.not_eq_true', List.isEmpty_eq_false_iff, tail_stands h, tail_goes h,
    tail_goes_tracked h]
  refine ⟨fun h1 => ?_, fun h1 h2 => ?_, fun h1 h2 => ⟨fun h3 => ?_, fun h3 h4 => ?_, fun i h3 h4 => ?_⟩⟩
  · simp [h1, State.advance_ctx h]
  · simp [h1, h2, State.putQuire_tailed]
  · simp [h1, h2, h3, State.putQuire_tailed]
  · simp [h1, h2, h3, h4, State.putQuire_tailed]
  · simp [h1, h2, h3, h4, State.putQuire_tailed]

end

/-- Settles O15: EXIT ends its participants, TAIL by the cases of R101, TRAP by its lowest participant. -/
theorem threadsEnd : Obligations.ThreadsEnd :=
  ⟨fun _ _ w h => exec_exit h w, fun _ _ w h => exec_tail h w rfl rfl rfl rfl rfl, fun _ _ w h => exec_trap h w⟩

end Sys2Proof.Machine

/-! Shuffle, vote, match and reduction over the participants (R112 to R116). -/

namespace Sys2Proof.Machine

/-- An instruction that changes its participants' threads by a rule and goes on. -/
theorem lanes_of_mapLanes {i : Instr} {s : State} {c : Ctx} (h : s.ctx? = some c) {k : Nat} {ls : List Nat}
    {g f : Nat → Thread → Thread} (he : exec i s = .next ((s.mapLanes c.b c.q ls g).advance c k)) (hf : ∀ l t, g l t = f l t) :
    Lanes i s c k ls f := by
  rw [Lanes, he, mapLanes_advance h, show g = f from funext fun l => funext (hf l)]

theorem Thread.wr_bits (t : Thread) (n : BitVec 7) (m : BitVec 32) : t.wr false n m.toNat = t.setV n.toNat m :=
  congrArg (t.setV n.toNat) (ofNat_toNat_word m)

theorem Thread.wr_number (t : Thread) (n : BitVec 7) (x : Nat) : t.wr false n x = t.setV n.toNat (BitVec.ofNat 32 x) := rfl

theorem getLsbD_three (x : BitVec 4) : x.getLsbD 3 = decide (x.toNat / 8 % 2 = 1) := by
  revert x; decide

theorem and_seven (x : BitVec 4) : (x &&& 7#4).toNat = x.toNat % 8 := by
  revert x; decide

/-- Settles O18: each form by what it writes to one participant. -/
theorem crossLane : Obligations.CrossLane := by
  intro s c w h ls W src valid m peers one sum
  have matchv {f : Nat → Thread → Thread} (hf : ∀ l t, _ = f l t) : Lanes (.matchv w) s c 2 ls f :=
    lanes_of_mapLanes h (by change execMatchv w s = _; simp only [execMatchv, h]; rfl) hf
  refine ⟨?shfl, ?vote, fun hx => ?all, fun hx => ?one, fun hx => ?lead, fun hx => ?lanes, fun hx => ?uniform⟩
  case shfl =>
    refine lanes_of_mapLanes h (by change execShfl w s = _; simp only [execShfl, h]; rfl) fun l t => ?_
    exact congrArg (Thread.setP · _ _) (t.wr_bits _ _)
  case vote =>
    refine lanes_of_mapLanes h (by change execVote w s = _; simp only [execVote, h]; rfl) fun l t => ?_
    simp only [getLsbD_three, decide_eq_true_eq]
    refine ite_of_iff Iff.rfl rfl ?_
    have hlt : w.x.sub.toNat % 4 < 4 := Nat.mod_lt _ (by decide)
    generalize w.x.sub.toNat % 4 = k at hlt ⊢
    match k, hlt with
    | 0, _ => exact t.wr_bits _ _
    | 1, _ => rfl
    | 2, _ => rfl
    | 3, _ => rfl
  case all =>
    refine matchv fun l t => ?_
    simp only [hx]
    exact congrArg (Thread.setP · _ _) (t.wr_bits _ _)
  case one =>
    refine matchv fun l t => ?_
    simp only [hx]
    refine congrArg (Thread.setP · _ _) (Eq.trans ?_ (t.wr_bits _ _))
    exact congrArg (t.wr false w.d) (apply_ite BitVec.toNat (one = true) (laneMask ls) 0#32).symm
  case lead =>
    refine matchv fun l t => ?_
    simp only [hx]
    rfl
  case lanes =>
    refine lanes_of_mapLanes h (g := fun _ t => t.wr false w.d sum) ?_ fun _ _ => rfl
    change execQred w s = _
    simp only [execQred, h, hx, and_seven]
    by_cases he : ls = []
    · simp only [show c.participants w.p w.n = ls from rfl, he, List.isEmpty_nil, if_true]
      rw [State.advance_ctx h, mapLanes_advance h, Quire.onLanes_nil]
    · simp only [List.isEmpty_iff, show ¬ c.participants w.p w.n = [] from he, if_false, Bool.false_eq_true]
      rfl
  case uniform =>
    change execQred w s = _
    simp only [execQred, h, hx, and_seven]
    by_cases he : ls = []
    · simp [show c.participants w.p w.n = ls from rfl, he, State.advance_ctx h]
    · simp only [List.isEmpty_iff, show ¬ c.participants w.p w.n = [] from he, if_false, if_true]
      rw [updQuire_advance h _ _ (Quire.wr_groups _ _ _ _)]
      simp [show ls = c.participants w.p w.n from rfl] at he ⊢
      simp [he, Quire.wr]
      rfl

end Sys2Proof.Machine

/-! What a step adds around the decoded instruction (R50, R53, R54, R89 to R91, R429), the save of a stopped context (R448, R451)
and the wait for an offline home (R456). -/

namespace Sys2Proof.Machine

/-! ### Turns -/

/-- An event that names no group is the whole turn. -/
theorem actTurn_event {e : Instr} (he : e.fields = none) (hc : ∀ b q a, e ≠ .clauseEntry b q a) (ha : ∀ b q, e ≠ .ageingPick b q)
    (s : State) : actTurn (.event e) s = exec e s := by
  have refused : e.fields.isSome = false := by rw [he]; rfl
  have alone (r : State) : follow e r = .next r := by
    unfold follow
    split
    · exact absurd rfl (hc _ _ _)
    · exact absurd rfl (ha _ _)
    · rfl
  simp only [actTurn, eventTurn, refused, Bool.false_eq_true, if_false, alone]
  cases exec e s <;> rfl

/-- An event that names the core's choice lets the group issue. -/
theorem actTurn_names {e : Instr} (h : (∃ b q a, e = .clauseEntry b q a) ∨ ∃ b q, e = .ageingPick b q) {s r : State} {b q n : Nat}
    (he : exec e s = .next r) (hr : r.cur = .group b q n) : actTurn (.event e) s = r.issueNamed b q n := by
  obtain ⟨b', q', a, rfl⟩ | ⟨b', q', rfl⟩ := h
  · have acts : eventTurn (.clauseEntry b' q' a) s = .next r := he
    simp only [actTurn, acts, follow, hr]
  · have acts : eventTurn (.ageingPick b' q') s = .next r := he
    simp only [actTurn, acts, follow, hr]

/-- The issue turn of a core whose choice is a group. -/
theorem issueTurn_eq {s : State} {k b q g : Nat} {B : Block} {c : Cand} (hb : s.blockOn k = some b) (hB : s.block? b = some B)
    (hr : s.running b B = true) (hc : s.chooseQuire b (B.settled s.clk) = some (q, c)) (hg : c.gid = some g) {r : State}
    (hi : (s.chosen b q B c).issueWord b q g = .next r) :
    issueTurn k s = if r.isHeld b q g then s.issueWord b q g else .next r := by
  simp [issueTurn, hb, hB, hr, hc, State.issueCand, hg, hi]

/-- A group issues the instruction that its words decode to. -/
theorem issueWord_eq {s r : State} {b q g n : Nat} {i : Instr} {c : Ctx}
    (hc : ({ s with cur := .group b q g } : State).ctx? = some c) (hd : decodeRaw (c.gr.words.drop (c.gr.widx - 1)) = .ok (i, n))
    (he : exec i { s with cur := .group b q g } = .next r) : s.issueWord b q g =
      if r.isHeld b q g then .next { r with cur := .idle } else .next
        { (((if clearsSpin i then r.mapLanes b q (c.issuers i) fun _ t => { t with spin := false } else r).passLanes c (c.carries i).1
          (c.carries i).2).dissolve b q) with cur := .idle } := by
  simp only [State.issueWord, hc, Group.nextInstr, hd, he]

/-- A step of a handler is what its words decode to. -/
theorem handlerTurn_eq {s r : State} {gs n k : Nat} {i : Instr} {m : Msg} {ws : List Word} (hm : (s.spring gs).run = some m)
    (hw : tget? (s.spring gs).slots m.slot = some (k, ws)) (ha : (s.spring gs).at_ < ws.length) (hn : (s.spring gs).steps < 256)
    (hd : decodeRaw (ws.drop (s.spring gs).at_) = .ok (i, n))
    (he : exec i { s.updSpring gs fun sp => { sp with steps := sp.steps + 1 } with cur := .spring gs } = .next r) :
    handlerTurn gs s = .next { r with cur := .idle } := by
  simp only [handlerTurn, hm, hw, if_neg (Nat.not_le.2 ha), if_neg (Nat.not_le.2 hn), hd, he]

/-! ### The end of a clause -/

section
variable {Q : Quire} {g : Nat} {gr : Group} (hg : Q.groups = [(g, gr)])
include hg

/-- A group inside its clause stays as it is. -/
theorem dissolve_inside (hl : gr.lanes ≠ 0#32) (hw : gr.widx ≤ gr.words.length) : Q.dissolve = Q := by
  have hp : gr.past = false := by simp [Group.past, hw]
  simp only [Quire.dissolve, hg, hp, List.foldl_cons, List.foldl_nil, Bool.false_eq_true, if_false, hl, false_and, Bool.and_false,
    Bool.or_false]
  rw [← hg]

/-- A group whose clause is over keeps the members that stand at its last word, and the others are at the next header. -/
theorem dissolve_past (hw : gr.words.length < gr.widx) : Q.dissolve = { Q with
    groups := if Q.standing gr = 0#32 then [] else [(g, { gr with lanes := Q.standing gr, yld := false })]
    skip := Q.skip || gr.yld
    threads := Q.threads.map fun t => if (gr.lanes &&& ~~~ Q.standing gr).getLsbD t.1 then
      (t.1, { t.2 with
        pc := gr.clause + BitVec.ofNat 64 (4 * (1 + gr.words.length))
        waitAt := match t.2.wait with | .named .. | .scope .. => some (gr.clause, gr.widx - 2) | _ => none }) else t } := by
  have hp : gr.past = true := by simp [Group.past, hw]
  have emptied : tdel [(g, gr)] g = [] := by simp [tdel]
  have replaced (x : Group) : tput [(g, gr)] g x = [(g, x)] := by simp [tput]
  simp only [Quire.dissolve, hg, hp, List.foldl_cons, List.foldl_nil, if_true, true_or, and_true, Bool.and_true, emptied, replaced]
  rfl

end

theorem dissolve_quireAt {s : State} {b q : Nat} {B : Block} {Q : Quire} (hB : s.block? b = some B) (hQ : tget? B.quires q = some Q) :
    (s.dissolve b q).quireAt b q = some Q.dissolve := by
  rw [State.dissolve, State.updQuire_eq hB hQ]
  simp [State.quireAt, State.block?]

/-- Settles O3: by what makes the turn, and by the cases of its end. -/
theorem stepRunsTheDecodedInstruction : Obligations.StepRunsTheDecodedInstruction := by
  refine ⟨fun s t ts r hg ha => ?agenda, fun s r hg ha => ?default, fun s k g e => ?acts, fun s k b q g B c hb hB hr hc hg r hi => ?issue,
    fun s r b q g n i c => ?word, fun s b q g B Q gr hB hQ hg hl => ?dissolve,
    fun s r gs n k i m ws hm hw ha hn hd he => handlerTurn_eq hm hw ha hn hd he⟩
  case agenda => simp only [step, turn, hg, ha]
  case default =>
    rw [hg] at ha
    simp only [step, turn, hg, ha]
  case acts =>
    exact ⟨rfl, rfl, fun he => ⟨fun h => actTurn_event he h.1 h.2 s, fun h _ _ _ _ hx hr => actTurn_names h hx hr⟩⟩
  case issue =>
    have eq := issueTurn_eq hb hB hr hc hg hi
    exact ⟨fun hh => by simpa [hh] using eq, fun hh => by simpa [hh] using eq⟩
  case word =>
    intro s1 hc hd he
    have eq := issueWord_eq hc hd he
    exact ⟨fun hh => by simpa [hh] using eq, fun hh hs => by simpa [hh, hs] using eq, fun hh hs => by simpa [hh, hs] using eq⟩
  case dissolve =>
    rw [dissolve_quireAt hB hQ]
    exact ⟨fun hw => by rw [dissolve_inside hg hl hw], fun hw => congrArg some (dissolve_past hg hw)⟩

/-! ### Stopped contexts and offline homes -/

/-- A matrix command that waits for partners stands at the head of the compute pipe. -/
def State.mmaqWaits (s : State) (B : Block) : Bool :=
  match B.mq.find? fun m => !m.isLoad with | some m => m.unmatched && s.mayStart B m | none => false

/-- A thread of the block was stopped by DEBUG. -/
def Block.debugged (B : Block) : Bool := B.quires.any fun q => q.2.threads.any fun t => t.2.wait == Wait.bkpt

/-- A save that is over: the threads are captured, the image is written, the core is free, and the RESUME record stands. -/
def State.contextSaved (s : State) (b : Nat) (B : Block) (a : BitVec 64) (rq : Bool) : State :=
  let s1 := ((s.captureAll b).withdrawMmaq b).updBlock b fun B => { B with st := .saved a rq, writing := false }
  let s2 := match s1.block? b with | some B => s1.writeContext b B a | none => s1
  let s3 := s2.offCore b B
  let s4 := if rq && !B.debugged then s3.placeResume B a else s3
  s4.ops.foldl (fun s x => if x.2.kind == .ctxstop && x.2.n == b then s.finishG x.1 x.2 0 else s) s4

section
variable {s : State} {b : Nat} {B : Block} (hB : s.block? b = some B)
include hB

/-- The save of a stopping block, by what it waits for. -/
theorem exec_saveAreaComplete {a : BitVec 64} {rq : Bool} (hst : B.st = .stopping a rq) : exec (.saveAreaComplete b) s = .next
    (if B.atSysc then s else if !s.drained b B then (if s.mmaqWaits B then (s.captureAll b).withdrawMmaq b else s)
      else if s.vaShut (coreTarn B.core) B.part a.toNat saveBytes then s else if !B.writing then s.openSaveArea b B a
      else if rq && !B.debugged && !s.hasPlace (coreTarn B.core) B.part then s else s.contextSaved b B a rq) := by
  change execSaveAreaComplete b s = _
  simp only [execSaveAreaComplete, hB, hst, apply_ite Host.Outcome.next]
  rfl

/-- The lane whose wait for an offline home is over, if the limit in HOFF or HOFF[0] ends it (R456). -/
def State.lateLane (s : State) (B : Block) (Q : Quire) (l : Nat) : Option (Nat × BitVec 64) :=
  match (tget Q.threads l {}).wait with
  | .offline since _ ea =>
    if (s.tarn (coreTarn B.core)).hoffEn = false ∨ since + (s.tarn (coreTarn B.core)).hoffMs * 2500000 ≤ s.clk then some (l, ea) else none
  | _ => none

theorem exec_hoffLimitExpiry {q gid : Nat} {Q : Quire} {g : Group} (hQ : tget? B.quires q = some Q) (hg : tget? Q.groups gid = some g) :
    exec (.hoffLimitExpiry b q gid) s = match (laneList g.lanes).findSome? (s.lateLane B Q) with
      | some (l, ea) => .next (s.faultAt b q g.clause g.widx causeHomeOffline 0 l ea)
      | none => .next s := by
  change execHoffLimitExpiry b q gid s = _
  simp only [execHoffLimitExpiry, hB, hQ, hg]
  have same : s.lateLane B Q = fun l => match (tget Q.threads l {}).wait with
      | .offline since _ ea => if !(s.tarn (coreTarn B.core)).hoffEn ||
          decide (since + (s.tarn (coreTarn B.core)).hoffMs * clkPerMs ≤ s.clk) then some (l, ea) else none
      | _ => none := by
    funext l
    unfold State.lateLane
    cases (tget Q.threads l {}).wait
    case offline => exact ite_of_iff (by rw [Bool.or_eq_true, Bool.not_eq_true', decide_eq_true_eq, clkPerMs]) rfl rfl
    all_goals rfl
  rw [same] <;> rfl

end

/-- Settles O57: by the conditions under which a save waits, begins, and ends. -/
theorem contextSavedOrHeld : Obligations.ContextSavedOrHeld := by
  refine ⟨fun s b B a rq hB hst => ?save, fun s b q gid B Q g hB hQ hg => ?expiry⟩
  case save =>
    intro dbg shut mmaq place
    have eq := exec_saveAreaComplete hB hst
    have placed : (rq && !B.debugged && !s.hasPlace (coreTarn B.core) B.part) = !place := by simp [place, dbg, Block.debugged, Bool.and_assoc]
    rw [show s.mmaqWaits B = mmaq from rfl, show s.vaShut (coreTarn B.core) B.part a.toNat saveBytes = shut from rfl, placed] at eq
    refine ⟨?_, fun h1 h2 h3 h4 => by simpa [h1, h2, h3, h4] using eq, fun h1 h2 h3 => by simpa [h1, h2, h3] using eq,
      fun h1 h2 h3 h4 h5 => ⟨s.contextSaved b B a rq, by simpa [h1, h2, h3, h4, h5] using eq, ?_⟩⟩
    · rintro (h1 | ⟨h1, h2⟩ | ⟨h1, h2 | ⟨h2, h3⟩⟩)
      · simpa [h1] using eq
      · simpa [h1, h2] using eq
      · simpa [h1, h2] using eq
      · simpa [h1, h2, h3] using eq
    · intro s1 s2 s3 s4
      have tail (x y : State) : (if rq && !B.debugged then x else y) = if rq = true ∧ dbg = false then x else y :=
        ite_of_iff (by simp [dbg, Block.debugged]) rfl rfl
      simp only [State.contextSaved, tail]
      rfl
  case expiry =>
    intro T late
    have eq := exec_hoffLimitExpiry hB hQ hg
    rw [show s.lateLane B Q = late from funext fun l => by unfold State.lateLane; rfl] at eq
    refine ⟨fun hn => by rw [eq, hn], fun l ea hl hs => ?_⟩
    rw [eq, hl]
    exact congrArg Host.Outcome.next (faultAt_user hB hs ..)

end Sys2Proof.Machine

/-! Gang acknowledgements, timer and decision (R360 to R363), and the deadlock watchdog (R335). -/

namespace Sys2Proof.Machine

/-- Settles O52: each event at its guard. -/
theorem gangAndWatchdog : Obligations.GangAndWatchdog := by
  refine ⟨fun s p gang mem g mg hg hm hi ha hn hb => ?acknowledge, fun s p gang t0 g hg ht hd => ?timeout,
    fun s p key g hg hst hp hd => ?decision, fun s b B hB hk hs hw => ?watchdog⟩
  case acknowledge =>
    intro acks s1
    have eq : exec (.gangAcknowledge p gang mem) s = .next (if (List.range 256).all fun m => !(gMembers g.desc).testBit m || acks.contains m
        then s1.gangPropose p (gang / 65536) g.desc 1 else s1) := by
      change execGangAcknowledge p gang mem s = _
      simp only [execGangAcknowledge, hg, hm]
      simp [hi, ha, hn, hb, s1, acks]
    have complete : ((List.range 256).all fun m => !(gMembers g.desc).testBit m || acks.contains m) = true ↔
        ∀ m, m < 256 → (gMembers g.desc).testBit m = true → m ∈ acks := by
      simp [List.all_eq_true, Decidable.or_iff_not_imp_left]
    refine ⟨fun h => by rw [eq, if_pos (complete.2 h)], fun ⟨m, h1, h2, h3⟩ => by rw [eq, if_neg fun h => h3 (complete.1 h m h1 h2)]⟩
  case timeout =>
    change execGangTimeout p gang s = _
    simp only [execGangTimeout, hg, ht, if_neg (Nat.not_lt.2 hd)]
  case decision =>
    have sent : s.gangSend p key = s := by simp [State.gangSend, hg, hp]
    change Host.Outcome.next ((s.gangSend p key).gangLearn p key) = _
    simp [sent, State.gangLearn, hg, hst, hd]
  case watchdog =>
    have eq : exec (.watchdogCheck b) s = execWatchdogCheck b s := rfl
    simp only [eq, execWatchdogCheck, hB]
    refine ⟨fun h1 h2 => ?_, fun h1 h2 h3 => ?_, fun t0 h1 h2 h3 h4 => ?_, fun t0 h1 h2 h3 h4 => ?_⟩
    · simp [hk, hs, hw, h1, h2]
    · simp [hk, hs, hw, h1, h2, h3]
    · simp [hk, hs, hw, h1, h2, h3, h4]
    · simp [hk, hs, hw, h1, h2, h3, Nat.not_le.2 h4]

end Sys2Proof.Machine

/-! The control triad (R452, R453) and the weir (R459, R460). -/

namespace Sys2Proof.Machine

/-! ### The control triad -/

/-- The dissent of a copy, as the plane counts it. -/
def Plane.dissented (p : Plane) (copy clk : Nat) : Plane := { p.add 0 with last := copy, when_ := tput p.when_ copy clk }

section
variable {s : State} {t k : Nat} {p : Plane} (hp : tget (s.tarn t).planes k {} = p)
include hp

theorem updPlane_eq (f : Plane → Plane) :
    s.updPlane t k f = s.updTarn t fun T => { T with planes := tput T.planes k (f p) } := by
  simp [State.updPlane, State.updTarn, hp]

/-- A dissent of a triplex plane: its copy is resynchronised, or the plane runs duplex when it is that copy's second within 1 s. -/
theorem triadDissent_triplex (hm : p.mode = 0) (copy : Nat) : exec (.triadDissent t k copy) s = .next
    (if ∃ x, tget? p.when_ copy = some x ∧ s.clk ≤ x + 2500000000 then
      (s.updTarn t fun T => { T with planes := tput T.planes k { (p.dissented copy s.clk).add 3 with mode := 2 } }).postTrap t
        { kind := 4, detail := k }
      else s.updTarn t fun T => { T with planes := tput T.planes k { p.dissented copy s.clk with mode := 1, syncing := [none] } }) := by
  change execTriadDissent t k copy s = _
  have lasting : (match tget? p.when_ copy with | some k => decide (s.clk ≤ k + clkPerS) | none => false) = true ↔
      ∃ x, tget? p.when_ copy = some x ∧ s.clk ≤ x + 2500000000 := by
    cases tget? p.when_ copy with
    | none => simp
    | some x => exact decide_eq_true_iff.trans ⟨fun h => ⟨x, rfl, h⟩, fun ⟨_, h, hx⟩ => Option.some.inj h ▸ hx⟩
  simp only [execTriadDissent, hp, hm, apply_ite Host.Outcome.next, updPlane_eq hp]
  rw [if_neg (by decide), if_neg (by decide)]
  exact ite_of_iff lasting rfl rfl

/-- A dissent of a duplex plane is a mismatch that the retry settles. -/
theorem triadDissent_duplex (hm : p.mode = 2) (copy : Nat) : exec (.triadDissent t k copy) s = .next
    (s.updTarn t fun T => { T with planes := tput T.planes k (p.add 2) }) := by
  change execTriadDissent t k copy s = _
  simp only [execTriadDissent, hp, hm, if_true, updPlane_eq hp]

/-- While a copy is resynchronised, only the others' dissents count. -/
theorem triadDissent_resyncing (hm : p.mode = 1) (copy : Nat) : exec (.triadDissent t k copy) s = .next
    (if p.resyncing = some copy then s else s.updTarn t fun T => { T with planes := tput T.planes k (p.add 2) }) := by
  change execTriadDissent t k copy s = _
  simp [execTriadDissent, hp, hm, updPlane_eq hp]

theorem exec_duplexMismatch (recurs : Bool) : exec (.duplexMismatch t k recurs) s = .next
    (if p.mode == 0 || (p.mode == 1 && recurs) then s
      else if !recurs then s.updTarn t fun T => { T with planes := tput T.planes k (p.add 2) }
      else if (s.tarn t).st == Online.online then s.haltTarn t else s) := by
  change execDuplexMismatch t k recurs s = _
  simp only [execDuplexMismatch, hp, updPlane_eq hp]

theorem exec_triadResyncComplete : exec (.triadResyncComplete t k) s = .next
    (if p.mode = 1 then s.updTarn t fun T => { T with planes := tput T.planes k p.synced } else s) := by
  change execTriadResyncComplete t k s = _
  simp only [execTriadResyncComplete, hp, updPlane_eq hp]

end

/-- A resynchronisation that no TRIRS asked for ends the plane's only one. -/
theorem Plane.synced_dissenter {p : Plane} (h : p.syncing = [] ∨ p.syncing = [none]) :
    p.synced = { p.add 1 with mode := 0, syncing := [] } := by
  obtain h | h := h <;> simp [Plane.synced, h]

/-- One that TRIRS asked for counts as a dissent of its copy. -/
theorem Plane.synced_asked {p : Plane} {c : Nat} {r : List (Option Nat)} (h : p.syncing = some c :: r) :
    p.synced = { (p.add 1).add 0 with last := c, mode := if r = [] then 0 else 1, syncing := r } := by
  simp [Plane.synced, h]

/-! ### The weir -/

theorem dutyCycle_eq (k : Nat) : dutyCycle 0 k = true ∧ dutyCycle 3 k = true ∧ (dutyCycle 1 k = true ↔ k % 8 ≠ 7) ∧
    (dutyCycle 2 k = true ↔ k % 4 ≠ 3) ∧ (dutyCycle 4 k = true ↔ k % 4 ≠ 3) ∧ (dutyCycle 5 k = true ↔ k % 2 = 0) ∧
    (dutyCycle 6 k = true ↔ k % 2 = 0) ∧ (dutyCycle 7 k = true ↔ k % 4 = 0) := by
  simp [dutyCycle, weirDuty]
  omega

/-- A state of a ladder stands at its place. -/
theorem weirPlace_ladder {bw : Bool} {i w : Nat} (h : (weirLadder bw)[i]? = some w) : weirPlace (weirLadder bw) w = i := by
  have all : ∀ bw, ∀ i : Fin (weirLadder bw).length, weirPlace (weirLadder bw) (weirLadder bw)[i] = i := by decide
  obtain ⟨hi, rfl⟩ := List.getElem?_eq_some_iff.1 h
  exact all bw ⟨i, hi⟩

/-- One step of the governor from the i-th state of its ladder. -/
theorem weirStep_eq {bw up : Bool} {w cap i : Nat} (h : (weirLadder bw)[i]? = some w) : weirStep bw w cap up =
    if up = true ∨ i < weirPlace (weirLadder bw) cap then (weirLadder bw).getD (min (i + 1) ((weirLadder bw).length - 1)) 7
    else if weirPlace (weirLadder bw) cap < i then (weirLadder bw).getD (i - 1) 0 else w := by
  have listed : (weirLadder bw).contains w = true := by simpa using List.mem_of_getElem? h
  simp only [weirStep, listed, weirPlace_ladder h]
  simp

/-- The steps of the governor from the i-th state of its ladder. -/
theorem weirStep_ladder (bw : Bool) (w cap : Nat) (i : Nat) (h : (weirLadder bw)[i]? = some w) :
    (∀ v, (weirLadder bw)[i + 1]? = some v → weirStep bw w cap true = v) ∧
    ((weirLadder bw)[i + 1]? = none → weirStep bw w cap true = w) ∧
    (∀ v, cap = 0 → 0 < i → (weirLadder bw)[i - 1]? = some v → weirStep bw w cap false = v) ∧
    (cap = w → weirStep bw w cap false = w) ∧
    (∀ j v up, (weirLadder bw)[j]? = some cap → i < j → (weirLadder bw)[i + 1]? = some v → weirStep bw w cap up = v) := by
  have length : (weirLadder bw).length - 1 < (weirLadder bw).length := by cases bw <;> decide
  have up_ {v : Nat} (hv : (weirLadder bw)[i + 1]? = some v) : (weirLadder bw).getD (min (i + 1) ((weirLadder bw).length - 1)) 7 = v := by
    obtain ⟨hi, rfl⟩ := List.getElem?_eq_some_iff.1 hv
    rw [Nat.min_eq_left (by omega), List.getD_eq_getElem?_getD, List.getElem?_eq_getElem hi, Option.getD_some]
  refine ⟨fun v hv => ?_, fun hv => ?_, fun v hc hi hv => ?_, fun hc => ?_, fun j v up hc hj hv => ?_⟩
  · rw [weirStep_eq h, if_pos (.inl rfl), up_ hv]
  · obtain ⟨hi, rfl⟩ := List.getElem?_eq_some_iff.1 h
    have last := List.getElem?_eq_none_iff.1 hv
    rw [weirStep_eq h, if_pos (.inl rfl), show min (i + 1) ((weirLadder bw).length - 1) = i by omega, List.getD_eq_getElem?_getD, List.getElem?_eq_getElem hi, Option.getD_some]
  · have first : weirPlace (weirLadder bw) cap = 0 := by subst hc; cases bw <;> rfl
    obtain ⟨hl, rfl⟩ := List.getElem?_eq_some_iff.1 hv
    rw [weirStep_eq h, first, if_neg (by simp), if_pos hi, List.getD_eq_getElem?_getD, List.getElem?_eq_getElem hl, Option.getD_some]
  · rw [weirStep_eq h, hc, weirPlace_ladder h, if_neg (by simp), if_neg (Nat.lt_irrefl i)]
  · rw [weirStep_eq h, weirPlace_ladder hc, if_pos (.inr hj), up_ hv]

/-- Settles O58: the triad by its modes, the weir by its ladder. -/
theorem triadAndWeir : Obligations.TriadAndWeir := by
  refine ⟨fun s t k copy => ?triad, fun s t up => ?weir, dutyCycle_eq⟩
  case triad =>
    intro p put up seen lasting
    have hp : tget (s.tarn t).planes k {} = p := rfl
    have mismatch := exec_duplexMismatch hp
    have resync := exec_triadResyncComplete hp
    refine ⟨fun hm hl => ?_, fun hm hl => ?_, fun hm => ⟨triadDissent_duplex hp hm copy, ?_, fun ht => ?_⟩, fun hm hs => ?_,
      fun c r hm hs => ?_, fun hm => ?_, fun hm r => ?_, fun hm => ⟨?_, fun hc => ?_, fun hc => ?_⟩⟩
    · exact (triadDissent_triplex hp hm copy).trans (by rw [if_neg hl]; rfl)
    · exact (triadDissent_triplex hp hm copy).trans (by rw [if_pos hl]; rfl)
    · rw [mismatch, hm]; rfl
    · rw [mismatch, hm, ht]; rfl
    · rw [resync, if_pos hm, Plane.synced_dissenter hs]; rfl
    · rw [resync, if_pos hm, Plane.synced_asked hs]; rfl
    · rw [resync, if_neg hm]
    · rw [mismatch, hm]; rfl
    · rw [mismatch, hm]; rfl
    · rw [triadDissent_resyncing hp hm, if_neg hc]; rfl
    · rw [triadDissent_resyncing hp hm, if_pos hc]
  case weir =>
    intro T
    have eq : exec (.weirStep t up) s = .next (if s.modClk (tarnModule t) % 8 != 0 then s
      else s.updTarn t fun T => { T with weir := weirStep T.wpol T.weir T.cap up }) := rfl
    refine ⟨fun h => by simp [eq, h], fun h => by simp [eq, h], fun i hi => ?_⟩
    obtain ⟨h1, h2, h3, h4, h5⟩ := weirStep_ladder T.wpol T.weir T.cap i hi
    exact ⟨h1, h2, h3, h4, fun j v => h5 j v up⟩

end Sys2Proof.Machine

/-! A WAITX that has met a write that is still outstanding (R238, R329). -/

namespace Sys2Proof.Machine

/-- The word on which a participant waits. -/
def waitElem : Elem := { lane := 0, va := 0#64, pa := 0, size := 8 }

/-- A WAITX that has met the write of operation 2. -/
def waitOp : Op :=
  { kind := .waitx, ins := .waitx ⟨7#3, false, 0#7, 0#7, 0#7, .imm 0#5 0#20⟩, blk := firstBlock, q := 0, lanes := 1#32, flag := 15
    elems := [waitElem], met := [2] }

/-- Both operations outstanding. -/
def waiting : State := { State.reset with blocks := [(firstBlock, takeBlock)], ops := [(1, waitOp), (2, otherWrite)] }

theorem waiting_stands : ((waiting.waitxRelease 1 waitOp waitElem 0).op? 1).isSome = true := by decide

/-- Refutes O37: a WAITX that has met a write stays in the table after its release until that write is performed (R238), though what it
covers and what came before it is performed. -/
theorem not_externalWaits : ¬ Obligations.ExternalWaits := by
  rintro ⟨-, -, released⟩
  obtain ⟨th, -, -, -, -, gone, -⟩ := released waiting 1 0 waitOp waitElem takeBlock takeQuire {} rfl rfl rfl rfl rfl (by decide) (by decide)
    rfl rfl rfl rfl rfl
  have stands := waiting_stands
  rw [gone] at stands
  exact absurd stands (by decide)

end Sys2Proof.Machine

/-! The threads of a quire under the operations of the state, and what an operation that only answers its threads leaves. -/

namespace Sys2Proof.Machine

/-! ### Threads -/

theorem State.threadAt_eq (s : State) (b q l : Nat) : s.threadAt b q l = (s.quireAt b q).bind fun Q => tget? Q.threads l := by
  unfold State.threadAt State.quireAt
  cases s.block? b with
  | none => rfl
  | some B => cases hQ : tget? B.quires q <;> simp [hQ]

theorem State.threadAt_of {s : State} {b q l : Nat} {B : Block} {Q : Quire} (hB : s.block? b = some B) (hQ : tget? B.quires q = some Q) :
    s.threadAt b q l = tget? Q.threads l := by
  simp [State.threadAt_eq, State.quireAt, hB, hQ]

theorem State.quireAt_updQuire (s : State) (b q : Nat) (f : Quire → Quire) : (s.updQuire b q f).quireAt b q = (s.quireAt b q).map f := by
  cases hB : s.block? b with
  | none => simp [State.updQuire, State.updBlock, State.quireAt, hB]
  | some B =>
    simp only [State.quireAt, State.updQuire, State.updBlock, hB, State.block?_setBlock_self]
    cases hQ : tget? B.quires q <;> simp [hQ]

theorem State.threadAt_mapLanes (s : State) (b q : Nat) (ls : List Nat) (f : Nat → Thread → Thread) (l : Nat) :
    (s.mapLanes b q ls f).threadAt b q l = (s.threadAt b q l).map fun t => if ls.contains l then f l t else t := by
  rw [State.threadAt_eq, State.mapLanes, State.quireAt_updQuire, State.threadAt_eq]
  cases s.quireAt b q with
  | none => rfl
  | some Q => exact Quire.onLanes_thread Q ls f l

theorem State.threadAt_updThread (s : State) (b q l : Nat) (f : Thread → Thread) (k : Nat) :
    (s.updThread b q l f).threadAt b q k = (s.threadAt b q k).map fun t => if k = l then f t else t := by
  rw [State.threadAt_eq, State.updThread, State.quireAt_updQuire, State.threadAt_eq]
  cases s.quireAt b q with
  | none => rfl
  | some Q =>
    cases ht : tget? Q.threads l with
    | none =>
      by_cases hk : k = l
      · simp [hk, ht]
      · simp [hk, ht]
    | some t =>
      by_cases hk : k = l
      · simp [hk, ht]
      · simp [hk, ht, tget?_tput_ne _ _ hk]

theorem State.threadAt_decFlag (s : State) (b q : Nat) (ls : List Nat) (f l : Nat) : (s.decFlag b q ls f).threadAt b q l =
    (s.threadAt b q l).map fun t => if f < 12 ∧ ls.contains l then t.setFlag f (t.flag f - 1) else t := by
  unfold State.decFlag
  by_cases hf : 12 ≤ f
  · simp [hf, Nat.not_lt.2 hf]
  · simp [hf, Nat.not_le.1 hf, State.threadAt_mapLanes]

theorem Thread.flag_setFlag (t : Thread) (n k m : Nat) : (t.setFlag n k).flag m = if m = n then k else t.flag m := by
  unfold Thread.setFlag Thread.flag
  by_cases hk : k = 0
  · by_cases hm : m = n
    · simp [hk, hm, tget]
    · simp [hk, hm, tget, tget?_tdel]
  · by_cases hm : m = n
    · simp [hk, hm, tget]
    · simp [hk, hm, tget, tget?_tput_ne _ _ hm]

@[simp] theorem Thread.getPair_setPair_self (t : Thread) (n : Nat) (x : BitVec 64) : (t.setPair n x).getPair n = x := by
  rw [Thread.getPair, Thread.setPair, Thread.getV_setV_self, Thread.getV_setV_ne _ _ (by omega), Thread.getV_setV_self]
  exact BitVec.extractLsb'_append_extractLsb'_eq_extractLsb' (by omega) |>.trans (by simp)

/-! ### What stays -/

/-- Only blocks may differ. -/
def OnlyBlocks (s t : State) : Prop := t = { s with blocks := t.blocks }

/-- Only blocks and the table of operations may differ. -/
def OnlyOps (s t : State) : Prop := t = { s with blocks := t.blocks, ops := t.ops }

theorem OnlyBlocks.refl (s : State) : OnlyBlocks s s := rfl

theorem OnlyBlocks.trans {s t u : State} (h : OnlyBlocks s t) (h' : OnlyBlocks t u) : OnlyBlocks s u := by
  rw [OnlyBlocks] at *
  rw [h', h]

theorem OnlyBlocks.op? {s t : State} (h : OnlyBlocks s t) (i : Nat) : t.op? i = s.op? i := by
  rw [h]
  rfl

theorem OnlyOps.trans {s t u : State} (h : OnlyOps s t) (h' : OnlyOps t u) : OnlyOps s u := by
  rw [OnlyOps] at *
  rw [h', h]

theorem OnlyBlocks.onlyOps {s t : State} (h : OnlyBlocks s t) : OnlyOps s t := by
  rw [OnlyBlocks] at h
  rw [OnlyOps, h]

theorem OnlyBlocks.foldl {α : Type} {f : State → α → State} (hf : ∀ s a, OnlyBlocks s (f s a)) (as : List α) (s : State) :
    OnlyBlocks s (as.foldl f s) := by
  induction as generalizing s with
  | nil => rfl
  | cons a as ih => exact (hf s a).trans (ih _)

theorem onlyBlocks_updBlock (s : State) (b : Nat) (f : Block → Block) : OnlyBlocks s (s.updBlock b f) := by
  unfold State.updBlock
  split <;> rfl

theorem onlyBlocks_updQuire (s : State) (b q : Nat) (f : Quire → Quire) : OnlyBlocks s (s.updQuire b q f) := onlyBlocks_updBlock s b _

theorem onlyBlocks_mapLanes (s : State) (b q : Nat) (ls : List Nat) (f : Nat → Thread → Thread) :
    OnlyBlocks s (s.mapLanes b q ls f) := onlyBlocks_updQuire s b q _

theorem onlyBlocks_updThread (s : State) (b q l : Nat) (f : Thread → Thread) : OnlyBlocks s (s.updThread b q l f) :=
  onlyBlocks_updQuire s b q _

theorem onlyBlocks_decFlag (s : State) (b q : Nat) (ls : List Nat) (f : Nat) : OnlyBlocks s (s.decFlag b q ls f) := by
  unfold State.decFlag
  split
  · rfl
  · exact onlyBlocks_mapLanes ..

section
variable {s : State} {id : Nat} {o : Op} (h : s.op? id = some o) (hb : o.bad = none)
include h hb

/-- The end of an operation that met no fault changes no part of the machine but its block and the table of operations. -/
theorem onlyOps_settle : OnlyOps s (s.settle id) := by
  simp only [State.settle, h, hb]
  refine (onlyBlocks_decFlag s o.blk o.q (laneList o.lanes) o.flag).onlyOps.trans ?_
  split
  · rfl
  · split <;> rfl

/-- It takes the flag of its threads down and leaves the threads otherwise. -/
theorem State.threadAt_settle (l : Nat) :
    (s.settle id).threadAt o.blk o.q l = (s.decFlag o.blk o.q (laneList o.lanes) o.flag).threadAt o.blk o.q l := by
  simp only [State.settle, h, hb]
  split
  · rfl
  · split <;> rfl

end

theorem foldl_eq_self {α β : Type} {f : β → α → β} {s : β} {as : List α} (h : ∀ a ∈ as, f s a = s) : as.foldl f s = s := by
  induction as with
  | nil => rfl
  | cons a as ih => rw [List.foldl_cons, h a List.mem_cons_self, ih fun x hx => h x (List.mem_cons_of_mem _ hx)]

/-- Several elements write to the thread of their lane, each its own. -/
theorem threadAt_foldl_updThread (b q : Nat) (c : Elem → Bool) (g : Elem → Thread → Thread) (es : List Elem) (s : State) :
    (∀ l, l ∉ es.map (·.lane) →
      (es.foldl (fun s e => if c e then s else s.updThread b q e.lane (g e)) s).threadAt b q l = s.threadAt b q l) ∧
    ((es.map (·.lane)).Nodup → ∀ e ∈ es,
      (es.foldl (fun s e => if c e then s else s.updThread b q e.lane (g e)) s).threadAt b q e.lane =
        (s.threadAt b q e.lane).map fun t => if c e then t else g e t) := by
  induction es generalizing s with
  | nil => simp
  | cons a es ih =>
    have first (l : Nat) : (if c a then s else s.updThread b q a.lane (g a)).threadAt b q l =
        (s.threadAt b q l).map fun t => if l = a.lane ∧ c a = false then g a t else t := by
      cases hc : c a <;> simp [State.threadAt_updThread]
    refine ⟨fun l hl => ?_, fun hd e he => ?_⟩
    · obtain ⟨h1, h2⟩ : l ≠ a.lane ∧ l ∉ es.map (·.lane) := by simpa using hl
      rw [List.foldl_cons, (ih _).1 l h2, first]
      simp [h1]
    · obtain ⟨ha, hes⟩ := List.nodup_cons.1 hd
      rw [List.foldl_cons]
      obtain rfl | he := List.mem_cons.1 he
      · rw [(ih _).1 _ ha, first]
        cases c e <;> simp
      · have hne : e.lane ≠ a.lane := fun h => ha (List.mem_map.2 ⟨e, he, h⟩)
        rw [(ih _).2 hes e he, first]
        simp [hne]

end Sys2Proof.Machine

/-! The completion of a load (R50, R209, R524). -/

namespace Sys2Proof.Machine

/-! ### What a load writes -/

/-- A narrow signed type is the sign-extension of its low bits. -/
theorem extendLoad_signed (n v : Nat) : BitVec.ofNat 32 (ofInt 32 (toSigned n v)) = (BitVec.ofNat n v).signExtend 32 := by
  rw [ofNat_ofInt, toSigned_eq_toInt]
  rfl

/-- The destination of a load, written with the extended value. -/
def Thread.loaded (t : Thread) (w : W2) (o : Op) (r : BitVec 64) : Thread :=
  t.wr (o.holdV.length == 2) w.d (extendLoad (tyOf w) r.toNat)

/-- A thread goes on past the acquire of an operation. -/
def Thread.pastAcquire (t : Thread) (o : Op) (id : Nat) : Thread :=
  if o.acq ≠ 0 ∧ t.acq = some id then { t with acq := none } else t

/-- A thread after the completion of a load: its acquire has ended and its flag has gone down. -/
def Thread.completed (t : Thread) (o : Op) (id : Nat) : Thread :=
  if o.flag < 12 then (t.pastAcquire o id).setFlag o.flag ((t.pastAcquire o id).flag o.flag - 1) else t.pastAcquire o id

section
variable {s : State} {id : Nat} {o : Op} (hd : ∀ e ∈ o.elems, e.st = 3)
include hd

/-- A load whose values are all there completes. -/
theorem exec_loadCompletion (ho : s.op? id = some o) (hk : o.kind = .load) : exec (.loadCompletion id) s = .next (s.completeRead id) := by
  have hits : s.l1Hits id o = s := by
    unfold State.l1Hits
    split
    · rfl
    · split
      · rfl
      · exact foldl_eq_self fun e he => by simp [hd e he]
  have done : o.elems.all Elem.done = true := List.all_eq_true.2 fun e he => by simp [Elem.done, hd e he]
  change execLoadCompletion id s = _
  simp only [execLoadCompletion, ho, hk, hits, done, if_true]

/-- The results of a load go to the lanes that still take them. -/
theorem writeRead_load {w : W2} (hk : o.kind = .load) (hi : o.ins = .ld w) (hv : o.holdV ≠ []) :
    s.writeRead o = o.elems.foldl (fun s' e => if !(s.opLanes o).contains e.lane then s'
      else s'.updThread o.blk o.q e.lane fun t => t.loaded w o e.r) s := by
  unfold State.writeRead
  simp only [hi, hk]
  refine foldl_congr_mem (fun s' e he => ?_) s
  simp only [hd e he, List.isEmpty_eq_false_iff.2 hv, bne_self_eq_false, Bool.false_or, Bool.not_false, Bool.true_and]
  rfl

end

/-- The threads of a read go on past its acquire. -/
def State.acquireEnds (s : State) (id : Nat) (o : Op) : State :=
  if o.acq = 0 then s
  else s.mapLanes o.blk o.q (laneList o.lanes) fun _ t => if t.acq == some id then { t with acq := none } else t

theorem onlyBlocks_acquireEnds (s : State) (id : Nat) (o : Op) : OnlyBlocks s (s.acquireEnds id o) := by
  unfold State.acquireEnds
  split
  · rfl
  · exact onlyBlocks_mapLanes ..

theorem threadAt_acquireEnds (s : State) (id : Nat) (o : Op) (l : Nat) : (s.acquireEnds id o).threadAt o.blk o.q l =
    (s.threadAt o.blk o.q l).map fun t => if (laneList o.lanes).contains l then t.pastAcquire o id else t := by
  unfold State.acquireEnds Thread.pastAcquire
  by_cases ha : o.acq = 0
  · simp [ha]
  · simp only [ha, if_false, State.threadAt_mapLanes, ne_eq, not_false_eq_true, true_and, beq_iff_eq]

section
variable {s : State} {id : Nat} {o : Op} (ho : s.op? id = some o)
include ho

theorem completeRead_eq : s.completeRead id = ((s.writeRead o).acquireEnds id o).settle id := by
  simp only [State.completeRead, ho]
  rfl

/-- The end of a read: each of its threads has completed it. -/
theorem threadAt_ended (hb : o.bad = none) (l : Nat) : ((s.acquireEnds id o).settle id).threadAt o.blk o.q l =
    (s.threadAt o.blk o.q l).map fun t => if (laneList o.lanes).contains l then t.completed o id else t := by
  have ho' : (s.acquireEnds id o).op? id = some o := ((onlyBlocks_acquireEnds s id o).op? id).trans ho
  rw [State.threadAt_settle ho' hb, State.threadAt_decFlag, threadAt_acquireEnds, Option.map_map]
  congr 1
  funext t
  cases hl : (laneList o.lanes).contains l <;> simp [Thread.completed]

end

section
variable {s : State} {id : Nat} {o : Op} {w : W2} (ho : s.op? id = some o) (hk : o.kind = .load) (hi : o.ins = .ld w)
  (hb : o.bad = none) (hv : o.holdV ≠ []) (hd : ∀ e ∈ o.elems, e.st = 3)
include ho hk hi hb hv hd

/-- The completion of a load by thread: written if it is the lane of an element that takes results, then as any thread of the load. -/
theorem threadAt_completeRead :
    OnlyOps s (s.completeRead id) ∧
    (∀ l, l ∉ laneList o.lanes → l ∉ o.elems.map (·.lane) →
      (s.completeRead id).threadAt o.blk o.q l = s.threadAt o.blk o.q l) ∧
    ((o.elems.map (·.lane)).Nodup → ∀ e ∈ o.elems, (s.opLanes o).contains e.lane = true →
      (s.completeRead id).threadAt o.blk o.q e.lane = (s.threadAt o.blk o.q e.lane).map fun t => (t.loaded w o e.r).completed o id) := by
  have writes := writeRead_load (s := s) hd hk hi hv
  have written := threadAt_foldl_updThread o.blk o.q (fun e => !(s.opLanes o).contains e.lane) (fun e t => t.loaded w o e.r) o.elems s
  have only : OnlyBlocks s (s.writeRead o) := writes ▸ OnlyBlocks.foldl (fun s e => by
    split
    · rfl
    · exact onlyBlocks_updThread ..) _ _
  have ho' : (s.writeRead o).op? id = some o := (only.op? id).trans ho
  rw [← writes] at written
  rw [completeRead_eq ho]
  refine ⟨(only.trans (onlyBlocks_acquireEnds _ id o)).onlyOps.trans (onlyOps_settle (((onlyBlocks_acquireEnds _ id o).op? id).trans ho') hb),
    fun l hl he => ?_, fun hn e he ht => ?_⟩
  · rw [threadAt_ended ho' hb, written.1 l he]
    simp [hl]
  · have hl : (laneList o.lanes).contains e.lane = true := by simpa using State.opLanes_mem (by simpa using ht)
    rw [threadAt_ended ho' hb, written.2 hn e he, Option.map_map]
    simp only [hl, ht]
    rfl

end

/-- A result of 8 bytes goes to the pair, any other to the register, extended by its type. -/
theorem Thread.loaded_dest {w : W2} {o : Op} (hv : o.holdV = if tyBytes (tyOf w) = 8 then [w.d.toNat, w.d.toNat + 1] else [w.d.toNat])
    (t : Thread) (r : BitVec 64) :
    (tyBytes (tyOf w) = 8 → (t.loaded w o r).getPair w.d.toNat = r) ∧
    (tyBytes (tyOf w) ≠ 8 → (t.loaded w o r).getV w.d.toNat = BitVec.ofNat 32 (extendLoad (tyOf w) r.toNat)) ∧
    (∀ n, n ∉ o.holdV → (t.loaded w o r).getV n = t.getV n) ∧ { t.loaded w o r with v := t.v } = t := by
  have wide : (o.holdV.length == 2) = decide (tyBytes (tyOf w) = 8) := by rw [hv]; split <;> simp [*]
  obtain ⟨rest, regs⟩ := t.wr_frame (decide (tyBytes (tyOf w) = 8)) w.d (extendLoad (tyOf w) r.toNat)
  have named : o.holdV = destRegs w.d (decide (tyBytes (tyOf w) = 8)) := by rw [hv]; split <;> simp [*, destRegs]
  rw [Thread.loaded, wide]
  refine ⟨fun h8 => ?_, fun h8 => ?_, fun n hn => regs n (named ▸ hn), rest⟩
  · have full : extendLoad (tyOf w) r.toNat = r.toNat := by
      unfold extendLoad
      split
      · simp_all [tyBytes]
      · simp_all [tyBytes]
      · rfl
    simp [h8, Thread.wr, full]
  · simp [h8, Thread.wr]

/-- What the completion of an operation leaves of a thread. -/
theorem Thread.completed_frame (t : Thread) (o : Op) (id : Nat) :
    (t.completed o id).v = t.v ∧ (t.completed o id).p = t.p ∧ (o.flag < 12 → (t.completed o id).flag o.flag = t.flag o.flag - 1) ∧
    (∀ f, f ≠ o.flag → (t.completed o id).flag f = t.flag f) ∧ (o.acq ≠ 0 → t.acq = some id → (t.completed o id).acq = none) := by
  obtain ⟨v, p, flags, acq⟩ : (t.pastAcquire o id).v = t.v ∧ (t.pastAcquire o id).p = t.p ∧ (t.pastAcquire o id).flags = t.flags ∧
      (o.acq ≠ 0 → t.acq = some id → (t.pastAcquire o id).acq = none) := by
    unfold Thread.pastAcquire
    split
    · exact ⟨rfl, rfl, rfl, fun _ _ => rfl⟩
    · next h => exact ⟨rfl, rfl, rfl, fun h1 h2 => absurd ⟨h1, h2⟩ h⟩
  have flag (f : Nat) : (t.pastAcquire o id).flag f = t.flag f := by rw [Thread.flag, flags, Thread.flag]
  unfold Thread.completed
  split
  · exact ⟨v, p, fun _ => by rw [Thread.flag_setFlag, if_pos rfl, flag], fun f hf => by rw [Thread.flag_setFlag, if_neg hf, flag], acq⟩
  · next h => exact ⟨v, p, fun h' => absurd h' h, fun f _ => flag f, acq⟩

/-- Settles O38: a completion writes the lanes of its elements, ends the acquire and takes the flag down, and touches only blocks and
operations. -/
theorem loadsComplete : Obligations.LoadsComplete := by
  refine ⟨fun s op o w B Q ho hk hi hv hb hdrop he hn hB hQ => ?completion, fun v => ?extension⟩
  case completion =>
    have held : o.holdV ≠ [] := by rw [hv]; split <;> simp
    obtain ⟨only, others, own⟩ := threadAt_completeRead ho hk hi hb held fun e h => (he e h).1
    refine ⟨_, exec_loadCompletion (fun e h => (he e h).1) ho hk, fun e hin th ht hl => ?_, fun l h32 hl => ?_, ?_⟩
    · have takes : (s.opLanes o).contains e.lane = true := by
        simp [State.opLanes, hdrop, hB, hQ, mem_laneList, (he e hin).2, tget, ht, hl]
      refine ⟨_, (own hn e hin takes).trans (by rw [State.threadAt_of hB hQ, ht]; rfl), ?_⟩
      obtain ⟨v, p, flag, flags, acq⟩ := (th.loaded w o e.r).completed_frame o op
      obtain ⟨pair, reg, regs, rest⟩ := th.loaded_dest hv e.r
      have same (n : Nat) : ((th.loaded w o e.r).completed o op).getV n = (th.loaded w o e.r).getV n := by rw [Thread.getV, v, Thread.getV]
      have samePair (n : Nat) : ((th.loaded w o e.r).completed o op).getPair n = (th.loaded w o e.r).getPair n := by
        rw [Thread.getPair, same, same, Thread.getPair]
      have unchanged (f : Nat) : (th.loaded w o e.r).flag f = th.flag f := (congrArg (Thread.flag · f) rest :)
      have samePreds : (th.loaded w o e.r).p = th.p := (congrArg Thread.p rest :)
      have sameAcq : (th.loaded w o e.r).acq = th.acq := (congrArg Thread.acq rest :)
      exact ⟨fun h => (samePair _).trans (pair h), fun h => (same _).trans (reg h), fun n hn => (same n).trans (regs n hn),
        p.trans samePreds, fun hf => by rw [flag hf, unchanged], fun f hf => by rw [flags f hf, unchanged],
        fun h1 h2 => acq h1 (sameAcq.trans h2)⟩
    · refine others l (by simp [mem_laneList, hl]) fun h => ?_
      obtain ⟨e, hin, rfl⟩ := List.mem_map.1 h
      exact Bool.false_ne_true (hl.symm.trans (he e hin).2.2)
    · rw [only]
      exact ⟨rfl, rfl, rfl, rfl, rfl, rfl⟩
  case extension =>
    exact ⟨fun _ => ⟨extendLoad_signed 8 v, rfl⟩, fun _ => ⟨extendLoad_signed 16 v, rfl⟩, rfl, rfl, rfl, rfl, rfl, rfl⟩

end Sys2Proof.Machine

/-! Barrier phases: what an arrival counts, when a phase completes, and what a release does (R320 to R327). -/

namespace Sys2Proof.Machine

/-! ### Arrivals -/

/-- The four reductions of some contributions (R323). -/
def barrAcc (xs : List Nat) : List Nat :=
  [xs.foldl (· + ·) 0 % 2 ^ 32, xs.foldl (· &&& ·) 4294967295, xs.foldl (· ||| ·) 0, xs.foldl max 0]

/-- Contributions of one operation that arrive at an empty phase. -/
def Phase.arrivals (p : Phase) (n k : Nat) (xs : List Nat) : Phase := xs.foldl (fun q x => (q.arrive n (some k) x []).1) p

/-- The first contribution opens the phase. -/
theorem arrive_first {p : Phase} (hp : p.a = 0) (n k x : Nat) : (p.arrive n (some k) x []).1.a = 1 ∧ (p.arrive n (some k) x []).1.n = n ∧
    (p.arrive n (some k) x []).1.op = some k ∧ (p.arrive n (some k) x []).1.acc = barrAcc [x] := by
  simp only [Phase.arrive, hp, if_true]
  exact ⟨trivial, trivial, rfl, rfl⟩

/-- A later one is reduced with those before it. -/
theorem arrive_later {p : Phase} (hp : p.a ≠ 0) {n k : Nat} (hn : p.n = n) (ho : p.op = some k) {xs : List Nat} (ha : p.acc = barrAcc xs)
    (x : Nat) : (p.arrive n (some k) x []).1.a = p.a + 1 ∧ (p.arrive n (some k) x []).1.n = n ∧
      (p.arrive n (some k) x []).1.op = some k ∧ (p.arrive n (some k) x []).1.acc = barrAcc (xs ++ [x]) := by
  simp only [Phase.arrive, hp, if_false]
  refine ⟨trivial, hn, by rw [ho]; rfl, ?_⟩
  simp only [ha, barrAcc, List.foldl_append, List.foldl_cons, List.foldl_nil, Nat.mod_add_mod]

/-- The phase of some arrivals counts them and holds their reductions. -/
theorem arrivals_eq {p : Phase} (hp : p.a = 0) (n k : Nat) (xs : List Nat) : (p.arrivals n k xs).a = xs.length ∧
    (xs ≠ [] → (p.arrivals n k xs).n = n ∧ (p.arrivals n k xs).op = some k ∧ (p.arrivals n k xs).acc = barrAcc xs) := by
  induction xs using append_induction with
  | nil => exact ⟨hp, fun h => absurd rfl h⟩
  | append_singleton xs x ih =>
    obtain ⟨hl, ih⟩ := ih
    have step : p.arrivals n k (xs ++ [x]) = ((p.arrivals n k xs).arrive n (some k) x []).1 := by simp [Phase.arrivals]
    rw [step, List.length_append]
    by_cases hx : xs = []
    · subst hx
      obtain ⟨h1, h2⟩ := arrive_first hp n k x
      exact ⟨h1, fun _ => h2⟩
    · obtain ⟨hn, ho, ha⟩ := ih hx
      obtain ⟨h1, h2⟩ := arrive_later (by rw [hl]; simpa using hx) hn ho ha x
      exact ⟨by rw [h1, hl]; rfl, fun _ => h2⟩

/-- What one arrival makes of a phase. -/
theorem arrive_phase (p : Phase) (n x : Nat) (op : Option Nat) (cov : List Nat) : let r := p.arrive n op x cov
    (p.a = 0 → r.1.n = n ∧ r.1.a = 1) ∧ (p.a ≠ 0 → r.1.n = p.n ∧ r.1.a = p.a + 1) ∧ (r.2 = true ↔ r.1.a = r.1.n) ∧
      r.1.num = p.num ∧ ∀ i ∈ cov, i ∈ r.1.covers := by
  refine ⟨fun h => by simp [Phase.arrive, h], fun h => by simp [Phase.arrive, h], by simp [Phase.arrive], ?_, fun i hi => ?_⟩
  · by_cases h : p.a = 0 <;> simp [Phase.arrive, h]
  · exact (mem_addNew cov _).2 (.inr hi)

/-! ### Releases -/

theorem tdel_tput {α : Type} (k : Nat) (v : α) (t : Tab α) : tdel (tput t k v) k = tdel t k := by
  induction t with
  | nil => simp [tdel, tput]
  | cons e t ih =>
    obtain ⟨i, a⟩ := e
    unfold tput
    split
    · simp [tdel]
    · split
      · next h => simp [tdel, h]
      · simp only [tdel, List.filter_cons] at ih ⊢
        rw [ih]

@[simp] theorem State.op?_setOp_self (s : State) (i : Nat) (o : Op) : (s.setOp i o).op? i = some o := tget?_tput_self ..

@[simp] theorem State.setOp_delOp (s : State) (i : Nat) (o : Op) : (s.setOp i o).delOp i = s.delOp i := by
  simp only [State.setOp, State.delOp, tdel_tput]

theorem State.mapElems_eq {s : State} {i : Nat} {o : Op} (h : s.op? i = some o) (p : Elem → Bool) (f : Elem → Elem) :
    s.mapElems i p f = s.setOp i { o with elems := o.elems.map fun e => if p e then f e else e } := by
  simp only [State.mapElems, h]

/-- The entry of a table under a map that keeps the numbers. -/
theorem tget?_map_keys {α : Type} (F : Nat × α → Nat × α) (hF : ∀ e, (F e).1 = e.1) (t : Tab α) (k : Nat) :
    tget? (t.map F) k = (tget? t k).map fun a => (F (k, a)).2 := by
  induction t with
  | nil => rfl
  | cons e t ih =>
    obtain ⟨i, a⟩ := e
    by_cases hi : i = k
    · subst hi
      simp [tget?, hF]
    · simp [tget?, hF, hi, ih]

/-- A waiter of a completed phase goes on with the phase's result, if it has one. -/
def Thread.released (t : Thread) (p : Phase) (res : Option (Nat × Bool)) : Thread :=
  let th : Thread := { t with wait := .none, synced := addNew t.synced p.covers }
  match res with
  | some (d, true) => th.setP d (p.result != 0)
  | some (d, false) => th.setV d (BitVec.ofNat 32 p.result)
  | none => th

/-- The release of a phase of a named barrier, by thread. -/
theorem threadAt_releaseNamed {s : State} {b nb q l k : Nat} {p : Phase} {B : Block} {Q : Quire} {th : Thread}
    {res : Option (Nat × Bool)} (hB : s.block? b = some B) (hQ : tget? B.quires q = some Q) (ht : tget? Q.threads l = some th)
    (hw : th.wait = .named nb k res) :
    (s.releaseNamed b nb p).threadAt b q l = some (if k ≠ p.num + 1 then th else th.released p res) := by
  simp only [State.releaseNamed, State.updBlock, hB, State.threadAt_eq, State.quireAt, State.block?_setBlock_self]
  rw [tget?_map_keys, hQ]
  · simp only [Option.map_some, Option.bind_some]
    rw [tget?_map_keys, ht]
    · simp only [Option.map_some, hw, true_and, ne_eq, ite_not, apply_ite Prod.snd, apply_ite some]
      rfl
    · intro e
      split
      · split <;> rfl
      · rfl
  · exact fun _ => rfl

/-- A waiter of a completed phase of a scope barrier goes on. -/
def Thread.scopeReleased (key phase : Nat) (cov : List Nat) (t : Thread) : Thread :=
  match t.wait with
  | .scope _ _ k ph => if ph = phase ∧ k = key then { t with synced := addNew t.synced cov, wait := .none } else t
  | _ => t

/-- A completed phase of a scope barrier leaves the network, and its waiters go on. -/
def State.scopeReleased (s : State) (key phase : Nat) (cov : List Nat) : State :=
  { s with
    sbarDone := s.sbarDone.filter fun y => !(y.1 == key && y.2.num + 1 == phase)
    blocks := s.blocks.map fun b => (b.1, { b.2 with quires := b.2.quires.map fun q =>
      (q.1, { q.2 with threads := q.2.threads.map fun t => (t.1, t.2.scopeReleased key phase cov) }) }) }

theorem scopeReleased_of {s : State} {key phase : Nat} {cov : List Nat} {F : Nat × Thread → Nat × Thread}
    (hF : ∀ t, F t = (t.1, t.2.scopeReleased key phase cov)) : ({ s with
      sbarDone := s.sbarDone.filter fun y => !(y.1 == key && y.2.num + 1 == phase)
      blocks := s.blocks.map fun b => (b.1, { b.2 with quires := b.2.quires.map fun q =>
        (q.1, { q.2 with threads := q.2.threads.map F }) }) } : State) = s.scopeReleased key phase cov := by
  rw [funext hF]
  rfl

/-- What the release takes from one SBARA arrival of the phase. -/
def State.sbaraReleased (s : State) (phase : Nat) (cov : List Nat) (i : Nat) : State :=
  match s.op? i with
  | none => s
  | some o =>
    let ls := (o.elems.filter fun e => e.st == 6 && e.pa == phase).map (·.lane)
    let s := (s.decFlag o.blk o.q ls o.flag).mapLanes o.blk o.q ls fun _ t => t.owe o.flag cov
    let s := s.mapElems i (fun e => e.st == 6 && e.pa == phase) fun e => { e with st := 3 }
    match s.op? i with
    | some o => if o.elems.all Elem.done then s.delOp i else s
    | none => s

theorem exec_scopeBarrierRelease {s : State} {key phase : Nat} {x : Nat × Phase}
    (hx : s.sbarDone.find? (fun x => x.1 == key && x.2.num + 1 == phase) = some x) :
    exec (.scopeBarrierRelease key phase) s = .next (((s.ops.filter fun o => o.2.kind == .sbar && o.2.m == key).map (·.1)).foldl
      (fun s i => s.sbaraReleased phase x.2.covers i) (s.scopeReleased key phase x.2.covers)) := by
  change execScopeBarrierRelease key phase s = _
  simp only [execScopeBarrierRelease, hx]
  refine congrArg (fun r => Host.Outcome.next (List.foldl _ r _)) (scopeReleased_of fun t => ?_)
  unfold Thread.scopeReleased
  cases t.2.wait
  case scope => exact (apply_ite (Prod.mk t.1) _ _ _).symm
  all_goals rfl

/-- An arrival whose lanes are all in the phase leaves the table. -/
theorem sbaraReleased_whole {s : State} {i phase : Nat} {o : Op} (ho : s.op? i = some o) (he : ∀ e ∈ o.elems, e.st = 6 ∧ e.pa = phase)
    (cov : List Nat) : s.sbaraReleased phase cov i = ((s.decFlag o.blk o.q (o.elems.map (·.lane)) o.flag).mapLanes o.blk o.q
      (o.elems.map (·.lane)) fun _ t => t.owe o.flag cov).delOp i := by
  have all : (o.elems.filter fun e => e.st == 6 && e.pa == phase) = o.elems := by
    simpa [List.filter_eq_self] using he
  simp only [State.sbaraReleased, ho, all]
  generalize hr : (s.decFlag o.blk o.q (o.elems.map (·.lane)) o.flag).mapLanes o.blk o.q (o.elems.map (·.lane)) (fun _ t => t.owe o.flag cov) = r
  have hor : r.op? i = some o := by
    rw [← hr, ((onlyBlocks_decFlag ..).trans (onlyBlocks_mapLanes ..)).op?, ho]
  have done : (o.elems.map fun e => if e.st == 6 && e.pa == phase then { e with st := 3 } else e).all Elem.done = true := by
    simp only [List.all_map, List.all_eq_true]
    intro e h
    simp [he e h, Elem.done]
  simp only [State.mapElems_eq hor, State.op?_setOp_self, done, if_true, State.setOp_delOp]

/-- Settles O36: arrivals by their fold, the arrival event by its guards, a release by what it gives each waiter. -/
theorem barrierPhases : Obligations.BarrierPhases := by
  refine ⟨⟨fun p n x op cov => ?arrive, fun p n k xs hp hx hlt => ?reduce⟩, fun s op o ho hk he => ?arrival,
    fun s b nb q l k p B Q th res hB hQ ht hw => ?release, fun s key phase x hx => ?scope⟩
  case arrive =>
    obtain ⟨h1, h2, h3, h4, h5⟩ := arrive_phase p n x op cov
    exact ⟨h1, h2, h3, h4, congrArg (· + 1) h4, rfl, rfl, h5⟩
  case reduce =>
    obtain ⟨hl, rest⟩ := arrivals_eq hp n k.val xs
    obtain ⟨hn, ho, ha⟩ := rest hx
    refine ⟨hl, hn, ho, ?_⟩
    change (p.arrivals n k.val xs).result = _
    rw [Phase.result, ho, ha]
    match k with
    | 0 => rfl
    | 1 => rfl
    | 2 => rfl
    | 3 => rfl
  case arrival =>
    intro named barr p late
    have kind : (o.kind == .bar || o.kind == .sbar) = true := by simpa using hk
    have fresh : (o.elems.all fun e => e.st == 0) = true := by simpa using he
    have eq : exec (.barrierArrival op) s = if !s.released o then .next (s.pushBack o.rel o.covers)
        else if p.late s.clk (arrivalRank (s.coreOf o.blk) o.q (o.elems.head?.elim 0 (·.lane))) then .next s
        else if p.mismatch o.n barr then .next (if o.drop then s.finishOp op
          else (s.finishOp op).faultAt o.blk o.q o.clause o.widx causeBarMismatch 0 ((laneList o.lanes).headD 0) 0#64)
        else if named then .next ((s.arriveNamed o).delOp op)
        else .next (if o.kind == .bar then (s.arriveScope op o).delOp op else s.arriveScope op o) := by
      change execBarrierArrival op s = _
      simp only [execBarrierArrival, ho, kind, fresh]
      rfl
    have early : p.late s.clk (arrivalRank (s.coreOf o.blk) o.q (o.elems.head?.elim 0 (·.lane))) = late := by
      simp only [Phase.late, late, Bool.decide_and, arrivalRank]
      rfl
    rw [early] at eq
    refine ⟨fun h1 => ?_, fun h1 h2 => ?_, fun h1 h2 => ⟨fun h3 h4 => ?_, fun h3 h4 => ?_, fun h3 h4 h5 => ?_, fun h3 h4 h5 => ?_⟩⟩
    · simpa [h1] using eq
    · simpa [h1, h2] using eq
    · simpa [h1, h2, h3, h4] using eq
    · simpa [h1, h2, h3, h4] using eq
    · simpa [h1, h2, h3, h4, h5] using eq
    · simpa [h1, h2, h3, h4, h5] using eq
  case release =>
    intro th'
    rw [threadAt_releaseNamed hB hQ ht hw]
    rfl
  case scope =>
    intro go s1
    have released : s.scopeReleased key phase x.2.covers = s1 := by
      simp only [State.scopeReleased, s1]
      rfl
    have eq := exec_scopeBarrierRelease hx
    rw [released] at eq
    refine ⟨fun hn => by rw [eq, hn]; rfl, fun i o hf ho he => ?_⟩
    rw [eq, hf]
    exact congrArg Host.Outcome.next (sbaraReleased_whole (s := s1) ho he _)

end Sys2Proof.Machine

/-! A write with a reader count that meets dirty bytes at the home (R254). -/

namespace Sys2Proof.Machine

/-- The slice of line 0's home holds one dirty byte, 1. -/
def dirtyHome : State :=
  { State.reset with tarns := [(0, { slices := [(0, { valid := 1#64, dirty := 1#64, data := 1#512 })] })] }

theorem dirtyHome_mem : dirtyHome.mem.isEmpty = true ∧ (dirtyHome.homeWrite 0 2#64 0#512 1 true).1.mem.isEmpty = false := by
  decide +kernel

/-- Refutes O41: the dirty byte that an `st.rc` meets goes to DRAM before its own bytes are written (R254), so the memory changes. -/
theorem not_writesAreRead : ¬ Obligations.WritesAreRead := by
  rintro ⟨written, -⟩
  obtain ⟨-, same⟩ := written dirtyHome 0 1 2#64 0#512 true (by decide)
  obtain ⟨before, after⟩ := dirtyHome_mem
  rw [same, before] at after
  exact absurd after (by decide)

end Sys2Proof.Machine

/-! Operand-buffer reservations (R394 to R402) and the arrivals of MSIGN (R407). -/

namespace Sys2Proof.Machine

theorem State.block?_updBlock {s : State} {b : Nat} {B : Block} (h : s.block? b = some B) (f : Block → Block) :
    (s.updBlock b f).block? b = some (f B) := by
  simp only [State.updBlock, h, State.block?_setBlock_self]

theorem State.block?_of_blocks {t : State} {X : Tab Block} {b : Nat} {B : Block} (h : t.blocks = tput X b B) : t.block? b = some B := by
  simp [State.block?, h]

/-! ### Reservations -/

/-- The bytes of a reserved range alone may be stale ones of earlier fills. -/
theorem cellGet_staleUnits (m : List Host.Cell) (draw : Nat) (r : HRec) {a : Nat} (ha : a < r.base ∨ r.base + r.size ≤ a) :
    cellGet (staleUnits m draw r) a = cellGet m a := by
  have fold (is : List Nat) (his : ∀ i ∈ is, i < r.size) (m' : List Host.Cell) : cellGet (is.foldl (fun a i =>
      cellPut a (r.base + i) (cellGet m (r.base + Config.staleByte draw i % r.size))) m') a = cellGet m' a := by
    induction is generalizing m' with
    | nil => rfl
    | cons i is ih =>
      have hi := his i List.mem_cons_self
      rw [List.foldl_cons, ih (fun j hj => his j (List.mem_cons_of_mem _ hj)), cellGet_cellPut_ne _ _ (by omega)]
  unfold staleUnits
  split
  · exact fold _ (fun i hi => List.mem_range.1 hi) m
  · rfl

section
variable {s : State} {c : Ctx} (h : s.ctx? = some c) (w : W2)
include h

/-- A matrix instruction without participants only goes on. -/
theorem matrixOnce_none {neg : Bool} (hls : c.participants w.p neg = []) (f : Ctx → Nat → List Nat → Out) :
    matrixOnce w neg s f = .next (s.putQuire c (c.past 2 c.Q)) := by
  simp only [matrixOnce, h, hls, State.advance_ctx h]

/-- Otherwise it acts with its lowest participant. -/
theorem matrixOnce_head {neg : Bool} {l : Nat} (hl : (c.participants w.p neg).head? = some l) (f : Ctx → Nat → List Nat → Out) :
    matrixOnce w neg s f = f c l (c.participants w.p neg) := by
  obtain ⟨ls, hls⟩ := List.head?_eq_some_iff.1 hl
  simp only [matrixOnce, h, hls]

/-- A change of a handle, and the group goes on. -/
theorem updHandle_advance (k : Nat) (f : Handle → Handle) : (s.updHandle c.b k f).advance c 2 =
    { s with blocks := tput s.blocks c.b { c.B with
      handles := tput c.B.handles k (f (c.B.handle k)), quires := tput c.B.quires c.q (c.past 2 c.Q) } } := by
  rw [State.updHandle, updBlock_advance h _ (by rfl)]

/-- The same with a change of the operand buffer's bytes, which draws a number. -/
theorem reserve_advance (k : Nat) (f : Handle → Handle) (g : List Host.Cell → List Host.Cell) :
    (({ s.updHandle c.b k f with free := s.free + 1 } : State).updBlock c.b fun B => { B with obuf := g B.obuf }).advance c 2 =
    { s with
      free := s.free + 1
      blocks := tput s.blocks c.b { c.B with
        handles := tput c.B.handles k (f (c.B.handle k)), obuf := g c.B.obuf, quires := tput c.B.quires c.q (c.past 2 c.Q) } } := by
  have hB := (State.ctx_iff.1 h).2.1
  have h1 : ({ s with free := s.free + 1 } : State).ctx? = some c := State.ctx_iff.2 (State.ctx_iff.1 h)
  have once : ({ s.updHandle c.b k f with free := s.free + 1 } : State).updBlock c.b (fun B => { B with obuf := g B.obuf }) =
      ({ s with free := s.free + 1 } : State).updBlock c.b fun B => { B with
        handles := tput B.handles k (f (B.handle k)), obuf := g B.obuf } := by
    have hB1 : ({ s with free := s.free + 1 } : State).block? c.b = some c.B := hB
    have hB2 (X : Block) : ({ s.setBlock c.b X with free := s.free + 1 } : State).block? c.b = some X := State.block?_setBlock_self s c.b X
    simp only [State.updHandle, State.updBlock, hB, hB1, hB2]
    simp only [State.setBlock, tput_tput]
  rw [once, updBlock_advance h1 _ (by rfl)]

/-- OBRES and OBREL by the state of the handle. -/
theorem exec_obres {l : Nat} (hl : (c.participants w.p w.n).head? = some l) : exec (.obres w) s =
    let x := (c.thread l).getPair w.a.toNat
    let r := hrecOf x.toNat
    if (c.B.handle w.d.toNat).st != 0 then .next (s.raise c causeMatrix mxHandle l 0#64)
    else if !r.ok x.toNat || c.B.handles.any (fun e => e.2.st != 0 && e.2.rec_.overlaps r) then
      .next (s.raise c causeMatrix mxReserve l 0#64)
    else .next { s with
      free := s.free + 1
      blocks := tput s.blocks c.b { c.B with
        handles := tput c.B.handles w.d.toNat { st := 1, record := x, gen := (c.B.handle w.d.toNat).gen + 1#32, cache := none }
        obuf := staleUnits c.B.obuf (s.free + 1) r, quires := tput c.B.quires c.q (c.past 2 c.Q) } } := by
  change execObres w s = _
  rw [execObres, matrixOnce_head h w hl]
  exact ite_of_iff Iff.rfl rfl (ite_of_iff Iff.rfl rfl (congrArg Host.Outcome.next
    (reserve_advance h _ _ fun m => staleUnits m (s.free + 1) (hrecOf ((c.thread l).getPair w.a.toNat).toNat))))

theorem exec_obrel {l : Nat} (hl : (c.participants w.p w.n).head? = some l) {named : Bool}
    (hn : (c.B.mq.any fun m => (m.reads c.B.core ++ (match m.ins with | .obld w => [w.d.toNat] | _ => m.fills)).contains w.d.toNat) = named) :
    exec (.obrel w) s = if (c.B.handle w.d.toNat).st = 0 then .next (s.raise c causeMatrix mxHandle l 0#64)
    else if named then .next (s.stall c)
    else .next { s with blocks := tput s.blocks c.b { c.B with
      handles := tput c.B.handles w.d.toNat { c.B.handle w.d.toNat with st := 0, gen := (c.B.handle w.d.toNat).gen + 1#32, cache := none }
      quires := tput c.B.quires c.q (c.past 2 c.Q) } } := by
  subst hn
  change execObrel w s = _
  rw [execObrel, matrixOnce_head h w hl]
  exact ite_of_iff Iff.rfl rfl (ite_of_iff Iff.rfl rfl (congrArg Host.Outcome.next (updHandle_advance h _ _)))

end

/-- Other handles stay when one changes. -/
theorem handle_tput (B : Block) (k : Nat) (H : Handle) :
    ({ B with handles := tput B.handles k H } : Block).handle k = H ∧
    ∀ j, j ≠ k → ({ B with handles := tput B.handles k H } : Block).handle j = B.handle j := by
  refine ⟨by simp [Block.handle, tget], fun j hj => by simp [Block.handle, tget, tget?_tput_ne _ _ hj]⟩

/-! ### Arrivals of MSIGN -/

/-- A block with one convergence register replaced. -/
def Block.withReg (B : Block) (k : Nat) (p : Phase) : Block := { B with kreg := tput B.kreg k p }

@[simp] theorem Block.withReg_kreg (B : Block) (k : Nat) (p : Phase) : tget (B.withReg k p).kreg k {} = p := by
  simp [Block.withReg, tget]

/-- A convergence register after one arrival, as R407 counts it. -/
def Phase.counted (p : Phase) (n : Nat) (cov : List Nat) : Phase :=
  let r := p.arrive n none 0 cov
  if r.2 then { r.1 with heldArr := [], a := 0, num := r.1.num + 1, signed := true } else { r.1 with heldArr := [] }

theorem counted_eq {p : Phase} {n : Nat} (h : p.a = 0 ∨ p.n = n) (cov : List Nat) : (p.counted n cov).heldArr = [] ∧
    (p.counted n cov).n = n ∧
    (p.a + 1 ≠ n → (p.counted n cov).a = p.a + 1 ∧ (p.counted n cov).signed = p.signed ∧ (p.counted n cov).num = p.num) ∧
    (p.a + 1 = n → (p.counted n cov).a = 0 ∧ (p.counted n cov).signed = true ∧ (p.counted n cov).num = p.num + 1) := by
  obtain ⟨hfirst, hlater, hdone, hnum, -⟩ := arrive_phase p n 0 none cov
  have count : (p.arrive n none 0 cov).1.n = n ∧ (p.arrive n none 0 cov).1.a = p.a + 1 := by
    by_cases hp : p.a = 0
    · exact ⟨(hfirst hp).1, (hfirst hp).2.trans (by rw [hp])⟩
    · exact ⟨(hlater hp).1.trans (h.resolve_left hp), (hlater hp).2⟩
  have signed : (p.arrive n none 0 cov).1.signed = p.signed := by
    by_cases hp : p.a = 0 <;> simp [Phase.arrive, hp]
  rw [count.1, count.2] at hdone
  unfold Phase.counted
  by_cases hn : p.a + 1 = n
  · simp [hdone.2 hn, hn, count.1, hnum]
  · simp [mt hdone.1 hn, hn, count, hnum, signed]

/-- A register without held arrivals, or a signed one, counts none. -/
theorem countHeld_none {s : State} {b k : Nat} {B : Block} (hB : s.block? b = some B) (h : (tget B.kreg k {}).heldArr = []) (n : Nat) :
    s.countHeld b k (n + 1) = s := by
  simp only [State.countHeld, hB, h]

theorem countHeld_signed {s : State} {b k : Nat} {B : Block} (hB : s.block? b = some B) (h : (tget B.kreg k {}).signed = true) (n : Nat) :
    s.countHeld b k (n + 1) = s := by
  simp only [State.countHeld, hB, h, if_true]
  split <;> rfl

/-- An arrival that has been counted is done, and its operation with its last one. -/
def State.arrivalOver (s : State) (key : Nat) : State :=
  let s := s.mapElems (key / 32) (fun e => e.lane == key % 32) fun e => { e with st := 3 }
  match s.op? (key / 32) with
  | some o => if o.elems.all Elem.done then s.delOp (key / 32) else s
  | none => s

theorem arrivalOver_only {s : State} {key : Nat} {o : Op} {e : Elem} (ho : s.op? (key / 32) = some o) (he : o.elems = [e])
    (hl : e.lane = key % 32) : s.arrivalOver key = s.delOp (key / 32) := by
  simp only [State.arrivalOver, State.mapElems_eq ho, State.op?_setOp_self, State.setOp_delOp, he, List.map_cons, List.map_nil, hl,
    beq_self_eq_true, if_true]
  rfl

/-- The count of one held arrival, the only one of its operation. -/
theorem countHeld_one {s : State} {b k key : Nat} {B : Block} {p : Phase} {o : Op} {e : Elem} (hB : s.block? b = some B)
    (hp : tget B.kreg k {} = p) (hh : p.heldArr = [key]) (hs : p.signed = false) (ho : s.op? (key / 32) = some o)
    (hn : p.a = 0 ∨ p.n = o.n) (he : o.elems = [e]) (hl : e.lane = key % 32) (n : Nat) :
    s.countHeld b k (n + 2) = (s.setBlock b (B.withReg k (p.counted o.n o.covers))).delOp (key / 32) := by
  have hm : p.mismatch o.n none = false := by
    obtain h | h := hn <;> simp [Phase.mismatch, h]
  have counts : s.countHeld b k (n + 2) =
      ((s.updBlock b fun B' => B'.withReg k (p.counted o.n o.covers)).arrivalOver key).countHeld b k (n + 1) := by
    rw [State.countHeld]
    simp only [hB, hp, hh, hs, ho, hm]
    rfl
  have set : s.updBlock b (fun B' => B'.withReg k (p.counted o.n o.covers)) = s.setBlock b (B.withReg k (p.counted o.n o.covers)) := by
    simp only [State.updBlock, hB]
  rw [counts, set, arrivalOver_only (by exact ho) he hl]
  exact countHeld_none (s := (s.setBlock b (B.withReg k (p.counted o.n o.covers))).delOp (key / 32)) (State.block?_setBlock_self s b _)
    ((congrArg Phase.heldArr (Block.withReg_kreg B k _)).trans (counted_eq hn o.covers).1) n

section
variable {s : State} {op : Nat} {o : Op} {e : Elem} {B : Block} {p : Phase} (ho : s.op? op = some o) (hk : o.kind = .msign)
  (he : o.elems = [e]) (hst : e.st = 0) (ha : o.after_ = []) (hr : s.released o = true) (hB : s.block? o.blk = some B)
  (hp : tget B.kreg o.m {} = p) (hh : p.heldArr = []) (hlate : p.late s.clk (arrivalRank B.core o.q e.lane) = false)
include ho hk he hst ha hr hB hp hh hlate

/-- The one arrival of an MSIGN is held at its register and then counted. -/
theorem exec_msignArrival : exec (.msignArrival op) s = .next (((s.setOp op { o with elems := [{ e with st := 1 }] }).setBlock o.blk
    (B.withReg o.m { p with heldArr := [op * 32 + e.lane], last := (s.clk, arrivalRank B.core o.q e.lane) })).countHeld o.blk o.m 2) := by
  have now : s.nextArrivals op o = [e.lane] := by
    have free : s.freeArrivals o = [e.lane] := by simp [State.freeArrivals, he, hst, ha]
    simp only [State.nextArrivals, hB, hp, free, List.filter_cons, hlate, Bool.not_false, if_true, List.filter_nil, List.takeWhile_cons]
    simp
    exact fun _ _ _ _ _ _ _ _ _ _ _ h => Nat.le_of_lt h
  have kind : (o.kind != OpKind.msign) = false := by simp [hk]
  change execMsignArrival op s = _
  simp only [execMsignArrival, ho, now, kind, hr, State.mapElems_eq ho, he, List.map_cons, List.map_nil, hst]
  have acted : (s.setOp op { o with elems := [{ e with st := 1 }] }).block? o.blk = some B := hB
  simp only [List.contains_cons, beq_self_eq_true, Bool.true_or, Bool.true_and, if_true, State.updBlock, acted, hp, hh,
    State.block?_setBlock_self]
  simp [tget, Block.withReg]

end

/-- Settles O44. -/
theorem reservationsAndConvergence : Obligations.ReservationsAndConvergence := by
  refine ⟨fun s c w h => ?reservations, fun s c w h => ?msign, fun s op o e B ho hk he hst hl ha hr hd hb hB => ?arrival⟩
  case reservations =>
    intro ls h' H named
    refine ⟨fun hls => ⟨show execObres w s = _ from matrixOnce_none h w hls _, show execObrel w s = _ from matrixOnce_none h w hls _⟩,
      fun l hl => ?_⟩
    intro x r meets
    have res := exec_obres h w hl
    have rel := exec_obrel h w hl (named := named) rfl
    refine ⟨fun h1 => ?_, fun h1 h2 => ?_, fun h1 h2 h3 => ?_, fun h1 => ?_, fun h1 h2 => ?_, fun h1 h2 => ?_⟩
    · exact res.trans (if_pos (by simpa using h1))
    · refine res.trans ((if_neg (by simpa using h1)).trans (if_pos ?_))
      obtain h2 | h2 := h2
      · simp [show (hrecOf ((c.thread l).getPair w.a.toNat).toNat).ok ((c.thread l).getPair w.a.toNat).toNat = false from h2]
      · exact Bool.or_eq_true _ _ ▸ .inr h2
    · have taken : (!r.ok x.toNat || meets) = false := by simp [h2, h3]
      obtain ⟨now, others⟩ := handle_tput c.B h' { st := 1, record := x, gen := H.gen + 1#32, cache := none }
      refine ⟨_, _, res.trans ((if_neg (by simpa using h1)).trans (if_neg (Bool.not_eq_true _ ▸ taken))), State.block?_of_blocks rfl, ?_⟩
      exact ⟨congrArg Handle.st now, congrArg Handle.record now, congrArg Handle.gen now, congrArg Handle.cache now, others, rfl, rfl,
        fun a ha => cellGet_staleUnits _ _ _ ha, rfl, rfl, rfl, rfl⟩
    · exact rel.trans (if_pos h1)
    · exact rel.trans ((if_neg h1).trans (if_pos h2))
    · obtain ⟨now, others⟩ := handle_tput c.B h' { H with st := 0, gen := H.gen + 1#32, cache := none }
      refine ⟨_, _, rel.trans ((if_neg h1).trans (if_neg (by simpa using h2))), State.block?_of_blocks rfl, ?_⟩
      exact ⟨congrArg Handle.st now, congrArg Handle.gen now, others, rfl, rfl, rfl, rfl, rfl, rfl⟩
  case msign =>
    intro ls count o
    have issue (hl : ls ≠ []) : exec (.msign w) s = match barBad ls count (fun _ => 0) 512 with
        | some (l, k) => .next (s.raise c k 0 l 0#64)
        | none => .next (s.issueStep c 2 { s.stampOrder c.Q o with after_ := (c.B.mq.filter MCmd.isLoad).map (·.op) }) := by
      obtain ⟨l, hl⟩ : ∃ l, ls.head? = some l := Option.isSome_iff_exists.1 (by simpa using hl)
      exact (show execMsign w s = _ from matrixOnce_head h w hl _)
    refine ⟨fun hls => show execMsign w s = _ from matrixOnce_none h w hls _, fun hls hc => ?_, fun l hl hc => ?_⟩
    · rw [issue hls, barBad_none hc (fun _ _ => ⟨by decide, rfl⟩)]
      exact congrArg Host.Outcome.next (issueStep_eq h (stampOrder_place ..).1 (stampOrder_place ..).2)
    · rw [issue (fun hn => by simp [hn] at hl), barBad_count hl hc]
  case arrival =>
    intro p hh hlate
    have eq := exec_msignArrival ho hk he hst ha hr hB rfl hh hlate
    refine ⟨fun hs => ?_, fun hs hn => ?_⟩
    · rw [countHeld_signed (State.block?_setBlock_self ..) (by rw [Block.withReg_kreg]; exact hs)] at eq
      exact ⟨_, _, eq, State.block?_setBlock_self .., Block.withReg_kreg .., rfl⟩
    · have key : (op * 32 + e.lane) / 32 = op := by omega
      let acted : Op := { o with elems := [{ e with st := 1 }] }
      let held : Phase := { p with heldArr := [op * 32 + e.lane], last := (s.clk, arrivalRank B.core o.q e.lane) }
      have counted := countHeld_one (s := (s.setOp op acted).setBlock o.blk (B.withReg o.m held)) (o := acted) (p := held)
        (State.block?_setBlock_self ..) (Block.withReg_kreg ..) rfl hs (key.symm ▸ State.op?_setOp_self s op acted) hn rfl
        (show e.lane = _ by omega) 0
      rw [counted, key] at eq
      obtain ⟨held, count, more, last⟩ := counted_eq (p := held) hn o.covers
      refine ⟨_, _, eq, State.block?_setBlock_self .., tget?_tdel_self .., rfl, ?_⟩
      rw [Block.withReg_kreg]
      exact ⟨count, held, fun h => ⟨(more h).1, (more h).2.1.trans hs, (more h).2.2⟩, last⟩

end Sys2Proof.Machine

/-! Spring messages at issue and on arrival, HINST and HDROP (R420 to R428). -/

namespace Sys2Proof.Machine

/-! ### At issue -/

section
variable {s : State} {c : Ctx} (h : s.ctx? = some c)
include h

/-- An entry takes its place on the instruction ring. -/
theorem placeEntry_eq {kind : OpKind} {ins : Instr} {ls : List Nat} {flag : Nat} {hold : List Nat} (e : BitVec 256)
    (hroom : c.B.iring.length < 16) {o : Op} (ho : s.stampOrder c.Q { c.op kind ins (laneMask ls) flag with holdV := hold, rel := 2 } = o) :
    let x : Entry := { bits := e, seq := (c.B.iseq + 1) % 2 ^ 32, ring := 0, origin := some s.next, clause := c.gr.clause
                       widx := c.gr.widx, covers := o.covers, id := s.next, ident := identOf c.B c.q (ls.headD 0) }
    s.placeEntry c kind ins ls flag hold e = .next ((Issued s c 2 { o with rel := 0, fsc := 0, covers := [] }).updBlock c.b
      fun B => { B with iring := B.iring ++ [x], iseq := x.seq }) := by
  subst ho
  unfold State.placeEntry
  rw [if_neg (Nat.not_le.2 hroom), ← issueStep_eq h (stampOrder_place ..).1 (stampOrder_place ..).2]

/-- A message of the lowest participant is placed, whatever its address. -/
theorem sprgIssue_eq {ins : Instr} {w : W2} {flag : Ctx → Nat} {hold : List Nat} {neg : Bool} {l : Nat} {ls : List Nat}
    (hls : c.participants w.p neg = l :: ls) : sprgIssue ins w flag hold neg s = s.placeEntry c .sprg ins (l :: ls) (flag c) hold
      (BitVec.ofNat 256 (w.x.scope.toNat * 2 ^ 21 + 5 * 2 ^ 24 + ((c.thread l).getPair w.a.toNat).toNat * 2 ^ 32 + w.x.sub.toNat * 2 ^ 96 +
        opB c.Q (c.thread l) w true 0 * 2 ^ 128 + ((c.thread l).getPair w.x.c.toNat).toNat * 2 ^ 192)) := by
  simp only [sprgIssue, h, hls]

end

/-! ### On arrival -/

/-- What the oldest message that can arrive is known to satisfy. -/
theorem nextMessage_some {s : State} {b ring id : Nat} {o : Op} (h : s.nextMessage b ring = some (id, o)) :
    o.blk = b ∧ o.n = ring ∧ ∀ e ∈ o.elems, s.stampedFor o e = false := by
  have := List.find?_some h
  simp only [Bool.and_eq_true, beq_iff_eq, List.all_eq_true, Bool.not_eq_true'] at this
  obtain ⟨⟨⟨-, hb⟩, hr⟩, he⟩ := this
  exact ⟨hb, hr, fun e hin => (he e hin).1.1⟩

section
variable {s : State} {b ring id : Nat} {o : Op} {el : Elem} {B : Block} {e : Entry} (hn : s.nextMessage b ring = some (id, o))
  (he : o.elems = [el]) (hB : s.block? b = some B)
include hn he hB

/-- The message arrives, and is counted at the pod port if it has come that way. -/
theorem exec_springMessageArrival (hp : s.podDown (coreTarn B.core) el.pa = false)
    (hf : s.routeOf o el = .pod → tget s.flits (coreTarn B.core) 0 < 2 ^ 32) :
    exec (.springMessageArrival b ring) s = .next ((s.countFlit o el).messageArrives id o) := by
  have keyed : (s.routeOf o el == .pod && decide (2 ^ 32 ≤ tget s.flits (coreTarn B.core) 0)) = false := by
    simpa using hf
  change execSpringMessageArrival b ring s = _
  simp only [execSpringMessageArrival, hn, he, List.head?_cons, hB, hp, keyed, Bool.false_eq_true, if_false]

/-- Its count changes the number of flits alone. -/
theorem countFlit_eq : s.countFlit o el = (if s.routeOf o el = .pod then
    { s with flits := tput s.flits (coreTarn B.core) (tget s.flits (coreTarn B.core) 0 + 1) } else s) ∧
    (s.countFlit o el).msgRank o el = (if s.routeOf o el = .pod then 2 ^ 40 else B.core) := by
  obtain ⟨hb, -, hst⟩ := nextMessage_some hn
  have core : s.coreOf o.blk = B.core := by simp [State.coreOf, hb, hB]
  have unstamped := hst el (by simp [he])
  by_cases hr : s.routeOf o el = .pod
  · have pod : (s.routeOf o el == .pod) = true := by simp [hr]
    refine ⟨by rw [if_pos hr]; simp only [State.countFlit, pod, core, if_true], ?_⟩
    rw [if_pos hr]
    simp only [State.countFlit, pod, if_true]
    exact if_pos pod
  · have here : (s.routeOf o el == .pod) = false := by simpa using hr
    simp [State.countFlit, State.msgRank, here, hr, unstamped, core]

/-- What a message that has arrived does at its spring (R426). -/
theorem messageArrives_eq (hx : (B.entries ring).find? (fun e => e.id == o.m) = some e) : (s.countFlit o el).messageArrives id o =
    let m : Msg := { pa := el.pa, slot := e.mSlot, arg0 := BitVec.ofNat 64 e.mArg0, arg1 := BitVec.ofNat 64 e.mArg1, sender := e.ident
                     src := (b, ring, e.id), scope := e.scope }
    let s1 := (s.countFlit o el).delOp id
    if (s.spring (springOf el.pa)).retired then s1.messageDone m 1 0 0#32 outPoison 0
    else if (s.spring (springOf el.pa)).moving.contains (el.pa / 65536) then s1.rejectMoved m
    else s1.updSpring (springOf el.pa) fun sp => { sp.accept m with last := (s.clk, (s.countFlit o el).msgRank o el) } := by
  obtain ⟨hb, hr, -⟩ := nextMessage_some hn
  subst hb hr
  have block : (s.countFlit o el).block? o.blk = some B := by
    unfold State.countFlit
    dsimp only
    split <;> exact hB
  have spring : (s.countFlit o el).spring (springOf el.pa) = s.spring (springOf el.pa) := by
    unfold State.countFlit
    dsimp only
    split <;> rfl
  have clk : (s.countFlit o el).clk = s.clk := by
    unfold State.countFlit
    dsimp only
    split <;> rfl
  simp only [State.messageArrives, he, List.head?_cons, block, hx, spring, State.delOp_clk, clk]

end

/-- A spring after an update that its present contents decide. -/
theorem updSpring_congr {s : State} {gs : Nat} {f g : Spring → Spring} (h : f (s.spring gs) = g (s.spring gs)) :
    s.updSpring gs f = s.updSpring gs g := by
  have h' : f (tget (s.tarn (gs / 64)).springs (gs % 64) {}) = g (tget (s.tarn (gs / 64)).springs (gs % 64) {}) := h
  simp only [State.updSpring, State.updTarn, h']

/-! ### HINST and HDROP -/

section
variable {s : State} {c : Ctx} (h : s.ctx? = some c) (w : W2)
include h

/-- At user privilege, or under a false guard, a handler instruction does nothing of its own. -/
theorem handlerIssue_barred (kind : OpKind) (ins : Instr) :
    (c.B.sup = false → guardOk c.Q.gp w.p false = true →
      handlerIssue kind ins w s = .next (s.raise c causePrivilege 0 (c.members.headD 0) 0#64)) ∧
    (guardOk c.Q.gp w.p false = false → handlerIssue kind ins w s = .next (s.putQuire c (c.past 2 c.Q))) := by
  refine ⟨fun hs hg => by simp [handlerIssue, privileged, h, hs, hg], fun hg => ?_⟩
  have none : c.uniform w.p false = [] := by simp [Ctx.uniform, hg]
  cases hs : c.B.sup <;> simp [handlerIssue, privileged, h, hs, hg, none, State.advance_ctx h]

end

/-- Settles O47: a placed entry, an accepted or answered message, and two privileged issues. -/
theorem springMessages : Obligations.SpringMessages := by
  refine ⟨fun s c w l ls h hroom => ?issue, fun s b ring id o el B e hn he hB hp hf hx => ?arrival, fun s c w h => ?handler⟩
  case issue =>
    intro ea bits o places
    refine ⟨fun hls => ?_, fun hls => ?_⟩
    · exact (sprgIssue_eq h hls).trans (placeEntry_eq h _ hroom rfl)
    · exact (sprgIssue_eq h hls).trans (placeEntry_eq h _ hroom rfl)
  case arrival =>
    intro m sp s1 rank
    obtain ⟨flit, hrank⟩ := countFlit_eq hn he hB
    have eq := (exec_springMessageArrival hn he hB hp hf).trans (congrArg Host.Outcome.next (messageArrives_eq hn he hB hx))
    rw [hrank, flit] at eq
    have same : (s1.delOp id).spring (springOf el.pa) = sp := by
      simp only [s1]
      split <;> rfl
    refine ⟨fun hr hm => ⟨fun hq hh => ?_, fun hq => ?_⟩, fun hr => ?_, fun hr hm => ?_⟩
    · rw [eq, if_neg (by simpa using hr), if_neg (by simpa using hm)]
      refine congrArg Host.Outcome.next (updSpring_congr ?_)
      have room : sp.accept m = { sp with queue := sp.queue ++ [m] } := by simp [Spring.accept, hq, hh]
      rw [same]
      exact congrArg (fun x : Spring => { x with last := (s.clk, rank) }) room
    · rw [eq, if_neg (by simpa using hr), if_neg (by simpa using hm)]
      refine congrArg Host.Outcome.next (updSpring_congr ?_)
      have full : sp.accept m = { sp with held := sp.held ++ [m] } := by
        obtain hq | hq := hq <;> simp [Spring.accept, hq, Nat.not_lt.2]
      rw [same]
      exact congrArg (fun x : Spring => { x with last := (s.clk, rank) }) full
    · rw [eq, if_pos hr]
    · rw [eq, if_neg (by simpa using hr), if_pos hm]
  case handler =>
    intro ls slot img op
    have barred := handlerIssue_barred h w
    have addr : BitVec.ofNat 64 (c.Q.getGPair w.a.toNat).toNat = c.Q.getGPair w.a.toNat := by simp
    refine ⟨fun hs hg => ⟨(barred .hinst (.hinst w)).1 hs hg, (barred .hdrop (.hdrop w)).1 hs hg⟩,
      fun hg => ⟨(barred .hinst (.hinst w)).2 hg, (barred .hdrop (.hdrop w)).2 hg⟩, fun hs hls => ?_, fun hs hls hgr => ?_⟩
    · change handlerIssue .hdrop (.hdrop w) w s = _
      have some : (c.uniform w.p false).isEmpty = false := List.isEmpty_eq_false_iff.2 hls
      simp only [handlerIssue, privileged_sup h hs, some, addr]
      exact congrArg Host.Outcome.next (issueStep_eq h rfl rfl)
    · change handlerIssue .hinst (.hinst w) w s = _
      have some : (c.uniform w.p false).isEmpty = false := List.isEmpty_eq_false_iff.2 hls
      simp only [handlerIssue, privileged_sup h hs, some, addr]
      rw [show (fun _ : Nat => c.Q.getGPair w.a.toNat) = fun _ => img from rfl, checkAccess_ok hgr]
      exact congrArg Host.Outcome.next (issueStep_eq (lookedUp_ctx h) rfl rfl)

end Sys2Proof.Machine

/-! Tarns that leave the ring and come back, and module reset (R274, R275, R456, R457, R460, R461). -/

namespace Sys2Proof.Machine

/-! ### A context that is ended from outside -/

theorem dropResume_blocks (s : State) (B : Block) : (s.dropResume B).blocks = s.blocks := by
  unfold State.dropResume
  split
  · split
    · rfl
    · unfold State.freePlace
      split <;> rfl
  · rfl

theorem block?_congr {s t : State} (h : t.blocks = s.blocks) (b : Nat) : t.block? b = s.block? b := by
  rw [State.block?, State.block?, h]

theorem endContext_self {s : State} {b : Nat} {B : Block} (hB : s.block? b = some B) (cause : Nat) :
    (s.endContext b cause).block? b = some (B.ended 5 (some (s.freeReport cause).1)) := by
  rw [State.endContext, hB]
  exact endTask_block? ((block?_congr (dropResume_blocks (s.freeReport cause).2 B) b).trans hB) _ _

theorem endContext_other (s : State) {b d : Nat} (h : d ≠ b) (cause : Nat) : (s.endContext b cause).block? d = s.block? d := by
  unfold State.endContext
  split
  · rfl
  · next B hB =>
    have keep := dropResume_blocks (s.freeReport cause).2 B
    rw [block?_congr (t := State.endTask _ b 5 _) (s := (s.freeReport cause).2.setBlock b (B.ended 5 (some (s.freeReport cause).1)))]
    · exact State.block?_setBlock_ne (s := (s.freeReport cause).2) _ h
    · rw [endTask_blocks ((block?_congr keep b).trans hB), keep]
      rfl

/-- The temperature of a tarn is no matter of its blocks. -/
theorem endTask_temp (s : State) (b st : Nat) (rep : Option Report) (t : Nat) :
    ((s.endTask b st rep).tarn t).temp = (s.tarn t).temp := by
  have waits (c : Prop) [Decidable c] (u : State) (F : Nat × Tarn → Nat × Tarn) (hk : ∀ e, (F e).1 = e.1) (hF : ∀ e, (F e).2.temp = e.2.temp) :
      ((if c then { u with tarns := u.tarns.map F } else u : State).tarn t).temp = (u.tarn t).temp := by
    split
    · simp only [State.tarn, tget, tget?_map_keys F hk]
      cases tget? u.tarns t with
      | none => rfl
      | some T => exact hF (t, T)
    · rfl
  unfold State.endTask
  split
  · rfl
  · exact waits _ (s.setBlock b _) _ (fun _ => rfl) fun _ => rfl

theorem updTarn_temp (s : State) (g : Nat) (f : Tarn → Tarn) (hf : ∀ T, (f T).temp = T.temp) (t : Nat) :
    ((s.updTarn g f).tarn t).temp = (s.tarn t).temp := by
  by_cases h : t = g
  · rw [h, updTarn_tarn, hf]
  · rw [updTarn_tarn_ne s f h]

theorem dropResume_temp (s : State) (B : Block) (t : Nat) : ((s.dropResume B).tarn t).temp = (s.tarn t).temp := by
  have free (s : State) (p g : Nat) (k : Option Nat) : ((s.freePlace p g k).tarn t).temp = (s.tarn t).temp := by
    unfold State.freePlace
    split
    · rfl
    · exact updTarn_temp s g _ (by intro T; rfl) t
  unfold State.dropResume
  split
  · split
    · rfl
    · exact (free _ _ _ _).trans (updTarn_temp _ _ _ (by intro T; rfl) t)
  · rfl

theorem endContext_temp (s : State) (b cause t : Nat) : ((s.endContext b cause).tarn t).temp = (s.tarn t).temp := by
  unfold State.endContext
  split
  · rfl
  · exact (endTask_temp ..).trans (dropResume_temp ..)

theorem beginStop_tarns (s : State) (b : Nat) (a : BitVec 64) (rq : Bool) : (s.beginStop b a rq).tarns = s.tarns := State.updBlock_tarns ..

/-- The contexts of a tarn begin to stop: an invariant that every such beginning keeps. -/
theorem stopTarn_keeps {P : State → Prop} (hP : ∀ s b a, P s → P (s.beginStop b a true)) {s : State} (h : P s) (t : Nat) :
    P (s.stopTarn t) := by
  have fold {α : Type} {f : State → α → State} (hf : ∀ s a, P s → P (f s a)) (as : List α) (s : State) (h : P s) : P (as.foldl f s) := by
    induction as generalizing s with
    | nil => exact h
    | cons a as ih => exact ih _ (hf s a h)
  refine fold (fun s k h => fold (fun s b h => ?_) _ s h) _ s h
  split
  · exact hP _ _ _ h
  · exact h

/-- What a table answers under a number stands in it. -/
theorem mem_of_tget? {α : Type} {k : Nat} {v : α} : ∀ {t : Tab α}, tget? t k = some v → (k, v) ∈ t
  | (i, a) :: t, h => by
    unfold tget? at h
    split at h
    · next hi =>
      cases h
      exact hi ▸ List.mem_cons_self
    · exact List.mem_cons_of_mem _ (mem_of_tget? h)

/-- A task that has ended with a cause of its own, or with `cause`. -/
def EndedWith (s : State) (b : Nat) (before : Option Report) (cause : Nat) : Prop :=
  ∃ B, s.block? b = some B ∧ B.st = .ending 5 ∧ ∃ r, B.report = some r ∧ (before = none → r.cause = cause)

theorem EndedWith.beginStop {s : State} {b cause : Nat} {before : Option Report} (h : EndedWith s b before cause) (d : Nat) (a : BitVec 64)
    (rq : Bool) : EndedWith (s.beginStop d a rq) b before cause := by
  obtain ⟨B, hB, hst, hr⟩ := h
  by_cases hd : b = d
  · subst hd
    refine ⟨B, ?_, hst, hr⟩
    rw [State.beginStop, State.block?_updBlock hB, hst]
  · refine ⟨B, ?_, hst, hr⟩
    unfold State.beginStop State.updBlock
    split
    · rw [State.block?_setBlock_ne _ _ hd, hB]
    · exact hB

theorem EndedWith.endContext {s : State} {b cause : Nat} {before : Option Report} (h : EndedWith s b before cause) (d : Nat) :
    EndedWith (s.endContext d cause) b before cause := by
  obtain ⟨B, hB, hst, r, hr, hc⟩ := h
  by_cases hd : b = d
  · subst hd
    refine ⟨_, endContext_self hB cause, ?_, r, ?_, hc⟩
    · simp [Block.ended, hst]
    · simp [Block.ended, hr]
  · exact ⟨B, (endContext_other s hd cause).trans hB, hst, r, hr, hc⟩

/-- A running task among those that are ended. -/
theorem endContexts_endedWith {b cause : Nat} {B : Block} (hst : B.st = .running) : ∀ (bs : List Nat), b ∈ bs → ∀ s : State, s.block? b = some B →
    EndedWith (bs.foldl (fun s b => s.endContext b cause) s) b B.report cause
  | d :: bs, hb, s, hB => by
    have rest (bs : List Nat) (s : State) (h : EndedWith s b B.report cause) :
        EndedWith (bs.foldl (fun s b => s.endContext b cause) s) b B.report cause := by
      induction bs generalizing s with
      | nil => exact h
      | cons d bs ih => exact ih _ (h.endContext d)
    rw [List.foldl_cons]
    by_cases hd : b = d
    · subst hd
      refine rest bs _ ⟨_, endContext_self hB cause, by simp [Block.ended, hst], ?_⟩
      cases hr : B.report with
      | none => exact ⟨_, by simp [Block.ended, hr]; rfl, fun _ => rfl⟩
      | some r => exact ⟨r, by simp [Block.ended, hr], fun h => nomatch h⟩
    · exact endContexts_endedWith hst bs ((List.mem_cons.1 hb).resolve_left hd) _ ((endContext_other s hd cause).trans hB)

/-! ### A tarn that halts, one that comes back, and a module reset -/

/-- What a thermal halt leaves, before another tarn of the partition is told. -/
def State.hotHalt (s : State) (t : Nat) : State :=
  let s := s.updTarn t fun T => { T with temp := 105 }
  let mine := (s.blocks.filter fun x => coreTarn x.2.core == t && !x.2.sup).map (·.1)
  (mine.foldl (fun s b => s.endContext b causeThermal) s).haltTarn t

/-- The end of a thermal halt: one of the `others` that is on the ring is told. -/
def State.tellHot (u : State) (t : Nat) (others : List Nat) : Out :=
  match others.find? fun g => g != t && (u.tarn g).st == Online.online with
  | some g => .next (u.postTrap g { kind := 5 })
  | none => .next u

theorem tellHot_next (u : State) (t : Nat) (others : List Nat) :
    ∃ s', u.tellHot t others = .next s' ∧ s'.tarn t = u.tarn t ∧ s'.blocks = u.blocks := by
  unfold State.tellHot
  split
  · next g hg =>
    have other : t ≠ g := fun h => by simpa [← h] using List.find?_some hg
    exact ⟨_, rfl, updTarn_tarn_ne u _ other, rfl⟩
  · exact ⟨u, rfl, rfl, rfl⟩

theorem exec_dramThermalHalt {s : State} {t : Nat} (h : (s.tarn t).st = .online) :
    ∃ others, exec (.dramThermalHalt t) s = (s.hotHalt t).tellHot t others := by
  have running : ¬ ((s.tarn t).st != Online.online) = true := by simp [h]
  have eq : exec (.dramThermalHalt t) s = execDramThermalHalt t s := rfl
  unfold execDramThermalHalt at eq
  rw [if_neg running] at eq
  dsimp only at eq
  generalize hu : State.haltTarn _ t = u at eq
  rw [show s.hotHalt t = u from hu]
  exact ⟨_, eq⟩

theorem haltTarn_tarn (s : State) (t : Nat) : (s.haltTarn t).tarn t = { (s.stopTarn t).tarn t with st := .leaving, cleared := false } := by
  unfold State.haltTarn
  generalize s.stopTarn t = u
  exact updTarn_tarn u t fun T => { T with st := .leaving, cleared := false }

theorem haltTarn_st (s : State) (t : Nat) : ((s.haltTarn t).tarn t).st = .leaving := by rw [haltTarn_tarn]

theorem haltTarn_temp (s : State) (t : Nat) : ((s.haltTarn t).tarn t).temp = ((s.stopTarn t).tarn t).temp := by rw [haltTarn_tarn]

theorem haltTarn_blocks (s : State) (t : Nat) : (s.haltTarn t).blocks = (s.stopTarn t).blocks := by
  unfold State.haltTarn
  generalize s.stopTarn t = u
  rfl

theorem hotHalt_tarn (s : State) (t : Nat) : ((s.hotHalt t).tarn t).st = .leaving ∧ ((s.hotHalt t).tarn t).temp = 105 := by
  have ended (bs : List Nat) (s : State) (h : (s.tarn t).temp = 105) :
      ((bs.foldl (fun s b => s.endContext b causeThermal) s).tarn t).temp = 105 := by
    induction bs generalizing s with
    | nil => exact h
    | cons b bs ih => exact ih _ ((endContext_temp ..).trans h)
  have stopping (s : State) (h : (s.tarn t).temp = 105) : ((s.stopTarn t).tarn t).temp = 105 :=
    stopTarn_keeps (P := fun s => (s.tarn t).temp = 105) (fun s b a h => by rw [State.tarn, beginStop_tarns]; exact h) h t
  unfold State.hotHalt
  exact ⟨haltTarn_st .., (haltTarn_temp ..).trans (stopping _ (ended _ _ (by rw [updTarn_tarn])))⟩

theorem hotHalt_endedWith {s : State} {t b : Nat} {B : Block} (hB : s.block? b = some B) (hc : coreTarn B.core = t) (hs : B.sup = false)
    (hst : B.st = .running) : EndedWith (s.hotHalt t) b B.report causeThermal := by
  have mine : b ∈ (s.blocks.filter fun x => coreTarn x.2.core == t && !x.2.sup).map (·.1) := by
    have listed : (b, B) ∈ s.blocks := by
      unfold State.block? at hB
      split at hB
      · next h => exact mem_of_tget? (h.trans hB)
      · split at hB
        · cases hB
          cases hs
        · cases hB
    exact List.mem_map.2 ⟨(b, B), List.mem_filter.2 ⟨listed, by simp [hc, hs]⟩, rfl⟩
  obtain ⟨C, hC, hend⟩ := stopTarn_keeps (P := fun s => EndedWith s b B.report causeThermal) (fun s d a h => h.beginStop d a true)
    (endContexts_endedWith hst _ mine (s.updTarn t fun T => { T with temp := 105 }) hB) t
  refine ⟨C, (block?_congr ?_ b).trans hC, hend⟩
  unfold State.hotHalt
  exact haltTarn_blocks ..

theorem settleForwarding_none {s : State} {m : Nat} (h : ∀ u, u < 12 → (s.tarn (m * 12 + u)).st ≠ .forwarding) :
    s.settleForwarding m = s := by
  have none : ((List.range 12).find? fun u => (s.tarn (m * 12 + u)).st == Online.forwarding) = none :=
    List.find?_eq_none.2 fun u hu => by simpa using h u (List.mem_range.1 hu)
  rw [State.settleForwarding, none]

/-- No tarn is forwarding because another comes back. -/
theorem readmit_st (s : State) (t g : Nat) (h : (s.tarn g).st ≠ .forwarding) : ((s.readmit t).tarn g).st ≠ .forwarding := by
  have tarn : (s.readmit t).tarn g = (s.updTarn t fun T => { T with st := .online, cleared := true }).tarn g := rfl
  by_cases hg : g = t
  · subst hg
    rw [tarn, updTarn_tarn]
    exact fun h => nomatch h
  · rwa [tarn, updTarn_tarn_ne _ _ hg]

/-- A thread of a tarn that comes back. -/
def Thread.readmitted (t : Nat) (th : Thread) : Thread :=
  match th.wait with
  | .offline _ h _ => if h = t then { th with wait := .none } else th
  | _ => th

theorem readmit_threads (t : Nat) (ts : Tab Thread) (l : Nat) : tget? (ts.map fun th => match th.2.wait with
    | .offline _ h _ => if h = t then (th.1, { th.2 with wait := .none }) else th
    | _ => th) l = (tget? ts l).map (Thread.readmitted t) := by
  have one (e : Nat × Thread) : (match e.2.wait with
      | .offline _ h _ => if h = t then (e.1, { e.2 with wait := .none }) else e
      | _ => e) = (e.1, Thread.readmitted t e.2) := by
    unfold Thread.readmitted
    split
    · split <;> rfl
    · rfl
  simp only [one]
  exact tget?_map ..

/-- A quire of a tarn that comes back. -/
def Quire.readmitted (t : Nat) (Q : Quire) : Quire :=
  { Q with threads := Q.threads.map fun th => match th.2.wait with
      | .offline _ h _ => if h = t then (th.1, { th.2 with wait := .none }) else th
      | _ => th }

/-- A block of a tarn that comes back. -/
def Block.readmitted (t : Nat) (B : Block) : Block := { B with quires := B.quires.map fun q => (q.1, q.2.readmitted t) }

theorem readmit_blocks (s : State) (t : Nat) : (s.readmit t).blocks = s.blocks.map fun b => (b.1, b.2.readmitted t) := rfl

/-- A thread that is not a supervisor core's before its start stands in a listed block. -/
theorem listed_threadAt {s : State} {b q l : Nat} {th : Thread} (h : s.threadAt b q l = some th) (hw : th.wait ≠ .boot) :
    ∃ B Q, tget? s.blocks b = some B ∧ tget? B.quires q = some Q ∧ tget? Q.threads l = some th := by
  unfold State.threadAt at h
  split at h
  case h_2 => cases h
  next B hB =>
  split at h
  case h_2 => cases h
  next Q hQ =>
  unfold State.block? at hB
  split at hB
  · next C hC => exact ⟨B, Q, hC.trans hB, hQ, h⟩
  · split at hB <;> cases hB
    simp only [Block.supervisor, tget?, Option.ite_none_right_eq_some, Option.some.injEq] at hQ
    obtain ⟨_, rfl⟩ := hQ
    simp only [tget?, Option.ite_none_right_eq_some, Option.some.injEq] at h
    exact absurd (h.2 ▸ rfl) hw

theorem readmit_threadAt {s : State} {t b q l since : Nat} {ea : BitVec 64} {th : Thread} (h : s.threadAt b q l = some th)
    (hw : th.wait = .offline since t ea) : (s.readmit t).threadAt b q l = some { th with wait := .none } := by
  have back : th.readmitted t = { th with wait := .none } := by simp [Thread.readmitted, hw]
  obtain ⟨B, Q, hB, hQ, hT⟩ := listed_threadAt h (by simp [hw])
  have block : (s.readmit t).block? b = some (B.readmitted t) := by
    rw [State.block?, readmit_blocks, tget?_map, hB]
    rfl
  have quire := (tget?_map (Quire.readmitted t) q B.quires).trans (congrArg (Option.map _) hQ)
  rw [State.threadAt_of block quire, Quire.readmitted, readmit_threads, hT, Option.map_some, back]

/-- The entries of a table whose numbers are kept. -/
theorem tget?_filter {α : Type} (p : Nat → Bool) (t : Tab α) (k : Nat) :
    tget? (t.filter fun x => p x.1) k = if p k then tget? t k else none := by
  induction t with
  | nil => simp [tget?]
  | cons e t ih =>
    obtain ⟨i, a⟩ := e
    by_cases hk : i = k
    · subst hk
      by_cases hp : p i <;> simp [tget?, hp, ih]
    · by_cases hp : p i <;> simp [tget?, hp, hk, ih]

theorem tget_filter_kept {α : Type} {p : Nat → Bool} {k : Nat} (h : p k = true) (t : Tab α) (d : α) :
    tget (t.filter fun x => p x.1) k d = tget t k d := by
  rw [tget, tget?_filter, if_pos h, tget]

theorem tget_filter_gone {α : Type} {p : Nat → Bool} {k : Nat} (h : p k = false) (t : Tab α) (d : α) :
    tget (t.filter fun x => p x.1) k d = d := by
  rw [tget, tget?_filter, if_neg (by simp [h])]
  rfl

/-- Settles O59: each event at its guard, and what a reset keeps. -/
theorem ringAndReset : Obligations.RingAndReset := by
  refine ⟨fun s t h => ?hot, fun s t h => ?cold, fun s t hf hw hc ho => ?back, fun s t b q l since ea th h hw => ⟨?_, readmit_threadAt h hw⟩,
    fun s t hf hc => ?cleared, fun T => ⟨rfl, rfl, rfl, rfl, rfl, rfl, rfl, rfl, rfl, rfl, rfl, rfl⟩, fun s m => ?reset⟩
  case hot =>
    obtain ⟨others, he⟩ := exec_dramThermalHalt h
    obtain ⟨s', hs', ht, hb⟩ := tellHot_next (s.hotHalt t) t others
    obtain ⟨hst, htemp⟩ := hotHalt_tarn s t
    rw [← ht] at hst htemp
    refine ⟨s', he.trans hs', hst, htemp, fun b B hB hc hs hr B' hB' => ?_⟩
    obtain ⟨C, hC, hend⟩ := hotHalt_endedWith hB hc hs hr
    rw [block?_congr hb, hC] at hB'
    exact Option.some.inj hB' ▸ hend
  case cold =>
    change execDramThermalHalt t s = _
    rw [execDramThermalHalt, if_pos (by simp [h])]
  case back =>
    have none : (s.ops.filter fun x => x.2.kind == .twrst && x.2.n == t && x.2.m == 1) = [] := by
      refine List.filter_eq_nil_iff.2 fun ⟨i, o⟩ ho hx => ?_
      simp only [Bool.and_eq_true, beq_iff_eq] at hx
      exact hw i o ho hx.1.1 hx.1.2 hx.2
    change execTarnReadmission t s = _
    simp only [execTarnReadmission, hf, if_pos hc, none, List.foldl_nil]
    split
    · exact congrArg Host.Outcome.next (settleForwarding_none fun u hu => readmit_st _ t _ (ho u hu))
    · rfl
  case cleared =>
    change execTarnReadmission t s = _
    simp [execTarnReadmission, hf, hc]
  case reset =>
    refine ⟨_, rfl, ?_, fun t h => ?_, fun t h => ?_, fun k h => ?_, fun k h => ?_, fun a h => ?_, rfl⟩
    · simp [State.modClk]
    · exact tget_filter_gone (p := fun i => !(tarnModule i == m)) (by simp [h]) s.tarns {}
    · exact tget_filter_kept (p := fun i => !(tarnModule i == m)) (by simp [h]) s.tarns {}
    · exact tget_filter_gone (p := fun i => !(tarnModule (coreTarn i) == m)) (by simp [h]) s.cores {}
    · exact tget_filter_kept (p := fun i => !(tarnModule (coreTarn i) == m)) (by simp [h]) s.cores {}
    · exact tget_filter_kept (p := fun i => paModule i != m) (by simp [h]) s.mem 0#8
  · exact congrArg Tarn.st (updTarn_tarn s t fun T => { T with st := .online, cleared := true })

end Sys2Proof.Machine

/-! The host: launches, registers and memory windows, TDISP and SPDM (R6, R275, R479 to R483). -/

namespace Sys2Proof.Machine

/-! ### The registers of the window -/

theorem exec_lwin_taken {s : State} {p : Nat} {g : Nat} (r : BitVec 512) (hg : g ∈ (s.part (p % 16)).tarns) (hm : tarnModule g = p / 16)
    (hr : (s.part (p % 16)).tdisp = .run) : exec (.lwin p r true) s = .next { s with
      next := s.next + 1
      ops := tput s.ops s.next { kind := .launch, ins := .lwin p r true, blk := s.next, q := 0, lanes := 0#32 } } := by
  have window : (s.windowTarn p).isSome = true := List.find?_isSome.2 ⟨g, hg, by simp [hm]⟩
  change execLwin p r true s = _
  rw [execLwin, if_pos (by simp [hr, window])]
  rfl

theorem exec_lwin_dropped {s : State} {p : Nat} {r : BitVec 512} {whole : Bool}
    (h : whole = false ∨ (s.part (p % 16)).tdisp ≠ .run ∨ ∀ g ∈ (s.part (p % 16)).tarns, tarnModule g ≠ p / 16) :
    exec (.lwin p r whole) s = .next (s.updPart (p % 16) fun P => { P with lwdrop := (P.lwdrop + 1) % 2 ^ 64 }) := by
  change execLwin p r whole s = _
  refine if_neg fun hw => ?_
  simp only [Bool.and_eq_true, beq_iff_eq, State.windowTarn, List.find?_isSome] at hw
  obtain ⟨⟨hwhole, hrun⟩, g, hg, hm⟩ := hw
  obtain h | h | h := h
  · exact Bool.false_ne_true (h.symm.trans hwhole)
  · exact h hrun
  · exact h g hg hm

theorem exec_readBar0 {s : State} {p off : Nat} (hp : p < 16) : exec (.lwdropRead (p + 16 * (off + 1))) s = .next (s.readBar0 p off) := by
  have part : (p + 16 * (off + 1)) % 16 = p := by omega
  have offset : (p + 16 * (off + 1)) / 16 - 1 = off := by omega
  change execLwdropRead _ s = _
  rw [execLwdropRead, part, if_neg (by omega), offset]

theorem readBar0_eq (s : State) (p off : Nat) : s.readBar0 p off =
    { s.updPart p fun _ => if off = 0x40 then { s.part p with lwdrop := 0 } else s.part p with
      hostRead := (p * 2 ^ 40 + off, (s.part p).bar0 off s.freeNat) :: s.hostRead, free := s.free + 1 } := by
  have offset : p * 2 ^ 40 + 0 * 2 ^ 36 + off = p * 2 ^ 40 + off := by rw [Nat.zero_mul, Nat.add_zero]
  unfold State.readBar0 State.answer
  rw [offset]
  rfl

theorem bar0_low {P : Part} {off : Nat} (h : off < 0x40) (free : Nat) : P.bar0 off free = 0 := by
  unfold Part.bar0
  split
  case h_9 => exact if_pos h
  all_goals omega

theorem exec_setBar0 {s : State} {p off : Nat} {v : BitVec 64}
    (h : off = 0x48 ∨ off = 0x50 ∨ ¬ ((s.part p).tdisp = .locked ∨ (s.part p).tdisp = .run)) :
    exec (.bar0RegisterWrite p off v) s =
      .next { s.updPart p fun _ => (s.part p).setBar0 off v s.freeNat with free := s.free + 1 } := by
  change execBar0RegisterWrite p off v s = _
  unfold execBar0RegisterWrite
  dsimp only
  rw [if_neg]
  · rfl
  · simp only [Bool.and_eq_true, Bool.or_eq_true, beq_iff_eq, bne_iff_ne]
    rintro ⟨⟨ht, h48⟩, h50⟩
    exact h.elim h48 fun h => h.elim h50 fun h => h ht

theorem aligned64K_of {v : BitVec 64} (h : v.toNat % 65536 = 0) (free : Nat) : aligned64K v free = v := if_pos h

/-! ### The memory window -/

/-- An access within one line of a mapped page at an online home that is not held. -/
theorem exec_bar2Access {s : State} {p off n : Nat} {t : Nat} {ts : List Nat} {x : Xlat} (d : BitVec 512) (w : Bool) (ht : (s.part p).tarns = t :: ts)
    (hn : 1 ≤ n) (hv : ((s.part p).hwbase.toNat + off) % 2 ^ 64 % 64 + n ≤ 64) (ho : off + n ≤ 2 ^ 36)
    (hp : pieces (((s.part p).hwbase.toNat + off) % 2 ^ 64) n = [(((s.part p).hwbase.toNat + off) % 2 ^ 64, n)])
    (hw : (s.walk t p (((s.part p).hwbase.toNat + off) % 2 ^ 64)).2 = .ok x)
    (ha : x.pa (((s.part p).hwbase.toNat + off) % 2 ^ 64) % 64 + n ≤ 64)
    (hh : s.homeOffline (x.pa (((s.part p).hwbase.toNat + off) % 2 ^ 64)) = false)
    (hpo : s.isPoisoned (lineOf (x.pa (((s.part p).hwbase.toNat + off) % 2 ^ 64))) = false)
    (hd : s.dramHeld (lineOf (x.pa (((s.part p).hwbase.toNat + off) % 2 ^ 64))) = false)
    (hx : x.permits true w false (((s.part p).hwbase.toNat + off) % 2 ^ 64) = true) :
    (w = true → exec (.bar2Access p off n w d) s =
      .next (s.writeVa t p (((s.part p).hwbase.toNat + off) % 2 ^ 64) (leBytes n d.toNat))) ∧
    (w = false → ∀ bs s', s.readVa t p (((s.part p).hwbase.toNat + off) % 2 ^ 64) n = (s', some bs) →
      exec (.bar2Access p off n w d) s = .next (s'.answer p 2 off (leNat bs))) := by
  generalize hva : ((s.part p).hwbase.toNat + off) % 2 ^ 64 = va at *
  have one : (x.pa va % 64 + n + 63) / 64 = 1 := by omega
  have sizes : ¬ (((t :: ts).isEmpty || decide (n = 0) || decide (64 < n) || decide (2 ^ 36 < off + n)) = true) := by
    have large : ¬ 64 < n := by omega
    simp [Nat.ne_of_gt hn, large, Nat.not_lt.2 ho, -Nat.reducePow]
  have eq : exec (.bar2Access p off n w d) s = execBar2Access p off n w d s := rfl
  unfold execBar2Access at eq
  simp only [ht, hva, hp, List.headD_cons, if_neg sizes] at eq
  rw [eq]
  refine ⟨fun h => ?_, fun h bs s' hr => ?_⟩ <;> subst h
  · simp [hw, hx, one, hh, hpo, hd]
  · simp [hw, hx, one, hh, hpo, hr, hd, -Nat.reducePow]

/-! ### TDISP -/

/-- A partition after the request for state k. -/
def Part.moved (P : Part) (k : Nat) : Part :=
  match P.tdisp, k with
  | .unlocked, 1 => { P with tdisp := .locked }
  | .locked, 2 => { P with tdisp := .run }
  | _, 0 => { P with tdisp := .unlocked }
  | _, _ => P

theorem moved_back (P : Part) : P.moved 0 = { P with tdisp := .unlocked } := by
  unfold Part.moved
  cases P.tdisp <;> rfl

theorem moved_locked {P : Part} (h : P.tdisp = .unlocked) : P.moved 1 = { P with tdisp := .locked } := by
  simp [Part.moved, h]

theorem moved_run {P : Part} (h : P.tdisp = .locked) : P.moved 2 = { P with tdisp := .run } := by
  simp [Part.moved, h]

theorem moved_not {P : Part} (h : P.tdisp = .unlocked) : P.moved 2 = P := by
  simp [Part.moved, h]

theorem exec_tdispStateTransition (s : State) (p k : Nat) :
    exec (.tdispStateTransition p k) s = .next (s.updPart p fun _ => (s.part p).moved k) := rfl

/-- What a fold reaches by one of its steps, when every step keeps it and the condition it starts from. -/
theorem foldl_reaches {σ α : Type} {P Q : σ → Prop} {f : σ → α → σ} {a : α} (hP : ∀ s b, P s → P (f s b)) (hQ : ∀ s b, Q s → Q (f s b))
    (ha : ∀ s, P s → Q (f s a)) : ∀ (as : List α), a ∈ as → ∀ s, P s → Q (as.foldl f s)
  | b :: bs, h, s, hs => by
    have rest (bs : List α) (s : σ) (h : Q s) : Q (bs.foldl f s) := by
      induction bs generalizing s with
      | nil => exact h
      | cons b bs ih => exact ih _ (hQ s b h)
    obtain rfl | h := List.mem_cons.1 h
    · exact rest bs _ (ha s hs)
    · exact foldl_reaches hP hQ ha bs h _ (hP s b hs)

theorem beginStop_other (s : State) {b d : Nat} (h : b ≠ d) (a : BitVec 64) (rq : Bool) : (s.beginStop d a rq).block? b = s.block? b := by
  unfold State.beginStop State.updBlock
  split
  · exact State.block?_setBlock_ne _ _ h
  · rfl

/-- A block that has begun to stop with a RESUME record. -/
def Stopping (s : State) (b : Nat) : Prop := ∃ B a, s.block? b = some B ∧ B.st = .stopping a true

theorem Stopping.beginStop {s : State} {b : Nat} (h : Stopping s b) (d : Nat) (a : BitVec 64) : Stopping (s.beginStop d a true) b := by
  obtain ⟨B, a', hB, hst⟩ := h
  refine ⟨B, a', ?_, hst⟩
  by_cases hd : b = d
  · subst hd
    rw [State.beginStop, State.block?_updBlock hB, hst]
  · rw [beginStop_other _ hd, hB]

/-- A block that runs, or has begun to stop, while the cores have what they had. -/
def StopsSoon (cores : Tab Core) (b : Nat) (s : State) : Prop :=
  s.cores = cores ∧ ((∃ B, s.block? b = some B ∧ B.st = .running) ∨ Stopping s b)

theorem StopsSoon.beginStop_self {cores : Tab Core} {s : State} {b : Nat} (h : StopsSoon cores b s) (a : BitVec 64) :
    Stopping (s.beginStop b a true) b := by
  obtain ⟨B, hB, hst⟩ | h := h.2
  · refine ⟨{ B with st := .stopping a true }, a, ?_, rfl⟩
    rw [State.beginStop, State.block?_updBlock hB, hst]
  · exact h.beginStop b a

theorem StopsSoon.beginStop {cores : Tab Core} {s : State} {b : Nat} (h : StopsSoon cores b s) (d : Nat) (a : BitVec 64) :
    StopsSoon cores b (s.beginStop d a true) := by
  refine ⟨(State.updBlock_cores ..).trans h.1, ?_⟩
  by_cases hd : b = d
  · exact .inr (hd ▸ h.beginStop_self a)
  · exact h.2.imp (fun ⟨B, hB, hst⟩ => ⟨B, (beginStop_other s hd a true).trans hB, hst⟩) fun h => h.beginStop d a

/-- One context that a stop of its tarn meets. -/
def State.stopOne (s : State) (core b : Nat) : State :=
  match s.block? b with | some B => s.beginStop b (Config.resetSave B.part core) true | none => s

theorem stopTarn_eq (s : State) (t : Nat) : s.stopTarn t = (List.range 24).foldl (fun s k =>
    ((s.core (t * 25 + k)).run.toList ++ (s.core (t * 25 + k)).waiting).foldl (fun s b => s.stopOne (t * 25 + k) b) s) s := rfl

theorem stopOne_keeps {P : State → Prop} (hP : ∀ s b a, P s → P (s.beginStop b a true)) {s : State} (h : P s) (core b : Nat) :
    P (s.stopOne core b) := by
  unfold State.stopOne
  split
  · exact hP _ _ _ h
  · exact h

theorem StopsSoon.stopOne_self {cores : Tab Core} {s : State} {b : Nat} (h : StopsSoon cores b s) (core : Nat) :
    Stopping (s.stopOne core b) b := by
  unfold State.stopOne
  split
  · exact h.beginStop_self _
  · next hn =>
    obtain ⟨B, hB, _⟩ | ⟨B, _, hB, _⟩ := h.2 <;> rw [hn] at hB <;> cases hB

/-- What stands on a core of the tarn has begun to stop. -/
theorem StopsSoon.stopTarn_self {cores : Tab Core} {s : State} {b t c : Nat} (h : StopsSoon cores b s) (hc : c < 24)
    (hr : (tget cores (t * 25 + c) {}).run = some b) : Stopping (s.stopTarn t) b := by
  have soon (s : State) (k d : Nat) (h : StopsSoon cores b s) := stopOne_keeps (fun s d a h => h.beginStop d a) h (t * 25 + k) d
  have stopping (s : State) (k d : Nat) (h : Stopping s b) :=
    stopOne_keeps (P := fun s => Stopping s b) (fun s d a h => h.beginStop d a) h (t * 25 + k) d
  have keep {P : State → Prop} {k : Nat} (hP : ∀ s d, P s → P (s.stopOne (t * 25 + k) d)) (bs : List Nat) (s : State) (h : P s) :
      P (bs.foldl (fun s b => s.stopOne (t * 25 + k) b) s) := by
    induction bs generalizing s with
    | nil => exact h
    | cons d bs ih => exact ih _ (hP s d h)
  rw [stopTarn_eq]
  refine foldl_reaches (P := StopsSoon cores b) (Q := fun s => Stopping s b) (a := c) (fun s k h => keep (fun s d => soon s k d) _ s h)
    (fun s k h => keep (fun s d => stopping s k d) _ s h) (fun s h => ?_) _ (List.mem_range.2 hc) s h
  refine foldl_reaches (fun s d => soon s c d) (fun s d => stopping s c d) (fun s h => h.stopOne_self _) _ ?_ s h
  rw [State.core, h.1, hr]
  exact List.mem_append_left _ List.mem_cons_self

/-- The tarns of a list stop. -/
def State.stopTarns (s : State) (ts : List Nat) : State := ts.foldl (fun s t => s.stopTarn t) s

theorem stopTarns_mem (s : State) (ts : List Nat) : (s.stopTarns ts).mem = s.mem := by
  unfold State.stopTarns
  induction ts generalizing s with
  | nil => rfl
  | cons t ts ih =>
    have stopped : (s.stopTarn t).mem = s.mem :=
      stopTarn_keeps (P := fun u => u.mem = s.mem) (fun u b a h => (State.updBlock_mem ..).trans h) rfl t
    rw [List.foldl_cons, ih, stopped]

theorem stopTarns_stopping {s : State} {ts : List Nat} {g c b : Nat} {B : Block} (hg : g ∈ ts) (hc : c < 24)
    (hr : (s.core (g * 25 + c)).run = some b) (hB : s.block? b = some B) (hst : B.st = .running) : Stopping (s.stopTarns ts) b :=
  foldl_reaches (P := StopsSoon s.cores b) (Q := fun s => Stopping s b)
    (fun _ t h => stopTarn_keeps (fun _ d a h => h.beginStop d a) h t)
    (fun _ t h => stopTarn_keeps (P := fun s => Stopping s b) (fun _ d a h => h.beginStop d a) h t)
    (fun _ h => h.stopTarn_self hc hr) ts hg s ⟨rfl, .inl ⟨B, hB, hst⟩⟩

/-- A partition in ERROR. -/
def State.inError (s : State) (p : Nat) : State :=
  { s.updPart p fun P => { P with tdisp := .error } with keys := s.keys.filter fun k => k.2.part != p }

theorem tdispError_eq (s : State) (p : Nat) : s.tdispError p = (s.stopTarns (s.part p).tarns).inError p := rfl

/-- Settles O60: each register, window and step as its definition says. -/
theorem hostAndTrust : Obligations.HostAndTrust := by
  refine ⟨⟨fun s p r whole => ⟨fun g hg hm hw hr => ?lwin, exec_lwin_dropped⟩, fun s p off hp => ⟨?count, ?reads⟩, fun s p off v => ?writes,
    fun s p off n d t ts x ht => ?window⟩, fun s p k => ?tdisp, fun s p => ?error, fun s t => ?halt, fun s p x => ?spdm⟩
  case lwin => exact hw ▸ exec_lwin_taken r hg hm hr
  case count =>
    rw [exec_readBar0 hp]
    change execLwdropRead p s = _
    rw [execLwdropRead, Nat.mod_eq_of_lt hp, if_pos hp]
  case reads =>
    intro reads
    have read {v : Nat} {P' : Part} (hv : (s.part p).bar0 off s.freeNat = v)
        (hP : (if off = 0x40 then { s.part p with lwdrop := 0 } else s.part p) = P') : reads v P' := by
      refine (exec_readBar0 hp).trans ?_
      rw [← hP, ← hv, readBar0_eq]
    refine ⟨?_, fun h => read (bar0_low h _) (if_neg (by omega)), ?_, ?_, ?_, ?_, ?_, ?_, ?_⟩ <;> (rintro rfl; exact read rfl rfl)
  case writes =>
    intro P frozen sets
    have set (h : off = 0x48 ∨ off = 0x50 ∨ ¬ frozen) {P' : Part} (hP : (s.part p).setBar0 off v s.freeNat = P') : sets P' := by
      rw [← hP]
      exact exec_setBar0 h
    refine ⟨fun hf h48 h50 => ?_, fun h => set (.inl h) (by rw [h]; rfl), fun h hv => set (.inr (.inl h)) ?_,
      fun hf => ⟨fun h => set (.inr (.inr hf)) (by rw [h]; rfl), fun h => set (.inr (.inr hf)) (by rw [h]; rfl),
        fun hv => ⟨fun h => set (.inr (.inr hf)) ?_, fun h => set (.inr (.inr hf)) ?_, fun h => set (.inr (.inr hf)) ?_⟩⟩⟩
    · change execBar0RegisterWrite p off v s = _
      unfold execBar0RegisterWrite
      dsimp only
      rw [if_pos]
      simpa [h48, h50] using hf
    · rw [h]
      exact congrArg (fun k => { s.part p with wdper := k }) (if_pos hv)
    · rw [h]
      exact congrArg (fun k => { s.part p with ovfbase := k }) (aligned64K_of hv _)
    · rw [h]
      exact congrArg (fun k => { s.part p with shbase := k }) (aligned64K_of hv _)
    · rw [h]
      exact congrArg (fun k => { s.part p with hwbase := k }) (aligned64K_of hv _)
  case window =>
    intro va pa hn hv ho hp hw ha hh hoff hpo hd
    exact ⟨fun hx => (exec_bar2Access d true ht hn hv ho hp hw ha hoff hpo hd hx).1 rfl,
      fun hx => (exec_bar2Access d false ht hn hv ho hp hw ha hoff hpo hd hx).2 rfl⟩
  case tdisp =>
    have goes {x : Tdisp} (h : (s.part p).moved k = { s.part p with tdisp := x }) :
        exec (.tdispStateTransition p k) s = .next (s.updPart p fun P => { P with tdisp := x }) := by
      rw [exec_tdispStateTransition, h]
      rfl
    refine ⟨fun h => goes ?_, fun h ht => goes ?_, fun h ht => goes ?_, fun h ht => goes ?_⟩
    · rw [h, moved_back]
    · rw [h, moved_locked ht]
    · rw [h, moved_run ht]
    · rw [h, moved_not ht, ← ht]
  case error =>
    have mem := stopTarns_mem s (s.part p).tarns
    refine ⟨_, congrArg Host.Outcome.next (tdispError_eq s p), ?_⟩
    have stopping {g c b : Nat} {B : Block} := stopTarns_stopping (s := s) (ts := (s.part p).tarns) (g := g) (c := c) (b := b) (B := B)
    generalize s.stopTarns (s.part p).tarns = u at mem stopping
    refine ⟨?_, mem, fun k x hx => bne_iff_ne.1 (List.mem_filter.1 (mem_of_tget? hx)).2, fun g c b B hg hc hr hB hst => ?_⟩
    · exact congrArg Part.tdisp (State.part_updPart_self u p fun P => { P with tdisp := .error })
    · obtain ⟨B', a, hB', hst'⟩ := stopping hg hc hr hB hst
      exact ⟨B', a, hB', hst'⟩
  case halt =>
    refine ⟨fun h => ?_, fun h => ?_⟩
    · change execForwardingStopFailure t s = _
      rw [execForwardingStopFailure, if_neg (by simp [h])]
    · change execForwardingStopFailure t s = _
      rw [execForwardingStopFailure, if_pos (by simp [h])]
  case spdm => exact ⟨rfl, rfl, rfl, rfl, rfl, rfl, rfl, rfl, rfl⟩

end Sys2Proof.Machine

/-! CTXGO while the walk to its save area meets an offline home (R449, R456). -/

namespace Sys2Proof.Machine

/-- The group that issues CTXGO. -/
def resumeGroup : Group := { lanes := 1#32, clause := 0#64, words := [0#32, 0#32], widx := 1, sfa := 15, sfb := 15, yld := false }

def resumeQuire : Quire := { threads := [(0, {})], groups := [(1, resumeGroup)] }

/-- The supervisor core of tarn 1. -/
def resumeBlock : Block :=
  { core := 49, part := 0, lid := 0, bflat := 0, ltarn := 1, code := 0#64, frame := 0#64, sup := true, quires := [(0, resumeQuire)] }

/-- Tarn 0, the home of the root table, has left the ring. -/
def resuming : State :=
  { State.reset with blocks := [(1, resumeBlock)], cur := .group 1 0 1, tarns := [(0, { st := .folded })] }

def resumeCtx : Ctx := ⟨1, 0, 1, resumeBlock, resumeQuire, resumeGroup⟩

/-- CTXGO of core 0 and the save area at 0. -/
def resumeWord : W2 := ⟨7#3, false, 0#7, 0#7, 0#7, .imm 0#5 0#20⟩

/-- Whether the group still stands before its instruction. -/
def groupHeld : Out → Option Bool
  | .next t => (t.quireAt 1 0).bind fun Q => (tget? Q.groups 1).map (·.held)
  | _ => none

theorem groupHeld_ctxgo : groupHeld (exec (.ctxgo resumeWord) resuming) = some true := by decide

theorem resume_unread : (resuming.resume 25 (resuming.partOf resumeBlock) 0#64).2 = some 2 := by decide

theorem groupHeld_replied : groupHeld (.next ((resuming.resume 25 (resuming.partOf resumeBlock) 0#64).1.replyG resumeCtx 0#7 2)) = some false := by
  decide

/-- Refutes O56: with the home of its save area offline (here that of the table entry that names its page), CTXGO waits and gives no
answer; the statement's CTXGO answers as though the area could be read. -/
theorem not_supervisorInstructions : ¬ Obligations.SupervisorInstructions := by
  rintro ⟨-, system⟩
  obtain ⟨-, acts⟩ := system resuming resumeCtx resumeWord rfl rfl
  obtain ⟨-, -, -, -, -, -, -, -, ctxgo, -⟩ := acts (by decide)
  obtain ⟨-, answered⟩ := ctxgo (by decide)
  have h := congrArg groupHeld (answered 2 resume_unread)
  rw [groupHeld_ctxgo] at h
  exact absurd (h.trans groupHeld_replied) (by decide)

end Sys2Proof.Machine

/-! Service calls, trap entry and return (R441 to R444). -/

namespace Sys2Proof.Machine

/-! ### One block changes -/

theorem State.block?_updBlock_ne (s : State) {b d : Nat} (f : Block → Block) (h : d ≠ b) : (s.updBlock b f).block? d = s.block? d := by
  unfold State.updBlock
  split
  · exact State.block?_setBlock_ne s _ h
  · rfl

theorem State.block?_updQuire_ne (s : State) {b d : Nat} (q : Nat) (f : Quire → Quire) (h : d ≠ b) :
    (s.updQuire b q f).block? d = s.block? d := State.block?_updBlock_ne s _ h

theorem State.quireAt_of_block? {s t : State} {b : Nat} (h : t.block? b = s.block? b) (q : Nat) : t.quireAt b q = s.quireAt b q := by
  rw [State.quireAt, State.quireAt, h]

theorem State.threadAt_of_block? {s t : State} {b : Nat} (h : t.block? b = s.block? b) (q l : Nat) : t.threadAt b q l = s.threadAt b q l := by
  rw [State.threadAt, State.threadAt, h]

theorem State.threadAt_some {s : State} {b q l : Nat} {th : Thread} (h : s.threadAt b q l = some th) :
    ∃ B Q, s.block? b = some B ∧ tget? B.quires q = some Q ∧ tget? Q.threads l = some th := by
  unfold State.threadAt at h
  split at h
  · next B hB =>
    split at h
    · next Q hQ => exact ⟨B, Q, hB, hQ, h⟩
    · cases h
  · cases h

/-- The lanes of a mask given as a number. -/
theorem mem_laneList_ofNat {m l : Nat} : l ∈ laneList (BitVec.ofNat 32 m) ↔ l < 32 ∧ m.testBit l = true := by
  rw [mem_laneList]
  simp +contextual [BitVec.getLsbD_ofNat]

/-! ### Service calls -/

/-- The issuing group goes past an instruction without some lanes. -/
theorem State.putQuire_gone (s : State) (c : Ctx) {Q : Quire} (hg : tget? Q.groups c.gid = some c.gr) (k : Nat) (ls : List Nat) :
    ((s.putQuire c Q).advance c k).leave c ls = s.putQuire c (c.gone k ls Q) := by
  rw [State.putQuire_advance _ hg, State.leave,
    State.putQuire_updGroup (Q := c.past k Q) (g := { c.gr with widx := c.gr.widx + k, stage := 0 }) s c (by simp [Ctx.past])]
  simp [Ctx.past, Ctx.gone]

section
variable {s : State} {c : Ctx} (h : s.ctx? = some c)
include h

theorem advance_leave (k : Nat) (ls : List Nat) : (s.advance c k).leave c ls = s.putQuire c (c.gone k ls c.Q) := by
  obtain ⟨-, -, -, hg⟩ := State.ctx_iff.1 h
  rw [State.advance_ctx h, ← State.putQuire_advance c.Q hg k, State.putQuire_gone s c hg]

/-- SYSC by what its group finds. -/
theorem exec_sysc (w : WSysc) {l : Nat} {ls : List Nat} (hl : c.uniform w.p w.n = l :: ls) : exec (.sysc w) s =
    if c.B.sup then s.illegal c 0xB
    else if 64 ≤ (s.tarn (coreTarn c.B.core)).traps.length then .next (s.stall c)
    else if !((s.coversOf c.b c.q c.Q (l :: ls)).all fun i => s.performedAt 4 i) then
      .next ((s.pushBack 4 (s.coversOf c.b c.q c.Q (l :: ls))).stall c)
    else .next ((s.putQuire c (c.gone 1 (l :: ls) ((c.Q.onLanes (l :: ls) (c.fencePassed s 0 4)).onLanes (l :: ls)
      fun _ th => { th with pc := c.gr.nextClause, wait := .sysc }))).postTrap (coreTarn c.B.core)
        { kind := 1, ident := identOf c.B c.q l, service := w.service.toNat
          blk := some c.b, caller := some (c.b, c.q, (laneMask (l :: ls)).toNat) }) := by
  obtain ⟨-, -, -, hg⟩ := State.ctx_iff.1 h
  have parked : (((s.fenceLanes c.b c.q c.Q (l :: ls) 0 4 c.B.core).mapLanes c.b c.q (l :: ls) fun _ th =>
      { th with pc := c.gr.nextClause, wait := .sysc }).advance c 1).leave c (l :: ls) =
      s.putQuire c (c.gone 1 (l :: ls) ((c.Q.onLanes (l :: ls) (c.fencePassed s 0 4)).onLanes (l :: ls)
        fun _ th => { th with pc := c.gr.nextClause, wait := .sysc })) := by
    rw [fenceLanes_eq, State.mapLanes_ctx h, State.putQuire_mapLanes, State.putQuire_gone s c (by simpa using hg)]
  change execSysc w s = _
  simp only [execSysc, h, hl, parked]

/-- The threads of a service call that parks. -/
theorem sysc_threads {ls : List Nat} (u : State) (hu : u.blocks = (s.putQuire c (c.gone 1 ls ((c.Q.onLanes ls (c.fencePassed s 0 4)).onLanes ls
      fun _ th => { th with pc := c.gr.nextClause, wait := .sysc }))).blocks) {k : Nat} {th : Thread} (hk : k ∈ ls)
    (ht : s.threadAt c.b c.q k = some th) : ∃ th', u.threadAt c.b c.q k = some th' ∧
      th'.pc = c.gr.clause + BitVec.ofNat 64 (4 * (1 + c.gr.words.length)) ∧ th'.wait = .sysc ∧ th'.v = th.v ∧ th'.p = th.p := by
  obtain ⟨-, hB, hQ, -⟩ := State.ctx_iff.1 h
  rw [State.threadAt_of hB hQ] at ht
  refine ⟨{ c.fencePassed s 0 4 k th with pc := c.gr.nextClause, wait := .sysc }, ?_, rfl, rfl, ?_, ?_⟩
  · rw [State.threadAt_of_block? (block?_congr hu c.b), State.threadAt_eq, State.putQuire_quireAt, Option.bind_some, Ctx.gone,
      Quire.onLanes_thread, Quire.onLanes_thread, ht]
    simp [hk]
  · rfl
  · rfl

end

/-! ### Traps -/

/-- The head of a queue of traps is taken between clauses only. -/
theorem exec_trapEntry {s : State} {t : Nat} {tr : Trap} {rest : List Trap} (ht : (s.tarn t).traps = tr :: rest) : exec (.trapEntry t) s =
    if ((s.tarn t).intrap || !(s.tarn t).own.isEmpty || !s.supFree t) = true then .next s
    else .next (((s.updTarn t fun T => { T with traps := rest }).takeTrap t tr).hearCaller t tr) := by
  change execTrapEntry t s = _
  simp only [execTrapEntry, ht]

theorem exec_trapEntry_own {s : State} {t : Nat} (ho : (s.tarn t).own ≠ []) : exec (.trapEntry t) s = .next s := by
  change execTrapEntry t s = _
  unfold execTrapEntry
  dsimp only
  split
  · rfl
  · rw [if_pos]
    simp [ho]

theorem exec_ownTrap {s : State} {t : Nat} {tr : Trap} {rest : List Trap} (ht : (s.tarn t).own = tr :: rest) : exec (.ownTrap t) s =
    if ((s.tarn t).intrap || !s.supFree t) = true then .next s
    else .next ((s.updTarn t fun T => { T with own := rest }).takeTrap t tr) := by
  change execOwnTrap t s = _
  simp only [execOwnTrap, ht]

/-- What the callers of a service call have fenced. -/
def State.callersFenced (s : State) (b q m : Nat) : List Nat :=
  (laneList (BitVec.ofNat 32 m)).foldl (fun a l => addNew a (match s.threadAt b q l with | some (th : Thread) => th.fenced | none => [])) []

theorem mem_callersFenced {s : State} {b q m i : Nat} : i ∈ s.callersFenced b q m ↔
    ∃ l u, l < 32 ∧ m.testBit l = true ∧ s.threadAt b q l = some u ∧ i ∈ u.fenced := by
  have fold (f : Nat → List Nat) (ls : List Nat) (a : List Nat) :
      i ∈ ls.foldl (fun a l => addNew a (f l)) a ↔ i ∈ a ∨ ∃ l ∈ ls, i ∈ f l := by
    induction ls generalizing a with
    | nil => simp
    | cons l ls ih => rw [List.foldl_cons, ih, mem_addNew]; simp [or_assoc]
  rw [State.callersFenced, fold]
  simp only [List.not_mem_nil, false_or]
  constructor
  · rintro ⟨l, hl, hi⟩
    obtain ⟨h32, hb⟩ := mem_laneList_ofNat.1 hl
    cases hu : s.threadAt b q l with
    | none => simp [hu] at hi
    | some u => exact ⟨l, u, h32, hb, hu, by simpa [hu] using hi⟩
  · rintro ⟨l, u, h32, hb, hu, hi⟩
    exact ⟨l, mem_laneList_ofNat.2 ⟨h32, hb⟩, by simpa [hu] using hi⟩

theorem hearCaller_eq {s : State} {t b q m : Nat} {tr : Trap} (hc : tr.caller = some (b, q, m)) :
    s.hearCaller t tr = s.updThread t 0 0 fun th => { th with synced := addNew th.synced (s.callersFenced b q m) } := by
  unfold State.hearCaller
  rw [hc]
  rfl

theorem tellCaller_eq {s : State} {t b q m : Nat} {h : Thread} (hc : (s.tarn t).caller = some (b, q, m)) (ht : s.threadAt t 0 0 = some h) :
    s.tellCaller t = s.mapLanes b q (laneList (BitVec.ofNat 32 m)) fun _ th =>
      if th.wait == Wait.sysc then { th with synced := addNew th.synced (s.happenBefore t 0 0 h) } else th := by
  unfold State.tellCaller
  rw [hc, ht]

/-- A tarn after it has taken a trap. -/
def Tarn.taken (T : Tarn) (tr : Trap) (pc : BitVec 64) (regs : List Word) : Tarn :=
  { T with
    epc := pc
    tcause := BitVec.ofNat 64 (tr.cause + 2 ^ 8 * tr.detail + 2 ^ 16 * tr.kind)
    taddr := tr.addr
    tsrc := BitVec.ofNat 64 (tr.ident.toNat + 2 ^ 32 * tr.service)
    intrap := true
    caller := if tr.kind = 1 then tr.caller else none
    behalf := tr.blk
    callG := if tr.kind = 1 then regs else [] }

theorem takeTrap_eq {s : State} {t : Nat} {tr : Trap} {th : Thread} (hv : (s.tarn t).tvec ≠ 0#64) (ht : s.threadAt t 0 0 = some th) :
    s.takeTrap t tr = (s.updTarn t fun T => T.taken tr th.pc (s.callerRegs tr)).updThread t 0 0 fun th =>
      { th with pc := (s.tarn t).tvec, wait := .none } := by
  obtain ⟨B, Q, hB, hQ, hT⟩ := State.threadAt_some ht
  have pc : (tget Q.threads 0 {}).pc = th.pc := by rw [tget, hT]; rfl
  have eq : s.takeTrap t tr = if (s.tarn t).tvec = 0#64 then s.updTarn t fun T => { T with supHalt := true } else
      (s.updTarn t fun T => T.taken tr (match s.block? t with
        | some B => (match tget? B.quires 0 with | some Q => (tget Q.threads 0 {}).pc | none => 0#64)
        | none => 0#64) (s.callerRegs tr)).updThread t 0 0 fun th => { th with pc := (s.tarn t).tvec, wait := .none } := rfl
  rw [eq, if_neg hv, hB]
  dsimp only
  rw [hQ, ← pc]

@[simp] theorem Quire.getGPair_setGPair_self (Q : Quire) (n : Nat) (x : BitVec 64) : (Q.setGPair n x).getGPair n = x := by
  rw [Quire.getGPair, Quire.setGPair, Quire.getG, Quire.getG, Quire.setG, Quire.setG, regGet_regPut_self, regGet_regPut_ne _ _ (by omega),
    regGet_regPut_self]
  exact BitVec.extractLsb'_append_extractLsb'_eq_extractLsb' (by omega) |>.trans (by simp)

theorem Quire.getG_setGPair_ne (Q : Quire) {n k : Nat} (x : BitVec 64) (h : k ≠ n) (h' : k ≠ n + 1) : (Q.setGPair n x).getG k = Q.getG k := by
  rw [Quire.getG, Quire.setGPair, Quire.setG, Quire.setG, regGet_regPut_ne _ _ h', regGet_regPut_ne _ _ h, Quire.getG]

/-- A caller's quire as its service call returns. -/
def Quire.served (Q : Quire) (wide : Bool) (v : BitVec 64) (m : Nat) : Quire :=
  (if wide then Q.setGPair 0 v else Q).onLanes (laneList (BitVec.ofNat 32 m)) fun _ th =>
    if th.wait == Wait.sysc then { th with wait := .none } else th

/-- The callers of a service call go on. -/
def State.callersBack (s : State) (t : Nat) : State :=
  match (s.tarn t).caller with
  | some (b, q, lanes) =>
    match s.block? b with
    | some B =>
      (if 2 ≤ B.gregs then s.updQuire b q fun Q => Q.setGPair 0 (s.tarn t).sysret else s).mapLanes b q (laneList (BitVec.ofNat 32 lanes))
        fun _ th => if th.wait == Wait.sysc then { th with wait := .none } else th
    | none => s
  | none => s

theorem returnTrap_eq (s : State) (t : Nat) : s.returnTrap t =
    ((s.callersBack t).updTarn t fun T => { T with intrap := false, caller := none, behalf := none, callG := [] }).updThread t 0 0 fun th =>
      { th with pc := (s.tarn t).epc } := rfl

theorem callersBack_none {s : State} {t : Nat} (h : (s.tarn t).caller = none) : s.callersBack t = s := by
  rw [State.callersBack, h]

theorem callersBack_some {s : State} {t b q m : Nat} {B : Block} (h : (s.tarn t).caller = some (b, q, m)) (hB : s.block? b = some B) :
    s.callersBack t = (if 2 ≤ B.gregs then s.updQuire b q fun Q => Q.setGPair 0 (s.tarn t).sysret else s).mapLanes b q
      (laneList (BitVec.ofNat 32 m)) fun _ th => if th.wait == Wait.sysc then { th with wait := .none } else th := by
  rw [State.callersBack, h]
  dsimp only
  rw [hB]

theorem onlyBlocks_callersBack (s : State) (t : Nat) : OnlyBlocks s (s.callersBack t) := by
  unfold State.callersBack
  split
  · split
    · refine OnlyBlocks.trans ?_ (onlyBlocks_mapLanes ..)
      split
      · exact onlyBlocks_updQuire ..
      · rfl
    · rfl
  · rfl

/-- The callers' quire, and every other block. -/
theorem callersBack_quireAt {s : State} {t b q m : Nat} {B : Block} {Q : Quire} (h : (s.tarn t).caller = some (b, q, m))
    (hB : s.block? b = some B) (hQ : tget? B.quires q = some Q) :
    (s.callersBack t).quireAt b q = some (Q.served (decide (2 ≤ B.gregs)) (s.tarn t).sysret m) ∧
    ∀ d, d ≠ b → (s.callersBack t).block? d = s.block? d := by
  have quire : s.quireAt b q = some Q := by simp [State.quireAt, hB, hQ]
  rw [callersBack_some h hB]
  refine ⟨?_, fun d hd => ?_⟩
  · rw [State.mapLanes, State.quireAt_updQuire]
    by_cases hg : 2 ≤ B.gregs
    · rw [if_pos hg, State.quireAt_updQuire, quire]
      simp [Quire.served, hg, Quire.onLanes]
    · rw [if_neg hg, quire]
      simp [Quire.served, hg, Quire.onLanes]
  · rw [State.mapLanes, State.block?_updQuire_ne _ _ _ hd]
    split
    · exact State.block?_updQuire_ne s _ _ hd
    · rfl

/-- A fault of a supervisor core's own instruction. -/
theorem faultAt_sup {s : State} {b : Nat} {B : Block} (hB : s.block? b = some B) (hs : B.sup = true) (q : Nat) (clause : BitVec 64)
    (widx cause detail lane : Nat) (ea : BitVec 64) : ∃ u, OnlyBlocks s u ∧
      s.faultAt b q clause widx cause detail lane ea = u.updTarn b fun T =>
        if T.intrap then { T with supHalt := true } else { T with own := T.own ++ [{ kind := 8, cause, detail, addr := ea, clause, widx }] } := by
  refine ⟨_, onlyBlocks_updQuire s b q fun Q => { Q with
    groups := [], threads := Q.threads.map fun t => (t.1, { t.2 with pc := clause }) }, ?_⟩
  rw [State.faultAt, hB]
  exact if_pos hs

/-- Settles O55: each case of a service call and a return, and what a trap's entry and return change. -/
theorem trapsAndServiceCalls : Obligations.TrapsAndServiceCalls := by
  refine ⟨⟨fun s c w o h => ?calls, fun s t tr rest ht ho => ?entry, fun s t tr rest ho => ?own⟩,
    ⟨fun s t tr => ?hear, fun s t h ht => ?tell⟩, fun s t tr => ?taken, fun s t th ht => ?returned, fun s b q widx cause detail lane clause ea B hB => ?fault⟩
  case calls =>
    intro t ls cov
    have returns : c.B.sup = true → exec (.eret o) s = match c.uniform o.p o.n with
        | [] => .next (s.advance c 1)
        | l :: ls => if !(s.tarn t).intrap then s.illegal c 0xB
            else .next ((((s.advance c 1).leave c (l :: ls)).tellCaller t).returnTrap t) := fun hs => privileged_sup h hs ..
    refine ⟨fun hn => ?_, fun hn hs => ?_, fun hn hs hf => ?_, fun hn hs hf hp => ?_, fun l hl hs hf hp => ?_, fun hs hn => ?_, fun hs hn hi => ?_,
      fun hs hn hi => ?_⟩
    · change execSysc w s = _
      simp only [execSysc, h, show c.uniform w.p w.n = [] from hn, State.advance_ctx h]
    · obtain ⟨l, ls, hl⟩ := List.exists_cons_of_ne_nil hn
      rw [exec_sysc h w hl, if_pos hs, State.illegal_eq]
    · obtain ⟨l, ls, hl⟩ := List.exists_cons_of_ne_nil hn
      rw [exec_sysc h w hl, if_neg (by simp [hs]), if_pos hf]
    · obtain ⟨l, ls', hl⟩ := List.exists_cons_of_ne_nil hn
      obtain ⟨i, hi, hpi⟩ := hp
      have covers : cov = s.coversOf c.b c.q c.Q (l :: ls') := congrArg _ hl
      rw [exec_sysc h w hl, if_neg (by simp [hs]), if_neg (Nat.not_le.2 hf), ← covers, if_pos]
      simpa using ⟨i, hi, hpi⟩
    · obtain ⟨ls', hl⟩ := List.head?_eq_some_iff.1 hl
      have covers : cov = s.coversOf c.b c.q c.Q (l :: ls') := congrArg _ hl
      rw [exec_sysc h w hl, if_neg (by simp [hs]), if_neg (Nat.not_le.2 hf), ← covers, if_neg (by simpa using hp), ← hl]
      exact ⟨_, rfl, rfl, congrArg Tarn.traps (updTarn_tarn ..), fun k th hk ht => sysc_threads h _ rfl hk ht⟩
    · rw [returns hs, hn, State.advance_ctx h]
    · obtain ⟨l, ls, hl⟩ := List.exists_cons_of_ne_nil hn
      rw [returns hs, hl]
      simp [hi, State.illegal_eq]
    · obtain ⟨l, ls, hl⟩ := List.exists_cons_of_ne_nil hn
      rw [returns hs, hl]
      simp [hi, advance_leave h]
  case entry =>
    refine ⟨fun hi hf => ?_, fun h => ?_⟩
    · rw [exec_trapEntry ht, if_neg (by simp [hi, hf, ho])]
    · rw [exec_trapEntry ht, if_pos (by obtain h | h := h <;> simp [h])]
  case own =>
    refine ⟨exec_trapEntry_own (by simp [ho]), fun hi hf => ?_, fun h => ?_⟩
    · rw [exec_ownTrap ho, if_neg (by simp [hi, hf])]
    · rw [exec_ownTrap ho, if_pos (by obtain h | h := h <;> simp [h])]
  case hear =>
    refine ⟨fun hc => by rw [State.hearCaller, hc], fun b q m th hc ht => ?_⟩
    intro s'
    have eq : s' = _ := hearCaller_eq hc
    have only := onlyBlocks_updThread s t 0 0 fun th => { th with synced := addNew th.synced (s.callersFenced b q m) }
    rw [← eq] at only
    refine ⟨addNew th.synced (s.callersFenced b q m), ?_, fun i => by rw [mem_addNew, mem_callersFenced], fun k hk => ?_, ?_, ?_, ?_⟩
    · rw [eq, State.threadAt_updThread, ht]
      rfl
    · rw [eq]
      exact State.block?_updQuire_ne s _ _ hk
    all_goals rw [only]
  case tell =>
    intro s'
    refine ⟨fun hc => ?_, fun b q m hc => ?_⟩
    · change s.tellCaller t = s
      rw [State.tellCaller, hc]
    · have eq : s' = _ := tellCaller_eq hc ht
      have only := onlyBlocks_mapLanes s b q (laneList (BitVec.ofNat 32 m)) fun _ th =>
        if th.wait == Wait.sysc then { th with synced := addNew th.synced (s.happenBefore t 0 0 h) } else th
      rw [← eq] at only
      refine ⟨fun l th hl hb hth hw => ?_, fun k hk => ?_, ?_, ?_, ?_⟩
      · rw [eq, State.threadAt_mapLanes, hth]
        simp [mem_laneList_ofNat.2 ⟨hl, hb⟩, hw]
      · rw [eq]
        exact State.block?_updQuire_ne s _ _ hk
      all_goals rw [only]
  case taken =>
    refine ⟨fun hv => by rw [State.takeTrap, if_pos hv], fun th hv ht => ?_⟩
    intro s'
    have eq : s' = _ := takeTrap_eq hv ht
    have only := onlyBlocks_updThread (s.updTarn t fun T => T.taken tr th.pc (s.callerRegs tr)) t 0 0 fun th =>
      { th with pc := (s.tarn t).tvec, wait := .none }
    rw [← eq] at only
    have tarn (g : Nat) : s'.tarn g = (s.updTarn t fun T => T.taken tr th.pc (s.callerRegs tr)).tarn g := by rw [only]; rfl
    refine ⟨?_, ?_, fun g hg => ?_, fun b hb => ?_, ?_, ?_, ?_, ?_, ?_⟩
    · rw [tarn, updTarn_tarn]
      rfl
    · rw [eq, State.threadAt_updThread]
      exact congrArg (Option.map _) ht
    · rw [tarn, updTarn_tarn_ne _ _ hg]
    · rw [eq]
      exact State.block?_updQuire_ne _ _ _ hb
    all_goals (rw [only]; rfl)
  case returned =>
    intro T s'
    have only := onlyBlocks_callersBack s t
    have eq : s' = _ := returnTrap_eq s t
    have back (g : Nat) : (s.callersBack t).tarn g = s.tarn g := by rw [only]; rfl
    have last := onlyBlocks_updThread
      ((s.callersBack t).updTarn t fun T => { T with intrap := false, caller := none, behalf := none, callG := [] }) t 0 0 fun th =>
        { th with pc := (s.tarn t).epc }
    rw [← eq] at last
    have tarn (g : Nat) : s'.tarn g = ((s.callersBack t).updTarn t fun T =>
        { T with intrap := false, caller := none, behalf := none, callG := [] }).tarn g := by rw [last]; rfl
    have handler (hk : (s.callersBack t).threadAt t 0 0 = some th) : s'.threadAt t 0 0 = some { th with pc := T.epc } := by
      rw [eq, State.threadAt_updThread]
      exact congrArg (Option.map _) hk
    have others (d : Nat) (hd : d ≠ t) : s'.block? d = (s.callersBack t).block? d := by
      rw [eq]
      exact State.block?_updQuire_ne _ _ _ hd
    refine ⟨?_, fun g hg => ?_, ?_, ?_, ?_, ?_, ?_, fun hc => ?_, fun b q m B Q hc hb hB hQ => ?_⟩
    · rw [tarn, updTarn_tarn, back]
    · rw [tarn, updTarn_tarn_ne _ _ hg, back]
    · exact (congrArg State.cores last).trans (show (s.callersBack t).cores = s.cores by rw [only])
    · exact (congrArg State.parts last).trans (show (s.callersBack t).parts = s.parts by rw [only])
    · exact (congrArg State.mem last).trans (show (s.callersBack t).mem = s.mem by rw [only])
    · exact (congrArg State.tags last).trans (show (s.callersBack t).tags = s.tags by rw [only])
    · exact (congrArg State.ops last).trans (show (s.callersBack t).ops = s.ops by rw [only])
    · have none := callersBack_none (s := s) (t := t) hc
      rw [none] at handler others
      exact ⟨handler ht, others⟩
    · obtain ⟨caller, rest⟩ := callersBack_quireAt hc hB hQ
      refine ⟨handler ((State.threadAt_of_block? (rest t (Ne.symm hb)) 0 0).trans ht), _, (State.quireAt_of_block? (others b hb) q).trans caller,
        ?_, fun n hn => ?_, fun l th hl h32 hbit hw => ?_⟩
      · by_cases hg : 2 ≤ B.gregs
        · rw [if_pos hg, Quire.served, decide_eq_true hg, if_pos rfl]
          exact Quire.getGPair_setGPair_self ..
        · rw [if_neg hg, Quire.served, decide_eq_false hg, if_neg Bool.false_ne_true]
          rfl
      · by_cases hg : 2 ≤ B.gregs
        · rw [Quire.served, decide_eq_true hg, if_pos rfl]
          exact Quire.getG_setGPair_ne Q _ (by omega) (by omega)
        · rw [Quire.served, decide_eq_false hg, if_neg Bool.false_ne_true]
          rfl
      · have threads : (if decide (2 ≤ B.gregs) then Q.setGPair 0 (s.tarn t).sysret else Q).threads = Q.threads := by split <;> rfl
        rw [Quire.served, Quire.onLanes_thread, threads, hl]
        simp [mem_laneList_ofNat.2 ⟨h32, hbit⟩, hw]
  case fault =>
    refine ⟨fun hs => faultAt_user hB hs .., fun hs => ?_⟩
    intro s'
    obtain ⟨u, only, eq⟩ := faultAt_sup hB hs q clause widx cause detail lane ea
    have tarn : u.tarn b = s.tarn b := by rw [only]; rfl
    change s' = _ at eq
    refine ⟨fun hi => ?_, fun hi => ?_, ?_, ?_⟩
    · rw [eq, updTarn_tarn, tarn, if_pos hi]
    · rw [eq, updTarn_tarn, tarn, if_neg (by simp [hi])]
    all_goals (rw [eq, only]; rfl)

end Sys2Proof.Machine

/-! Dispatch, completion and end of a block, and the drain of its side (R337, R350, R351, R355, R365). -/

namespace Sys2Proof.Machine

/-- An entry of a table made from a range. -/
theorem tget?_range {α : Type} (f : Nat → α) {n k : Nat} (h : k < n) : tget? ((List.range n).map fun i => (i, f i)) k = some (f k) := by
  have from_ (m j : Nat) (hj : j ≤ k) (hk : k < j + m) : tget? ((List.range' j m).map fun i => (i, f i)) k = some (f k) := by
    induction m generalizing j with
    | zero => omega
    | succ m ih =>
      rw [List.range'_succ, List.map_cons, tget?]
      by_cases he : j = k
      · rw [if_pos he, he]
      · rw [if_neg he, ih (j + 1) (by omega) (by omega)]
  rw [List.range_eq_range']
  exact from_ n 0 (Nat.zero_le k) (by omega)

/-- A quire of a block at its first dispatch. -/
def freshQuire (r : LRec) (pc : BitVec 64) (covers : List Nat) (q : Nat) : Quire :=
  { threads := (List.range (min 32 (r.t - 32 * q))).map fun l => (l, { pc, synced := covers }) }

theorem freshBlock_quire (L : Launch) (t : Task) (core side : Nat) (k : KHead) {q : Nat} (hq : q < L.record.q) :
    tget? (freshBlock L t core side k).quires q = some (freshQuire L.record (BitVec.ofNat 64 (L.record.code + k.entry)) t.covers q) :=
  tget?_range (freshQuire L.record _ _) hq

theorem freshQuire_thread {r : LRec} {pc : BitVec 64} {covers : List Nat} {q l : Nat} (hl : l < 32) (ht : 32 * q + l < r.t) :
    tget? (freshQuire r pc covers q).threads l = some { pc, synced := covers } :=
  tget?_range (fun _ => ({ pc, synced := covers } : Thread)) (by omega)

/-- A block on its core, by the 64 bytes read at its kernel (R351). -/
def State.dispatched (r : State × Nat) (L : Launch) (rec : Task) (core side : Nat) : State :=
  let k := kheadOf r.2
  let s : State := ({ r.1.setBlock r.1.next (freshBlock L rec core side k) with next := r.1.next + 1 }).updCore core fun C =>
    { C with run := some r.1.next, sides := tput C.sides side { owner := some r.1.next } }
  if k.ok then s
  else s.endTask r.1.next 5 (some
    { cause := causeIllegal, detail := 0xD, clause := BitVec.ofNat 64 L.record.code, widx := 0, lane := 0, ea := 0#64 })

theorem exec_blockDispatch {s : State} {core prio part side clk lid b : Nat} {L : Launch} {rec : Task} (hn : coreNum core ≠ 24)
    (ho : (s.tarn (coreTarn core)).st = .online) (hb : s.coreBusy core = false) (hi : s.idleBefore core = false)
    (hq : (s.tarn (coreTarn core)).queueHead = some (prio, clk, lid, b))
    (hp : (s.parts.find? fun p => p.2.tarns.contains (coreTarn core)).map (·.1) = some part) (hL : s.launch? part lid = some L)
    (hr : s.task? part lid b = some rec) (hres : rec.resume = none) (hside : (s.core core).freeSide = some side)
    (hshut : s.vaShut (coreTarn core) part L.record.code 64 = false) :
    exec (.blockDispatch core) s = .next (State.dispatched (State.numVa
      ((((s.updTarn (coreTarn core) fun T => { T with queues := tput T.queues prio ((tget T.queues prio []).drop 1) }).freePlace part
        L.ltarn rec.spilled).updTask part lid b fun x => { x with st := 3 })) (coreTarn core) part L.record.code 64) L rec core side) := by
  obtain ⟨p, hf, rfl⟩ := Option.map_eq_some_iff.1 hp
  have idle : ¬ (coreNum core = 24 ∨ (s.tarn (coreTarn core)).st ≠ Online.online ∨ s.coreBusy core = true ∨ s.idleBefore core = true) := by
    simp [hn, ho, hb, hi]
  have eq : exec (.blockDispatch core) s = execBlockDispatch core s := rfl
  simp only [eq, execBlockDispatch, if_neg idle, hq, hf, hL, hr, hres, hshut, hside, Bool.false_eq_true, if_false]
  generalize State.numVa _ _ _ _ _ = r
  rfl

/-- Settles O51: each event at its guard. -/
theorem blockLife : Obligations.BlockLife := by
  refine ⟨fun s core prio part side clk lid b L rec hn ho hb hi hq hp hL hr hres hside hshut => ?dispatch, fun s core c hc hidle hat => ?before,
    fun L t core side k q l hq hl ht => ?fresh, fun s b B L hB hd hst hL hshut hf => ?complete, fun s b st B L hB hd hst h5 hL hshut => ?failed,
    fun s core side b ho hb => ?drain⟩
  case dispatch =>
    intro s1 r k s2
    have eq : exec (.blockDispatch core) s = .next (State.dispatched r L rec core side) :=
      exec_blockDispatch hn ho hb hi hq hp hL hr hres hside hshut
    clear_value r
    exact ⟨fun h => eq.trans (congrArg Host.Outcome.next (if_pos h)), fun h => eq.trans (congrArg Host.Outcome.next (if_neg (Bool.eq_false_iff.1 h)))⟩
  case before =>
    have idle : s.idleBefore core = true := List.any_eq_true.2 ⟨c, List.mem_range.2 hc, by simp [hidle, hat]⟩
    have eq : exec (.blockDispatch core) s = execBlockDispatch core s := rfl
    rw [eq, execBlockDispatch, if_pos (by simp [idle])]
  case fresh =>
    refine ⟨_, _, freshBlock_quire L t core side k hq, freshQuire_thread hl ht, rfl, rfl, rfl, rfl, fun n => rfl, fun n hn => ?_, fun f => rfl, fun n => rfl,
      fun n hn => ?_, rfl, rfl⟩
    · simp [Thread.getP, Nat.ne_of_lt hn]
    · simp [Quire.getGP, Nat.ne_of_lt hn, freshQuire]
  case complete => 
    change execBlockCompletion b s = _
    have lanes : (B.quires.any fun q => q.2.fmask != 0#32) = false := by simpa using hf
    simp only [execBlockCompletion, hB, hd, hL, hshut, hst, lanes]
    rfl
  case failed =>
    change execBlockCompletion b s = _
    simp only [execBlockCompletion, hB, hd, hL, hshut, hst, if_neg h5]
    rfl
  case drain =>
    refine ⟨s.updCore core fun C => { C with sides := tput C.sides side {} }, ?_, ?_, fun k hk => ?_, fun k hk => ?_, rfl, rfl, rfl⟩
    · change execSideDrain core side s = _
      simp only [execSideDrain, ho, hb]
    · rw [State.core_updCore_self, tget_tput_self]
    · rw [State.core_updCore_self, tget_tput_ne _ _ _ hk]
    · exact State.core_updCore_ne s _ hk

end Sys2Proof.Machine

/-! What the agents' reads and writes of memory leave as it was (R257 to R268). -/

namespace Sys2Proof.Machine

/-- Only caches, memory and the ring may differ. -/
def OnlyMemory (s t : State) : Prop :=
  t = { s with
    cores := t.cores, tarns := t.tarns, mem := t.mem, rekey := t.rekey, rewritten := t.rewritten, poisoned := t.poisoned
    ring := t.ring, next := t.next, host := t.host }

theorem OnlyMemory.refl (s : State) : OnlyMemory s s := rfl

theorem OnlyMemory.trans {s t u : State} (h : OnlyMemory s t) (h' : OnlyMemory t u) : OnlyMemory s u := by
  rw [OnlyMemory] at *
  rw [h', h]

theorem OnlyMemory.foldl {α : Type} {f : State → α → State} (hf : ∀ s a, OnlyMemory s (f s a)) (as : List α) (s : State) :
    OnlyMemory s (as.foldl f s) := by
  induction as generalizing s with
  | nil => exact .refl s
  | cons a as ih => exact (hf s a).trans (ih _)

theorem OnlyMemory.parts {s t : State} (h : OnlyMemory s t) : t.parts = s.parts := by rw [h]

theorem onlyMemory_updTarn (s : State) (t : Nat) (f : Tarn → Tarn) : OnlyMemory s (s.updTarn t f) := rfl

theorem onlyMemory_updCore (s : State) (c : Nat) (f : Core → Core) : OnlyMemory s (s.updCore c f) := rfl

theorem onlyMemory_putSlice (s : State) (t ln : Nat) (l : Line) : OnlyMemory s (s.putSlice t ln l) := onlyMemory_updTarn ..

theorem onlyMemory_takeDirty (s : State) (t ln c : Nat) : OnlyMemory s (s.takeDirty t ln c) := by
  refine OnlyMemory.foldl (fun s k => ?_) _ s
  split
  · split
    · exact .refl s
    · exact onlyMemory_putSlice ..
  · exact .refl s

theorem onlyMemory_freeDir (s : State) (t ln : Nat) : OnlyMemory s (s.freeDir t ln) := by
  unfold State.freeDir
  split
  · split <;> rfl
  · rfl

theorem onlyMemory_dropOthers (s : State) (t ln c : Nat) : OnlyMemory s (s.dropOthers t ln c) :=
  OnlyMemory.foldl (fun s k => onlyMemory_updCore s k _) _ s

theorem onlyMemory_recall (s : State) (t ln : Nat) : OnlyMemory s (s.recall t ln) :=
  ((onlyMemory_takeDirty s t ln 0xFFFFFF).trans (onlyMemory_dropOthers _ t ln 0xFFFFFF)).trans (onlyMemory_freeDir _ t ln)

theorem onlyMemory_unpoison (s : State) (ln : Nat) (m : BitVec 64) : OnlyMemory s (s.unpoison ln m) := by
  unfold State.unpoison
  split <;> rfl

theorem onlyMemory_putHome (s : State) (ln : Nat) (m : BitVec 64) (d : BitVec 512) (rc : Nat) : OnlyMemory s (s.putHome ln m d rc) := by
  unfold State.putHome
  dsimp only
  refine OnlyMemory.trans ?_ (onlyMemory_putSlice ..)
  have recalled := (onlyMemory_recall s (lineHome ln) ln).trans (onlyMemory_unpoison _ ln m)
  split
  · exact recalled.trans rfl
  · exact recalled

theorem onlyMemory_shrinkL1 (s : State) (c ln : Nat) (l : Line) : OnlyMemory s (s.shrinkL1 c ln l) := by
  unfold State.shrinkL1
  dsimp only
  split
  · exact onlyMemory_updCore ..
  · split
    · exact (onlyMemory_updCore ..).trans (onlyMemory_updTarn ..)
    · exact onlyMemory_updCore ..

theorem onlyMemory_dropSpan (s : State) (sec u : Nat) : OnlyMemory s (s.dropSpan sec u) := by
  unfold State.dropSpan
  dsimp only
  split
  · exact .refl s
  · refine OnlyMemory.trans (OnlyMemory.foldl (fun s j => ?_) _ s) ((onlyMemory_updTarn _ _ _).trans (onlyMemory_updTarn _ _ _))
    split
    · exact .refl s
    · refine (onlyMemory_putSlice ..).trans (OnlyMemory.foldl (fun s k => ?_) _ _)
      split
      · exact onlyMemory_shrinkL1 ..
      · exact .refl s

theorem onlyMemory_dropSpans (s : State) (ln : Nat) (m : BitVec 64) (t : Nat) : OnlyMemory s (s.dropSpans ln m t) :=
  OnlyMemory.foldl (fun s _ => onlyMemory_dropSpan s _ _) _ s

theorem onlyMemory_homeWrite (s : State) (ln : Nat) (m : BitVec 64) (d : BitVec 512) (rc : Nat) (stamped : Bool) :
    OnlyMemory s (s.homeWrite ln m d rc stamped).1 := by
  have written : OnlyMemory s ((s.putHome ln m d rc).mirror ln m d) := (onlyMemory_putHome ..).trans
    (OnlyMemory.foldl (fun s x => (onlyMemory_putHome ..).trans (onlyMemory_dropSpans ..)) _ _)
  unfold State.homeWrite
  dsimp only
  split
  · exact written.trans (onlyMemory_dropSpans ..)
  · refine written.trans ?_
    unfold State.ownInval
    split <;> rfl

theorem onlyMemory_agentWrite (s : State) (pa : Nat) (bs : List Byte) : OnlyMemory s (s.agentWrite pa bs) := by
  have go (fuel : Nat) : ∀ (s : State) (pa : Nat) (bs : List Byte), OnlyMemory s (State.agentWrite.go fuel s pa bs) := by
    induction fuel with
    | zero => exact fun s _ _ => .refl s
    | succ fuel ih =>
      intro s pa bs
      unfold State.agentWrite.go
      dsimp only
      split
      · exact .refl s
      · refine OnlyMemory.trans ?_ (ih _ _ _)
        split
        · rfl
        · exact onlyMemory_homeWrite ..
  exact go _ s pa bs

theorem onlyMemory_walk (s : State) (t part va : Nat) : OnlyMemory s (s.walk t part va).1 := by
  have from_ (fuel : Nat) : ∀ (s : State) (lv table : Nat), OnlyMemory s (s.walkFrom none t part va fuel lv table).1 := by
    induction fuel with
    | zero => exact fun s _ _ => .refl s
    | succ fuel ih =>
      intro s lv table
      have read (ea : Nat) : OnlyMemory s (s.readPte none t ea).1 := by
        unfold State.readPte
        dsimp only
        split
        · rfl
        · split
          · next h => cases h
          · rfl
      unfold State.walkFrom
      dsimp only
      split
      · exact .refl s
      · split
        · exact .refl s
        · split
          · next h => exact (congrArg Prod.fst h) ▸ read _
          · next h =>
            have after := (congrArg Prod.fst h) ▸ read _
            split
            · exact after
            · split
              · exact after
              · exact after.trans (ih _ _ _)
  unfold State.walk
  have kept := from_ 4 s 1 (s.rootTable t)
  split
  · next h => exact (congrArg Prod.fst h) ▸ kept
  · next h => exact (congrArg Prod.fst h) ▸ kept

theorem onlyMemory_writeVa (s : State) (t part va : Nat) (bs : List Byte) : OnlyMemory s (s.writeVa t part va bs) := by
  refine OnlyMemory.foldl (fun s p => ?_) _ s
  have walked := onlyMemory_walk s t part p.1
  split
  · next h =>
    have walked := (congrArg Prod.fst h) ▸ walked
    split
    · exact walked
    · exact walked.trans (onlyMemory_agentWrite ..)
  · next h =>
    rw [h] at walked
    exact walked

end Sys2Proof.Machine

/-! Decrements of a record, registration, and the grant of leases (R345, R348, R352, R358). -/

namespace Sys2Proof.Machine

/-! ### Records of a partition -/

theorem State.part_updPart_ne (s : State) {p q : Nat} (f : Part → Part) (h : q ≠ p) : (s.updPart p f).part q = s.part q := by
  simp [State.part, State.updPart, tget_tput_ne _ _ _ h]

theorem launch?_updTask {s : State} {p lid b : Nat} {L : Launch} {t : Task} (hL : s.launch? p lid = some L) (ht : tget? L.tasks b = some t)
    (f : Task → Task) : (s.updTask p lid b f).launch? p lid = some { L with tasks := tput L.tasks b (f t) } := by
  rw [State.launch?] at hL
  simp [State.launch?, State.updTask, State.updLaunch, hL, ht]

theorem task?_some {s : State} {p lid b : Nat} {t : Task} (h : s.task? p lid b = some t) :
    ∃ L, s.launch? p lid = some L ∧ tget? L.tasks b = some t := Option.bind_eq_some_iff.1 h

theorem task?_updTask {s : State} {p lid b : Nat} {t : Task} (h : s.task? p lid b = some t) (f : Task → Task) :
    (s.updTask p lid b f).task? p lid b = some (f t) := by
  obtain ⟨L, hL, ht⟩ := task?_some h
  rw [State.task?, launch?_updTask hL ht f]
  simp

theorem task?_of_parts {s t : State} (h : t.parts = s.parts) (p lid b : Nat) : t.task? p lid b = s.task? p lid b := by
  rw [State.task?, State.task?, State.launch?, State.launch?, State.part, State.part, h]

theorem keepRecord_parts (s : State) (p lid b : Nat) : (s.keepRecord p lid b).parts = s.parts := by
  unfold State.keepRecord
  split
  · split
    · exact (onlyMemory_writeVa ..).parts
    · rfl
  · rfl

/-- A record placed. -/
theorem makeReady_task? {s : State} {p lid b : Nat} {t : Task} (h : s.task? p lid b = some t) :
    ∃ t', (s.makeReady p lid b).task? p lid b = some t' ∧ t'.st = 1 ∧ t'.join = t.join ∧ t'.target.isSome = true := by
  obtain ⟨L, hL, ht⟩ := task?_some h
  rw [State.makeReady, hL]
  exact ⟨_, task?_updTask h _, rfl, rfl, rfl⟩

section
variable {s : State} {p lid b : Nat} {t : Task} (h : s.task? p lid b = some t)
include h

/-- A record counts a decrement. -/
def State.counted (s : State) (p lid b : Nat) (cov : List Nat) : State :=
  (s.updTask p lid b fun t => { t with join := t.join - 1, covers := addNew t.covers cov }).keepRecord p lid b

theorem counted_task? (cov : List Nat) :
    (s.counted p lid b cov).task? p lid b = some { t with join := t.join - 1, covers := addNew t.covers cov } := by
  rw [State.counted, task?_of_parts (keepRecord_parts ..), task?_updTask h]

theorem decrement_eq (cov : List Nat) : s.decrement p lid b cov = if 4 ≤ t.st then (s, 7) else if t.join = 0 then (s, 5)
    else if t.join = 1 then ((s.counted p lid b cov).makeReady p lid b, 6) else (s.counted p lid b cov, 0) := by
  rw [State.decrement, h]
  simp only [Task.isFinal, decide_eq_true_eq]
  rfl

end

/-- What the grant of a ready record's leases comes to (R352). -/
def State.leaseAnswer (s : State) (p lid b g : Nat) (L : Launch) (ls : List Lease) : Out :=
  match ls.find? fun l => !s.leaseOk g p l with
  | some l => .next (((s.endRecord p lid b 5 (some { cause := causeLeaseDenied, detail := 0, clause := 0#64, widx := 0, lane := 0
                                                     ea := BitVec.ofNat 64 l.base })).broke p lid).closeLaunch p lid)
  | none =>
    let s1 := (s.updTask p lid b fun t => { t with st := 2, leases := ls }).updTarn g fun T =>
      { T with leaseCnt := T.leaseCnt + ls.length
               queues := tput T.queues L.record.prio (queueInsert (max 1 s.clk, lid, b) (tget T.queues L.record.prio [])) }
    .next (if decide (1024 < (s.tarn g).leaseCnt + ls.length) then s1.postTrap g { kind := 2, detail := 2 } else s1)

theorem exec_leaseGrant {s : State} {p lid b g : Nat} {L : Launch} {t : Task} (hL : s.launch? p lid = some L) (ht : s.task? p lid b = some t)
    (hst : t.st = 1) (hg : t.target = some g) : exec (.leaseGrant p lid b) s = s.leaseAnswer p lid b g L (L.leasesOf t.ranges) := by
  change execLeaseGrant p lid b s = _
  simp only [execLeaseGrant, hL, ht, hst, hg]
  rfl

/-- Settles O50: each case of a decrement, and each event at its guard. -/
theorem dependencesAndLeases : Obligations.DependencesAndLeases := by
  refine ⟨fun s p lid b cov t h => ?decrement, fun s p lid b t h hp => ?join, fun s p succ k u L P hL hu hk hP hn hb => ?registration,
    fun s p lid b g L t hL ht hst hg => ?grant⟩
  case decrement =>
    intro low
    have eq := decrement_eq h cov
    refine ⟨fun hf => ?_, fun hf hj => ?_, fun hf hj => ⟨?_, counted_task? h cov⟩, fun hf hj => ⟨?_, ?_⟩⟩
    · rw [eq, if_pos hf]
    · rw [eq, if_neg (by omega), if_pos hj]
    · rw [eq, if_neg (by omega), if_neg (by omega), if_neg (by omega)]
      rfl
    · rw [eq, if_neg (by omega), if_neg (by omega), if_pos hj]
      rfl
    · obtain ⟨t', ht', hst, hjoin, htarget⟩ := makeReady_task? (counted_task? h cov)
      exact ⟨t', ht', hst, by rw [hjoin, hj], htarget⟩
  case join =>
    change execJoinDecrement p lid b s = _
    rw [execJoinDecrement, h]
    exact if_neg hp
  case registration =>
    change execRegistration p succ s = _
    simp [execRegistration, hL, hu, hk, hP, hn, hb]
  case grant =>
    intro ls s1
    have eq := exec_leaseGrant hL ht hst hg
    refine ⟨fun hok => ?_, fun l hl => by rw [eq, State.leaseAnswer, hl]⟩
    have all : ((L.leasesOf t.ranges).find? fun l => !s.leaseOk g p l) = none := List.find?_eq_none.2 fun l hl => by simp [hok l hl]
    rw [eq, State.leaseAnswer, all]
    exact ite_of_iff decide_eq_true_iff rfl rfl |> congrArg Host.Outcome.next

end Sys2Proof.Machine

/-! Launch and task instructions at issue, and what a command processor does for them (R342, R356 to R361). -/

namespace Sys2Proof.Machine

/-! ### At issue -/

/-- What a launch or task instruction sends to a command processor. -/
def Ctx.command (c : Ctx) (i : Instr) (w : W2) (wide : Bool) (rel acq : Nat) (va x y : BitVec 64) : Op :=
  { c.op .launch i (laneMask (c.uniform w.p false)) (c.flag w.n) with
    holdG := destRegs w.d wide, rel, acq
    elems := [{ lane := (c.uniform w.p false).headD 0, va := va, pa := 0, size := 0, x := x, c := y }] }

section
variable {s : State} {c : Ctx} (h : s.ctx? = some c) (i : Instr) (w : W2) (wide : Bool) (rel : Nat) (va x y : Ctx → Nat)
include h

theorem commandIssue_eq (acq : Nat) : commandIssue i w wide rel va x y s acq =
    .next ((Issued s c 2 (s.stampOrder c.Q (c.command i w wide rel acq (BitVec.ofNat 64 (va c)) (BitVec.ofNat 64 (x c)) (BitVec.ofNat 64 (y c))))).holdAcquire
      c (c.uniform w.p false) acq s.next) := by
  simp only [commandIssue, h]
  rw [issueStep_eq h (stampOrder_blk ..) (stampOrder_q ..)]
  rfl

theorem commandIssue_plain : commandIssue i w wide rel va x y s =
    .next (Issued s c 2 (s.stampOrder c.Q (c.command i w wide rel 0 (BitVec.ofNat 64 (va c)) (BitVec.ofNat 64 (x c)) (BitVec.ofNat 64 (y c))))) :=
  commandIssue_eq h i w wide rel va x y 0

theorem withRecord_granted (hg : Granted s c ((c.uniform w.p false).take 1) (fun _ => c.Q.getGPair w.a.toNat) 64 64 false noCell) (f : State → Out) :
    withRecord w s f = f (LookedUp s c ((c.uniform w.p false).take 1) (fun _ => c.Q.getGPair w.a.toNat) 64) := by
  rw [withRecord, h]
  dsimp only
  rw [checkAccess_ok hg]

end

/-! ### At the command processor -/

/-- A result of the command processor reaches the group, whose acquire ends. -/
def State.replied (s : State) (op : Nat) (o : Op) (r : State × Nat × Nat) : State :=
  (((r.1.writeG o r.2.1 r.2.2).mapLanes o.blk o.q (laneList o.lanes) fun _ th => if th.acq = some op then { th with acq := none } else th).finishOp op)

theorem endAcquire_eq (s : State) (o : Op) (op : Nat) (ls : List Nat) : s.endAcquire o op ls =
    s.mapLanes o.blk o.q ls fun _ th => if th.acq = some op then { th with acq := none } else th := by
  simp only [State.endAcquire, beq_iff_eq]

/-- Settles O49: each instruction at issue, and each act of the command processor. -/
theorem commandInstructions : Obligations.CommandInstructions := by
  refine ⟨fun s c w h => ?issue, fun s op o e B ho hk he hB => ⟨fun hr w hi => ?waits, fun hr => ?acts⟩⟩
  case issue =>
    intro ls pA wA s1 op done
    have word : BitVec.ofNat 64 (wordA w c) = wA := by
      apply BitVec.eq_of_toNat_eq
      simp [wA, wordA]
    have pair : BitVec.ofNat 64 (pairA w c) = pA := BitVec.ofNat_toNat ..
    have sent {i : Instr} {wide : Bool} {rel : Nat} {va x y : Ctx → Nat} (he : exec i s = commandIssue i w wide rel va x y s) :
        done i s (op i wide rel (BitVec.ofNat 64 (va c)) (BitVec.ofNat 64 (x c)) (BitVec.ofNat 64 (y c))) :=
      he.trans (commandIssue_plain h ..)
    have read {i : Instr} {rel : Nat} (hg : Granted s c (ls.take 1) (fun _ => pA) 64 64 false noCell)
        (he : exec i s = withRecord w s fun s => commandIssue i w true rel (pairA w) (fun _ => 0) (fun _ => 0) s) :
        done i s1 (op i true rel pA 0#64 0#64) := by
      refine he.trans ((withRecord_granted h w hg _).trans ((commandIssue_plain (lookedUp_ctx h) i w true rel (pairA w) _ _).trans ?_))
      rw [pair]
      rfl
    refine ⟨fun hg => ⟨read hg rfl, fun h0 => read hg (if_pos h0)⟩, ?_, ?_, fun hb => ?_, fun hb => ?_, ?_, fun h0 => ?_⟩
    · have spawned := sent (i := .spawn w) (wide := true) (rel := 5) (va := fun c => (c.Q.getGPair w.x.c.toNat).toNat) (x := pairA w)
        (y := fun c => opBG c.Q w true 0) rfl
      rwa [pair, BitVec.ofNat_toNat, BitVec.setWidth_eq] at spawned
    · exact word ▸ sent (x := wordA w) (va := fun _ => 0) (y := fun c => opBG c.Q w false w.x.imm20.toNat) rfl
    · refine word ▸ sent (x := wordA w) (va := fun _ => 0) (y := fun c => opBG c.Q w false w.x.imm20.toNat) ?_
      change execTstat w s = _
      simp only [execTstat, hb, if_true]
    · have eq : exec (.tstat w) s = commandIssue (.tstat w) w true 0 (fun _ => 0) (wordA w) (fun _ => 0) s (acq := 5) := by
        change execTstat w s = _
        simp only [execTstat, hb, Bool.false_eq_true, if_false]
      refine eq.trans ((commandIssue_eq h (.tstat w) w true 0 (fun _ => 0) (wordA w) (fun _ => 0) 5).trans ?_)
      rw [word]
      rfl
    · exact word ▸ sent (x := wordA w) (va := fun _ => 0) (y := fun _ => 0) rfl
    · exact word ▸ sent (x := wordA w) (va := fun _ => 0) (y := fun _ => 0) (if_neg h0)
  case waits => 
    change execLaunchAcceptance op s = _
    simp [execLaunchAcceptance, ho, hk, hr]
  case acts =>
    dsimp only
    have kind : (o.kind != OpKind.launch) = false := by simp [hk]
    have fin {t : State} {v v' : Nat} (he : execLaunchAcceptance op s =
        .next (((t.writeG o v v').endAcquire o op (laneList o.lanes)).finishOp op)) : exec (.launchAcceptance op) s =
        .next (((t.writeG o v v').mapLanes o.blk o.q (laneList o.lanes) fun _ th =>
          if th.acq = some op then { th with acq := none } else th).finishOp op) := by
      rw [endAcquire_eq] at he
      exact he
    refine ⟨fun w L s1 hi hL hs => ?spawn, fun w s1 s2 hi h1 h2 => ?launch, fun w hi hL => fin ?none, fun w L hi hL hn => fin ?late,
      fun w L hi hL hn => fin ?jdec, fun w L hi hb hL => fin ?count, fun w L t hi hb hL hn ht => fin ?record, fun w L hi hL => fin ?tcancel,
      fun w hi h0 haway hm hd => fin ?gang⟩
    case spawn =>
      change execLaunchAcceptance op s = _
      simp only [execLaunchAcceptance, ho, kind, hr, hi, hB, he, List.head?_cons, Bool.not_true, Bool.false_eq_true, if_false, hL, hs, if_true]
    case launch =>
      change execLaunchAcceptance op s = _
      simp only [execLaunchAcceptance, ho, kind, hr, hi, hB, he, List.head?_cons, Bool.not_true, Bool.false_eq_true, if_false, h1, h2, if_true]
    case none =>
      obtain hi | hi | hi := hi <;>
        simp only [execLaunchAcceptance, ho, kind, hr, hi, hB, he, List.head?_cons, Bool.not_true, Bool.false_eq_true, if_false, hL, State.tcancel]
    case late =>
      simp only [execLaunchAcceptance, ho, kind, hr, hi, hB, he, List.head?_cons, Bool.not_true, Bool.false_eq_true, if_false, hL, if_pos hn]
    case jdec =>
      simp only [execLaunchAcceptance, ho, kind, hr, hi, hB, he, List.head?_cons, Bool.not_true, Bool.false_eq_true, if_false, hL,
        if_neg (Nat.not_le.2 hn)]
    case count =>
      simp only [execLaunchAcceptance, ho, kind, hr, hi, hB, he, List.head?_cons, Bool.not_true, Bool.false_eq_true, if_false, hL, hb]
    case record =>
      simp only [execLaunchAcceptance, ho, kind, hr, hi, hB, he, List.head?_cons, Bool.not_true, Bool.false_eq_true, if_false, hL, hb,
        if_neg (Nat.not_le.2 hn), ht, if_true]
    case tcancel =>
      simp only [execLaunchAcceptance, ho, kind, hr, hi, hB, he, List.head?_cons, Bool.not_true, Bool.false_eq_true, if_false]
    case gang =>
      have near : ¬ ((match tget? (s.part (s.partOf B)).gangs (gangKey (tarnModule (coreTarn B.core)) e.x.toNat) with
          | some g => 2 ≤ w.x.sub.toNat % 4 && g.st == 1 && s.gangAway (s.partOf B) (tarnModule (coreTarn B.core)) g.desc | none => false) = true) := by
        cases hg : tget? (s.part (s.partOf B)).gangs (gangKey (tarnModule (coreTarn B.core)) e.x.toNat) with
        | none => simp
        | some g =>
          simp only [Bool.and_eq_true, decide_eq_true_eq, beq_iff_eq]
          rintro ⟨⟨h2, h1⟩, ha⟩
          rw [haway g hg h1 h2] at ha
          cases ha
      have open_ : ¬ (2 ≤ w.x.sub.toNat % 4 ∧ (s.gangAct (s.partOf B) (coreTarn B.core) (w.x.sub.toNat % 4) 0#512 e.x.toNat).2.1 = 1) :=
        fun h => hd h.1 h.2
      have fresh : (o.m == 1) = false := by simp [hm]
      simp only [execLaunchAcceptance, ho, kind, hr, hi, hB, he, List.head?_cons, Bool.not_true, Bool.false_eq_true, if_false, if_neg h0, fresh]
      exact (if_neg near).trans ((if_neg open_).trans rfl)

end Sys2Proof.Machine

/-! Elements that act at the unit that serves them (R260 to R264, R268, R282 to R289, R478, R485). -/

namespace Sys2Proof.Machine

/-! ### Slices -/

theorem readErrors_none (s : State) (ln : Nat) : s.readErrors ln 0 = (s, true) := if_pos (.inl rfl)

/-- What some elements of an operation do at a slice, by its kind. -/
def State.sliceAct (s : State) (op line : Nat) (o : Op) (es : List Elem) : State :=
  match o.kind with
  | .load => s.sliceLoad op o line es
  | .fetch => s.slicePref op o line es
  | .store => s.sliceStore op o line es
  | .tagSt => if coreTarn (s.coreOf o.blk) == lineHome line then s.homeTags op line es false
      else s.sendAccess op (coreTarn (s.coreOf o.blk)) line es
  | .stt => s.sliceStt op o line
  | .cctl =>
    if es.any (fun e => s.routeOf o e == Route.here) || (w2Of o.ins).x.sub.toNat % 4 == 2 then s.sliceCctl op o line es
    else s.mapElems op (fun e => es.any e.same) fun e => { e with st := 3 }
  | _ => s

section
variable {s : State} {op line : Nat} {o : Op} (ho : s.op? op = some o)
include ho

theorem exec_sliceRequest (hk : ¬ (o.kind = .scrub ∨ o.kind = .tiermv ∨ o.kind = .poison)) (hes : s.sliceElems o line ≠ [])
    (hshut : s.shut (coreTarn (s.coreOf o.blk)) (line * 64) = false) (hrel : s.released o = true)
    (hd : coreTarn (s.coreOf o.blk) = lineHome line → s.dramHeld line = false) :
    exec (.sliceRequest op line [] 0) s = .next (s.sliceAct op line o (s.sliceElems o line)).retire := by
  have held : (coreTarn (s.coreOf o.blk) == lineHome line && s.dramHeld line) = false := by
    by_cases h : coreTarn (s.coreOf o.blk) = lineHome line
    · simp [hd h]
    · simp [h]
  have some : (s.sliceElems o line).isEmpty = false := by simp [hes]
  have eq : exec (.sliceRequest op line [] 0) s = execSliceRequest op line [] 0 s := rfl
  simp only [eq, execSliceRequest, List.foldl_nil, ho, if_neg hk, some, hshut, hrel, held, readErrors_none, ite_self, Bool.not_true,
    Bool.false_eq_true, if_false]
  rfl

end

theorem noteMet_host (s : State) (id : Nat) (o : Op) (e : Elem) : (s.noteMet id o e).host = s.host := by
  unfold State.noteMet
  split <;> rfl

/-! ### Pod requests -/

/-- What a request of an operation does at its home on another module, by its kind. -/
def State.podAct (s : State) (op : Nat) (o : Op) (ln : Nat) (es : List Elem) : State :=
  match o.kind with
  | .load =>
    (match o.ins with
    | .tagld _ => s.serveReads op ln es fun e => s.tagOf e.pa
    | _ =>
      let s := (s.clean (lineHome ln) ln).bringHome ln (cacheOf o.ins == 2)
      (s.serveReads op ln es fun e => takeData (s.homeData ln) (e.pa % 64) e.size).countRead ln)
  | .store => s.homeStore op o ln es false
  | .tagSt => s.homeTags op ln es false
  | .stt => s.sttWrite op o ln es false
  | .cell => (s.cellArrive op es false).dinitDone op
  | _ => if o.atMau then s.mauArrive op es false else s

theorem podAct_load {s : State} {op ln : Nat} {o : Op} {es : List Elem} (hk : o.kind = .load) (hi : ∀ w, o.ins ≠ .tagld w) :
    s.podAct op o ln es =
      let s := (s.clean (lineHome ln) ln).bringHome ln (cacheOf o.ins == 2)
      (s.serveReads op ln es fun e => takeData (s.homeData ln) (e.pa % 64) e.size).countRead ln := by
  unfold State.podAct
  rw [hk]
  dsimp only
  split
  · next w h => exact absurd h (hi w)
  · rfl

/-- A request over the pod whose port is up and that nothing holds back. -/
theorem exec_podRequestDelivery {s : State} {op : Nat} {o : Op} {e : Elem} {es : List Elem} (ho : s.op? op = some o) (hes : s.podElems o = e :: es)
    (hk : o.kind ≠ .cctl) (hoff : s.homeOffline e.pa = false) (hf : tget s.flits (coreTarn (s.coreOf o.blk)) 0 < 2 ^ 32)
    (hdown : s.podDown (coreTarn (s.coreOf o.blk)) e.pa = false) (hrel : s.released o = true) (hd : s.dramHeld (lineOf e.pa) = false)
    (hlate : (o.kind == .cell && s.cellLate e.pa (s.cellRank o e)) = false) (hheld : (o.atMau && s.mauHeld op e.pa) = false) :
    exec (.podRequestDelivery op) s = .next (({ s with
      flits := tput s.flits (coreTarn (s.coreOf o.blk)) (tget s.flits (coreTarn (s.coreOf o.blk)) 0 + 1) } : State).podAct op o (lineOf e.pa)
        (e :: es)).retire := by
  have kind : (o.kind == OpKind.cctl) = false := by simp [hk]
  have room : decide (2 ^ 32 ≤ tget s.flits (coreTarn (s.coreOf o.blk)) 0) = false := decide_eq_false (Nat.not_le.2 hf)
  have eq : exec (.podRequestDelivery op) s = execPodRequestDelivery op s := rfl
  simp only [eq, execPodRequestDelivery, ho, hes, kind, room, hoff, hdown, hrel, hd, hlate, hheld, Bool.or_self, Bool.not_true,
    Bool.false_eq_true, if_false]
  rfl

theorem exec_podRequestDelivery_down {s : State} {op : Nat} {o : Op} {e : Elem} {es : List Elem} (ho : s.op? op = some o)
    (hes : s.podElems o = e :: es) (hk : o.kind ≠ .cctl) (hoff : s.homeOffline e.pa = false)
    (hf : tget s.flits (coreTarn (s.coreOf o.blk)) 0 < 2 ^ 32) (hdown : s.podDown (coreTarn (s.coreOf o.blk)) e.pa = true) :
    exec (.podRequestDelivery op) s = .next ((s.podFail op (e :: es)).retire) := by
  have kind : (o.kind == OpKind.cctl) = false := by simp [hk]
  have room : decide (2 ^ 32 ≤ tget s.flits (coreTarn (s.coreOf o.blk)) 0) = false := decide_eq_false (Nat.not_le.2 hf)
  have eq : exec (.podRequestDelivery op) s = execPodRequestDelivery op s := rfl
  simp only [eq, execPodRequestDelivery, ho, hes, kind, room, hoff, hdown, Bool.or_self, Bool.false_eq_true, if_false, if_true]

/-! ### Poisoned lines -/

/-- A fold keeps what each of its steps keeps. -/
theorem foldl_keeps {σ α : Type} {P : σ → Prop} {f : σ → α → σ} (hf : ∀ s a, P s → P (f s a)) (as : List α) {s : σ} (h : P s) :
    P (as.foldl f s) := by
  induction as generalizing s with
  | nil => exact h
  | cons a as ih => exact ih (hf s a h)

section
variable {P : State → Prop} (ht : ∀ s t f, P s → P (s.updTarn t f)) (hc : ∀ s c f, P s → P (s.updCore c f))
include ht hc

/-- A sharer's span goes by changes of tarns and cores. -/
theorem dropSpan_keeps {s : State} (h : P s) (sec u : Nat) : P (s.dropSpan sec u) := by
  have shrink (s : State) (c ln : Nat) (l : Line) (h : P s) : P (s.shrinkL1 c ln l) := by
    unfold State.shrinkL1
    dsimp only
    split
    · exact hc _ _ _ h
    · split
      · exact ht _ _ _ (hc _ _ _ h)
      · exact hc _ _ _ h
  unfold State.dropSpan
  dsimp only
  split
  · exact h
  · refine ht _ _ _ (ht _ _ _ (foldl_keeps (fun s j h => ?_) _ h))
    split
    · exact h
    · refine foldl_keeps (fun s k h => ?_) _ (ht _ _ _ h)
      split
      · exact shrink _ _ _ _ h
      · exact h

theorem dropSpans_keeps {s : State} (h : P s) (ln : Nat) (m : BitVec 64) (t : Nat) : P (s.dropSpans ln m t) := by
  unfold State.dropSpans
  exact foldl_keeps (P := P) (f := fun (s : State) u => s.dropSpan (ln / 4) (u % 12)) (fun _ _ h => dropSpan_keeps ht hc h _ _) (s.spanSharers ln m t) h

/-- Poisoning a line changes tarns and cores, marks the stores to it, and lists it. -/
theorem poisonLine_keeps {s : State} (h : P s) (ln : Nat) (hm : ∀ s, P s → P (s.markStores (fun _ x => lineOf x.pa == ln) 2 3))
    (hl : ∀ s, P s → P { s with poisoned := insNat s.poisoned ln, reread := s.reread.filter (· != ln) }) : P (s.poisonLine ln) := by
  refine hl _ (hm _ (foldl_keeps (fun s u h => ht _ _ _ (ht _ _ _ ?_)) _ (dropSpans_keeps ht hc h _ _ _)))
  exact foldl_keeps (fun s k h => hc _ _ _ h) _ h

end

theorem mem_insNat {a n : Nat} : ∀ {l : List Nat}, a ∈ insNat l n ↔ a = n ∨ a ∈ l
  | [] => by simp [insNat]
  | m :: l => by
    unfold insNat
    split
    · simp
    · split
      · next h => simp [h]
      · rw [List.mem_cons, mem_insNat, List.mem_cons]
        exact or_left_comm

/-- The lines that are poisoned stay so. -/
theorem mem_poisonLine {s : State} {x : Nat} (h : x ∈ s.poisoned) (ln : Nat) : x ∈ (s.poisonLine ln).poisoned :=
  poisonLine_keeps (P := fun s => x ∈ s.poisoned) (fun _ _ _ h => h) (fun _ _ _ h => h) h ln (fun _ h => h)
    fun _ h => mem_insNat.2 (.inr h)

theorem mem_poisonLine_self (s : State) (ln : Nat) : ln ∈ (s.poisonLine ln).poisoned := mem_insNat.2 (.inl rfl)

theorem mem_poisonWrite (s : State) (ln : Nat) : ln ∈ (s.poisonWrite ln).poisoned :=
  foldl_keeps (s := s.poisonLine ln) (P := fun s => ln ∈ s.poisoned) (f := fun s x => s.poisonLine x) (fun _ x h => mem_poisonLine h x)
    (s.copiesOf ln) (mem_poisonLine_self s ln)

/-- An operation stands with its count of lines done. -/
def CountsLines (s : State) (op n : Nat) : Prop := ∃ o, s.op? op = some o ∧ o.n = n

/-- An operation once its stores at stage `a` for which `p` holds have gone to stage `b`. -/
def State.marked (s : State) (p : Nat → Elem → Bool) (a b : Nat) (o : Op) : Op :=
  { o with elems := o.elems.map fun x =>
      if x.st = a ∧ p ((s.block? o.blk).elim 0 (·.core)) x = true then { x with st := b, wb := 0 } else x }

theorem CountsLines.markStores {s : State} {op n : Nat} (h : CountsLines s op n) (p : Nat → Elem → Bool) (a b : Nat) :
    CountsLines (s.markStores p a b) op n := by
  obtain ⟨o, ho, hn⟩ := h
  exact ⟨s.marked p a b o, (tget?_map (s.marked p a b) op s.ops).trans (congrArg _ ho), hn⟩

theorem CountsLines.poisonWrite {s : State} {op n : Nat} (h : CountsLines s op n) (ln : Nat) : CountsLines (s.poisonWrite ln) op n :=
  foldl_keeps (P := fun s => CountsLines s op n) (fun _ x h => poisonLine_keeps (P := fun s => CountsLines s op n) (fun _ _ _ h => h)
    (fun _ _ _ h => h) h x (fun _ h => h.markStores _ _ _) fun _ h => h) _ h

/-- A turn of POISON at its own slice. -/
theorem exec_poisonTurn {s : State} {op : Nat} {o : Op} {e : Elem} (ho : s.op? op = some o) (hk : o.kind = .poison) (he : o.elems = [e])
    (hr : e.r = 0#64) (hst : e.st = 0) (hn : o.n < o.workLines) (hshut : s.shut (coreTarn (s.coreOf o.blk)) (o.workLine * 64) = false)
    (hhome : coreTarn (s.coreOf o.blk) = lineHome o.workLine) (hd : s.dramHeld o.workLine = false) :
    exec (.sliceRequest op o.workLine [] 0) s = .next (((s.setOp op { o with elems := o.elems.map fun e => { e with st := 0, pa := 0 } }).poisonWrite
      o.workLine).workNext op 0 0) := by
  have kind : o.kind = .scrub ∨ o.kind = .tiermv ∨ o.kind = .poison := .inr (.inr hk)
  have turn : exec (.sliceRequest op o.workLine [] 0) s = .next (s.lineTurn op o o.workLine 0) := by
    change execSliceRequest op o.workLine [] 0 s = _
    simp only [execSliceRequest, List.foldl_nil, ho, if_pos kind]
  have more : decide (o.workLines ≤ o.n) = false := decide_eq_false (Nat.not_le.2 hn)
  rw [turn, State.lineTurn, he]
  simp only [hr, hst, more, hhome, hd, bne_self_eq_false, Bool.or_self, Bool.false_and, Bool.false_eq_true, if_false, hhome ▸ hshut,
    State.lineAct, hk, he]

/-- Settles O39: each element at the unit that serves it. -/
theorem serviceEvents : Obligations.ServiceEvents := by
  refine ⟨fun s op line o ho hes hshut hrel hd => ?slice, fun s op o e ho hk he hr hst hn hshut hhome hd => ?poison,
    fun s op lane o e ho he hm hh hd hv => ⟨fun x h6 hx => ?turn, fun h0 hr hshut hes hrel => ?arrive⟩,
    fun s op lane o e ho he hl hk hturn => ?pool, fun s op lane o e ho he hc hrel => ?host, fun s op o e es ho hes hk hoff hf => ?pod⟩
  case slice =>
    intro es home then_
    have acts (hk : ¬ (o.kind = .scrub ∨ o.kind = .tiermv ∨ o.kind = .poison)) : then_ (s.sliceAct op line o es) :=
      exec_sliceRequest ho hk hes hshut hrel hd
    refine ⟨fun hk => ?_, fun hk => ?_, fun hk => ?_, fun hk => ?_, fun hk => ?_, fun hk hhere => ?_⟩
    all_goals
      have acts := acts (by simp [hk])
      rw [State.sliceAct, hk] at acts
    · exact acts
    · exact acts
    · exact acts
    · exact acts
    · exact acts
    · obtain ⟨e, he⟩ := List.exists_mem_of_ne_nil es hes
      have here : (es.any fun e => s.routeOf o e == Route.here) = true := List.any_eq_true.2 ⟨e, he, by simp [hhere e he]⟩
      rwa [here, Bool.true_or, if_pos rfl] at acts
  case poison =>
    have counts : CountsLines (s.setOp op { o with elems := o.elems.map fun e => { e with st := 0, pa := 0 } }) op o.n :=
      ⟨_, State.op?_setOp_self .., rfl⟩
    obtain ⟨o', ho', hn'⟩ := counts.poisonWrite o.workLine
    have poisoned := mem_poisonWrite (s.setOp op { o with elems := o.elems.map fun e => { e with st := 0, pa := 0 } }) o.workLine
    rw [exec_poisonTurn ho hk he hr hst hn hshut hhome hd]
    generalize State.poisonWrite _ _ = u at ho' poisoned
    refine ⟨_, { o' with n := o'.n + 1, due := o'.due + 0, m := if o'.kind = .tiermv then 0 else o'.m + 0 }, rfl, ?_, ?_, congrArg (· + 1) hn'⟩
    · rw [State.workNext, ho']
      simp [State.isPoisoned, State.setOp, poisoned]
    · rw [State.workNext, ho']
      exact State.op?_setOp_self ..
  case turn =>
    have far : ¬ (decide (e.st < 6) = true) := by simpa using h6
    have arrived : (e.st == 0) = false := by simp; omega
    change execMauSlot op lane s = _
    simp [execMauSlot, ho, hm, he, hh, hd, hv, h6, hx, Nat.not_lt.2 h6, show ¬ e.st = 0 by omega]
  case arrive =>
    have eq : exec (.mauSlot op lane) s = execMauSlot op lane s := rfl
    refine ⟨fun ht hheld => ?_, fun ht => ?_⟩
    · simp [eq, execMauSlot, ho, hm, he, hh, hd, hv, h0, hr, hes, hrel, hheld, ht, ht ▸ hshut]
    · simp [eq, execMauSlot, ho, hm, he, hh, hd, hv, h0, hr, hshut, hes, hrel, ht]
  case pool =>
    have kind : (o.kind != OpKind.poolAtom) = false := by simp [hk]
    have lane' : (e.lane != lane) = false := by simp [hl]
    change execPoolBankRmw op lane s = _
    simp only [execPoolBankRmw, ho, he, kind, lane', hturn, Bool.or_self, Bool.not_true, Bool.false_eq_true, if_false]
  case host =>
    intro a old fails met
    have eq : exec (.hostCompletion op lane false) s = execHostCompletion op lane false s := rfl
    have eq' : exec (.hostCompletion op lane true) s = execHostCompletion op lane true s := rfl
    refine ⟨fun hk hahead => ?_, fun hk hb => ?_, fun hk => ⟨?_, fun hb => ?_⟩⟩
    · simp only [eq, execHostCompletion, ho, he, hc, hrel, hk, hahead, Bool.not_true, Bool.false_eq_true, if_false]
      rfl
    · simp only [eq, execHostCompletion, ho, he, hc, hrel, hk, hb, Bool.not_true, Bool.false_eq_true, if_false]
      rfl
    · obtain hk | hk := hk <;> simp only [eq', execHostCompletion, ho, he, hc, hrel, hk, Bool.not_true, Bool.false_eq_true, if_false, if_true]
    · have host : ((s.noteMet op o e).observe o e).host = s.host := by
        rw [State.observe, State.mapLanes_host, noteMet_host]
      obtain hk | hk := hk <;>
        simp only [eq, execHostCompletion, ho, he, hc, hrel, hk, hb, host, Bool.not_true, Bool.false_eq_true, if_false] <;> rfl
  case pod =>
    intro ln T s1
    refine ⟨exec_podRequestDelivery_down ho hes hk hoff hf, fun hdown hrel hd => ?_⟩
    have acts (hlate : (o.kind == .cell && s.cellLate e.pa (s.cellRank o e)) = false) (hheld : (o.atMau && s.mauHeld op e.pa) = false) :
        exec (.podRequestDelivery op) s = .next (s1.podAct op o ln (e :: es)).retire :=
      exec_podRequestDelivery ho hes hk hoff hf hdown hrel hd hlate hheld
    refine ⟨fun hk hins => ?_, fun hk => ?_, fun hk => ?_, fun hk hlate => ?_, fun hk hheld => ?_⟩
    · have acts := acts (by simp [hk]) (by simp [hk, Op.atMau])
      rwa [podAct_load hk hins] at acts
    · have acts := acts (by simp [hk]) (by simp [hk, Op.atMau])
      rwa [State.podAct, hk] at acts
    · have acts := acts (by simp [hk]) (by simp [hk, Op.atMau])
      rwa [State.podAct, hk] at acts
    · have acts := acts (by simp [hlate]) (by simp [hk, Op.atMau])
      rwa [State.podAct, hk] at acts
    · have mau : o.atMau = true := by obtain h | h | h := hk <;> simp [Op.atMau, h]
      have acts := acts (by obtain h | h | h := hk <;> simp [h]) (by simp [hheld])
      obtain h | h | h := hk <;> (rw [State.podAct, h] at acts; simpa [mau] using acts)

end Sys2Proof.Machine

/-! QTILE, TRLCK, and the attempts and commits of tile transfers (R170, R171, R175, R225, R226). -/

namespace Sys2Proof.Machine

section
variable {s : State} {c : Ctx} (h : s.ctx? = some c) (w : W2) (hls : c.participants w.p false ≠ [])
include h hls

/-- QTILE of a ready tile of FP32 values to a ready image enters its operation with the words of the first. -/
theorem exec_qtile_issued : let A := (c.B.sideOf s).tile w.a.toNat
    let D := (c.B.sideOf s).tile w.d.toNat
    A.st = 2 → D.st = 2 → A.desc'.image = false → A.desc'.ty = 9 → A.desc'.rows = 64 → A.desc'.wcols = 64 →
      D.desc'.image = true → D.desc'.ty = tyOf w → A.desc'.overlaps D.desc' = false →
      let u := (s.setTile c.B w.a.toNat fun T => { T with st := 3 }).setTile c.B w.d.toNat fun T => { T with st := 1 }
      exec (.qtile w) s = .next (Issued u c 2 (u.stampOrder c.Q { c.op .qtile (.qtile w) (laneMask (c.participants w.p false)) (c.flag w.n) with
        bytes := s.tileData c.B A.desc'
        elems := (List.range D.desc'.rows).map fun r =>
          { lane := (c.participants w.p false).headD 0, va := 0#64, pa := D.desc'.wordAt r 0, size := 4 * D.desc'.wcols } })) := by
  intro A D hA hD ha ha9 har hac hd hdt ho u
  change execQtile w s = _
  obtain ⟨l, ls, hl⟩ := List.exists_cons_of_ne_nil hls
  have data : u.tileData c.B A.desc' = s.tileData c.B A.desc' := by
    simp only [State.tileData, u, sideOf_setTile_bytes]
  simp only [A, D] at *
  rw [← data, ← issueStep_eq (s := u) h (stampOrder_blk ..) (stampOrder_q ..)]
  simp only [execQtile, h, hl, Tile.busy, hA, hD, ha, ha9, har, hac, hd, hdt, ho, ne_eq, not_true_eq_false, or_self, Bool.false_eq_true,
    if_false, Nat.reduceEqDiff, Bool.true_eq_false, Nat.reduceBEq, Bool.or_self, List.headD_cons]
  rfl

/-- TRLCK of a ready image enters its operation. -/
theorem exec_trlck_issued (hA : ((c.B.sideOf s).tile w.a.toNat).st = 2) (ha : ((c.B.sideOf s).tile w.a.toNat).desc'.image = true) :
    exec (.trlck w) s = .next (Issued (s.setTile c.B w.a.toNat fun T => { T with st := 3 }) c 2
      { c.op .trlck (.trlck w) (laneMask (c.participants w.p false)) (c.flag w.n) with holdV := [w.d.toNat] }) := by
  change execTrlck w s = _
  obtain ⟨l, ls, hl⟩ := List.exists_cons_of_ne_nil hls
  rw [← issueStep_eq (s := s.setTile c.B w.a.toNat fun T => { T with st := 3 }) h (by rfl) (by rfl)]
  simp only [execTrlck, h, hl, Tile.busy, hA, ha, or_self, Bool.false_eq_true, if_false, Nat.reduceEqDiff, Bool.true_eq_false,
    Nat.reduceBEq, Bool.or_self]

/-- TRLCK of an empty tile switches its participants' lanes off. -/
theorem exec_trlck_empty (hA : ((c.B.sideOf s).tile w.a.toNat).st = 0) :
    exec (.trlck w) s = .next ((s.putQuire c (c.past 2 c.Q)).laneFault c.b c.q (c.participants w.p false) 3 w.a.toNat) := by
  change execTrlck w s = _
  obtain ⟨l, ls, hl⟩ := List.exists_cons_of_ne_nil hls
  simp only [execTrlck, h, hl, Tile.busy, hA, true_or, if_true, Bool.false_eq_true, if_false, Nat.reduceBEq, Bool.or_self, State.tileFault,
    State.advance_ctx h]

end

/-! ### Completions -/

theorem cellGet_scatterBytes_outside (m : List Host.Cell) {offs : List Nat} (bs : List Byte) {a : Nat} (h : a ∉ offs) :
    cellGet (scatterBytes m offs bs) a = cellGet m a := by
  have ih (xs : List (Nat × Byte)) (hx : ∀ x ∈ xs, a ≠ x.1) : ∀ m, cellGet (xs.foldl (fun m x => cellPut m x.1 x.2) m) a = cellGet m a := by
    induction xs with
    | nil => exact fun _ => rfl
    | cons x xs ih =>
      intro m
      rw [List.foldl_cons, ih fun y hy => hx y (List.mem_cons_of_mem _ hy), cellGet_cellPut_ne _ _ (hx x List.mem_cons_self)]
  exact ih _ (fun x hx e => h (e ▸ (List.of_mem_zip hx).1)) m

/-- A byte outside what is scattered stays, in the ring header too. -/
theorem cellGet_keepHeader_scatterBytes (B : Block) (m : List Host.Cell) {offs : List Nat} (bs : List Byte) {a : Nat} (h : a ∉ offs) :
    cellGet (B.keepHeader m (scatterBytes m offs bs)) a = cellGet m a := by
  by_cases ha : B.ring = 0 ∨ a < 4 ∨ 64 ≤ a
  · rw [keepHeader_outside B _ _ ha, cellGet_scatterBytes_outside m bs h]
  · exact keepHeader_inside (by omega) m _ (by omega) (by omega)

theorem onlyOps_finishOp (s : State) (i : Nat) : OnlyOps s (s.finishOp i) := by
  unfold State.finishOp
  split
  · rfl
  · next o _ => exact (show OnlyOps s (s.delOp i) from rfl).trans (onlyBlocks_decFlag ..).onlyOps

theorem finishOp_op? (s : State) (i : Nat) : (s.finishOp i).op? i = none := by
  unfold State.finishOp
  split
  · assumption
  · rw [(onlyBlocks_decFlag ..).op?]
    exact tget?_tdel_self ..

/-- An operation that covers nothing, has met nothing and no fault, leaves the table as it settles. -/
theorem settle_alone {s : State} {i : Nat} {o : Op} (h : s.op? i = some o) (hc : o.covers = []) (hp : o.prior = []) (hm : o.met = [])
    (hb : o.bad = none) : s.settle i = (s.decFlag o.blk o.q (laneList o.lanes) o.flag).delOp i := by
  simp only [State.settle, h, hc, hp, hm, hb, List.append_nil, List.any_nil, Bool.and_false, Bool.false_eq_true, if_false]

/-- The words that a completing QTILE finds, each of the two that it may be. -/
def State.qtileWords (s : State) (o : Op) (m : List Host.Cell) (a : Desc) : List Nat :=
  (List.range 4096).map fun i =>
    if (Config.freeValue (s.free + i)).getLsbD 0 then readLE m (a.wordAt (i / 64) (i % 64)) 4 else leNat ((o.bytes.drop (4 * i)).take 4)

/-- The tiles and the bytes of the side as a QTILE leaves them. -/
def State.qtileWritten (s : State) (o : Op) (B : Block) (w : W2) : State :=
  let a := ((B.sideOf s).tile w.a.toNat).desc'
  let d := ((B.sideOf s).tile w.d.toNat).desc'
  let xs := s.qtileWords o (B.sideOf s).bytes a
  let s := { s with free := s.free + 4096 }.updSide B fun S =>
    { S with bytes := B.keepHeader S.bytes (scatterBytes S.bytes d.dataAt (quantTile (tyOf w) (rndOf w.x) xs)) }
  (s.setTile B w.a.toNat fun T => { T with st := 2 }).setTile B w.d.toNat fun T => { T with st := 2 }

section
variable {s : State} {i : Nat} {o : Op} {B : Block} {w : W2} (ho : s.op? i = some o) (hB : s.block? o.blk = some B)
include ho hB

theorem exec_qtileCompletion (hk : o.kind = .qtile) (hi : o.ins = .qtile w) : exec (.qtileCompletion i) s =
    .next (((s.qtileWritten o B w).mapElems i (fun _ => true) fun e => { e with st := 3 }).settle i) := by
  change execQtileCompletion i s = _
  simp only [execQtileCompletion, ho, hB, hk, hi, bne_self_eq_false, Bool.false_eq_true, if_false]
  rfl

theorem exec_trlckStatusWrite (hk : o.kind = .trlck) (hi : o.ins = .trlck w) : exec (.trlckStatusWrite i) s =
    .next (((s.mapLanes o.blk o.q (s.opLanes o) fun _ t => t.setV w.d.toNat (BitVec.ofNat 32 (trailerStatus (s.tileData B
      ((B.sideOf s).tile w.a.toNat).desc')))).setTile B w.a.toNat fun T => { T with st := 2 }).finishOp i) := by
  change execTrlckStatusWrite i s = _
  simp only [execTrlckStatusWrite, ho, hB, hk, hi, bne_self_eq_false, Bool.false_eq_true, if_false]
  rfl

end

theorem OnlyOps.sideOf {s t : State} (h : OnlyOps s t) (B : Block) : B.sideOf t = B.sideOf s := by
  rw [h]
  rfl

theorem OnlyOps.mem {s t : State} (h : OnlyOps s t) : t.mem = s.mem := by rw [h]
theorem OnlyOps.tarns {s t : State} (h : OnlyOps s t) : t.tarns = s.tarns := by rw [h]
theorem OnlyOps.tags {s t : State} (h : OnlyOps s t) : t.tags = s.tags := by rw [h]

theorem OnlyOps.cores {s t : State} (h : OnlyOps s t) : t.cores = s.cores := by rw [h]

/-- The thread keeps what the status of a trailer wrote to it. -/
theorem threadAt_trlck {s : State} {o : Op} {i : Nat} {B : Block} {Q : Quire} {l : Nat} {th : Thread} (ho : s.op? i = some o)
    (hB : s.block? o.blk = some B) (hQ : tget? B.quires o.q = some Q) (ht : tget? Q.threads l = some th) (hf : 12 ≤ o.flag) {ls : List Nat} (hl : l ∈ ls)
    (f : Thread → Thread) (n : Nat) (g : Tile → Tile) :
    (((s.mapLanes o.blk o.q ls fun _ t => f t).setTile B n g).finishOp i).threadAt o.blk o.q l = some (f th) := by
  have ho' : ((s.mapLanes o.blk o.q ls fun _ t => f t).setTile B n g).op? i = some o := ((onlyBlocks_mapLanes ..).op? i).trans ho
  rw [finishOp_plain ho' hf]
  change (s.mapLanes o.blk o.q ls fun _ t => f t).threadAt o.blk o.q l = _
  rw [State.threadAt_mapLanes, State.threadAt_of hB hQ, ht]
  simp [hl]

/-! ### An attempt of LDT -/

theorem sideOf_congr {s t : State} (h : t.cores = s.cores) (B : Block) : B.sideOf t = B.sideOf s := by
  unfold Block.sideOf State.core
  rw [h]

/-- A line that its home brings in and counts changes nothing but tarns. -/
theorem countRead_eq (s : State) (ln : Nat) : ∃ T, s.countRead ln = { s with tarns := T } := by
  unfold State.countRead
  dsimp only
  split
  · exact ⟨_, rfl⟩
  · split <;> exact ⟨_, rfl⟩

/-- What a read of an operation meets is all that it takes with it. -/
theorem noteMet_eq {s : State} {i : Nat} {o : Op} (ho : s.op? i = some o) (e : Elem) : ∃ met, (s.noteMet i o e).op? i = some { o with met := met } ∧
    (s.writersOf o e = [] → met = o.met) ∧ OnlyOps s (s.noteMet i o e) := by
  unfold State.noteMet
  rw [ho]
  by_cases hw : s.writersOf o e = []
  · simp only [hw, List.map_nil, List.filter_nil]
    exact ⟨o.met, ho, fun _ => rfl, rfl⟩
  · generalize ((s.writersOf o e).map (·.1)).filter (· != i) = ids
    cases ids with
    | nil => exact ⟨o.met, ho, fun _ => rfl, rfl⟩
    | cons j ids => exact ⟨_, State.op?_setOp_self .., fun h => absurd h hw, rfl⟩

theorem onlyBlocks_observe (s : State) (o : Op) (e : Elem) : OnlyBlocks s (s.observe o e) := by
  unfold State.observe
  exact onlyBlocks_mapLanes ..

/-- The line of an LDT's next read, when its tarn has it. -/
def State.ldtServed (s : State) (o : Op) (t ln : Nat) : State :=
  if t == lineHome ln then (s.bringHome ln (cacheOf o.ins == 2)).countRead ln
  else if tarnModule t != tarnModule (lineHome ln) then s.countRead ln else s

theorem ldtServed_eq (s : State) (o : Op) (t ln : Nat) : ∃ T, s.ldtServed o t ln = { s with tarns := T } := by
  unfold State.ldtServed
  split
  · exact countRead_eq (s.bringHome ln _) ln
  · split
    · exact countRead_eq s ln
    · exact ⟨_, rfl⟩

section
variable {s : State} {i : Nat} {o : Op} {B : Block} {w : W2} {e : Elem} (ho : s.op? i = some o) (hB : s.block? o.blk = some B)
  (hk : o.kind = .ldt) (hi : o.ins = .ldt w)
include ho hB hk hi

section
variable {need : BitVec 64} (hby : o.bypass = false) (he : o.elems[o.m % o.elems.length]? = some e)
  (hneed : (if o.m = o.elems.length then byteMask 0 4 else ((B.sideOf s).tile w.d.toNat).desc'.needs o.m) = need)
  (hclear : s.clearToAct o e = true) (hshut : s.shut (coreTarn B.core) e.pa = false) (hdown : s.podDown (coreTarn B.core) e.pa = false)
  (hd : coreTarn B.core = lineHome (lineOf e.pa) → s.dramHeld (lineOf e.pa) = false)
  (hhas : s.agentHas (coreTarn B.core) (lineOf e.pa) need = true) (hp : s.poisonedFor (coreTarn B.core) (lineOf e.pa) = false)
  (ht : s.tagsMatch (coreTarn B.core) e.te e.va e.pa (maskBytes need) = true)
include hby he hneed hclear hshut hdown hd hhas hp ht

/-- An attempt that nothing stops reads its line. -/
theorem ldtAttempt_eq {u : State} (hu : ((s.ldtServed o (coreTarn B.core) (lineOf e.pa)).noteMet i o e).observe o e = u) :
    s.ldtAttempt i = u.ldtRead i ((u.op? i).getD o) B e (leBytes 64 (s.readLine (coreTarn B.core) (lineOf e.pa)).toNat) := by
  have held : (coreTarn B.core == lineHome (lineOf e.pa) && s.dramHeld (lineOf e.pa)) = false := by
    by_cases h : coreTarn B.core = lineHome (lineOf e.pa)
    · rw [hd h, Bool.and_false]
    · rw [beq_false_of_ne h, Bool.false_and]
  have hw : w2Of o.ins = w := by rw [hi]; rfl
  rw [← hu]
  simp only [State.ldtAttempt, ho, hB, he, hk, hw, hneed, hclear, hshut, hdown, hby, held, hhas, hp, ht, bne_self_eq_false, Bool.not_true,
    Bool.or_self, Bool.false_eq_true, if_false]
  rfl

/-- It goes on with the line and with what its read has met. -/
theorem exec_ldtAttempt : ∃ (u : State) (met : List Nat),
    exec (.ldtAttempt i) s = .next (u.ldtRead i { o with met := met } B e (leBytes 64 (s.readLine (coreTarn B.core) (lineOf e.pa)).toNat)) ∧
      u.op? i = some { o with met := met } ∧ (s.writersOf o e = [] → met = o.met) ∧ u.mem = s.mem ∧ u.tags = s.tags ∧ u.cores = s.cores := by
  have reads := ldtAttempt_eq ho hB hk hi hby he hneed hclear hshut hdown hd hhas hp ht rfl
  obtain ⟨T, hT⟩ := ldtServed_eq s o (coreTarn B.core) (lineOf e.pa)
  rw [hT] at reads
  obtain ⟨met, hop, hmet, hn⟩ := noteMet_eq (s := { s with tarns := T }) ho e
  have only : OnlyOps { s with tarns := T } ((State.noteMet { s with tarns := T } i o e).observe o e) :=
    hn.trans (onlyBlocks_observe ..).onlyOps
  have hop' : ((State.noteMet { s with tarns := T } i o e).observe o e).op? i = some { o with met := met } :=
    ((onlyBlocks_observe ..).op? i).trans hop
  generalize (State.noteMet { s with tarns := T } i o e).observe o e = u at *
  refine ⟨u, met, congrArg Host.Outcome.next ?_, hop', hmet, only.mem, only.tags, only.cores⟩
  rw [reads, hop', Option.getD_some]

end

omit hB in
/-- The end of a transfer without a fault: the tile is ready, and the operation gone but for what it met. -/
theorem ldtOver_none (hb : o.bad = none) : OnlyOps (s.setTile B w.d.toNat fun T => { T with st := 2 }) (s.ldtOver i B none) ∧
    ∀ x, (s.ldtOver i B none).op? i = some x → x.kind = .met := by
  have hw : w2Of o.ins = w := by rw [hi]; rfl
  have ho' : (s.setTile B w.d.toNat fun T => { T with st := 2 }).op? i = some o := ho
  have ends : s.ldtOver i B none =
      ((s.setTile B w.d.toNat fun T => { T with st := 2 }).setOp i { o with elems := [] }).settle i := by
    simp only [State.ldtOver, ho, hw, ho']
  rw [ends]
  refine ⟨(show OnlyOps _ (State.setOp _ i _) from rfl).trans (onlyOps_settle (State.op?_setOp_self ..) hb), fun x hx => ?_⟩
  simp only [State.settle, State.op?_setOp_self, hb, Op.isWrite, hk, Bool.false_and, Bool.false_eq_true, if_false] at hx
  split at hx
  · rw [State.op?_setOp_self, Option.some.injEq] at hx
    rw [← hx]
  · rw [show State.op? (State.delOp _ i) i = none from tget?_tdel_self ..] at hx
    cases hx

end

/-! ### STT.aon -/

theorem State.coreOf_of {s : State} {b : Nat} {B : Block} (hB : s.block? b = some B) : s.coreOf b = B.core := by
  simp only [State.coreOf, hB, Option.elim_some]

section
variable {s : State} {i : Nat} {o : Op} {B : Block} {w : W2} {h : Elem} {rest : List Elem} (ho : s.op? i = some o)
  (hB : s.block? o.blk = some B) (hk : o.kind = .stt) (hi : o.ins = .stt w) (haon : w.x.sub.getLsbD 0 = true) (hby : o.bypass = false)
  (he : o.elems = h :: rest) (hclear : ∀ e ∈ o.elems, e.st = 0 ∧ s.clearToAct o e = true) (hshut : s.shut (coreTarn B.core) h.pa = false)
include ho hB hk hi haon hby he hclear hshut

/-- A staged object whose elements may act goes to its home by a request, or is committed. -/
theorem exec_sttAonCommit : exec (.sttAonCommit i) s =
    if s.stampedFor o h || (s.routeOf o h == .here &&
        o.elems.any fun e => !(s.spanSharers (lineOf e.pa) (BitVec.allOnes 64) (coreTarn B.core)).isEmpty) then
      .next (s.sendAccess i (coreTarn B.core) (lineOf h.pa) o.elems)
    else if o.elems.any fun e => s.dramHeld (lineOf e.pa) then .next s
    else .next (s.aonCommit i o false).retire := by
  have hw : w2Of o.ins = w := by rw [hi]; rfl
  have stands : (o.elems.any fun e => e.st != 0 || !s.clearToAct o e) = false :=
    List.any_eq_false.2 fun e he => by simp [hclear e he]
  change execSttAonCommit i s = _
  rw [execSttAonCommit, ho]
  dsimp only
  rw [hk, hw, haon, stands, if_neg (by simp), he]
  simp only [State.coreOf_of hB, hshut, hby, Bool.false_eq_true, if_false]

end

/-- An `.aon` object with no fault is committed line by line. -/
theorem aonCommit_good {s : State} {i : Nat} {o : Op} {h : Elem} {rest : List Elem} (he : o.elems = h :: rest)
    (hgood : ∀ e ∈ o.elems, (s.sttRead o).podDown (coreTarn ((s.sttRead o).coreOf o.blk)) e.pa = false ∧
      (s.sttRead o).isPoisoned (lineOf e.pa) = false ∧ (s.sttRead o).tagsMatch (lineHome (lineOf e.pa)) e.te e.va e.pa e.size = true) :
    s.aonCommit i o false = (aonLines h rest.dropLast
        (takeData (((s.sttRead o).clean (lineHome (lineOf h.pa)) (lineOf h.pa)).homeData (lineOf h.pa)) 0 4)).foldl (fun s x =>
      ((s.homeWrite x.1 x.2.1 x.2.2 0 false).1.streamHome o x.1).mapElems i (fun e => lineOf e.pa == x.1)
        fun e => { e with st := if (s.homeWrite x.1 x.2.1 x.2.2 0 false).2 then 3 else 2 }) (s.sttRead o) := by
  have down : (o.elems.find? fun e => (s.sttRead o).podDown (coreTarn ((s.sttRead o).coreOf o.blk)) e.pa) = none :=
    List.find?_eq_none.2 fun e he => by simp [hgood e he]
  have poison (p : Elem → Bool) : (o.elems.find? fun e => (s.sttRead o).isPoisoned (lineOf e.pa) && p e) = none :=
    List.find?_eq_none.2 fun e he => by simp [hgood e he]
  have tags : (o.elems.find? fun e => !(s.sttRead o).tagsMatch (lineHome (lineOf e.pa)) e.te e.va e.pa e.size) = none :=
    List.find?_eq_none.2 fun e he => by simp [hgood e he]
  rw [he] at down poison tags
  simp only [State.aonCommit, he, down, poison, tags, Option.map_none]
  rfl

/-! ### What an attempt goes on with -/

section
variable {u : State} {i : Nat} {o : Op} {B : Block} {w : W2} {e : Elem} {bs : List Byte} (hi : o.ins = .ldt w)
include hi

omit hi in
theorem ldtRead_odd (h0 : o.m = 0) (hv : leNat (bs.take 8) % 2 = 1) (hn : o.n < 64) :
    u.ldtRead i o B e bs = u.setOp i { o with n := o.n + 1, m := 0, bytes := [] } := by
  simp only [State.ldtRead, h0, if_true, hv, State.ldtRetry, if_pos hn]

theorem ldtRead_header (h0 : o.m = 0) (hv : leNat (bs.take 8) % 2 = 0)
    (hh : bits (leNat (bs.take 8)) 61 32 * 2 ^ 32 = ((B.sideOf u).tile w.d.toNat).desc'.header) :
    u.ldtRead i o B e bs = u.setOp i { o with m := 1, bytes := bs } := by
  have hw : w2Of o.ins = w := by rw [hi]; rfl
  simp only [State.ldtRead, h0, if_true, hv, hw, hh, bne_self_eq_false, Nat.zero_ne_one, Bool.false_eq_true, if_false]

theorem ldtRead_otherHeader (h0 : o.m = 0) (hv : leNat (bs.take 8) % 2 = 0)
    (hh : bits (leNat (bs.take 8)) 61 32 * 2 ^ 32 ≠ ((B.sideOf u).tile w.d.toNat).desc'.header) :
    u.ldtRead i o B e bs = (u.ldtOver i B none).laneFault o.blk o.q (u.opLanes o) 3 w.d.toNat := by
  have hw : w2Of o.ins = w := by rw [hi]; rfl
  simp only [State.ldtRead, h0, if_true, hv, hw, bne_iff_ne.2 hh, Nat.zero_ne_one, if_false]

omit hi in
theorem ldtRead_data (h0 : 0 < o.m) (hlen : o.m < o.elems.length) :
    u.ldtRead i o B e bs = u.setOp i { o with m := o.m + 1, bytes := o.bytes ++ bs } := by
  simp only [State.ldtRead, if_neg (Nat.ne_of_gt h0), if_pos hlen]

omit hi in
theorem ldtRead_changed (h0 : 0 < o.m) (hlen : o.elems.length ≤ o.m) (hv : leNat (bs.take 4) ≠ leNat (o.bytes.take 4)) (hn : o.n < 64) :
    u.ldtRead i o B e bs = u.setOp i { o with n := o.n + 1, m := 0, bytes := [] } := by
  simp only [State.ldtRead, if_neg (Nat.ne_of_gt h0), if_neg (Nat.not_lt.2 hlen), if_pos hv, State.ldtRetry, if_pos hn]

theorem ldtRead_last (h0 : 0 < o.m) (hlen : o.elems.length ≤ o.m) (hv : leNat (bs.take 4) = leNat (o.bytes.take 4)) :
    u.ldtRead i o B e bs = (u.updSide B fun S => { S with bytes := B.keepHeader S.bytes (scatterBytes S.bytes
      ((B.sideOf u).tile w.d.toNat).desc'.dataAt (o.bytes.drop 64)) }).ldtOver i B none := by
  have hw : w2Of o.ins = w := by rw [hi]; rfl
  simp only [State.ldtRead, if_neg (Nat.ne_of_gt h0), if_neg (Nat.not_lt.2 hlen), hv, hw, ne_eq, not_true_eq_false, if_false]

end

theorem onlyBlocks_laneFault (s : State) (b q : Nat) (ls : List Nat) (k off : Nat) : OnlyBlocks s (s.laneFault b q ls k off) := by
  unfold State.laneFault
  split
  · rfl
  · exact (onlyBlocks_updQuire s b q _).trans (onlyBlocks_updQuire _ b q _)

/-- Settles O31: the completions of QTILE and TRLCK, and the next step of a tile transfer by what it reads. -/
theorem tileTransfers : Obligations.TileTransfers := by
  refine ⟨⟨fun s c w h hls => ⟨?qtile, exec_trlck_issued h w hls, exec_trlck_empty h w hls⟩,
    fun s i o B w ho hB => ⟨fun hk hi hne hc hp hm hb => ?quantised, fun hk hi => ?checked⟩⟩,
    fun s i o B w e ho hB hk hi hby hb he => ?ldt, fun s i o B w h rest ho hB hk hi haon hby he hclear hshut => ?stt⟩
  case qtile =>
    intro hA hD ha ha9 har hac hd hdt hov u
    exact exec_qtile_issued h w hls hA hD ha ha9 har hac hd hdt hov
  case quantised =>
    have ho' : (s.qtileWritten o B w).op? i = some o := ho
    have done := settle_alone (State.op?_setOp_self (s.qtileWritten o B w) i { o with elems := o.elems.map fun e => { e with st := 3 } }) hc hp hm hb
    have only : OnlyOps (s.qtileWritten o B w) (((s.qtileWritten o B w).mapElems i (fun _ => true) fun e => { e with st := 3 }).settle i) := by
      rw [State.mapElems_eq ho']
      exact (show OnlyOps _ (State.setOp _ i _) from rfl).trans (onlyOps_settle (State.op?_setOp_self ..) hb)
    have gone : (((s.qtileWritten o B w).mapElems i (fun _ => true) fun e => { e with st := 3 }).settle i).op? i = none := by
      rw [State.mapElems_eq ho']
      exact (congrArg (·.op? i) done).trans (tget?_tdel_self ..)
    have tiles : w.a.toNat ≠ w.d.toNat := fun e => hne (BitVec.eq_of_toNat_eq e)
    have bytes : (B.sideOf (s.qtileWritten o B w)).bytes = B.keepHeader (B.sideOf s).bytes (scatterBytes (B.sideOf s).bytes
        ((B.sideOf s).tile w.d.toNat).desc'.dataAt (quantTile (tyOf w) (rndOf w.x)
          (s.qtileWords o (B.sideOf s).bytes ((B.sideOf s).tile w.a.toNat).desc'))) := by
      simp only [State.qtileWritten, sideOf_setTile_bytes, sideOf_updSide]
      rfl
    refine ⟨_, s.qtileWords o (B.sideOf s).bytes ((B.sideOf s).tile w.a.toNat).desc', exec_qtileCompletion ho hB hk hi, gone, ?_, ?_,
      by simp [State.qtileWords], fun k hk => ?_, ?_, fun a ha => ?_, only.mem, only.tarns⟩
    · rw [only.sideOf, State.qtileWritten, tile_setTile, if_neg tiles, tile_setTile, if_pos rfl]
    · rw [only.sideOf, State.qtileWritten, tile_setTile, if_pos rfl]
    · simp only [State.qtileWords, List.getD_eq_getElem?_getD, List.getElem?_map, List.getElem?_range hk, Option.map_some, Option.getD_some]
      split
      · exact .inl rfl
      · exact .inr rfl
    · rw [only.sideOf, bytes]
    · rw [only.sideOf, bytes, cellGet_keepHeader_scatterBytes B _ _ ha]
  case checked =>
    have only := onlyOps_finishOp ((s.mapLanes o.blk o.q (s.opLanes o) fun _ t => t.setV w.d.toNat (BitVec.ofNat 32 (trailerStatus (s.tileData B
      ((B.sideOf s).tile w.a.toNat).desc')))).setTile B w.a.toNat fun T => { T with st := 2 }) i
    have side : B.sideOf (s.mapLanes o.blk o.q (s.opLanes o) fun _ t => t.setV w.d.toNat (BitVec.ofNat 32 (trailerStatus (s.tileData B
      ((B.sideOf s).tile w.a.toNat).desc')))) = B.sideOf s := (onlyBlocks_mapLanes ..).onlyOps.sideOf B
    refine ⟨_, exec_trlckStatusWrite ho hB hk hi, finishOp_op? .., ?_, ?_, only.mem.trans (onlyBlocks_mapLanes ..).onlyOps.mem,
      only.tarns.trans (by rw [State.setTile]; exact (onlyBlocks_mapLanes ..).onlyOps.tarns), fun Q l th hQ hth hl hf => threadAt_trlck ho hB hQ hth hf hl _ _ _⟩
    · rw [only.sideOf, tile_setTile, if_pos rfl]
    · rw [only.sideOf, sideOf_setTile_bytes, side]
  case ldt =>
    intro n T len t ln need bs ver over_ goes hclear hshut hdown hd hhas hp ht
    obtain ⟨u, met, hexec, hop, hmet, hmem, htags, hcores⟩ := exec_ldtAttempt ho hB hk hi hby he rfl hclear hshut hdown hd hhas hp ht
    have hw : w2Of o.ins = w := by rw [hi]; rfl
    have side : B.sideOf u = B.sideOf s := sideOf_congr hcores B
    have reads (v : State) (hv : u.ldtRead i { o with met := met } B e bs = v) : exec (.ldtAttempt i) s = .next v := hexec.trans (congrArg _ hv)
    have on (o' : Op) (hv : u.ldtRead i { o with met := met } B e bs = u.setOp i { o' with met := met }) : goes o' :=
      ⟨_, met, reads _ hv, State.op?_setOp_self .., hmet, hmem, htags, hcores⟩
    obtain ⟨only, gone⟩ := ldtOver_none (B := B) hop hk hi hb
    refine ⟨fun h0 hv hn => on _ (ldtRead_odd h0 hv hn), fun h0 hv hh => on _ (ldtRead_header hi h0 hv (by rw [side]; exact hh)),
      fun h0 hv hh => ⟨_, reads _ (ldtRead_otherHeader hi h0 hv (by rw [side]; exact hh)), fun x hx => gone x ?_, ?_, ?_⟩,
      fun h0 hlen => on _ (ldtRead_data h0 hlen), fun h0 hlen hv hn => on _ (ldtRead_changed h0 hlen hv hn),
      fun h0 hlen hv => ⟨_, reads _ (ldtRead_last hi h0 hlen hv), ?_⟩⟩
    · rwa [(onlyBlocks_laneFault ..).op?] at hx
    · rw [(onlyBlocks_laneFault ..).onlyOps.sideOf, only.sideOf, tile_setTile, if_pos rfl]
    · rw [(onlyBlocks_laneFault ..).onlyOps.sideOf, only.sideOf, sideOf_setTile_bytes, side]
    · have hop' : (u.updSide B fun S => { S with bytes := B.keepHeader S.bytes (scatterBytes S.bytes
        ((B.sideOf u).tile w.d.toNat).desc'.dataAt (o.bytes.drop 64)) }).op? i = some { o with met := met } := hop
      obtain ⟨only, gone⟩ := ldtOver_none (B := B) hop' hk hi hb
      refine ⟨gone, ?_, ?_, fun a ha => ?_, only.mem.trans hmem, only.tags.trans htags⟩
      · rw [only.sideOf, tile_setTile, if_pos rfl]
      · rw [only.sideOf, sideOf_setTile_bytes, sideOf_updSide, side]
      · rw [only.sideOf, sideOf_setTile_bytes, sideOf_updSide, side, cellGet_keepHeader_scatterBytes B _ _ ha]
  case stt =>
    intro t s1 v shared
    have commit := exec_sttAonCommit ho hB hk hi haon hby he hclear hshut
    have asks : (s.routeOf o h == .here && o.elems.any fun e => !(s.spanSharers (lineOf e.pa) (BitVec.allOnes 64) t).isEmpty) = true ↔ shared := by
      simp only [Bool.and_eq_true, beq_iff_eq, List.any_eq_true, Bool.not_eq_true', List.isEmpty_eq_false_iff, shared]
    refine ⟨fun hs => commit.trans (if_pos (Bool.or_eq_true_iff.2 (hs.imp_right asks.2))), fun hst hsh hgood => ?_⟩
    have free : (o.elems.any fun e => s.dramHeld (lineOf e.pa)) = false := List.any_eq_false.2 fun e he => by simp [hgood e he]
    have tile : s1 = s.setTile B (w2Of o.ins).d.toNat fun T => if T.st = 3 then { T with st := 2 } else T := by
      simp only [s1, State.sttRead, hB]
    have core : coreTarn (s1.coreOf o.blk) = t := by
      rw [tile]
      exact congrArg coreTarn (State.coreOf_of hB)
    have good := aonCommit_good (s := s) (i := i) he fun e he => by
      obtain ⟨-, hdown, hp, ht⟩ := hgood e he
      change State.podDown s1 (coreTarn (s1.coreOf o.blk)) e.pa = false ∧ s1.isPoisoned _ = false ∧ s1.tagsMatch _ _ _ _ _ = true
      rw [core, tile]
      exact ⟨hdown, hp, ht⟩
    rw [CompletesTo, commit, hst, Bool.false_or, if_neg fun h => hsh (asks.1 h), free, if_neg Bool.false_ne_true, good]

end Sys2Proof.Machine

/-! Copy commands at issue, and shadows (R369 to R386). -/

namespace Sys2Proof.Machine

/-! ### The entry that an instruction forms -/

/-- The fields of an entry read back as they were put in. -/
theorem entryBits_fields {kind scope ty rop dir cache dst src len : Nat} (tile : Bool) (hk : kind < 256) (hs : scope < 8) (ht : ty < 32)
    (hr : rop < 8) (hd : dir < 4) (hc : cache < 4) (hdst : dst < 2 ^ 64) (hsrc : src < 2 ^ 64) (hlen : len < 2 ^ 32) :
    let e : Entry := { bits := entryBits kind scope ty rop tile dir cache dst src len, seq := 0, ring := 0 }
    e.kind = kind ∧ e.scope = scope ∧ e.ty = ty ∧ e.rop = rop ∧ e.isTile = tile ∧ e.dir = dir ∧ e.dst = dst ∧ e.src = src ∧
      e.len = len ∧ e.stat = 0xFFFFFFFF := by
  intro e
  have tileBit : e.isTile = (e.f 12 12 == 1) := rfl
  have field {v : Nat} (hi lo : Nat) (hv : e.bits.toNat = v) : e.f hi lo = v / 2 ^ lo % 2 ^ (hi + 1 - lo) := by rw [Entry.f, bits, hv]
  have value : e.bits.toNat = cache * 2 ^ 8 + dir * 2 ^ 10 + (if tile then 2 ^ 12 else 0) + rop * 2 ^ 13 + ty * 2 ^ 16 + scope * 2 ^ 21 +
      kind * 2 ^ 24 + 0xFFFFFFFF * 2 ^ 64 + len * 2 ^ 96 + src * 2 ^ 128 + dst * 2 ^ 192 := by
    refine (BitVec.toNat_ofNat ..).trans (Nat.mod_eq_of_lt ?_)
    cases tile
    · simp only [Bool.false_eq_true, if_false, Nat.reducePow] at *
      omega
    · simp only [if_true, Nat.reducePow] at *
      omega
  simp only [tileBit, Entry.kind, Entry.scope, Entry.ty, Entry.rop, Entry.dir, Entry.dst, Entry.src, Entry.len, Entry.stat,
    field _ _ value, Nat.reduceSub, Nat.reduceAdd, Nat.reducePow] at *
  cases tile
  · simp only [Bool.false_eq_true, if_false, beq_eq_false_iff_ne]
    refine ⟨?_, ?_, ?_, ?_, ?_, ?_, ?_, ?_, ?_, ?_⟩
    all_goals omega
  · simp only [if_true, beq_iff_eq]
    refine ⟨?_, ?_, ?_, ?_, ?_, ?_, ?_, ?_, ?_, ?_⟩
    all_goals omega

/-! ### ACP, ACPG and ACPR -/

/-- The operation of a copy instruction as it issues. -/
def copyOp (s : State) (c : Ctx) (w : W2) (ins : Instr) (ls : List Nat) : Op :=
  s.stampOrder c.Q { c.op .copy ins (laneMask ls) (c.flag w.n) with holdV := [w.d.toNat, w.d.toNat + 1], rel := 2 }

/-- The entry that a copy instruction places on the instruction ring. -/
def copyEntry (s : State) (c : Ctx) (o : Op) (e : BitVec 256) (l : Nat) : Entry :=
  { bits := e, seq := (c.B.iseq + 1) % 2 ^ 32, ring := 0, origin := some s.next, clause := c.gr.clause, widx := c.gr.widx
    covers := o.covers, id := s.next, ident := identOf c.B c.q l }

section
variable {s : State} {c : Ctx} (h : s.ctx? = some c) (ins : Instr) (w : W2) (entry : Ctx → Nat → BitVec 256)
include h

theorem copyIssue_none (hls : c.participants w.p false = []) : copyIssue ins w entry s = .next (s.putQuire c (c.past 2 c.Q)) := by
  simp only [copyIssue, h, hls, State.advance_ctx h]

section
variable {l : Nat} {ls : List Nat} {e : Entry} (hls : c.participants w.p false = l :: ls)
  (he : { bits := entry c l, seq := 0, ring := 0 } = e)
include hls he

theorem copyIssue_busy (hb : (e.isTile && ((c.B.sideOf s).tile e.tileNum).busy) = true) : copyIssue ins w entry s = .next (s.stall c) := by
  simp only [copyIssue, h, hls, he, hb, if_true]

variable (hb : (e.isTile && ((c.B.sideOf s).tile e.tileNum).busy) = false)
include hb

/-- The failure of the side operand switches the lanes off (R378). -/
theorem copyIssue_sideBad {k a : Nat} (ht : e.malformed = false ∨ (e.kind = 3 ∧ 65536 < e.len)) (hs : s.sideBadAtIssue c.B e = some (k, a)) :
    copyIssue ins w entry s =
      .next ((s.putQuire c (c.past 2 c.Q)).laneFault c.b c.q (l :: ls) (if k = 2 then 2 else if k = 5 then 1 else 3) a) := by
  have tested : (e.malformed && !(e.kind == 3 && decide (65536 < e.len))) = false := by
    obtain hm | ⟨hk, hl⟩ := ht
    · rw [hm, Bool.false_and]
    · simp [hk, hl]
  simp only [copyIssue, h, hls, he, hb, tested, hs, Bool.false_eq_true, if_false, State.advance_ctx h]
  by_cases h2 : k = 2
  · subst h2; rfl
  · by_cases h5 : k = 5
    · subst h5; rfl
    · simp only [if_neg h2, if_neg h5]

variable (hs : e.malformed = false ∨ (e.kind = 3 ∧ 65536 < e.len) → s.sideBadAtIssue c.B e = none)
include hs

/-- With a side operand that is right, a global one that is not ends the task. -/
theorem copyIssue_globalBad {k a : Nat} (hg : s.globalBadAtIssue c.B e = some (k, a)) :
    copyIssue ins w entry s = .next (s.raise c (detailCause k).1 (detailCause k).2 l (BitVec.ofNat 64 a)) := by
  by_cases ht : (e.malformed && !(e.kind == 3 && decide (65536 < e.len))) = true
  · simp only [copyIssue, h, hls, he, hb, ht, hg, Bool.false_eq_true, if_false, if_true]
  · have tested : e.malformed = false ∨ (e.kind = 3 ∧ 65536 < e.len) := by simpa [Decidable.or_iff_not_imp_left] using ht
    simp only [copyIssue, h, hls, he, hb, ht, hs tested, hg, Bool.false_eq_true, if_false]

/-- With both right, the entry is placed. -/
theorem copyIssue_good (hg : s.globalBadAtIssue c.B e = none) :
    copyIssue ins w entry s = s.placeEntry c .copy ins (l :: ls) (c.flag w.n) [w.d.toNat, w.d.toNat + 1] e.bits := by
  have hbits : e.bits = entry c l := by rw [← he]
  by_cases ht : (e.malformed && !(e.kind == 3 && decide (65536 < e.len))) = true
  · simp only [copyIssue, h, hls, he, hb, ht, hg, hbits, Bool.false_eq_true, if_false, if_true]
  · have tested : e.malformed = false ∨ (e.kind = 3 ∧ 65536 < e.len) := by simpa [Decidable.or_iff_not_imp_left] using ht
    simp only [copyIssue, h, hls, he, hb, ht, hs tested, hg, hbits, Bool.false_eq_true, if_false]

theorem copyIssue_full (hg : s.globalBadAtIssue c.B e = none) (hf : 16 ≤ c.B.iring.length) : copyIssue ins w entry s = .next (s.stall c) := by
  rw [copyIssue_good h ins w entry hls he hb hs hg, State.placeEntry, if_pos hf]

theorem copyIssue_placed (hg : s.globalBadAtIssue c.B e = none) (hf : c.B.iring.length < 16) :
    let o := copyOp s c w ins (l :: ls)
    let x := copyEntry s c o e.bits l
    copyIssue ins w entry s = .next ((Issued s c 2 { o with rel := 0, fsc := 0, covers := [] }).updBlock c.b
      fun B => { B with iring := B.iring ++ [x], iseq := x.seq }) := by
  intro o x
  rw [copyIssue_good h ins w entry hls he hb hs hg, State.placeEntry, if_neg (Nat.not_le.2 hf),
    ← issueStep_eq h (stampOrder_blk ..) (stampOrder_q ..)]
  rfl

end

end

/-! ### CWAIT -/

theorem addNew_nil (l : List Nat) : addNew l [] = l := rfl

/-- A thread once it has read a completion word and met what the completions it counts release (R247). -/
def Thread.sees (t : Thread) (acq place : Nat) (rel : List (Nat × Nat × Nat)) : Thread :=
  if rel = [] then t else { t with synced := addNew t.synced (acquired acq place rel), readSet := rel ++ t.readSet }

theorem Quire.onLanes_onLanes (Q : Quire) (ls : List Nat) (f g : Nat → Thread → Thread) :
    (Q.onLanes ls f).onLanes ls g = Q.onLanes ls fun l t => g l (f l t) := by
  simp only [Quire.onLanes, List.map_map]
  congr 1
  refine List.map_congr_left fun e _ => ?_
  simp only [Function.comp]
  by_cases he : ls.contains e.1 = true
  · simp only [he, if_true]
  · simp only [he, Bool.false_eq_true, if_false]

section
variable {s : State} {c : Ctx} (h : s.ctx? = some c)
include h

/-- Threads that read a completion word have met what it counts. -/
theorem meetDone_mapLanes (ring acq : Nat) (ls : List Nat) (f : Thread → Thread) :
    let rel := (c.B.doneRel.filter fun r => r.1 == ring && (s.op? r.2.2).isSome).map fun r => (r.2.1, c.B.core * 32 + 16, r.2.2)
    ((s.meetDone c ring acq ls).mapLanes c.b c.q ls fun _ t => f t).advance c 2 =
      s.putQuire c (c.past 2 (c.Q.onLanes ls fun _ t => f (t.sees acq (c.B.core * 32 + c.q) rel))) := by
  intro rel
  by_cases hr : rel = []
  · have met : s.meetDone c ring acq ls = s := if_pos (List.isEmpty_iff.2 hr)
    simp only [met, mapLanes_advance h, Thread.sees, hr, if_true]
  · have met : s.meetDone c ring acq ls = s.putQuire c (c.Q.onLanes ls fun _ t => t.meet acq (c.B.core * 32 + c.q) [] rel) :=
      (if_neg fun h => hr (List.isEmpty_iff.1 h)).trans (State.mapLanes_ctx h _ _)
    obtain ⟨-, -, -, hg⟩ := State.ctx_iff.1 h
    rw [met, State.putQuire_mapLanes, State.putQuire_advance _ (by simpa using hg), Quire.onLanes_onLanes]
    simp only [Thread.sees, if_neg hr, Thread.meet, addNew_nil]

theorem exec_cwait (w : W2) : exec (.cwait w) s =
    let ls := c.participants w.p w.n
    let done := s.doneWord c.B (w.x.sub.toNat % 2)
    if ls.all fun l => decide ((done + 2 ^ 32 - opB c.Q (c.thread l) w false 0) % 2 ^ 32 < 2 ^ 31) then
      .next (((s.meetDone c (w.x.sub.toNat % 2) w.x.scope.toNat ls).mapLanes c.b c.q ls fun _ t => t.setV w.d.toNat (BitVec.ofNat 32 done)).advance c 2)
    else .next (s.stall c) := by
  change execCwait w s = _
  simp only [execCwait, h]
  rfl

end

/-! ### SHDW -/

/-- The operation of a SHDW with its result. -/
def shdwOp (c : Ctx) (w : W2) (ls : List Nat) (v : Nat) : Op :=
  { c.op .shdw (.shdw w) (laneMask ls) (c.flag w.n) with
    holdV := [w.d.toNat], elems := ls.map fun k => { Elem.result k v with st := 3 } }

/-- The pages that stand for a region's now. -/
def State.regionPages (s : State) (t part base n : Nat) : List Nat :=
  (List.range n).filterMap fun i =>
    match (s.walk t part ((base + i * 65536) % 2 ^ 64)).2 with | .ok x => some (x.pa x.va / 65536) | .error _ => none

/-- A region that SHDW can register (R383). -/
def State.shadowable (s : State) (B : Block) (base n : Nat) : Prop :=
  1 ≤ n ∧ n ≤ 4096 ∧ base % 65536 = 0 ∧ B.mayAccess true base (n * 65536) = true ∧
    s.pagesOk (coreTarn B.core) B.part base (n * 65536) (fun x va => x.sz == 16 && !x.cell && !inHost (x.pa va)) = true

/-- What SHDW does with a region that it can register. -/
def State.shdwEnds (s : State) (c : Ctx) (w : W2) (ls : List Nat) (base n : Nat) (phys : List Nat) : Out :=
  match [0, 1, 2, 3].find? fun h => (tget? c.B.shadows h).isNone with
  | none => .next (s.issueStep c 2 (shdwOp c w ls (2 ^ 28)))
  | some h =>
    match s.reserveFrames (coreTarn c.B.core) c.B.part phys (s.part c.B.part).shUsed with
    | none => .next (s.issueStep c 2 (shdwOp c w ls (2 * 2 ^ 28)))
    | some fs =>
      if c.B.shadows.any fun x => x.2.overlaps base (n * 65536) then .next (s.issueStep c 2 (shdwOp c w ls (3 * 2 ^ 28)))
      else
        let S : Shadow := { base := BitVec.ofNat 64 base, pages := n, own := phys.map s.unmapPage, frames := fs }
        .next (((s.updPart c.B.part fun P => { P with shUsed := P.shUsed ++ fs }).updBlock c.b fun B =>
          { B with shadows := tput B.shadows h S }).issueStep c 2 (shdwOp c w ls h))

theorem find_free {α : Type} {t : Tab α} {h : Nat} (hh : h < 4) (hn : tget? t h = none) (hk : ∀ k, k < h → tget? t k ≠ none) :
    ([0, 1, 2, 3].find? fun h => (tget? t h).isNone) = some h := by
  have used (k : Nat) (h : tget? t k ≠ none) : (tget? t k).isNone = false := by
    rwa [Option.isNone_eq_false_iff, Option.isSome_iff_ne_none]
  have isFree : (tget? t h).isNone = true := by simp [hn]
  obtain rfl | rfl | rfl | rfl : h = 0 ∨ h = 1 ∨ h = 2 ∨ h = 3 := by omega
  · simp only [List.find?, isFree]
  · simp only [List.find?, isFree, used 0 (hk 0 (by decide))]
  · simp only [List.find?, isFree, used 0 (hk 0 (by decide)), used 1 (hk 1 (by decide))]
  · simp only [List.find?, isFree, used 0 (hk 0 (by decide)), used 1 (hk 1 (by decide)), used 2 (hk 2 (by decide))]

theorem find_free_none {α : Type} {t : Tab α} (hk : ∀ h, h < 4 → tget? t h ≠ none) :
    ([0, 1, 2, 3].find? fun h => (tget? t h).isNone) = none := by
  have used (k : Nat) (h : k < 4) : (tget? t k).isNone = false := by
    rw [Option.isNone_eq_false_iff, Option.isSome_iff_ne_none]
    exact hk k h
  simp only [List.find?, used 0 (by decide), used 1 (by decide), used 2 (by decide), used 3 (by decide)]

section
variable {s : State} {c : Ctx} (h : s.ctx? = some c) (w : W2) {l : Nat} {ls : List Nat} (hls : c.participants w.p false = l :: ls)
  {base n : Nat} (hbase : ((c.thread l).getPair w.a.toNat).toNat = base) (hn : opB c.Q (c.thread l) w false w.x.imm20.toNat = n)
include h hls hbase hn

theorem exec_shdw_bad (hg : ¬ s.shadowable c.B base n) : exec (.shdw w) s = .next (s.raise c causeLease 0 l (BitVec.ofNat 64 base)) := by
  have bad : (decide (n < 1) || decide (4096 < n) || base % 65536 != 0 || !c.B.mayAccess true base (n * 65536) ||
      !s.pagesOk (coreTarn c.B.core) c.B.part base (n * 65536) fun x va => x.sz == 16 && !x.cell && !inHost (x.pa va)) = true := by
    refine Decidable.byContradiction fun hb => ?_
    simp only [Bool.or_eq_true, decide_eq_true_eq, bne_iff_ne, Bool.not_eq_true', ne_eq, not_or, Bool.not_eq_false, Decidable.not_not] at hb
    obtain ⟨⟨⟨⟨h1, h2⟩, h3⟩, h4⟩, h5⟩ := hb
    exact hg ⟨by omega, by omega, h3, h4, h5⟩
  change execShdw w s = _
  simp only [execShdw, h, hls, hbase, hn, bad, if_true]

omit h hls hbase hn in
theorem shdw_checks (hg : s.shadowable c.B base n) :
    (decide (n < 1) || decide (4096 < n) || base % 65536 != 0 || !c.B.mayAccess true base (n * 65536) ||
      !s.pagesOk (coreTarn c.B.core) c.B.part base (n * 65536) fun x va => x.sz == 16 && !x.cell && !inHost (x.pa va)) = false := by
  obtain ⟨h1, h2, h3, h4, h5⟩ := hg
  simp [h3, h4, h5]
  omega

/-- A region that can be registered gets its frames, or the result says why not. -/
theorem exec_shdw_good (hg : s.shadowable c.B base n) :
    exec (.shdw w) s = s.shdwEnds c w (l :: ls) base n (s.regionPages (coreTarn c.B.core) c.B.part base n) := by
  change execShdw w s = _
  simp only [execShdw, h, hls, hbase, hn, shdw_checks hg, Bool.false_eq_true, if_false, State.shdwEnds]
  rfl

end

/-! ### PUBL and ABND -/

/-- The operation of a PUBL or an ABND, before its order is known. -/
def shadowOp (s : State) (c : Ctx) (kind : OpKind) (ins : Instr) (w : W2) (l : Nat) (ls : List Nat) : Op :=
  { c.op kind ins (laneMask (l :: ls)) (c.flag w.n) with
    holdV := [w.d.toNat]
    rel := if kind = .publ then w.x.scope.toNat else 0
    n := c.B.iseq
    m := if c.B.ring = 0 then 0 else s.notify c.B
    elems := (l :: ls).map fun k => { lane := k, va := 0#64, pa := 0, size := 0, st := 7, x := BitVec.ofNat 64 ((c.thread l).rd false w.a) } }

theorem shadowIssue_eq {s : State} {c : Ctx} (h : s.ctx? = some c) (kind : OpKind) (ins : Instr) (w : W2) {l : Nat} {ls : List Nat}
    (hls : c.participants w.p false = l :: ls) : shadowIssue kind ins w s =
      if kind = .publ ∧ 6 ≤ w.x.scope.toNat ∧ s.gangGate c.B = 1 then .next (s.stall c)
      else if kind = .publ ∧ 6 ≤ w.x.scope.toNat ∧ s.gangGate c.B = 3 then .next (s.endTask c.b 7 none)
      else .next (Issued s c 2 (s.stampOrder c.Q (shadowOp s c kind ins w l ls))) := by
  rw [← issueStep_eq h (stampOrder_blk ..) (stampOrder_q ..)]
  simp only [shadowIssue, h, hls]
  rfl

section
variable {s : State} {op : Nat} {o : Op} {B : Block} {S : Shadow} (ho : s.op? op = some o) (hB : s.block? o.blk = some B)
  (hS : tget? B.shadows o.handle = some S) (hb : s.shadowBusy o B S = false)
include ho hB hS hb

theorem exec_publExchange (hk : o.kind = .publ) (hr : s.regionRead o B S = false) (hrel : s.released o = true)
    (howed : ∀ i ∈ s.engineOwes o.blk B, s.performedAt o.rel i = true) :
    let fresh (s : State) : State := s.updBlock o.blk fun B =>
      { B with shadows := tput B.shadows o.handle { S with written := [], discarded := false } }
    exec (.publExchange op) s = if S.discarded then .next ((fresh s).shadowDone op o 5) else
      .next (((fresh (S.written.foldl (fun s k =>
        let s := s.swapPages (S.own.getD k 0) (S.frames.getD k 0)
        s.switchTlbs o.rel B.core B.part ((S.base.toNat + k * 65536) % 2 ^ 64) (s.remapPage (S.own.getD k 0))) s)).publWrite o B S).shadowDone op o 0) := by
  intro fresh
  have owed : ((s.engineOwes o.blk B).all fun i => s.performedAt o.rel i) = true := List.all_eq_true.2 howed
  change execPublExchange op s = _
  simp only [execPublExchange, ho, hB, hS, hb, hk, hr, hrel, owed, bne_self_eq_false, Bool.not_true, Bool.false_eq_true, if_false]
  rfl

theorem exec_abndDiscard (hk : o.kind = .abnd) : exec (.abndDiscard op) s = .next
    (((s.updPart B.part fun P => { P with shUsed := P.shUsed.filter fun x => !S.frames.contains x }).updBlock o.blk
      fun B => { B with shadows := tdel B.shadows o.handle }).shadowDone op o 0) := by
  change execAbndDiscard op s = _
  simp only [execAbndDiscard, ho, hB, hS, hb, hk, bne_self_eq_false, Bool.false_eq_true, if_false]

end

theorem remapPage_put (t : Tab Nat) (k v j : Nat) :
    tget (if k = v then tdel t k else tput t k v) j j = if j = k then v else tget t j j := by
  by_cases hk : k = v
  · rw [if_pos hk, tget, tget?_tdel]
    by_cases hj : j = k
    · simp [hj, hk]
    · rw [if_neg hj, if_neg hj]
      rfl
  · rw [if_neg hk, tget, tget?_tput]
    by_cases hj : j = k
    · simp [hj]
    · rw [if_neg hj, if_neg hj]
      rfl

/-- Two pages stand for each other, and every other page for what it did (R385). -/
theorem remapPage_swapPages (s : State) (a b p : Nat) :
    (s.swapPages a b).remapPage p = if p = b then s.remapPage a else if p = a then s.remapPage b else s.remapPage p := by
  unfold State.swapPages State.remapPage
  rw [remapPage_put]
  split
  · rfl
  · rw [remapPage_put]

/-- Settles O42: copy commands by the entry of their lowest participant, CWAIT, and the life of a shadow. -/
theorem copyAndShadows : Obligations.CopyAndShadows := by
  refine ⟨⟨fun kind scope ty rop dir cache dst src len tile hk hs ht hr hd hc hdst hsrc hlen =>
      entryBits_fields tile hk hs ht hr hd hc hdst hsrc hlen, fun s c w h => ?none, fun s c w l ls h hls => ?copy, fun s c w h => ?cwait⟩,
    fun s c w l ls h hls => ?shdw, fun s c w l ls h hls => ?issue, fun s op o B S ho hB hS hb => ?ends, fun s a b => ?swap⟩
  case none =>
    intro none_
    exact ⟨fun hls => copyIssue_none h _ w _ hls, fun hls => copyIssue_none h _ w _ hls, fun hls => copyIssue_none h _ w _ hls⟩
  case copy =>
    intro pair reg side d dr acp acpg acpr places
    have placed (i : Instr) (entry : Ctx → Nat → BitVec 256) (hi : exec i s = copyIssue i w entry s) (bits : BitVec 256)
        (hbits : entry c l = bits) : places i bits := by
      subst hbits
      refine ⟨fun hb => hi.trans (copyIssue_busy h i w entry hls rfl hb), fun hb hs hg => ⟨fun hf => ?_, fun hf => ?_⟩,
        fun k a hb ht hs => hi.trans (copyIssue_sideBad h i w entry hls rfl hb ht hs),
        fun k a hb hs hg => hi.trans (copyIssue_globalBad h i w entry hls rfl hb hs hg)⟩
      · exact hi.trans (copyIssue_placed h i w entry hls rfl hb hs hg hf)
      · exact hi.trans (copyIssue_full h i w entry hls rfl hb hs hg hf)
    refine ⟨placed _ _ rfl _ ?_, placed _ _ rfl _ ?_, placed _ _ rfl _ ?_⟩
    · dsimp only [acp, copyOperand]
      simp only [side, pair, reg, d, Bool.not_eq_true', beq_eq_false_iff_ne, ne_eq, ite_not]
      rfl
    · dsimp only [acpg, copyOperand]
      simp only [side, pair, reg, Bool.not_true, Bool.not_false, Bool.false_eq_true, if_false, if_true]
      rfl
    · dsimp only [acpr, copyOperand]
      simp only [pair, reg, dr, Bool.not_eq_true', beq_eq_false_iff_ne, ne_eq, ite_not, Bool.false_eq_true, if_false]
      rfl
  case cwait =>
    intro ls done met rel sees
    have waits := exec_cwait h w
    dsimp only at waits
    have holds : (ls.all fun l => decide ((done + 2 ^ 32 - opB c.Q (c.thread l) w false 0) % 2 ^ 32 < 2 ^ 31)) = true ↔ met := by
      simp only [List.all_eq_true, decide_eq_true_eq, met]
    refine ⟨fun hm => waits.trans ((if_pos (holds.2 hm)).trans ?_), fun hm => waits.trans (if_neg fun h => hm (holds.1 h))⟩
    exact congrArg Host.Outcome.next (meetDone_mapLanes h _ _ ls _)
  case shdw =>
    intro base n t good phys op free meets
    have issued (v : Nat) : exec (.shdw w) s = .next (s.issueStep c 2 (shdwOp c w (l :: ls) v)) → exec (.shdw w) s = .next (Issued s c 2 (op v)) :=
      fun he => he.trans (congrArg _ (issueStep_eq h rfl rfl))
    refine ⟨fun hg => exec_shdw_bad h w hls rfl rfl hg, fun hg hf => issued _ ?_, fun k hg hk hr => issued _ ?_,
      fun k fs hg hk hr hm => issued _ ?_, fun k fs hg hk hr hm => ?_⟩
    all_goals
      rw [exec_shdw_good (base := base) (n := n) h w hls rfl rfl hg, State.shdwEnds]
    · rw [find_free_none hf]
    all_goals
      obtain ⟨hk4, hkn, hkf⟩ := hk
      rw [find_free hk4 hkn hkf]
    · have hr : s.reserveFrames (coreTarn c.B.core) c.B.part (s.regionPages (coreTarn c.B.core) c.B.part base n) (s.part c.B.part).shUsed = none := hr
      simp only [hr]
    · have hr : s.reserveFrames (coreTarn c.B.core) c.B.part (s.regionPages (coreTarn c.B.core) c.B.part base n) (s.part c.B.part).shUsed = some fs := hr
      simp only [hr, if_pos (show (c.B.shadows.any fun x => x.2.overlaps base (n * 65536)) = true from hm)]
    · have hr : s.reserveFrames (coreTarn c.B.core) c.B.part (s.regionPages (coreTarn c.B.core) c.B.part base n) (s.part c.B.part).shUsed = some fs := hr
      simp only [hr, show (c.B.shadows.any fun x => x.2.overlaps base (n * 65536)) = false from hm, Bool.false_eq_true, if_false]
      rfl
  case issue =>
    intro op
    have publ := shadowIssue_eq h .publ (.publ w) w hls
    have abnd := shadowIssue_eq h .abnd (.abnd w) w hls
    refine ⟨fun hgo => publ.trans ?_, fun h6 hg => publ.trans (if_pos ⟨rfl, h6, hg⟩), fun h6 hg => publ.trans ?_, abnd.trans ?_⟩
    · rw [if_neg (by omega), if_neg (by omega)]
      rfl
    · rw [if_neg (by omega), if_pos ⟨rfl, h6, hg⟩]
    · rw [if_neg (by simp), if_neg (by simp)]
      rfl
  case ends =>
    intro fresh owed
    refine ⟨fun hk hr hrel howed hd => ?_, fun hk hr hrel howed hd => ?_, fun hk => exec_abndDiscard ho hB hS hb hk⟩
    · exact (exec_publExchange ho hB hS hb hk hr hrel howed).trans (if_pos hd)
    · exact (exec_publExchange ho hB hS hb hk hr hrel howed).trans (if_neg (by simp [hd]))
  case swap =>
    refine ⟨?_, ?_, fun p ha hb => ?_⟩
    · rw [remapPage_swapPages]
      by_cases hab : a = b
      · rw [if_pos hab, hab]
      · rw [if_neg hab, if_pos rfl]
    · rw [remapPage_swapPages, if_pos rfl]
    · rw [remapPage_swapPages, if_neg hb, if_neg ha]

end Sys2Proof.Machine

/-! The copy engine: entries read, started, moved and completed, and errors of its transfers (R366 to R374, R388 to R390). -/

namespace Sys2Proof.Machine

/-! ### Entries that are read -/

/-- The entry that the engine reads next from a declared ring (R367). -/
def State.nextEntry (s : State) (b : Nat) (B : Block) : Entry :=
  let h := s.ringHead B
  { bits := BitVec.ofNat 256 (readLE (B.sideOf s).bytes (64 + 32 * (h % B.ring)) 32), seq := (h + 1) % 2 ^ 32, ring := 1, id := s.next
    covers := s.notifyCovers b B, ident := BitVec.ofNat 32 (coreTarn B.core / 12 * 2 ^ 24 + coreTarn B.core % 12 * 2 ^ 20) }

/-- The report of a ring whose NOTIFY is too far ahead (R368). -/
def overrunReport : Report := { cause := causeOverrun, detail := 0, clause := 0#64, widx := 0, lane := 0, ea := 0#64 }

section
variable {s : State} {b : Nat} {B : Block} (hB : s.block? b = some B) (hr : B.ring ≠ 0) (hd : B.dstop = false) (hs : s.holdsSide b B = true)
include hB hr hd hs

theorem exec_entryRead_none (ha : s.unread B = 0) : exec (.entryRead b) s = .next s := by
  change execEntryRead b s = _
  simp only [execEntryRead, hB, hr, hd, hs, ha, or_self, Bool.false_eq_true, Bool.true_eq_false, if_false, if_true]

theorem exec_entryRead_next (hst : B.st = .running) (ha : s.unread B ≠ 0) (hle : s.unread B ≤ B.ring) : exec (.entryRead b) s = .next
    (({ s.putSide B 8 4 ((s.ringHead B + 1) % 2 ^ 32) with next := s.next + 1 }).updBlock b fun C =>
      { C with dring := C.dring ++ [s.nextEntry b B] }) := by
  change execEntryRead b s = _
  simp only [execEntryRead, hB, hr, hd, hs, ha, hst, Nat.not_lt.2 hle, or_self, Bool.false_eq_true, Bool.true_eq_false, if_false]
  rfl

theorem exec_entryRead_over (ha : B.ring < s.unread B) :
    exec (.entryRead b) s = .next ((s.updBlock b fun B => { B with dstop := true }).overrun b) := by
  have some : s.unread B ≠ 0 := by omega
  change execEntryRead b s = _
  simp only [execEntryRead, hB, hr, hd, hs, some, ha, or_self, Bool.false_eq_true, Bool.true_eq_false, if_false, if_true]

end

/-- A block of which one field has changed, found again. -/
theorem State.block?_updBlock_self {s : State} {b : Nat} {B : Block} (hB : s.block? b = some B) (f : Block → Block) :
    (s.updBlock b f).block? b = some (f B) := by
  rw [State.updBlock, hB]
  exact State.block?_setBlock_self ..

/-- A ring that is read no further ends its task once it holds no entry. -/
theorem overrun_stopped {s : State} {b : Nat} {B : Block} (hB : s.block? b = some B) (hst : B.st = .running) :
    let stopped := s.updBlock b fun B => { B with dstop := true }
    stopped.overrun b = if B.dring = [] then (stopped.putSide B 12 4 ((s.ringHead B + 1) % 2 ^ 32)).endTask b 5 (some overrunReport)
      else stopped := by
  intro stopped
  have found : ∃ C, stopped.block? b = some C ∧ C.dstop = true ∧ C.dring = B.dring ∧ C.st = .running ∧ stopped.ringHead C = s.ringHead B ∧
      ∀ v, stopped.putSide C 12 4 v = stopped.putSide B 12 4 v := by
    refine ⟨{ B with dstop := true }, State.block?_updBlock_self hB _, rfl, rfl, hst, ?_, fun v => rfl⟩
    unfold State.ringHead State.sideWord
    rw [show Block.sideOf { B with dstop := true } stopped = B.sideOf s from sideOf_congr (State.updBlock_cores ..) B]
  obtain ⟨C, hC, hd, hring, hst, head, side⟩ := found
  simp only [State.overrun, hC, hd, hring, hst, head, side, Bool.true_and, Bool.and_true, List.isEmpty_iff, overrunReport]

/-! ### A word that is moved -/

/-- Only the operations and the free values may differ. -/
def OnlySeen (s t : State) : Prop := t = { s with ops := t.ops, free := t.free }

theorem OnlySeen.trans {s t u : State} (h : OnlySeen s t) (h' : OnlySeen t u) : OnlySeen s u := by
  rw [OnlySeen] at *
  rw [h', h]

theorem onlySeen_foldl {α : Type} {f : State → α → State} (hf : ∀ s a, OnlySeen s (f s a)) (as : List α) (s : State) :
    OnlySeen s (as.foldl f s) := by
  induction as generalizing s with
  | nil => rfl
  | cons a as ih => exact (hf s a).trans (ih _)

theorem onlySeen_qtileSees (s : State) (B : Block) (o : Nat) : OnlySeen s (s.qtileSees B o) := by
  unfold State.qtileSees
  refine onlySeen_foldl (fun s x => ?_) _ s
  dsimp only
  split
  · rfl
  · split
    · rfl
    · split <;> rfl

/-- What the engine's write of a word leaves in its side, and elsewhere. -/
theorem engineSide_eq (s : State) (B : Block) (o v : Nat) : ∃ u, OnlySeen s u ∧ s.engineSide B o 4 v = u.updSide B fun S =>
    { S with bytes := B.keepHeader S.bytes (writeLE S.bytes o 4 v) } :=
  ⟨_, onlySeen_foldl (f := fun (s : State) i => s.qtileSees B (o + 4 * i)) (fun s _ => onlySeen_qtileSees s B _) _ s, rfl⟩

/-- The count of a source line changes tarns only. -/
theorem countSource_eq (s : State) (B : Block) (va : Nat) : ∃ T, s.countSource B va = { s with tarns := T } := by
  unfold State.countSource
  split
  · split
    · exact ⟨_, rfl⟩
    · exact countRead_eq s _
  · exact ⟨_, rfl⟩

theorem readLE_keepHeader (B : Block) (m : List Host.Cell) {o v : Nat} (ho : B.ring = 0 ∨ 64 ≤ o) (hv : v < 2 ^ 32) :
    readLE (B.keepHeader m (writeLE m o 4 v)) o 4 = v := by
  rw [readLE_congr (m' := writeLE m o 4 v) 4 o fun c h _ => keepHeader_outside B _ _ (ho.imp_right fun h64 => .inr (Nat.le_trans h64 h)),
    readLE_writeLE, Nat.mod_eq_of_lt (Nat.lt_of_lt_of_eq hv (by decide))]

theorem cellGet_keepHeader_writeLE (B : Block) (m : List Host.Cell) {o v a : Nat} (ha : a < o ∨ o + 4 ≤ a) :
    cellGet (B.keepHeader m (writeLE m o 4 v)) a = cellGet m a := by
  by_cases h : B.ring = 0 ∨ a < 4 ∨ 64 ≤ a
  · rw [keepHeader_outside B _ _ h, cellGet_writeLE_outside _ _ _ _ _ ha]
  · exact keepHeader_inside (by omega) m _ (by omega) (by omega)

/-- A word of a COPY to a side, once it has been read. -/
theorem moveWord_toSide {s s1 : State} {b v off : Nat} {B : Block} {e : Entry} {w : Nat × Nat} {seen : List Nat} (hk : e.kind = 1)
    (hdir : e.dir = 0) (hf : s.firstBad B e = none) (hr : s.engineRead b B e w.1 4 off (s.copyBytes B e - off) = (s1, .done, v, seen)) :
    ∃ u T, OnlySeen s1 u ∧ (s.moveWord b B e w off).2.1 = .done ∧ (s.moveWord b B e w off).1 =
      { u.updSide B fun S => { S with bytes := B.keepHeader S.bytes (writeLE S.bytes w.2 4 v) } with tarns := T } := by
  obtain ⟨u, hu, hw⟩ := engineSide_eq s1 B w.2 v
  have run : s.srcRun B e off = s.copyBytes B e - off := by simp [State.srcRun, hk]
  have moved : s.moveWord b B e w off = if e.lastOf w (·.1) then ((s1.engineSide B w.2 4 v).countSource B w.1, .done, { e with seen := addNew e.seen seen })
      else (s1.engineSide B w.2 4 v, .done, { e with seen := addNew e.seen seen }) := by
    simp only [State.moveWord, hf, State.moveGood, Entry.fromSide, Entry.toSide, hdir, hk, run, hr, Nat.reduceBEq, Bool.false_eq_true, if_false,
      if_true, beq_self_eq_true, Bool.true_and, Bool.not_false, Nat.reduceEqDiff]
  rw [moved, hw]
  split
  · obtain ⟨T, hT⟩ := countSource_eq (u.updSide B fun S => { S with bytes := B.keepHeader S.bytes (writeLE S.bytes w.2 4 v) }) B w.1
    exact ⟨u, T, hu, rfl, hT⟩
  · exact ⟨u, _, hu, rfl, rfl⟩

/-! ### Starts, completions and errors -/

section
variable {s : State} {b ring : Nat} {B : Block} (hB : s.block? b = some B)
include hB

theorem exec_engineStart {i : Nat} {e : Entry} (hc : s.engineChoice B.core = some (b, ring)) (hn : s.nextStart b ring = some (i, e)) :
    exec (.engineStart b ring []) s = .next ((s.startEntry b ring i B e).updCore B.core
      fun C => { C with engSide := B.side, engRing := C.engRing.set B.side ring }) := by
  change execEngineStart b ring [] s = _
  simp only [execEngineStart, hB, hc, hn, if_true]

theorem exec_engineStart_word (n : Nat) :
    exec (.engineStart b ring [n]) s = .next (s.advanceEntry b ring (n / 2 ^ 32) (n % 2 ^ 32)) := by
  change execEngineStart b ring [n] s = _
  simp only [execEngineStart, hB, List.foldl_cons, List.foldl_nil]

theorem exec_commandCompletion {e : Entry} {es : List Entry} (he : B.entries ring = e :: es) (hst : e.stage = 2) :
    exec (.commandCompletion b ring) s = if !(s.pushBack 3 e.wop.toList).entryPerformed e then .next (s.pushBack 3 e.wop.toList) else
      .next ((((s.pushBack 3 e.wop.toList).setRing b ring es).writeCompletion b B e).overrun b) := by
  change execCommandCompletion b ring s = _
  simp only [execCommandCompletion, hB, he, hst, Nat.reduceEqDiff, false_and, if_false]

omit hB in
/-- The entry that an error strikes stands at its place of the ring. -/
theorem entries_of_movingEntry {p : Entry → Bool} {k i : Nat} {e : Entry} (h : B.movingEntry ring p k = some (i, e)) :
    (B.entries ring)[i]? = some e := by
  have hm : (i, e) ∈ B.moving ring p := List.mem_of_getElem? h
  rw [Block.moving, List.mem_filter] at hm
  obtain ⟨j, hj⟩ := List.mem_iff_getElem?.1 hm.1
  rw [List.getElem?_zip_eq_some] at hj
  obtain ⟨hi, he⟩ := hj
  have hij : i = j := by
    obtain ⟨hlt, hval⟩ := List.getElem?_eq_some_iff.1 hi
    rw [List.getElem_range] at hval
    exact hval.symm
  rwa [hij]

theorem exec_pathError {i : Nat} {e : Entry} (he : B.movingEntry ring Entry.transfers (Config.freeValue s.free).toNat = some (i, e)) :
    let t : State := { s with free := s.free + 1 }
    exec (.pathError b ring false) s = .next (t.updEntry b ring i fun e => { e with tr := true }) ∧
      (¬(e.kind = 3 ∧ e.work = []) → exec (.pathError b ring true) s = .next (t.pathLost b ring i)) := by
  intro t
  have value : s.draw.1 = Config.freeValue s.free := rfl
  refine ⟨?_, fun hk => ?_⟩
  · change execPathError b ring false s = _
    simp only [execPathError, hB, value, he, Bool.not_false, if_true]
    rfl
  · change execPathError b ring true s = _
    simp only [execPathError, hB, value, he, Bool.not_true, Bool.false_eq_true, if_false, if_neg hk]
    rfl

theorem pathLost_eq {i : Nat} {e : Entry} (he : (B.entries ring)[i]? = some e) : s.pathLost b ring i =
    if e.rp then s.endEntry b ring i 2 0 0 else s.updEntry b ring i fun e =>
      { e with rp := true, pos := 0, work := s.workOf B e, staged := if e.kind = 3 then List.replicate e.len 0#8 else [] } := by
  simp only [State.pathLost, hB, he]

theorem exec_uncorrectableSourceError {i off : Nat} {e : Entry}
    (he : B.movingEntry ring (fun e => !e.fromSide && decide (off / 4 < (s.workOf B e).length) &&
      ((s.workOf B e).drop (off / 4)).all e.work.contains) (Config.freeValue s.free).toNat = some (i, e)) :
    exec (.uncorrectableSourceError b ring off) s =
      .next (State.endEntry { s with free := s.free + 1 } b ring i 1 off ((s.workOf B e).getD (off / 4) (0, 0)).1) := by
  have value : s.draw.1 = Config.freeValue s.free := rfl
  change execUncorrectableSourceError b ring off s = _
  simp only [execUncorrectableSourceError, hB, value, he]
  rfl

end

/-- Settles O43: the engine's reads, starts, moves and completions, and the errors that strike them. -/
theorem engineEvents : Obligations.EngineEvents := by
  refine ⟨fun s b B hB hr hd hs hst => ?read, fun s b ring i B e hB hc hn => exec_engineStart hB hc hn,
    fun s b ring n B hB => exec_engineStart_word hB n, fun s b ring i B e d a hB hk hbad => ?bad,
    fun s s1 b v off B e w seen hk hdir hf hr hv => ?word, fun s b ring B e es hB he hst => ?completion, fun s b ring B hB => ?errors⟩
  case read =>
    intro h ahead T e
    refine ⟨exec_entryRead_none hB hr hd hs, exec_entryRead_next hB hr hd hs hst, ?_⟩
    intro stopped
    have halts : stopped.overrun b = _ := overrun_stopped hB hst
    refine ⟨fun ha hd' => ?_, fun ha hd' => ?_⟩
    · exact (exec_entryRead_over hB hr hd hs ha).trans (congrArg _ (halts.trans (if_pos hd')))
    · exact (exec_entryRead_over hB hr hd hs ha).trans (congrArg _ (halts.trans (if_neg hd')))
  case bad =>
    simp only [State.startEntry, if_neg hk, hbad]
  case word =>
    obtain ⟨u, T, hu, hdone, hmoved⟩ := moveWord_toSide hk hdir hf hr
    intro r
    have bytes : (B.sideOf r.1).bytes = B.keepHeader (B.sideOf s1).bytes (writeLE (B.sideOf s1).bytes w.2 4 v) := by
      have side : B.sideOf u = B.sideOf s1 := by
        rw [hu]
        rfl
      rw [show r.1 = _ from hmoved, ← side]
      exact congrArg Side.bytes (sideOf_updSide u B fun S => { S with bytes := B.keepHeader S.bytes (writeLE S.bytes w.2 4 v) })
    refine ⟨hdone, fun h64 => ?_, ?_, fun a ha => ?_⟩
    · rw [bytes, readLE_keepHeader B _ h64 hv]
    · exact (congrArg State.mem hmoved).trans (by rw [hu]; rfl)
    · rw [bytes, cellGet_keepHeader_writeLE B _ ha]
  case completion =>
    intro s1
    have done := exec_commandCompletion hB he hst
    refine ⟨fun hp => done.trans (if_neg ?_), fun hp => done.trans (if_pos ?_)⟩
    · simpa [s1] using hp
    · simpa [s1] using hp
  case errors =>
    intro t k
    refine ⟨fun i e he => ?_, fun i e off he => exec_uncorrectableSourceError hB he⟩
    obtain ⟨first, lasting⟩ := exec_pathError hB he
    have lost := pathLost_eq (s := t) (b := b) (ring := ring) hB (entries_of_movingEntry he)
    refine ⟨first, fun hk hrp => (lasting hk).trans (congrArg _ ?_), fun hk hrp => (lasting hk).trans (congrArg _ ?_)⟩
    · exact lost.trans (if_pos hrp)
    · exact lost.trans (if_neg (by simp [hrp]))

end Sys2Proof.Machine

/-! Matrix commands as they issue (R400 to R415). -/

namespace Sys2Proof.Machine

theorem bits_high {n : Nat} (k : Nat) (h : n < 2 ^ k) : bits n 31 k = 0 := by
  rw [bits, Nat.div_eq_of_lt h, Nat.zero_mod]

section
variable {s : State} {c : Ctx} (h : s.ctx? = some c) {w : W2} {l : Nat} {ls : List Nat} (hls : c.participants w.p false = l :: ls)
  (hq : c.B.mq.length < 8)
include h hls hq

/-- With a place in the queue, a matrix command acts with its lowest participant. -/
theorem matrixCommand_head (f : Ctx → Nat → List Nat → Out) : matrixCommand w s f = f c l (l :: ls) := by
  have acts := matrixOnce_head h w (neg := false) (l := l) (by rw [hls]; rfl)
    fun c l ls => if 8 ≤ c.B.mq.length then .next (s.stall c) else f c l ls
  rw [hls] at acts
  exact acts.trans (if_neg (Nat.not_le.2 hq))

/-! ### Fills -/

theorem exec_obld (ht : ((c.B.sideOf s).tile w.a.toNat).st = 2)
    (hf : fillable ((c.B.sideOf s).tile w.a.toNat).desc' (w.x.sub.getLsbD 1) = true) (hH : (c.B.handle w.d.toNat).st ≠ 0)
    (hfit : let x := ((c.B.sideOf s).tile w.a.toNat).desc'
      let col := w.x.sub.getLsbD 0
      fillFits x (c.B.handle w.d.toNat).rec_ col (placeV (wordB c w l) + (if col then fillElems x else fillRows x)) (placeK (wordB c w l))
        (if col then fillRows x else fillElems x) = true) :
    let chk := w.x.sub.getLsbD 1
    let hit := !chk && (c.B.handle w.d.toNat).cache == some (obldTag w ((c.B.sideOf s).tile w.a.toNat) (wordB c w l) (c.B.handle w.d.toNat).gen) &&
      !c.B.mq.any fun m => m.fills.contains w.d.toNat
    exec (.obld w) s = .next ((if hit then s else s.setTile c.B w.a.toNat fun T => { T with st := 3 }).enqueue c w (.obld w) (l :: ls)
      (if chk then [w.x.c.toNat] else []) (wordB c w l) 0#32 [] hit) := by
  dsimp only at hfit
  change execObld w s = _
  rw [execObld, matrixCommand_head h hls hq, withTile_ready ht]
  simp only [hf, hH, hfit, Bool.not_true, Bool.false_eq_true, if_false]

theorem exec_obldg (ht : ((c.B.sideOf s).tile w.a.toNat).st = 2) (hf : fillable ((c.B.sideOf s).tile w.a.toNat).desc' false = true)
    (hH : (c.B.handle w.d.toNat).st ≠ 0)
    (hfit : fillFits ((c.B.sideOf s).tile w.a.toNat).desc' (c.B.handle w.d.toNat).rec_ false
      (placeV ((c.thread l).getV w.x.c.toNat) + (l :: ls).getLastD 0 + 1) (placeK ((c.thread l).getV w.x.c.toNat))
      (fillElems ((c.B.sideOf s).tile w.a.toNat).desc') = true)
    (hrow : ∀ k ∈ l :: ls, ((c.thread k).getV w.b.toNat).toNat < fillRows ((c.B.sideOf s).tile w.a.toNat).desc') :
    exec (.obldg w) s = .next ((s.setTile c.B w.a.toNat fun T => { T with st := 3 }).enqueue c w (.obldg w) (l :: ls) [] 0#32
      ((c.thread l).getV w.x.c.toNat) ((l :: ls).map fun k => (k, (c.thread k).getV w.b.toNat)) false) := by
  have bad : (l :: ls).filter (fun k => decide (fillRows ((c.B.sideOf s).tile w.a.toNat).desc' ≤ ((c.thread k).getV w.b.toNat).toNat)) = [] :=
    List.filter_eq_nil_iff.2 fun k hk => by simpa using hrow k hk
  have good : (l :: ls).filter (fun k => !([] : List Nat).contains k) = l :: ls := List.filter_eq_self.2 fun _ _ => rfl
  change execObldg w s = _
  rw [execObldg, matrixCommand_head h hls hq, withTile_ready ht]
  simp only [hf, hH, hfit, bad, good, Bool.not_true, Bool.false_eq_true, if_false, List.isEmpty_cons]
  rfl

/-! ### Multiplications -/

section
variable (hs : (tget c.B.kreg w.x.c.toNat {}).signed = true)
include hs

theorem exec_mma_noHandle (hH : (c.B.handle w.d.toNat).st = 0) : exec (.mma w) s = .next (s.raise c causeMatrix mxHandle l 0#64) := by
  change execMma w s = _
  rw [execMma, matrixCommand_head h hls hq]
  simp only [hs, hH, true_or, if_true, Bool.not_true, Bool.false_eq_true, if_false, State.matrixFault]

section
variable (hH : (c.B.handle w.d.toNat).st ≠ 0) (hA : (c.B.handle w.a.toNat).st ≠ 0)
include hH hA

theorem exec_mma_shape (hok : shapeOk (c.B.handle w.d.toNat).rec_ (c.B.handle w.a.toNat).rec_ (wordB c w l).toNat = false) :
    exec (.mma w) s = .next (s.raise c causeMatrix mxShape l 0#64) := by
  change execMma w s = _
  rw [execMma, matrixCommand_head h hls hq]
  simp only [hs, hH, hA, hok, or_self, if_true, Bool.not_true, Bool.not_false, Bool.false_eq_true, if_false, State.matrixFault]

theorem exec_mma (hok : shapeOk (c.B.handle w.d.toNat).rec_ (c.B.handle w.a.toNat).rec_ (wordB c w l).toNat = true) :
    exec (.mma w) s = .next ((s.consumePhase c (l :: ls) w.x.c.toNat).enqueue c w (.mma w) (l :: ls) [] (wordB c w l) 0#32 [] false) := by
  change execMma w s = _
  rw [execMma, matrixCommand_head h hls hq]
  simp only [hs, hH, hA, hok, or_self, Bool.not_true, Bool.false_eq_true, if_false]

end

section
variable (hH : (c.B.handle (if quadPos c.B.core < 2 then w.d.toNat else w.a.toNat)).st ≠ 0)
include hH

theorem exec_mmaq_shape (hfit : ownFits (quadPos c.B.core) (c.B.handle (if quadPos c.B.core < 2 then w.d.toNat else w.a.toNat)).rec_
    (wordB c w l).toNat = false) : exec (.mmaq w) s = .next (s.raise c causeMatrix mxShape l 0#64) := by
  change execMmaq w s = _
  rw [execMmaq, matrixCommand_head h hls hq]
  simp only [hs, hH, hfit, Bool.not_true, Bool.not_false, Bool.or_true, Bool.false_eq_true, if_false, if_true, State.matrixFault]

theorem exec_mmaq (hr : rowOf (wordB c w l).toNat % 64 = 0) (hc : colOf (wordB c w l).toNat % 64 = 0) (hn : (wordB c w l).toNat < 2 ^ 17)
    (hfit : ownFits (quadPos c.B.core) (c.B.handle (if quadPos c.B.core < 2 then w.d.toNat else w.a.toNat)).rec_ (wordB c w l).toNat = true) :
    exec (.mmaq w) s = .next ((s.consumePhase c (l :: ls) w.x.c.toNat).enqueue c w (.mmaq w) (l :: ls) [] (wordB c w l) 0#32 [] false) := by
  change execMmaq w s = _
  rw [execMmaq, matrixCommand_head h hls hq]
  simp only [hs, hH, hfit, hr, hc, bits_high 17 hn, Bool.not_true, bne_self_eq_false, Bool.or_self, Bool.false_eq_true, if_false]

end

end

theorem exec_mma_unsigned (hs : (tget c.B.kreg w.x.c.toNat {}).signed = false) : exec (.mma w) s = .next (s.stall c) := by
  change execMma w s = _
  rw [execMma, matrixCommand_head h hls hq]
  simp only [hs, Bool.not_false, if_true]

theorem exec_mmaq_unsigned (hs : (tget c.B.kreg w.x.c.toNat {}).signed = false) : exec (.mmaq w) s = .next (s.stall c) := by
  change execMmaq w s = _
  rw [execMmaq, matrixCommand_head h hls hq]
  simp only [hs, Bool.not_false, if_true]

/-! ### The accumulator -/

theorem exec_accz (hn : (wordB c w l).toNat < 2 ^ 22) (hr : rowOf (wordB c w l).toNat + zRows (wordB c w l).toNat ≤ 256)
    (hc : colOf (wordB c w l).toNat + zCols (wordB c w l).toNat ≤ 512) :
    exec (.accz w) s = .next (s.enqueue c w (.accz w) (l :: ls) [] (wordB c w l) 0#32 [] false) := by
  change execAccz w s = _
  rw [execAccz, matrixCommand_head h hls hq]
  simp only [bits_high 22 hn, bne_self_eq_false, decide_eq_false (Nat.not_lt.2 hr), decide_eq_false (Nat.not_lt.2 hc), Bool.or_self,
    Bool.false_eq_true, if_false]

theorem exec_accrd (hn : (wordB c w l).toNat < 2 ^ 17) (hc : colOf (wordB c w l).toNat + 32 ≤ 512) :
    exec (.accrd w) s = .next (s.enqueue c w (.accrd w) (l :: ls) [w.d.toNat] (wordB c w l) 0#32 [] false) := by
  change execAccrd w s = _
  rw [execAccrd, matrixCommand_head h hls hq]
  simp only [bits_high 17 hn, bne_self_eq_false, decide_eq_false (Nat.not_lt.2 hc), Bool.or_self, Bool.false_eq_true, if_false]

theorem exec_accst (ht : ((c.B.sideOf s).tile w.d.toNat).st = 2) (hi : ((c.B.sideOf s).tile w.d.toNat).desc'.image = false)
    (hty : ((c.B.sideOf s).tile w.d.toNat).desc'.ty = tyOf w) (hn : (wordB c w l).toNat < 2 ^ 17)
    (hr : rowOf (wordB c w l).toNat + ((c.B.sideOf s).tile w.d.toNat).desc'.rows ≤ 256)
    (hc : colOf (wordB c w l).toNat + ((c.B.sideOf s).tile w.d.toNat).desc'.elems ≤ 512) :
    exec (.accst w) s = .next ((s.setTile c.B w.d.toNat fun T => { T with st := 1 }).enqueue c w (.accst w) (l :: ls) [] (wordB c w l) 0#32
      [] false) := by
  change execAccst w s = _
  rw [execAccst, matrixCommand_head h hls hq, withTile_ready ht]
  simp only [hi, hty, bits_high 17 hn, bne_self_eq_false, decide_eq_false (Nat.not_lt.2 hr), decide_eq_false (Nat.not_lt.2 hc), Bool.or_self,
    Bool.false_eq_true, if_false]

end

/-- Settles O45: each matrix command with its operands as they must be. -/
theorem matrixIssue : Obligations.MatrixIssue := by
  intro s c w l ls h hls hq g b n tile x y H A chk col hit draining signed idx p
  have unsigned (hs : ¬ signed) : (tget c.B.kreg w.x.c.toNat {}).signed = false := Bool.eq_false_iff.2 hs
  refine ⟨exec_obld h hls hq, exec_obldg h hls hq, exec_mma h hls hq, ?_⟩
  intro own
  exact ⟨exec_mmaq h hls hq, exec_mmaq_shape h hls hq,
    fun hs => ⟨exec_mma_unsigned h hls hq (unsigned hs), exec_mmaq_unsigned h hls hq (unsigned hs)⟩,
    exec_accz h hls hq, exec_accrd h hls hq, exec_accst h hls hq, exec_mma_noHandle h hls hq, exec_mma_shape h hls hq⟩

end Sys2Proof.Machine

/-! Matrix commands that start and complete, quad steps, and what a multiplication changes (R409 to R419). -/

namespace Sys2Proof.Machine

/-! ### A multiplication -/

/-- One row of a multiplication: each of its cells goes by its own old value, and no other register changes. -/
theorem foldl_regPut_row (f : Nat → Nat → Nat) (at_ : Nat) (acc : Tab Word) : ∀ n,
    let r := (List.range n).foldl (fun acc j => regPut acc (at_ + j) (BitVec.ofNat 32 (f j (regGet acc (at_ + j)).toNat))) acc
    (∀ j, j < n → regGet r (at_ + j) = BitVec.ofNat 32 (f j (regGet acc (at_ + j)).toNat)) ∧
      ∀ x, (x < at_ ∨ at_ + n ≤ x) → regGet r x = regGet acc x
  | 0 => ⟨fun _ h => absurd h (Nat.not_lt_zero _), fun _ _ => rfl⟩
  | n + 1 => by
    obtain ⟨inside, outside⟩ := foldl_regPut_row f at_ acc n
    simp only [List.range_succ, List.foldl_append, List.foldl_cons, List.foldl_nil]
    refine ⟨fun j hj => ?_, fun x hx => ?_⟩
    · by_cases hjn : j = n
      · rw [hjn, regGet_regPut_self, outside _ (by omega)]
      · rw [regGet_regPut_ne _ _ (by omega), inside j (by omega)]
    · rw [regGet_regPut_ne _ _ (by omega), outside x (by omega)]

/-- A multiplication row by row: cell (i, j) of the region goes by its own old value, and no other register changes. -/
theorem foldl_regPut_rows (f : Nat → Nat → Nat → Nat) {row col cols : Nat} (hc : col + cols ≤ 512) (acc : Tab Word) : ∀ rows,
    let r := (List.range rows).foldl (fun acc i => (List.range cols).foldl (fun acc j =>
      regPut acc ((row + i) * 512 + col + j) (BitVec.ofNat 32 (f i j (regGet acc ((row + i) * 512 + col + j)).toNat))) acc) acc
    (∀ i j, i < rows → j < cols → regGet r ((row + i) * 512 + col + j) =
      BitVec.ofNat 32 (f i j (regGet acc ((row + i) * 512 + col + j)).toNat)) ∧
      ∀ x, (x / 512 < row ∨ row + rows ≤ x / 512 ∨ x % 512 < col ∨ col + cols ≤ x % 512) → regGet r x = regGet acc x
  | 0 => ⟨fun _ _ h => absurd h (Nat.not_lt_zero _), fun _ _ => rfl⟩
  | rows + 1 => by
    obtain ⟨inside, outside⟩ := foldl_regPut_rows f hc acc rows
    simp only [List.range_succ, List.foldl_append, List.foldl_cons, List.foldl_nil]
    generalize List.foldl _ acc (List.range rows) = acc' at inside outside
    obtain ⟨cell, rest⟩ := foldl_regPut_row (f rows) ((row + rows) * 512 + col) acc' cols
    refine ⟨fun i j hi hj => ?_, fun x hx => ?_⟩
    · by_cases hir : i = rows
      · rw [hir, cell j hj, outside _ (by omega)]
      · rw [rest _ (by omega), inside i j (by omega) hj]
    · rw [rest x (by omega), outside x (by omega)]

theorem mulAcc_cells (acc : Tab Word) (ma mb : List Host.Cell) (a b : HRec) (z : Bool) (row : Nat) {col : Nat} (hc : col + b.vec ≤ 512) :
    let r := mulAcc acc ma mb a b z row col
    (∀ i j, i < a.vec → j < b.vec → regGet r ((row + i) * 512 + col + j) =
      BitVec.ofNat 32 (mulCell ma mb a b z i j (regGet acc ((row + i) * 512 + col + j)).toNat)) ∧
    (∀ x, (x / 512 < row ∨ row + a.vec ≤ x / 512 ∨ x % 512 < col ∨ col + b.vec ≤ x % 512) → regGet r x = regGet acc x) :=
  foldl_regPut_rows (fun i j old => mulCell ma mb a b z i j old) hc acc a.vec

/-! ### Start and completion -/

section
variable {s : State} {b num : Nat} {B : Block} {m : MCmd} (hB : s.block? b = some B) (hm : B.mq.find? (fun m => m.num == num) = some m)
include hB hm

theorem exec_matrixCommandStart (hi : ∀ w, m.ins ≠ .mmaq w) (hs : s.mayStart B m = true) :
    exec (.matrixCommandStart b num) s = .next (s.startCmd b B m) := by
  change execMatrixCommandStart b num s = _
  simp only [execMatrixCommandStart, hB, hm, hs, Bool.not_true, Bool.or_false, Bool.false_eq_true, if_false]

/-- The end of a command from a state in which its tile and its registers are as it leaves them (R417, R419). -/
def State.cmdOver (s t : State) (b num : Nat) (m : MCmd) (o : Op) : State :=
  (((t.mapLanes o.blk o.q (s.opLanes o) fun _ th => th.acquireCovers ((m.op :: o.before_).filter fun i => (t.op? i).isSome)).delCmd b num).mapElems
    m.op (fun _ => true) fun e => { e with st := 3 }).settle m.op

/-- A tile that a command has been working on is ready. -/
def State.tileReady (s : State) (B : Block) (n : Nat) : State := s.setTile B n fun T => if T.busy then { T with st := 2 } else T

/-- What a command leaves of its tile and its registers as it completes. -/
def State.cmdLeaves (s : State) (B : Block) (w : W2) (i : Instr) (hit : Bool) (o : Op) : State :=
  let live := s.opLanes o
  match i with
  | .obld _ =>
    let s := if hit then s else s.tileReady B w.a.toNat
    if w.x.sub.getLsbD 1 then s.mapLanes o.blk o.q live fun _ t => t.setV w.x.c.toNat (BitVec.ofNat 32 o.n) else s
  | .obldg _ => s.tileReady B w.a.toNat
  | .accst _ => s.tileReady B w.d.toNat
  | .accrd _ => o.elems.foldl (fun (s : State) (e : Elem) =>
      if live.contains e.lane then s.updThread o.blk o.q e.lane fun t => t.setV w.d.toNat (BitVec.ofNat 32 e.r.toNat) else s) s
  | _ => s

theorem exec_matrixCommandCompletion {o : Op} (ho : s.op? m.op = some o) (hst : m.stage = 1 ∨ (m.hit = true ∧ o.due ≤ s.clk)) :
    exec (.matrixCommandCompletion b num) s = .next (s.cmdOver (s.cmdLeaves B (w2Of m.ins) m.ins m.hit o) b num m o) := by
  have due : (m.stage == 1 || (m.hit && decide (o.due ≤ s.clk))) = true := by simpa using hst
  change execMatrixCommandCompletion b num s = _
  simp only [execMatrixCommandCompletion, hB, hm, ho, due, Bool.not_true, Bool.false_eq_true, if_false]
  rfl

end

/-! ### Quad steps -/

section
variable {s : State} {tarn quad lid : Nat} {q0 q1 q2 q3 : QuadMem} (h0 : s.quadMember (tarn * 25 + quad * 4) lid = some q0)
  (h1 : s.quadMember (tarn * 25 + quad * 4 + 1) lid = some q1) (h2 : s.quadMember (tarn * 25 + quad * 4 + 2) lid = some q2)
  (h3 : s.quadMember (tarn * 25 + quad * 4 + 3) lid = some q3)
include h0 h1 h2 h3

theorem exec_quadStepStart : exec (.quadStepStart tarn quad lid) s =
    if !(halvesAgree q0 q1 && halvesAgree q2 q3 && [q1, q2, q3].all fun q => q.z == q0.z && q.operand.rec_.klen == q0.operand.rec_.klen) then
      .next ([q0, q1, q2, q3].foldl (fun s q => s.failCmd q.b q.m mxQuad) s)
    else .next ((((s.quadMul q0 q0 q2).quadMul q1 q0 q3).quadMul q2 q1 q2).quadMul q3 q1 q3) := by
  change execQuadStepStart tarn quad lid s = _
  simp only [execQuadStepStart, Nat.add_zero, h0, h1, h2, h3]

end

/-- Settles O46: commands start, act and complete; a multiplication goes cell by cell. -/
theorem matrixEvents : Obligations.MatrixEvents := by
  refine ⟨⟨fun s b num B m hB hm => ⟨exec_matrixCommandStart hB hm, fun o ho hst => ?ends⟩, fun s tarn quad lid q0 q1 q2 q3 h0 h1 h2 h3 => ?quad⟩,
    fun acc ma mb a b z row col hc => mulAcc_cells acc ma mb a b z row hc⟩
  case ends =>
    intro w ready live met finish
    have ends (t : State) (ht : s.cmdLeaves B w m.ins m.hit o = t) : finish t :=
      (exec_matrixCommandCompletion hB hm ho hst).trans (by rw [ht]; rfl)
    refine ⟨?_, ?_, ?_, ?_, ?_, ?_⟩
    · rintro ⟨v, hi | hi | hi⟩
      all_goals exact ends _ (by rw [hi]; rfl)
    · rintro ⟨v, hi⟩
      exact ends _ (by rw [hi]; rfl)
    · rintro ⟨v, hi⟩
      exact ends _ (by rw [hi]; rfl)
    · rintro ⟨v, hi⟩ hc
      exact ends _ (by rw [hi]; exact if_neg fun h => Bool.false_ne_true (hc.symm.trans h))
    · rintro ⟨v, hi⟩ hc hh
      exact ends _ (by rw [hi, hh]; exact if_pos hc)
    · rintro ⟨v, hi⟩
      exact ends _ (by rw [hi]; rfl)
  case quad =>
    intro K agree
    have step := exec_quadStepStart h0 h1 h2 h3
    have same : agree = (halvesAgree q0 q1 && halvesAgree q2 q3 && [q1, q2, q3].all fun q =>
        q.z == q0.z && q.operand.rec_.klen == q0.operand.rec_.klen) := by
      simp only [agree, K, List.all_cons, List.all_nil, Bool.and_true]
    rw [← same] at step
    refine ⟨fun ha => step.trans (if_neg (by simp [ha])), fun ha => step.trans (if_pos (by simp [ha]))⟩

end Sys2Proof.Machine

/-! A write-back at its deadline (R269): the stores that it carries name it. -/

namespace Sys2Proof.Machine

/-- Tarn 0's slice holds one dirty byte of a line of tarn 1, and the store that wrote it stands. -/
def guestDirty : State :=
  { State.reset with
    next := 1
    tarns := [(0, { slices := [(2 ^ 30, { valid := 1#64, dirty := 1#64 })] })]
    ops := [(0, { kind := .store, ins := .clauseEntry 0 0 0#64, blk := 0, q := 0, lanes := 0#32
                  elems := [{ lane := 0, va := 0#64, pa := 2 ^ 36, size := 1, st := 2 }] })] }

/-- The write-backs that the elements of operation 0 name. -/
def namedWriteBacks : Out → List Nat
  | .next s => (tget? s.ops 0).elim [] fun o => o.elems.map (·.wb)
  | _ => []

theorem namedWriteBacks_deadline : namedWriteBacks (exec (.writeBackDeadline 0 (2 ^ 30)) guestDirty) = [1] := by
  decide +kernel

/-- Refutes O40: a write-back at its deadline marks the stores that it carries with the number of its request (R272), here 1; the
statement's state leaves them without one. -/
theorem not_ringLinkAndArrayEvents : ¬ Obligations.RingLinkAndArrayEvents := by
  rintro ⟨⟨-, deadline, -⟩, -⟩
  obtain ⟨-, sent⟩ := deadline guestDirty 0 (2 ^ 30)
  have h := congrArg namedWriteBacks (sent (by decide +kernel) (by decide +kernel))
  rw [namedWriteBacks_deadline] at h
  exact absurd h (by decide +kernel)

end Sys2Proof.Machine

/-! What the caches hold of one line, under operations on other lines and on the same line (R257 to R268). -/

namespace Sys2Proof.Machine

/-! ### Masks -/

/-- Byte `n` of a line, as a mask of its bits. -/
theorem getLsbD_byte (n : Nat) {i : Nat} (hi : i < 512) : ((0xFF#512) <<< (8 * n)).getLsbD i = decide (i / 8 = n) := by
  have ones : Nat.testBit 255 (i - 8 * n) = decide (i - 8 * n < 8) := Nat.testBit_two_pow_sub_one 8 (i - 8 * n)
  rw [BitVec.getLsbD_shiftLeft, BitVec.getLsbD_ofNat, ones, Bool.eq_iff_iff]
  simp only [Bool.and_eq_true, Bool.not_eq_true', decide_eq_true_eq, decide_eq_false_iff_not]
  omega

theorem getLsbD_spread (m : BitVec 64) {i : Nat} (hi : i < 512) : (spread m).getLsbD i = m.getLsbD (i / 8) := by
  have upTo (n : Nat) : ((List.range n).foldl (fun acc k => if m.getLsbD k then acc ||| ((0xFF#512) <<< (8 * k)) else acc)
      0#512).getLsbD i = (decide (i / 8 < n) && m.getLsbD (i / 8)) := by
    induction n with
    | zero => simp
    | succ n ih =>
      rw [List.range_succ, List.foldl_append, List.foldl_cons, List.foldl_nil]
      by_cases hn : i / 8 = n
      · subst hn
        cases hm : m.getLsbD (i / 8)
        · simp [ih]
        · simp [BitVec.getLsbD_or, getLsbD_byte _ hi]
      · have same : decide (i / 8 < n + 1) = decide (i / 8 < n) := decide_eq_decide.2 (by omega)
        rw [same, ← ih]
        split
        · rw [BitVec.getLsbD_or, getLsbD_byte _ hi, decide_eq_false hn, Bool.or_false]
        · rfl
  rw [spread, upTo, decide_eq_true (by omega), Bool.true_and]

theorem spread_or (a b : BitVec 64) : spread (a ||| b) = spread a ||| spread b := by
  refine BitVec.eq_of_getLsbD_eq fun i hi => ?_
  rw [getLsbD_spread _ hi, BitVec.getLsbD_or, BitVec.getLsbD_or, getLsbD_spread _ hi, getLsbD_spread _ hi]

theorem spread_zero : spread 0#64 = 0#512 :=
  BitVec.eq_of_getLsbD_eq fun i hi => by rw [getLsbD_spread _ hi, BitVec.getLsbD_zero, BitVec.getLsbD_zero]

theorem spread_allOnes : spread (BitVec.allOnes 64) = BitVec.allOnes 512 :=
  BitVec.eq_of_getLsbD_eq fun i hi => by
    rw [getLsbD_spread _ hi, BitVec.getLsbD_allOnes, BitVec.getLsbD_allOnes, decide_eq_true hi, decide_eq_true (by omega)]

theorem overlay_whole (base top : BitVec 512) : overlay base top (BitVec.allOnes 64) = top := by
  rw [overlay, spread_allOnes, BitVec.and_allOnes, BitVec.not_allOnes, BitVec.and_zero, BitVec.or_zero]

/-! ### Lines that hold the same bytes -/

/-- Two lines hold the same bytes. -/
def Line.Same (l l' : Line) : Prop := l.valid = l'.valid ∧ l.data &&& spread l.valid = l'.data &&& spread l'.valid

theorem Line.Same.refl (l : Line) : l.Same l := ⟨rfl, rfl⟩

theorem Line.Same.trans {l l' l'' : Line} (h : l.Same l') (h' : l'.Same l'') : l.Same l'' := ⟨h.1.trans h'.1, h.2.trans h'.2⟩

theorem Line.Same.symm {l l' : Line} (h : l.Same l') : l'.Same l := ⟨h.1.symm, h.2.symm⟩

theorem Line.put_valid (l : Line) (m : BitVec 64) (d : BitVec 512) (b : Bool) : (l.put m d b).valid = l.valid ||| m := rfl

theorem Line.put_data (l : Line) (m : BitVec 64) (d : BitVec 512) (b : Bool) : (l.put m d b).data = overlay l.data d m := rfl

/-- What a line holds after bytes are put into it goes by what it held. -/
theorem Line.Same.put {l l' : Line} (h : l.Same l') (m : BitVec 64) (d : BitVec 512) (b : Bool) : (l.put m d b).Same (l'.put m d b) := by
  obtain ⟨hv, hd⟩ := h
  refine ⟨by rw [Line.put_valid, Line.put_valid, hv], ?_⟩
  rw [Line.put_data, Line.put_data, Line.put_valid, Line.put_valid, spread_or, spread_or, overlay, overlay]
  refine BitVec.eq_of_getLsbD_eq fun i hi => ?_
  have bit := congrArg (·.getLsbD i) hd
  simp only [BitVec.getLsbD_and, BitVec.getLsbD_or, BitVec.getLsbD_not, hv] at bit ⊢
  revert bit
  generalize l.data.getLsbD i = x, l'.data.getLsbD i = y, (spread l'.valid).getLsbD i = v, (spread m).getLsbD i = k, d.getLsbD i = e,
    decide (i < 512) = z
  revert x y v k e z
  decide

theorem Line.Same.overlay {l l' : Line} (h : l.Same l') (base : BitVec 512) : overlay base l.data l.valid = overlay base l'.data l'.valid := by
  obtain ⟨hv, hd⟩ := h
  rw [Machine.overlay, Machine.overlay, hd, hv]

/-- A line without a valid byte holds what no line holds. -/
theorem Line.same_empty {l : Line} (h : l.valid = 0#64) : Line.Same {} l :=
  ⟨h.symm, by rw [h, show ({} : Line).valid = 0#64 from rfl, spread_zero, BitVec.and_zero, BitVec.and_zero]⟩

theorem State.slice_putSlice (s : State) (t ln : Nat) (l : Line) : ((s.putSlice t ln l).slice t ln).Same l := by
  rw [State.putSlice, State.slice, updTarn_tarn]
  dsimp only
  split
  · next h =>
    rw [tget, tget?_tdel_self]
    exact Line.same_empty h
  · rw [tget, tget?_tput_self]
    exact ⟨rfl, rfl⟩

theorem State.slice_putSlice_ne {s : State} {t ln u x : Nat} (h : u ≠ t ∨ x ≠ ln) (l : Line) : (s.putSlice t ln l).slice u x = s.slice u x := by
  by_cases hu : u = t
  · have hx : x ≠ ln := h.resolve_left fun h => h hu
    rw [hu, State.putSlice, State.slice, updTarn_tarn, State.slice]
    dsimp only
    split
    · rw [tget, tget?_tdel_ne _ hx, tget]
    · rw [tget, tget?_tput_ne _ _ hx, tget]
  · rw [State.putSlice, State.slice, updTarn_tarn_ne _ _ hu, State.slice]

/-- Two states hold the same of one line: in every L1, in every slice, and in DRAM. -/
structure SameLine (s t : State) (ln : Nat) : Prop where
  l1 : ∀ k, t.l1? k ln = s.l1? k ln
  slice : ∀ u, (t.slice u ln).Same (s.slice u ln)
  mem : t.mem = s.mem
  rekey : t.rekey = s.rekey
  rewritten : t.rewritten = s.rewritten

theorem SameLine.refl (s : State) (ln : Nat) : SameLine s s ln := ⟨fun _ => rfl, fun _ => .refl _, rfl, rfl, rfl⟩

theorem SameLine.trans {s t u : State} {ln : Nat} (h : SameLine s t ln) (h' : SameLine t u ln) : SameLine s u ln :=
  ⟨fun k => (h'.l1 k).trans (h.l1 k), fun u => (h'.slice u).trans (h.slice u), h'.mem.trans h.mem, h'.rekey.trans h.rekey,
    h'.rewritten.trans h.rewritten⟩

theorem SameLine.foldl {α : Type} {ln : Nat} {f : State → α → State} {as : List α} (hf : ∀ a ∈ as, ∀ s, SameLine s (f s a) ln)
    (s : State) : SameLine s (as.foldl f s) ln := by
  induction as generalizing s with
  | nil => exact .refl s ln
  | cons a as ih =>
    exact (hf a List.mem_cons_self s).trans (ih (fun b hb => hf b (List.mem_cons_of_mem _ hb)) _)

theorem SameLine.memLine {s t : State} {ln : Nat} (h : SameLine s t ln) : t.memLine ln = s.memLine ln := by
  simp only [State.memLine, h.mem, h.rekey, h.rewritten]

/-- Equal lines read the same at home. -/
theorem SameLine.homeData {s t : State} {ln : Nat} (h : SameLine s t ln) : t.homeData ln = s.homeData ln := by
  rw [State.homeData, State.homeData, h.memLine]
  exact (h.slice _).overlay _

/-! ### Operations on other lines -/

theorem sameLine_updTarn (s : State) {ln : Nat} (t : Nat) (f : Tarn → Tarn) (hf : ∀ T, tget? (f T).slices ln = tget? T.slices ln) :
    SameLine s (s.updTarn t f) ln := by
  refine ⟨fun _ => rfl, fun u => ?_, rfl, rfl, rfl⟩
  by_cases hu : u = t
  · rw [State.slice, hu, updTarn_tarn, State.slice, tget, tget, hf]
    exact .refl _
  · rw [State.slice, updTarn_tarn_ne _ _ hu]
    exact .refl _

theorem sameLine_updCore (s : State) {ln : Nat} (c : Nat) (f : Core → Core) (hf : ∀ C, tget? (f C).l1 ln = tget? C.l1 ln) :
    SameLine s (s.updCore c f) ln := by
  refine ⟨fun k => ?_, fun _ => .refl _, rfl, rfl, rfl⟩
  by_cases hk : k = c
  · rw [State.l1?, hk, State.core_updCore_self, State.l1?, hf]
  · rw [State.l1?, State.core_updCore_ne (h := hk), State.l1?]

theorem sameLine_putDir (s : State) (ln t ln' : Nat) (d : Dir) : SameLine s (s.putDir t ln' d) ln := sameLine_updTarn s t _ fun _ => rfl

theorem sameLine_delDir (s : State) (ln t ln' : Nat) : SameLine s (s.delDir t ln') ln := sameLine_updTarn s t _ fun _ => rfl

theorem sameLine_freeDir (s : State) (ln t ln' : Nat) : SameLine s (s.freeDir t ln') ln := by
  unfold State.freeDir
  split
  · split
    · exact sameLine_delDir ..
    · exact sameLine_putDir ..
  · exact sameLine_delDir ..

theorem sameLine_unpoison (s : State) (ln ln' : Nat) (m : BitVec 64) : SameLine s (s.unpoison ln' m) ln := by
  unfold State.unpoison
  split
  · exact ⟨fun _ => rfl, fun _ => .refl _, rfl, rfl, rfl⟩
  · exact .refl s ln

theorem sameLine_ownInval (s : State) (ln ln' : Nat) (m : BitVec 64) : SameLine s (s.ownInval ln' m).1 ln := by
  unfold State.ownInval
  split
  · exact .refl s ln
  · exact ⟨fun _ => rfl, fun _ => .refl _, rfl, rfl, rfl⟩

/-- A line that keeps its bytes where it stands. -/
theorem sameLine_putSlice_same {s : State} {t ln : Nat} {l : Line} (h : l.Same (s.slice t ln)) (x : Nat) : SameLine s (s.putSlice t ln l) x := by
  refine ⟨fun _ => rfl, fun u => ?_, rfl, rfl, rfl⟩
  by_cases hu : u ≠ t ∨ x ≠ ln
  · rw [State.slice_putSlice_ne hu]
    exact .refl _
  · simp only [not_or, ne_eq, Decidable.not_not] at hu
    obtain ⟨rfl, rfl⟩ := hu
    exact (State.slice_putSlice ..).trans h

/-- A reader count that goes leaves the bytes of every line (R213). -/
theorem sameLine_dropCount (s : State) (ln x : Nat) : SameLine s (s.dropCount ln) x := by
  unfold State.dropCount
  dsimp only
  split
  · exact .refl s x
  · exact sameLine_putSlice_same (l := { s.slice (lineHome ln) ln with rc := 0 }) ⟨rfl, rfl⟩ x

section
variable {ln ln' : Nat} (hne : ln ≠ ln')
include hne

theorem sameLine_putSlice (s : State) (t : Nat) (l : Line) : SameLine s (s.putSlice t ln' l) ln :=
  ⟨fun _ => rfl, fun u => by rw [State.slice_putSlice_ne (.inr hne)]; exact .refl _, rfl, rfl, rfl⟩

theorem sameLine_putL1 (s : State) (c : Nat) (l : Line) : SameLine s (s.putL1 c ln' l) ln := by
  refine sameLine_updCore s c _ fun C => ?_
  dsimp only
  split
  · exact tget?_tdel_ne _ hne
  · exact tget?_tput_ne _ _ hne

theorem sameLine_delL1 (s : State) (c : Nat) : SameLine s (s.delL1 c ln') ln := sameLine_updCore s c _ fun _ => tget?_tdel_ne _ hne

theorem sameLine_takeDirty (s : State) (t c : Nat) : SameLine s (s.takeDirty t ln' c) ln := by
  refine SameLine.foldl (fun k _ s => ?_) s
  split
  · split
    · exact .refl s ln
    · exact sameLine_putSlice hne s t _
  · exact .refl s ln

theorem sameLine_recall (s : State) (t : Nat) : SameLine s (s.recall t ln') ln :=
  ((sameLine_takeDirty hne s t _).trans (SameLine.foldl (fun k _ s => sameLine_delL1 hne s k) _)).trans (sameLine_freeDir ..)

theorem sameLine_shrinkL1 (s : State) (c : Nat) (l : Line) : SameLine s (s.shrinkL1 c ln' l) ln := by
  unfold State.shrinkL1
  dsimp only
  split
  · exact sameLine_putL1 hne s c l
  · split
    · exact (sameLine_putL1 hne s c l).trans (sameLine_putDir ..)
    · exact sameLine_putL1 hne s c l

end

/-! ### Recalls that leave shared copies -/

/-- The L1 copies of a line become clean and shared; no slice changes with that. -/
theorem homeData_clean (s : State) (t ln x : Nat) : (s.clean t ln).homeData x = (s.takeDirty t ln 0xFFFFFF).homeData x := by
  generalize hd : (s.takeDirty t ln 0xFFFFFF).homeData x = d
  unfold State.clean
  dsimp only
  have shared (s : State) (ks : List Nat) (h : s.homeData x = d) : (ks.foldl (fun s k => match s.l1? k ln with
      | some l => s.putL1 k ln { l with st := .s, dirty := 0#64 }
      | none => s) s).homeData x = d := by
    refine foldl_keeps (P := fun s : State => s.homeData x = d) (fun s k h => ?_) ks h
    split
    · exact h
    · exact h
  split
  · exact (sameLine_putDir ..).homeData.trans (shared _ _ hd)
  · exact shared _ _ hd

theorem sameLine_clean {ln ln' : Nat} (hne : ln ≠ ln') (s : State) (t : Nat) : SameLine s (s.clean t ln') ln := by
  unfold State.clean
  dsimp only
  have shared (s : State) (ks : List Nat) : SameLine s (ks.foldl (fun s k => match s.l1? k ln' with
      | some l => s.putL1 k ln' { l with st := .s, dirty := 0#64 }
      | none => s) s) ln := by
    refine SameLine.foldl (fun k _ s => ?_) s
    split
    · exact sameLine_putL1 hne s k _
    · exact .refl s ln
  split
  · exact ((sameLine_takeDirty hne s t _).trans (shared _ _)).trans (sameLine_putDir ..)
  · exact (sameLine_takeDirty hne s t _).trans (shared _ _)

/-- What a slice holds of a line once bytes are put where the same bytes stood. -/
theorem SameLine.putSlice {s t : State} {ln : Nat} (h : SameLine s t ln) (u : Nat) {l l' : Line} (hl : l'.Same l) :
    SameLine (s.putSlice u ln l) (t.putSlice u ln l') ln := by
  refine ⟨h.l1, fun v => ?_, h.mem, h.rekey, h.rewritten⟩
  by_cases hv : v = u
  · subst hv
    exact ((State.slice_putSlice ..).trans hl).trans (State.slice_putSlice ..).symm
  · rw [State.slice_putSlice_ne (.inl hv), State.slice_putSlice_ne (.inl hv)]
    exact h.slice v

theorem SameLine.foldl₂ {α : Type} {ln : Nat} {f : State → α → State} (hf : ∀ a s t, SameLine s t ln → SameLine (f s a) (f t a) ln)
    (as : List α) {s t : State} (h : SameLine s t ln) : SameLine (as.foldl f s) (as.foldl f t) ln := by
  induction as generalizing s t with
  | nil => exact h
  | cons a as ih => exact ih (hf a s t h)

theorem SameLine.takeDirty {s t : State} {ln : Nat} (h : SameLine s t ln) (u c : Nat) : SameLine (s.takeDirty u ln c) (t.takeDirty u ln c) ln := by
  have holders : t.holders u ln c = s.holders u ln c := by simp only [State.holders, h.l1]
  unfold State.takeDirty
  rw [holders]
  refine SameLine.foldl₂ (fun k s t h => ?_) _ h
  rw [h.l1]
  split
  · split
    · exact h
    · exact h.putSlice u ((h.slice u).put _ _ _)
  · exact h

/-- A line that two states hold alike reads alike at its home, dirty copies included. -/
theorem SameLine.clean_homeData {s t : State} {ln : Nat} (h : SameLine s t ln) (u : Nat) : (t.clean u ln).homeData ln = (s.clean u ln).homeData ln := by
  rw [homeData_clean, homeData_clean]
  exact (h.takeDirty u _).homeData

/-- Several lines are recalled, each as it stood. -/
theorem homeData_clean_each (lines : List Nat) (hl : lines.Nodup) {x : Nat} (hx : x ∈ lines) (s : State) :
    (lines.foldl (fun s ln => s.clean (lineHome ln) ln) s).homeData x = (s.clean (lineHome x) x).homeData x := by
  induction lines generalizing s with
  | nil => cases hx
  | cons a lines ih =>
    obtain ⟨ha, hn⟩ := List.nodup_cons.1 hl
    by_cases hxa : x = a
    · subst hxa
      exact (SameLine.foldl (fun b hb s => sameLine_clean (fun (e : x = b) => ha (e ▸ hb)) s _) _).homeData
    · rw [List.foldl_cons, ih hn ((List.mem_cons.1 hx).resolve_left hxa)]
      exact (sameLine_clean hxa s _).clean_homeData _

/-! ### Writes at the home of a line -/

/-- A write at a home that sets no reader count. -/
theorem putHome_plain (s : State) (ln : Nat) (m : BitVec 64) (d : BitVec 512) :
    let r := (s.recall (lineHome ln) ln).unpoison ln m
    s.putHome ln m d 0 = r.putSlice (lineHome ln) ln { (r.slice (lineHome ln) ln).put m d true with rc := 0 } := by
  simp only [State.putHome, bne_self_eq_false, Bool.false_and, Bool.false_eq_true, if_false, if_true]

/-- A write without a reader count, at the home of another line. -/
theorem sameLine_putHome {ln ln' : Nat} (hne : ln ≠ ln') (s : State) (m : BitVec 64) (d : BitVec 512) : SameLine s (s.putHome ln' m d 0) ln := by
  rw [putHome_plain]
  exact ((sameLine_recall hne s _).trans (sameLine_unpoison ..)).trans (sameLine_putSlice hne _ _ _)

/-- A fold keeps what each of its steps, with an element of the list, keeps. -/
theorem foldl_keeps_mem {σ α : Type} {P : σ → Prop} {f : σ → α → σ} {as : List α} (hf : ∀ s, ∀ a ∈ as, P s → P (f s a)) {s : σ} (h : P s) :
    P (as.foldl f s) := by
  induction as generalizing s with
  | nil => exact h
  | cons a as ih => exact ih (fun s b hb => hf s b (List.mem_cons_of_mem _ hb)) (hf s a List.mem_cons_self h)

/-- A sharer's span goes by changes of its slice, of its L1s and of records. -/
theorem dropSpan_induct {P : State → Prop} {sec u : Nat}
    (slices : ∀ s j l, j < 4 → P s → P (s.putSlice (tarnModule (lineHome (sec * 4)) * 12 + u) (sec * 4 + j) l))
    (l1s : ∀ s k j l, j < 4 → P s → P (s.shrinkL1 k (sec * 4 + j) l)) (spans : ∀ s t k, P s → P (s.updTarn t fun T => { T with spans := tdel T.spans k }))
    (mine : ∀ s t k, P s → P (s.updTarn t fun T => { T with mySpans := tdel T.mySpans k })) {s : State} (h : P s) : P (s.dropSpan sec u) := by
  unfold State.dropSpan
  dsimp only
  split
  · exact h
  · refine mine _ _ _ (spans _ _ _ (foldl_keeps_mem (fun s j hj h => ?_) h))
    split
    · exact h
    · refine foldl_keeps (P := P) (fun s k h => ?_) _ (slices _ _ _ (List.mem_range.1 hj) h)
      split
      · exact l1s _ _ _ _ (List.mem_range.1 hj) h
      · exact h

/-- A sharer's span of another sector. -/
theorem sameLine_dropSpan {ln sec : Nat} (hne : ln / 4 ≠ sec) (s : State) (u : Nat) : SameLine s (s.dropSpan sec u) ln := by
  have other (j : Nat) (hj : j < 4) : ln ≠ sec * 4 + j := by omega
  exact dropSpan_induct (P := fun t => SameLine s t ln) (fun _ j l hj h => h.trans (sameLine_putSlice (other j hj) _ _ l))
    (fun _ k j l hj h => h.trans (sameLine_shrinkL1 (other j hj) _ k l)) (fun _ _ _ h => h.trans (sameLine_updTarn _ _ _ fun _ => rfl))
    (fun _ _ _ h => h.trans (sameLine_updTarn _ _ _ fun _ => rfl)) (.refl s ln)

theorem sameLine_dropSpans {ln ln' : Nat} (hne : ln / 4 ≠ ln' / 4) (s : State) (m : BitVec 64) (t : Nat) :
    SameLine s (s.dropSpans ln' m t) ln := SameLine.foldl (fun _ _ s => sameLine_dropSpan hne s _) s

/-- A write of other lines, and of their copies under TIERMV. -/
theorem sameLine_homeWrite {ln ln' : Nat} (hne : ln ≠ ln') (s : State) (m : BitVec 64) (d : BitVec 512)
    (hc : ∀ x ∈ (s.putHome ln' m d 0).copiesOf ln', ln / 4 ≠ x / 4) : SameLine s (s.homeWrite ln' m d 0 false).1 ln :=
  ((sameLine_putHome hne s m d).trans (SameLine.foldl (fun x hx s =>
    (sameLine_putHome (fun h => hc x hx (by rw [h])) s m d).trans (sameLine_dropSpans (hc x hx) _ _ _)) _)).trans (sameLine_ownInval ..)

/-! ### The home of a line that is written whole -/

/-- The home slice of a line holds all its bytes. -/
def HomeHolds (s : State) (ln : Nat) (d : BitVec 512) : Prop :=
  (s.slice (lineHome ln) ln).valid = BitVec.allOnes 64 ∧ (s.slice (lineHome ln) ln).data = d

theorem HomeHolds.homeData {s : State} {ln : Nat} {d : BitVec 512} (h : HomeHolds s ln d) : s.homeData ln = d := by
  rw [State.homeData, h.1, h.2, overlay_whole]

theorem HomeHolds.of_slice {s t : State} {ln : Nat} {d : BitVec 512} (h : HomeHolds s ln d)
    (hs : (t.slice (lineHome ln) ln).Same (s.slice (lineHome ln) ln)) : HomeHolds t ln d := by
  obtain ⟨hv, hd⟩ := h
  obtain ⟨sv, sd⟩ := hs
  rw [hv] at sv
  rw [hv, sv, spread_allOnes, BitVec.and_allOnes, BitVec.and_allOnes] at sd
  exact ⟨sv, sd.trans hd⟩

/-- A write of all bytes without a reader count. -/
theorem homeHolds_putHome (s : State) (ln : Nat) (d : BitVec 512) : HomeHolds (s.putHome ln (BitVec.allOnes 64) d 0) ln d := by
  rw [putHome_plain]
  generalize (s.recall (lineHome ln) ln).unpoison ln (BitVec.allOnes 64) = r
  generalize hl : ({ (r.slice (lineHome ln) ln).put (BitVec.allOnes 64) d true with rc := 0 } : Line) = l
  have valid : l.valid = BitVec.allOnes 64 := by rw [← hl]; exact (Line.put_valid _ _ d true).trans BitVec.or_allOnes
  have data : l.data = d := by rw [← hl]; exact (Line.put_data _ _ d true).trans (overlay_whole _ _)
  obtain ⟨sv, sd⟩ := State.slice_putSlice r (lineHome ln) ln l
  rw [valid] at sv
  rw [valid, sv, spread_allOnes, BitVec.and_allOnes, BitVec.and_allOnes] at sd
  exact ⟨sv, sd.trans data⟩

/-- The lines of a sector have one home. -/
theorem lineHome_sector (ln : Nat) : lineHome (ln / 4 * 4) = lineHome ln := by
  have low : paLow (ln / 4 * 4 * 64) / 256 = paLow (ln * 64) / 256 := by
    simp only [paLow, Nat.reducePow]
    omega
  have module : paModule (ln / 4 * 4 * 64) = paModule (ln * 64) := by
    simp only [paModule, Nat.reducePow]
    omega
  have home {a b : Nat} (hl : paLow a / 256 = paLow b / 256) (hm : paModule a = paModule b) : homeOf a = homeOf b := by
    have dram : (paLow a < 0xC000000000) = (paLow b < 0xC000000000) := propext (by omega)
    have tier : (0x100000000000 ≤ paLow a ∧ paLow a < 0x130000000000) = (0x100000000000 ≤ paLow b ∧ paLow b < 0x130000000000) :=
      propext (by omega)
    have tarn : paLow a / 68719476736 = paLow b / 68719476736 := by omega
    have tierTarn : (paLow a - 0x100000000000) / 274877906944 = (paLow b - 0x100000000000) / 274877906944 := by omega
    simp only [homeOf, hm, Nat.reducePow, dram, tier, tarn, tierTarn]
  rw [lineHome, home low module, lineHome]

theorem slice_shrinkL1 (s : State) (c ln' : Nat) (l : Line) (u ln : Nat) : (s.shrinkL1 c ln' l).slice u ln = s.slice u ln := by
  have dir (s : State) (t : Nat) (d : Dir) : (s.putDir t ln' d).slice u ln = s.slice u ln := by
    by_cases hu : u = t
    · rw [hu, State.slice, State.putDir, updTarn_tarn, State.slice]
    · rw [State.slice, State.putDir, updTarn_tarn_ne _ _ hu, State.slice]
  unfold State.shrinkL1
  dsimp only
  split
  · rfl
  · split
    · exact dir _ _ _
    · rfl

/-- A sharer of a line drops its span: what the home slice holds stays. -/
theorem homeHolds_dropSpan {s : State} {ln u : Nat} {d : BitVec 512} (hu : tarnModule (lineHome ln) * 12 + u ≠ lineHome ln)
    (h : HomeHolds s ln d) : HomeHolds (s.dropSpan (ln / 4) u) ln d := by
  refine dropSpan_induct (P := fun t => HomeHolds t ln d) (fun s j l _ h => h.of_slice ?_) (fun s k j l _ h => h.of_slice ?_)
    (fun s t k h => h.of_slice ((sameLine_updTarn s t (fun T => { T with spans := tdel T.spans k }) fun _ => rfl).slice _))
    (fun s t k h => h.of_slice ((sameLine_updTarn s t (fun T => { T with mySpans := tdel T.mySpans k }) fun _ => rfl).slice _)) h
  · rw [lineHome_sector, State.slice_putSlice_ne (.inl hu.symm)]
    exact .refl _
  · rw [slice_shrinkL1]
    exact .refl _

theorem homeHolds_dropSpans {s : State} {ln : Nat} {d : BitVec 512} (h : HomeHolds s ln d) (m : BitVec 64) (t : Nat) :
    HomeHolds (s.dropSpans ln m t) ln d := by
  unfold State.dropSpans
  refine foldl_keeps_mem (P := fun s => HomeHolds s ln d) (fun s u hu h => ?_) h
  obtain ⟨hr, hf⟩ := List.mem_filter.1 hu
  simp only [Bool.and_eq_true, bne_iff_ne] at hf
  rw [Nat.mod_eq_of_lt (List.mem_range.1 hr)]
  exact homeHolds_dropSpan hf.1.1 h

/-- A line written whole without a reader count reads as written, if its copies under TIERMV are itself or lie in other sectors. -/
theorem homeHolds_homeWrite (s : State) (ln : Nat) (d : BitVec 512)
    (hc : ∀ x ∈ (s.putHome ln (BitVec.allOnes 64) d 0).copiesOf ln, x = ln ∨ ln / 4 ≠ x / 4) :
    HomeHolds (s.homeWrite ln (BitVec.allOnes 64) d 0 false).1 ln d := by
  refine HomeHolds.of_slice (s := (s.putHome ln (BitVec.allOnes 64) d 0).mirror ln (BitVec.allOnes 64) d) ?_ ((sameLine_ownInval ..).slice _)
  refine foldl_keeps_mem (P := fun s => HomeHolds s ln d) (fun s x hx h => ?_) (homeHolds_putHome s ln d)
  obtain rfl | hne := hc x hx
  · exact homeHolds_dropSpans (homeHolds_putHome s x d) _ _
  · exact h.of_slice (((sameLine_putHome (fun h => hne (by rw [h])) s _ d).trans (sameLine_dropSpans hne _ _ _)).slice _)

end Sys2Proof.Machine

/-! Cells: the table of acts, the events of a slice, and the write of results (R299 to R317). -/

namespace Sys2Proof.Machine

/-! ### The table of R306 -/

/-- The fields of a cell read back as they were put in. -/
theorem mkCell_fields {st gen value winner : Nat} (hs : st < 4) (hg : gen < 2 ^ 30) (hv : value < 2 ^ 64) (hw : winner < 2 ^ 32) :
    cellState (mkCell st gen value winner) = st ∧ cellGen (mkCell st gen value winner) = gen ∧
      cellValue (mkCell st gen value winner) = value ∧ cellWinner (mkCell st gen value winner) = winner := by
  simp only [cellState, cellGen, cellValue, cellWinner, mkCell, bits, Nat.reduceSub, Nat.reduceAdd, Nat.reducePow] at *
  refine ⟨?_, ?_, ?_, ?_⟩
  all_goals omega

section
variable (k : CellOp) {c g : Nat} (v i : Nat)

theorem cellStep_dinit : cellStep .dinit c g v i = { write := some (mkCell 0 g 0 0), out := some outDone } := rfl

variable {k} (hk : k ≠ .dinit)
include hk

theorem cellStep_poisoned (hc : cellState c = 2) : cellStep k c g v i = { out := some outPoisoned } := by
  rw [cellStep.eq_def, if_neg hk, if_pos hc]

theorem cellStep_bad (hc : cellState c = 3) : cellStep k c g v i = { out := some outBad } := by
  rw [cellStep.eq_def, if_neg hk, if_neg (by omega), if_pos hc]

variable (hc : cellState c < 2)
include hc

theorem cellStep_stale (hq : k ≠ .dqry) (hg : cellGen c ≠ g) : cellStep k c g v i = { out := some outStale } := by
  rw [cellStep.eq_def, if_neg hk, if_neg (by omega), if_neg (by omega), if_neg hq, if_pos hg]

end

theorem cellStep_dqry {c : Nat} (g v i : Nat) (hc : cellState c < 2) :
    cellStep .dqry c g v i = { out := some (if cellState c = 0 then outOpen else outDecided) } := by
  rw [cellStep.eq_def, if_neg (by decide), if_neg (by omega), if_neg (by omega), if_pos rfl]

/-- What an open cell of the generation named does with an operation. -/
def openAct (k : CellOp) (g v i : Nat) : CellAct :=
  match k with
  | .prop => { write := some (mkCell 1 g v i), out := some outWon }
  | .dwait => {}
  | .dread | .recy | .dqry | .dinit => { out := some outOpen }

/-- What a decided cell of the generation named does with an operation. -/
def decidedAct (k : CellOp) (g : Nat) : CellAct :=
  match k with
  | .prop => { out := some outLost }
  | .recy => if g = 0x3FFFFFFF then { out := some outRefused } else { write := some (mkCell 0 (g + 1) 0 0), out := some outDone }
  | .dread | .dwait | .dqry | .dinit => { out := some outDecided }

section
variable {k : CellOp} {c g : Nat} (v i : Nat) (hk : k ≠ .dinit) (hq : k ≠ .dqry) (hg : cellGen c = g)
include hk hq hg

theorem cellStep_open (hc : cellState c = 0) : cellStep k c g v i = openAct k g v i := by
  rw [cellStep.eq_def, if_neg hk, if_neg (by omega), if_neg (by omega), if_neg hq, if_neg (fun h => h hg), if_pos hc]
  rfl

theorem cellStep_decided (hc : cellState c = 1) : cellStep k c g v i = decidedAct k g := by
  rw [cellStep.eq_def, if_neg hk, if_neg (by omega), if_neg (by omega), if_neg hq, if_neg (fun h => h hg), if_neg (by omega)]
  rfl

end

section
variable {c g : Nat} (v i : Nat) (hg : cellGen c = g) (hc : cellState c = 1)
include hg hc

theorem cellStep_recycled (hmax : g < 0x3FFFFFFF) :
    cellStep .recy c g v i = { write := some (mkCell 0 (g + 1) 0 0), out := some outDone } := by
  rw [cellStep_decided v i (by decide) (by decide) hg hc]
  exact if_neg (Nat.ne_of_lt hmax)

theorem cellStep_refused (hmax : g = 0x3FFFFFFF) : cellStep .recy c g v i = { out := some outRefused } := by
  rw [cellStep_decided v i (by decide) (by decide) hg hc]
  exact if_pos hmax

end

/-- The operations that read a cell write none. -/
theorem cellStep_reads {k : CellOp} (hk : k = .dread ∨ k = .dwait ∨ k = .dqry) (c g v i : Nat) : (cellStep k c g v i).write = none := by
  have notInit : k ≠ .dinit := by rintro rfl; simp at hk
  unfold cellStep
  rw [if_neg notInit]
  split
  · rfl
  · split
    · rfl
    · split
      · rfl
      · split
        · rfl
        · split
          · obtain rfl | rfl | rfl := hk <;> rfl
          · obtain rfl | rfl | rfl := hk <;> rfl

/-- The cell after an operation: what the act writes, or the cell as it was. -/
def cellNow (k : CellOp) (c g v i : Nat) : Nat := (cellStep k c g v i).write.getD c

/-- A cell's state, generation, value and winner. -/
def CellHolds (n st gen value winner : Nat) : Prop :=
  cellState n = st ∧ cellGen n = gen ∧ cellValue n = value ∧ cellWinner n = winner

section
variable {k : CellOp} {c g v i n : Nat} {x : Option Nat}

theorem cellStep_kept (h : cellStep k c g v i = { out := x }) : cellNow k c g v i = c ∧ (cellStep k c g v i).out = x := by
  rw [cellNow, h]
  exact ⟨rfl, rfl⟩

theorem cellStep_wrote (h : cellStep k c g v i = { write := some n, out := x }) :
    cellNow k c g v i = n ∧ (cellStep k c g v i).out = x := by
  rw [cellNow, h]
  exact ⟨rfl, rfl⟩

theorem cellStep_holds {st gen value winner : Nat} (h : cellStep k c g v i = { write := some (mkCell st gen value winner), out := x })
    (hs : st < 4) (hg : gen < 2 ^ 30) (hv : value < 2 ^ 64) (hw : winner < 2 ^ 32) :
    CellHolds (cellNow k c g v i) st gen value winner ∧ (cellStep k c g v i).out = x := by
  obtain ⟨cell, out⟩ := cellStep_wrote h
  rw [cell]
  exact ⟨mkCell_fields hs hg hv hw, out⟩

end

theorem cell_cleared {c g : Nat} (v i : Nat) (hg : g < 2 ^ 30) :
    CellHolds (cellNow .dinit c g v i) 0 g 0 0 ∧ (cellStep .dinit c g v i).out = some outDone :=
  cellStep_holds (cellStep_dinit v i) (by decide) hg (by decide) (by decide)

section
variable {c g : Nat} (v i : Nat) (he : cellGen c = g)
include he

theorem cell_open (hc : cellState c = 0) (hg : g < 2 ^ 30) (hv : v < 2 ^ 64) (hi : i < 2 ^ 32) :
    CellHolds (cellNow .prop c g v i) 1 g v i ∧ (cellStep .prop c g v i).out = some outWon ∧
      (cellStep .dread c g v i).out = some outOpen ∧ (cellStep .dwait c g v i).out = none ∧
      cellNow .recy c g v i = c ∧ (cellStep .recy c g v i).out = some outOpen := by
  have acts (k : CellOp) (hk : k ≠ .dinit) (hq : k ≠ .dqry) := cellStep_open v i hk hq he hc
  obtain ⟨won, wonOut⟩ := cellStep_holds (acts .prop (by decide) (by decide)) (by decide) hg hv hi
  exact ⟨won, wonOut, congrArg CellAct.out (acts .dread (by decide) (by decide)), congrArg CellAct.out (acts .dwait (by decide) (by decide)),
    cellStep_kept (acts .recy (by decide) (by decide))⟩

theorem cell_decided (hc : cellState c = 1) :
    cellNow .prop c g v i = c ∧ (cellStep .prop c g v i).out = some outLost ∧
      (cellStep .dread c g v i).out = some outDecided ∧ (cellStep .dwait c g v i).out = some outDecided ∧
      (g < 0x3FFFFFFF → CellHolds (cellNow .recy c g v i) 0 (g + 1) 0 0 ∧ (cellStep .recy c g v i).out = some outDone) ∧
      (g = 0x3FFFFFFF → cellNow .recy c g v i = c ∧ (cellStep .recy c g v i).out = some outRefused) := by
  have acts (k : CellOp) (hk : k ≠ .dinit) (hq : k ≠ .dqry) := cellStep_decided v i hk hq he hc
  obtain ⟨lost, lostOut⟩ := cellStep_kept (acts .prop (by decide) (by decide))
  exact ⟨lost, lostOut, congrArg CellAct.out (acts .dread (by decide) (by decide)), congrArg CellAct.out (acts .dwait (by decide) (by decide)),
    fun hmax => cellStep_holds (cellStep_recycled v i he hc hmax) (by decide) (by omega) (by decide) (by decide),
    fun hmax => cellStep_kept (cellStep_refused v i he hc hmax)⟩

end

/-! ### Events of a slice -/

section
variable {s : State} {op lane : Nat} {o : Op} {e : Elem} (ho : s.op? op = some o) (hk : o.kind = .cell)
  (he : o.elems.find? (fun e => e.lane == lane) = some e) (hd : s.dramHeld (lineOf e.pa) = false)
include ho hk he hd

/-- An arrival acts when the slice serves and it is the next. -/
theorem exec_cellAct_arrived (hst : e.st = 6) : exec (.cellAct op lane) s = .next (if s.serving (lineHome (lineOf e.pa)) then
    (s.cellNext op e.pa (s.stampedFor o e)).dinitDone op else s) := by
  change execCellAct op lane s = _
  simp only [execCellAct, ho, he, hk, hd, hst, bne_self_eq_false, Bool.and_false, Bool.or_self, Bool.false_eq_true, if_false,
    Nat.reduceEqDiff, decide_false, Bool.false_and, if_true]
  cases s.serving (lineHome (lineOf e.pa))
  · simp
  · simp

variable (hst : e.st = 0) (hr : s.routeOf o e = .here) (hc : s.clearToAct o e = true) (hsh : s.shut (coreTarn (s.coreOf o.blk)) e.pa = false)
  (hsv : s.serving (lineHome (lineOf e.pa)) = true)
include hst hr hc hsh hsv

theorem exec_cellAct_unreleased (hrel : s.released o = false) : exec (.cellAct op lane) s = .next (s.pushBack o.rel o.covers) := by
  change execCellAct op lane s = _
  simp only [execCellAct, ho, he, hk, hd, hst, hr, hc, hsh, hsv, hrel, bne_self_eq_false, Bool.false_and, Bool.or_self, Bool.false_eq_true, if_false,
    decide_true, Bool.and_false, Bool.not_true, Bool.not_false, if_true, Nat.reduceEqDiff]

variable (hrel : s.released o = true) (hes : s.sliceGroup o e ≠ [])
include hrel hes

theorem exec_cellAct_sent (ht : coreTarn (s.coreOf o.blk) ≠ lineHome (lineOf e.pa)) : exec (.cellAct op lane) s =
    .next ((s.setOp op { o with since := none }).sendAccess op (coreTarn (s.coreOf o.blk)) (lineOf e.pa) (s.sliceGroup o e)) := by
  change execCellAct op lane s = _
  simp only [execCellAct, ho, he, hk, hd, hst, hr, hc, hsh, hsv, hrel, List.isEmpty_eq_false_iff.2 hes, bne_iff_ne.2 ht, bne_self_eq_false,
    Bool.false_and, Bool.or_self, Bool.false_eq_true, if_false, decide_true, Bool.and_false, Bool.not_true, if_true,
    Nat.reduceEqDiff]

theorem exec_cellAct_arrives (ht : coreTarn (s.coreOf o.blk) = lineHome (lineOf e.pa)) (hl : s.cellLate e.pa (s.cellRank o e) = false) :
    exec (.cellAct op lane) s = .next (((s.setOp op { o with since := none }).cellArrive op (s.sliceGroup o e) false).dinitDone op) := by
  change execCellAct op lane s = _
  simp only [execCellAct, ho, he, hk, hd, hst, hr, hc, ht ▸ hsh, hsv, hrel, hl, List.isEmpty_eq_false_iff.2 hes, ht, bne_self_eq_false,
    Bool.false_and, Bool.or_self, Bool.false_eq_true, if_false, decide_true, Bool.and_false, Bool.not_true,
    Nat.reduceEqDiff]

end

theorem cellNext_eq {s : State} {id pa : Nat} {o : Op} {x : Elem} (ho : s.op? id = some o)
    (hx : o.elems.find? (fun x => x.st == 6 && springOf x.pa == springOf pa) = some x) (stamped : Bool) :
    s.cellNext id pa stamped = if s.cellHeld id pa x.arr then s else s.cellActOn id x stamped := by
  simp only [State.cellNext, ho, hx]

theorem dinitDone_other {s : State} {id : Nat} {o : Op} (ho : s.op? id = some o) (hk : cellOpOf o.ins ≠ .dinit) : s.dinitDone id = s := by
  simp only [State.dinitDone, ho, beq_false_of_ne hk, Bool.false_and, Bool.false_eq_true, if_false]

/-! ### An act that writes nothing -/

theorem OnlyOps.sameLine {s t : State} (h : OnlyOps s t) (ln : Nat) : SameLine s t ln := by
  rw [h]
  exact ⟨fun _ => rfl, fun _ => .refl _, rfl, rfl, rfl⟩

/-- Lines that are held alike hold the same cells. -/
theorem SameLine.cellAt {s t : State} {pa : Nat} (h : SameLine s t (lineOf pa)) : t.cellAt pa = s.cellAt pa :=
  congrArg (takeData · (pa % 64) 16) (h.clean_homeData _)

theorem spring_updTarn (s : State) (t : Nat) (f : Tarn → Tarn) (hf : ∀ T, (f T).springs = T.springs) (g : Nat) :
    (s.updTarn t f).spring g = s.spring g := by
  by_cases hg : g / 64 = t
  · rw [State.spring, hg, updTarn_tarn, hf, State.spring, hg]
  · rw [State.spring, updTarn_tarn_ne _ _ hg, State.spring]

/-- The slice of a cell notes its act. -/
def State.noteAct (s : State) (e : Elem) : State :=
  s.updTarn (lineHome (lineOf e.pa)) fun T => { T with
    cellClk := tput T.cellClk (sliceOf e.pa) (s.clk, e.arr.2), cellFrames := insNat T.cellFrames (e.pa / 65536) }

theorem sameLine_noteAct (s : State) (e : Elem) (ln : Nat) : SameLine s (s.noteAct e) ln := sameLine_updTarn s _ _ fun _ => rfl

theorem isPoisoned_noteAct (s : State) (e : Elem) (ln : Nat) : (s.noteAct e).isPoisoned ln = s.isPoisoned ln ∧
    (s.noteAct e).lineRetired ln = s.lineRetired ln := by
  have retired : (s.noteAct e).lineRetired ln = s.lineRetired ln := by
    rw [State.lineRetired, State.noteAct, spring_updTarn, State.lineRetired]
    exact fun _ => rfl
  exact ⟨congrArg (s.poisoned.contains ln || ·) retired, retired⟩

/-- A reader count that goes changes slices only. -/
theorem dropCount_eq (s : State) (ln : Nat) : (∃ T, s.dropCount ln = { s with tarns := T }) ∧
    ((s.dropCount ln).tarn (lineHome ln)).cellClk = (s.tarn (lineHome ln)).cellClk := by
  unfold State.dropCount
  dsimp only
  split
  · exact ⟨⟨_, rfl⟩, rfl⟩
  · exact ⟨⟨_, rfl⟩, by rw [State.putSlice, updTarn_tarn]⟩

/-- An act on a cell of a good line that answers and writes nothing. -/
theorem cellActOn_answers {s : State} {id : Nat} {o : Op} {e : Elem} (ho : s.op? id = some o) (hp : s.isPoisoned (lineOf e.pa) = false) {out : Nat}
    (hout : (cellStep (cellOpOf o.ins) (s.cellAt e.pa) (e.c.toNat % 2 ^ 30) e.x.toNat (e.c.toNat / 2 ^ 32)).out = some out)
    (hw : (cellStep (cellOpOf o.ins) (s.cellAt e.pa) (e.c.toNat % 2 ^ 30) e.x.toNat (e.c.toNat / 2 ^ 32)).write = none) {u : State}
    (hu : (s.noteAct e).dropCount (lineOf e.pa) = u) :
    s.cellActOn id e false = (if ordersAs out && cellOpOf o.ins != .dinit then (u.noteMet id o e).observe o e else u).mapElems id e.same
      fun x => x.quad (quadOf (s.cellAt e.pa) out) 4 := by
  obtain ⟨poisoned, retired⟩ := isPoisoned_noteAct s e (lineOf e.pa)
  have good : s.lineRetired (lineOf e.pa) = false := (Bool.or_eq_false_iff.1 hp).2
  have cell : u.cellAt e.pa = s.cellAt e.pa := by
    rw [← hu]
    exact ((sameLine_noteAct s e _).trans (sameLine_dropCount ..)).cellAt
  rw [good] at retired
  rw [hp] at poisoned
  simp only [State.cellActOn, ho, ← State.noteAct.eq_1, retired, poisoned, Bool.false_eq_true, if_false, hu, cell, hout, hw]

/-- The order that an answer carries, when the read has met no write. -/
theorem ordered_eq {u : State} {id : Nat} {o : Op} {e : Elem} (ho : u.op? id = some o) (hw : u.writersOf o e = []) (b : Bool) :
    OnlyOps u (if b then (u.noteMet id o e).observe o e else u) ∧
      (if b then (u.noteMet id o e).observe o e else u).op? id = some o := by
  cases b
  · exact ⟨rfl, ho⟩
  · obtain ⟨met, hop, hmet, only⟩ := noteMet_eq ho e
    rw [hmet hw] at hop
    exact ⟨only.trans (onlyBlocks_observe ..).onlyOps, ((onlyBlocks_observe ..).op? id).trans hop⟩

/-- It gives its element the quad, and leaves the cell, the memory and the slice but for its clk. -/
theorem cellActOn_answered {s : State} {id : Nat} {o : Op} {e : Elem} (ho : s.op? id = some o) (he : o.elems = [e])
    (hp : s.isPoisoned (lineOf e.pa) = false) (hwr : s.writersOf o e = []) {out : Nat}
    (hout : (cellStep (cellOpOf o.ins) (s.cellAt e.pa) (e.c.toNat % 2 ^ 30) e.x.toNat (e.c.toNat / 2 ^ 32)).out = some out)
    (hw : (cellStep (cellOpOf o.ins) (s.cellAt e.pa) (e.c.toNat % 2 ^ 30) e.x.toNat (e.c.toNat / 2 ^ 32)).write = none) :
    (s.cellActOn id e false).op? id = some { o with elems := [e.quad (quadOf (s.cellAt e.pa) out) 4] } ∧
      (s.cellActOn id e false).cellAt e.pa = s.cellAt e.pa ∧
      tget? ((s.cellActOn id e false).tarn (lineHome (lineOf e.pa))).cellClk (sliceOf e.pa) = some (s.clk, e.arr.2) ∧
      (s.cellActOn id e false).mem = s.mem := by
  obtain ⟨⟨T, hT⟩, hclk⟩ := dropCount_eq (s.noteAct e) (lineOf e.pa)
  have same := (sameLine_noteAct s e (lineOf e.pa)).trans (sameLine_dropCount (s.noteAct e) (lineOf e.pa) (lineOf e.pa))
  rw [cellActOn_answers ho hp hout hw rfl]
  generalize hu : (s.noteAct e).dropCount (lineOf e.pa) = u at hT hclk same
  have clock : tget? (u.tarn (lineHome (lineOf e.pa))).cellClk (sliceOf e.pa) = some (s.clk, e.arr.2) := by
    rw [hclk, State.noteAct, updTarn_tarn]
    exact tget?_tput_self ..
  have found : u.op? id = some o := by
    rw [hT]
    exact ho
  obtain ⟨only, hop⟩ := ordered_eq (u := u) (e := e) found (by rw [hT]; exact hwr) (ordersAs out && cellOpOf o.ins != .dinit)
  generalize (if (ordersAs out && cellOpOf o.ins != .dinit) = true then (u.noteMet id o e).observe o e else u) = v at only hop
  have elem : e.same e = true := by simp [Elem.same]
  have only' : OnlyOps u (v.mapElems id e.same fun x => x.quad (quadOf (s.cellAt e.pa) out) 4) := by
    rw [State.mapElems_eq hop]
    exact only.trans rfl
  refine ⟨?_, (only'.sameLine _).cellAt.trans same.cellAt, ?_, only'.mem.trans same.mem⟩
  · rw [State.mapElems_eq hop, State.op?_setOp_self, he]
    simp only [List.map_cons, List.map_nil, elem, if_true]
  · rw [State.tarn, only'.tarns]
    exact clock

/-! ### The write of a result -/

/-- A thread with a quad written to four registers. -/
def Thread.withQuad (t : Thread) (d : Nat) (e : Elem) : Thread := (t.setPair d e.r).setPair (d + 2) e.x

theorem Thread.getV_setPair_ne (t : Thread) {n m : Nat} (x : BitVec 64) (h : m ≠ n) (h' : m ≠ n + 1) : (t.setPair n x).getV m = t.getV m := by
  rw [Thread.setPair, Thread.getV_setV_ne _ _ h', Thread.getV_setV_ne _ _ h]

theorem Thread.withQuad_low (t : Thread) (d : Nat) (e : Elem) : (t.withQuad d e).getPair d = e.r := by
  have keeps (m : Nat) (hm : m < d + 2) : ((t.setPair d e.r).setPair (d + 2) e.x).getV m = (t.setPair d e.r).getV m :=
    Thread.getV_setPair_ne _ _ (by omega) (by omega)
  rw [Thread.withQuad, Thread.getPair, keeps _ (by omega), keeps _ (by omega)]
  exact Thread.getPair_setPair_self t d e.r

theorem Thread.withQuad_high (t : Thread) (d : Nat) (e : Elem) : (t.withQuad d e).getPair (d + 2) = e.x :=
  Thread.getPair_setPair_self (t.setPair d e.r) (d + 2) e.x

theorem Thread.withQuad_other (t : Thread) {d n : Nat} (e : Elem) (h : n < d ∨ d + 4 ≤ n) : (t.withQuad d e).getV n = t.getV n := by
  rw [Thread.withQuad, Thread.getV_setPair_ne (t.setPair d e.r) e.x (by omega) (by omega), Thread.getV_setPair_ne t e.r (by omega) (by omega)]

/-- Only decision caches may change as a decision is installed. -/
theorem installDecision_eq (s : State) (core : Nat) (d : Decision) : ∃ C T, s.installDecision core d = { s with cores := C, tarns := T } := ⟨_, _, rfl⟩

/-- What a decision cache takes of a result (R308). -/
def State.keepsDecision (s : State) (o : Op) (e : Elem) : State :=
  let out := e.x.toNat / 2 ^ 32 % 16
  let keep := !e.purged && o.bad.isNone && (out == outWon || out == outLost || out == outDecided)
  if keep && (cellOpOf o.ins == .prop || cellOpOf o.ins == .dread || cellOpOf o.ins == .dwait) then
    s.installDecision (s.coreOf o.blk)
      { pa := e.pa, gen := BitVec.ofNat 30 e.x.toNat, value := e.r, winner := BitVec.ofNat 32 (e.x.toNat / 2 ^ 38 * 64) }
  else s

theorem keepsDecision_eq (s : State) (o : Op) (e : Elem) : ∃ C T, s.keepsDecision o e = { s with cores := C, tarns := T } := by
  unfold State.keepsDecision
  dsimp only
  split
  · exact installDecision_eq ..
  · exact ⟨_, _, rfl⟩

theorem writeQuad_live {s : State} {o : Op} {e : Elem} (hl : e.lane ∈ s.opLanes o) :
    s.writeQuad o e = (s.keepsDecision o e).updThread o.blk o.q e.lane fun t => t.withQuad (w2Of o.ins).d.toNat e := by
  obtain ⟨C, T, hkeep⟩ := keepsDecision_eq s o e
  have live : ((s.keepsDecision o e).opLanes o).contains e.lane = true := by
    rw [hkeep]
    exact List.contains_iff_mem.2 hl
  have writes : s.writeQuad o e = if ((s.keepsDecision o e).opLanes o).contains e.lane then
      (s.keepsDecision o e).updThread o.blk o.q e.lane fun t => t.withQuad (w2Of o.ins).d.toNat e else s.keepsDecision o e := rfl
  rw [writes, if_pos live]

theorem exec_resultQuadWrite {s : State} {op : Nat} {o : Op} {e : Elem} (ho : s.op? op = some o) (hk : o.kind = .cell)
    (hi : cellOpOf o.ins ≠ .dinit) (he : o.elems = [e]) (hd : e.done = true) :
    exec (.resultQuadWrite op) s = .next (((s.writeQuad o e).endAcquire o op (laneList o.lanes)).settle op) := by
  change execResultQuadWrite op s = _
  simp only [execResultQuadWrite, ho, hk, he, hd, beq_false_of_ne hi, bne_self_eq_false, Bool.or_self, Bool.false_eq_true, if_false, List.filter_cons,
    List.filter_nil, Bool.not_true, List.isEmpty_nil, if_true, List.foldl_cons, List.foldl_nil]

/-- A thread whose result quad has been written: it goes on past its acquire, and its flag goes down. -/
def Thread.quadDone (t : Thread) (o : Op) (op : Nat) (e : Elem) : Thread :=
  let t := t.withQuad (w2Of o.ins).d.toNat e
  let t := if t.acq == some op then { t with acq := none } else t
  if o.flag < 12 then t.setFlag o.flag (t.flag o.flag - 1) else t

theorem Thread.quadDone_v (t : Thread) (o : Op) (op : Nat) (e : Elem) : (t.quadDone o op e).v = (t.withQuad (w2Of o.ins).d.toNat e).v ∧
    (t.quadDone o op e).p = t.p ∧ (t.acq = some op → (t.quadDone o op e).acq = none) := by
  have acq : (t.withQuad (w2Of o.ins).d.toNat e).acq = t.acq := rfl
  unfold Thread.quadDone
  dsimp only
  rw [acq]
  by_cases ha : t.acq = some op
  · rw [if_pos (beq_iff_eq.2 ha)]
    by_cases hf : o.flag < 12
    · rw [if_pos hf]
      exact ⟨rfl, rfl, fun _ => rfl⟩
    · rw [if_neg hf]
      exact ⟨rfl, rfl, fun _ => rfl⟩
  · rw [if_neg fun h => ha (beq_iff_eq.1 h)]
    by_cases hf : o.flag < 12
    · rw [if_pos hf]
      exact ⟨rfl, rfl, fun h => absurd h ha⟩
    · rw [if_neg hf]
      exact ⟨rfl, rfl, fun h => absurd h ha⟩

/-- The end of a result: its thread is done, and nothing of memory, host memory or tags changes. -/
theorem quadDone_thread {s : State} {op : Nat} {o : Op} {e : Elem} {th : Thread} (ho : s.op? op = some o) (hb : o.bad = none)
    (hl : e.lane ∈ s.opLanes o) (hth : s.threadAt o.blk o.q e.lane = some th) :
    let t := ((s.writeQuad o e).endAcquire o op (laneList o.lanes)).settle op
    t.threadAt o.blk o.q e.lane = some (th.quadDone o op e) ∧ t.mem = s.mem ∧ t.host = s.host ∧ t.tags = s.tags := by
  intro t
  obtain ⟨C, T, hkeep⟩ := keepsDecision_eq s o e
  have lane : (laneList o.lanes).contains e.lane = true := List.contains_iff_mem.2 (State.opLanes_mem hl)
  have only : OnlyBlocks (s.keepsDecision o e) ((s.writeQuad o e).endAcquire o op (laneList o.lanes)) := by
    rw [writeQuad_live hl]
    exact (onlyBlocks_updThread ..).trans (onlyBlocks_mapLanes ..)
  have hop : ((s.writeQuad o e).endAcquire o op (laneList o.lanes)).op? op = some o := by
    rw [only.op?, hkeep]
    exact ho
  have kept : (s.keepsDecision o e).threadAt o.blk o.q e.lane = some th := by
    rw [hkeep]
    exact hth
  have rest := only.onlyOps.trans (onlyOps_settle hop hb)
  refine ⟨?_, ?_, ?_, ?_⟩
  · rw [State.threadAt_settle hop hb, State.threadAt_decFlag, State.endAcquire, State.threadAt_mapLanes, writeQuad_live hl,
      State.threadAt_updThread, kept]
    simp only [Option.map_some, lane, if_true, and_true]
    rfl
  · exact rest.mem.trans (by rw [hkeep])
  · exact (congrArg State.host rest).trans (by rw [hkeep])
  · exact rest.tags.trans (by rw [hkeep])

/-- Settles O34: the table by the condition of the cell, the events of a slice, an act that writes nothing, and the write of a result. -/
theorem cellActs : Obligations.CellActs := by
  refine ⟨fun c g v i hc hg hv hi => ?table, fun s op lane o e ho hk he hd => ⟨fun x hst hsv hx hh => ?acts, fun x hst hx hh hi => ?waits,
    fun hst hr hc hsh hsv => ?issues⟩, fun s id o e ho he hp hwr => ?answers,
    fun s op o e B Q th ho hk hi he hd hb hl hl32 hdrop hB hQ hth hlive => ?results⟩
  case table =>
    exact ⟨cell_cleared v i hg, fun k hk => congrArg (·.getD c) (cellStep_reads hk c g v i),
      fun k hk h2 => cellStep_kept (cellStep_poisoned v i hk h2), fun k hk h3 => cellStep_kept (cellStep_bad v i hk h3),
      fun h0 => (cellStep_kept (cellStep_dqry g v i (by omega))).2.trans (congrArg some (if_pos h0)),
      fun h1 => (cellStep_kept (cellStep_dqry g v i (by omega))).2.trans (congrArg some (if_neg (by omega))),
      fun k hk hq h2 hne => cellStep_kept (cellStep_stale v i hk h2 hq hne),
      fun h0 he => cell_open v i he h0 hg hv hi, fun h1 he => cell_decided v i he h1⟩
  case acts =>
    rw [exec_cellAct_arrived ho hk he hd hst, hsv, if_pos rfl, cellNext_eq ho hx, hh, if_neg Bool.false_ne_true]
  case waits =>
    rw [exec_cellAct_arrived ho hk he hd hst, cellNext_eq ho hx, hh, if_pos rfl, dinitDone_other ho hi, ite_self]
  case issues =>
    intro es s1
    exact ⟨exec_cellAct_unreleased ho hk he hd hst hr hc hsh hsv, fun hrel hes =>
      ⟨exec_cellAct_arrives ho hk he hd hst hr hc hsh hsv hrel hes, exec_cellAct_sent ho hk he hd hst hr hc hsh hsv hrel hes⟩⟩
  case answers =>
    intro r out hout hw
    exact cellActOn_answered ho he hp hwr hout hw
  case results =>
    have lanes : laneList o.lanes = [e.lane] := by rw [hl, laneList_twoPow _ hl32]
    have live : e.lane ∈ s.opLanes o := by
      simp only [State.opLanes, hdrop, Bool.false_eq_true, if_false, hB, hQ, lanes]
      simp [tget, hth, hlive]
    obtain ⟨thread, rest⟩ := quadDone_thread ho hb live ((State.threadAt_of hB hQ).trans hth)
    obtain ⟨hv, hp, hacq⟩ := th.quadDone_v o op e
    have reg (n : Nat) : (th.quadDone o op e).getV n = (th.withQuad (w2Of o.ins).d.toNat e).getV n := congrArg (regGet · n) hv
    refine ⟨_, _, exec_resultQuadWrite ho hk hi he hd, thread, ?_⟩
    intro d
    have pair (n : Nat) : (th.quadDone o op e).getPair n = (th.withQuad d e).getPair n := by
      rw [Thread.getPair, reg, reg, Thread.getPair]
    exact ⟨(pair d).trans (th.withQuad_low d e), (pair (d + 2)).trans (th.withQuad_high d e), hacq,
      fun n hn => (reg n).trans (th.withQuad_other e hn), hp, rest⟩

end Sys2Proof.Machine

/-! Spring handlers: their start and end, and the row instructions (R426 to R433). -/

namespace Sys2Proof.Machine

/-! ### One spring of many -/

theorem spring_updSpring (s : State) (gs : Nat) (f : Spring → Spring) : (s.updSpring gs f).spring gs = f (s.spring gs) := by
  rw [State.spring, State.updSpring, updTarn_tarn, tget, tget?_tput_self]
  rfl

theorem spring_updSpring_ne (s : State) {g gs : Nat} (h : g ≠ gs) (f : Spring → Spring) : (s.updSpring gs f).spring g = s.spring g := by
  by_cases ht : g / 64 = gs / 64
  · rw [State.spring, State.updSpring, ht, updTarn_tarn, tget, tget?_tput_ne _ _ (by omega), State.spring, ht, tget]
  · rw [State.spring, State.updSpring, updTarn_tarn_ne _ _ ht, State.spring]

theorem sameLine_updSpring (s : State) (gs ln : Nat) (f : Spring → Spring) : SameLine s (s.updSpring gs f) ln :=
  sameLine_updTarn s _ _ fun _ => rfl

/-! ### Start and end of a handler -/

/-- The uniform registers with which the handler of a message starts (R429). -/
def Msg.args (m : Msg) : Quire :=
  (((({ g := [] } : Quire).setGPair 0 m.arg0).setGPair 2 m.arg1).setG 4 (BitVec.ofNat 32 (m.pa / 4096 % 16))).setG 5 m.sender

theorem Quire.getGPair_setG_ne (q : Quire) {n k : Nat} (x : Word) (h : n ≠ k) (h' : n + 1 ≠ k) : (q.setG k x).getGPair n = q.getGPair n := by
  rw [Quire.getGPair, getG_setG_ne _ _ h, getG_setG_ne _ _ h', Quire.getGPair]

theorem Msg.args_arg0 (m : Msg) : m.args.getGPair 0 = m.arg0 := by
  rw [Msg.args, Quire.getGPair_setG_ne _ _ (by decide) (by decide), Quire.getGPair_setG_ne _ _ (by decide) (by decide),
    Quire.setGPair.eq_1 _ 2, Quire.getGPair_setG_ne _ _ (by decide) (by decide), Quire.getGPair_setG_ne _ _ (by decide) (by decide),
    Quire.getGPair_setGPair_self]

theorem Msg.args_arg1 (m : Msg) : m.args.getGPair 2 = m.arg1 := by
  rw [Msg.args, Quire.getGPair_setG_ne _ _ (by decide) (by decide), Quire.getGPair_setG_ne _ _ (by decide) (by decide),
    Quire.getGPair_setGPair_self]

theorem Msg.args_row (m : Msg) : m.args.getG 4 = BitVec.ofNat 32 (m.pa / 4096 % 16) := by
  rw [Msg.args, Quire.getG_setG_ne _ _ (by decide), Quire.getG_setG_self]

theorem Msg.args_sender (m : Msg) : m.args.getG 5 = m.sender := Quire.getG_setG_self _ 5 _

theorem Msg.args_rest (m : Msg) {n : Nat} (h : 6 ≤ n) : m.args.getG n = 0#32 := by
  rw [Msg.args, Quire.getG_setG_ne _ _ (by omega), Quire.getG_setG_ne _ _ (by omega), Quire.getG_setGPair_ne _ _ (by omega) (by omega),
    Quire.getG_setGPair_ne _ _ (by omega) (by omega)]
  rfl

/-- The handler of a message starts, with a fresh context (R429). -/
def Spring.begin (sp : Spring) (m : Msg) : Spring :=
  { sp with run := some m, at_ := 0, steps := 0, g := m.args.g, gp := 0#7, rb := [], seen := [] }

theorem no_mitigation {s : State} {gs : Nat} (h : ∀ x ∈ (s.spring gs).mitig, x.2 ≤ s.clk) :
    (s.spring gs).mitig.any (fun x => decide (s.clk < x.2)) = false :=
  List.any_eq_false.2 fun x hx => by simpa using h x hx

section
variable {s : State} {gs : Nat} {m : Msg} {ms : List Msg} (hrun : (s.spring gs).run = none) (hre : (s.spring gs).retrain = false)
  (hmit : ∀ x ∈ (s.spring gs).mitig, x.2 ≤ s.clk) (hq : (s.spring gs).queue = m :: ms)
include hrun hre hmit hq

theorem exec_handlerStart_none (hs : tget? (s.spring gs).slots m.slot = none) : exec (.handlerStart gs) s =
    .next ((s.updSpring gs fun sp => sp.leave ms).messageDone m 0 0 0#32 outNoHandler 0) := by
  have calm := no_mitigation hmit
  change execHandlerStart gs s = _
  simp only [execHandlerStart, hrun, hre, calm, hq, hs, Option.isSome_none, Bool.or_self, Bool.false_eq_true, if_false]

theorem exec_handlerStart_disabled {ws : List Word} (hs : tget? (s.spring gs).slots m.slot = some (2, ws)) : exec (.handlerStart gs) s =
    .next ((s.updSpring gs fun sp => sp.leave ms).messageDone m 0 0 0#32 outDisabled 0) := by
  have calm := no_mitigation hmit
  change execHandlerStart gs s = _
  simp only [execHandlerStart, hrun, hre, calm, hq, hs, Option.isSome_none, Bool.or_self, Bool.false_eq_true, if_false, if_true]

theorem exec_handlerStart_begins {ws : List Word} (hs : tget? (s.spring gs).slots m.slot = some (1, ws)) : exec (.handlerStart gs) s =
    .next ((s.updSpring gs fun sp => sp.leave ms).updSpring gs fun sp => sp.begin m) := by
  have calm := no_mitigation hmit
  change execHandlerStart gs s = _
  simp only [execHandlerStart, hrun, hre, calm, hq, hs, Option.isSome_none, Bool.or_self, Bool.false_eq_true, if_false, Nat.reduceEqDiff]
  rfl

end

/-! ### Tables filled in order -/

/-- A table filled by distinct keys: each takes the value of its own old value, and no other changes. -/
theorem regGet_foldl_regPut (key : Nat → Nat) (f : Nat → Word → Word) (acc : Tab Word) : ∀ n,
    (∀ i j, i < n → j < n → key i = key j → i = j) →
    let r := (List.range n).foldl (fun r j => regPut r (key j) (f j (regGet r (key j)))) acc
    (∀ j, j < n → regGet r (key j) = f j (regGet acc (key j))) ∧ ∀ x, (∀ j, j < n → x ≠ key j) → regGet r x = regGet acc x
  | 0, _ => ⟨fun _ h => absurd h (Nat.not_lt_zero _), fun _ _ => rfl⟩
  | n + 1, inj => by
    obtain ⟨inside, outside⟩ := regGet_foldl_regPut key f acc n fun i j hi hj => inj i j (by omega) (by omega)
    simp only [List.range_succ, List.foldl_append, List.foldl_cons, List.foldl_nil]
    have fresh : ∀ j, j < n → key n ≠ key j := fun j hj h => by have := inj n j (by omega) (by omega) h; omega
    refine ⟨fun j hj => ?_, fun x hx => ?_⟩
    · by_cases hjn : j = n
      · rw [hjn, regGet_regPut_self, outside _ fresh]
      · rw [regGet_regPut_ne _ _ (fresh j (by omega)).symm, inside j (by omega)]
    · rw [regGet_regPut_ne _ _ (hx n (by omega)), outside x fun j hj => hx j (by omega)]

theorem regGet_fill (f : Nat → Word) {n i : Nat} (hi : i < n) : regGet ((List.range n).foldl (fun r j => regPut r j (f j)) []) i = f i :=
  (regGet_foldl_regPut (fun j => j) (fun j _ => f j) [] n fun _ _ _ _ h => h).1 i hi

/-! ### Steps that change the handler's context only -/

section
variable {s : State} {gs : Nat} (hcur : s.cur = .spring gs)
include hcur

theorem springStep_skips {p : BitVec 3} {n : Bool} (f : Spring → Spring) (hg : guardOk (s.spring gs).gp p n = false) :
    springStep s p n f = .next (s.updSpring gs fun sp => { sp with at_ := sp.at_ + 2 }) := by
  simp only [springStep, hcur]
  exact congrArg Host.Outcome.next (updSpring_congr (by simp only [hg, Bool.false_eq_true, if_false]))

theorem springStep_runs {p : BitVec 3} {n : Bool} (f : Spring → Spring) (hg : guardOk (s.spring gs).gp p n = true) :
    springStep s p n f = .next (s.updSpring gs fun sp => { f sp with at_ := sp.at_ + 2 }) := by
  simp only [springStep, hcur]
  exact congrArg Host.Outcome.next (updSpring_congr (by simp only [hg, if_true]))

end

/-! ### The row of a spring -/

theorem activate_spring (s : State) (gs g : Nat) (b : Option Nat) : ((s.activate gs g b).spring gs).g = (s.spring gs).g ∧
    ((s.activate gs g b).spring gs).at_ = (s.spring gs).at_ ∧ ((s.activate gs g b).spring gs).run = (s.spring gs).run := by
  rw [State.activate, spring_updSpring]
  exact ⟨rfl, rfl, rfl⟩

theorem activate_retired (s : State) (gs g : Nat) (b : Option Nat) (x : Nat) :
    ((s.activate gs g b).spring x).retired = (s.spring x).retired := by
  by_cases hx : x = gs
  · rw [hx, State.activate, spring_updSpring]
  · rw [State.activate, spring_updSpring_ne _ hx]

theorem activate_isPoisoned (s : State) (gs g : Nat) (b : Option Nat) (ln : Nat) : (s.activate gs g b).isPoisoned ln = s.isPoisoned ln := by
  have retired : (s.activate gs g b).lineRetired ln = s.lineRetired ln := by
    rw [State.lineRetired, activate_retired, State.lineRetired]
  exact congrArg (s.poisoned.contains ln || ·) retired

/-- The bits of the address by which the 16 lines of a row go to different places of it. -/
theorem rowLine_place (g gs x : Nat) : ∃ r, r < 64 ∧ rowLine g (gs % 64) x = g * 1024 + x * 64 + r :=
  ⟨_, Nat.xor_lt_two_pow (n := 6) (Nat.mod_lt _ (by decide)) (Nat.mod_lt _ (by decide)), rfl⟩

theorem rowLine_nodup (g gs : Nat) : ((List.range 16).map fun x => rowLine g (gs % 64) x).Nodup := by
  refine List.pairwise_map.2 (List.nodup_range.imp fun {x y} hne h => hne ?_)
  obtain ⟨r, hr, hx⟩ := rowLine_place g gs x
  obtain ⟨r', hr', hy⟩ := rowLine_place g gs y
  omega

/-- Two states with the same springs, the same memory and the same blocks. -/
structure SpringsKept (s t : State) : Prop where
  spring : ∀ g, t.spring g = s.spring g
  mem : t.mem = s.mem
  blocks : t.blocks = s.blocks

theorem SpringsKept.refl (s : State) : SpringsKept s s := ⟨fun _ => rfl, rfl, rfl⟩

theorem SpringsKept.trans {s t u : State} (h : SpringsKept s t) (h' : SpringsKept t u) : SpringsKept s u :=
  ⟨fun g => (h'.spring g).trans (h.spring g), h'.mem.trans h.mem, h'.blocks.trans h.blocks⟩

theorem SpringsKept.foldl {α : Type} {f : State → α → State} (hf : ∀ s a, SpringsKept s (f s a)) (as : List α) (s : State) :
    SpringsKept s (as.foldl f s) := foldl_keeps (P := SpringsKept s) (fun t a h => h.trans (hf t a)) as (.refl s)

theorem springsKept_updTarn (s : State) (t : Nat) (f : Tarn → Tarn) (hf : ∀ T, (f T).springs = T.springs) : SpringsKept s (s.updTarn t f) :=
  ⟨spring_updTarn s t f hf, rfl, rfl⟩

theorem springsKept_clean (s : State) (t ln : Nat) : SpringsKept s (s.clean t ln) := by
  have dirty : SpringsKept s (s.takeDirty t ln 0xFFFFFF) := by
    refine SpringsKept.foldl (fun s k => ?_) _ s
    split
    · split
      · exact .refl s
      · exact springsKept_updTarn s t _ fun _ => rfl
    · exact .refl s
  have shared (s : State) (ks : List Nat) : SpringsKept s (ks.foldl (fun s k => match s.l1? k ln with
      | some l => s.putL1 k ln { l with st := .s, dirty := 0#64 }
      | none => s) s) := by
    refine SpringsKept.foldl (fun s k => ?_) ks s
    split
    · exact ⟨fun _ => rfl, rfl, rfl⟩
    · exact .refl s
  unfold State.clean
  dsimp only
  split
  · exact (dirty.trans (shared _ _)).trans (springsKept_updTarn _ t _ fun _ => rfl)
  · exact dirty.trans (shared _ _)

/-! ### Row accesses -/

/-- Every line of the row is recalled. -/
def State.cleanRow (s : State) (gs g : Nat) : State :=
  ((List.range 16).map fun x => rowLine g (gs % 64) x).foldl (fun s ln => s.clean (lineHome ln) ln) s

/-- Word `i` of the row, as its lines stand at their homes. -/
def State.rowWord (s : State) (gs g i : Nat) : Word :=
  BitVec.ofNat 32 (takeData (s.homeData (rowLine g (gs % 64) (i / 16))) (i % 16 * 4) 4)

/-- The row buffer takes its first `n` words anew, and the handler goes on. -/
def Spring.load (sp : Spring) (n : Nat) (word : Nat → Word) (seen : List Nat) : Spring :=
  { sp with rb := (List.range n).foldl (fun rb i => regPut rb i (word i)) [], seen, at_ := sp.at_ + 2 }

theorem Spring.load_rb (sp : Spring) (n : Nat) (word : Nat → Word) (seen : List Nat) :
    (sp.load n word seen).rb = (List.range n).foldl (fun rb i => regPut rb i (word i)) [] := rfl

theorem Spring.load_word (sp : Spring) (word : Nat → Word) (seen : List Nat) {i : Nat} (hi : i < 256) :
    rbGet (sp.load 256 word seen) i = word i := by
  rw [rbGet, Nat.mod_eq_of_lt hi, Spring.load_rb, regGet_fill word hi]

/-- The row buffer takes the row (R431). -/
def State.loadRow (s : State) (gs g : Nat) (seen : List Nat) : State :=
  let s := s.cleanRow gs g
  let seen := ((List.range 16).map fun x => rowLine g (gs % 64) x).foldl (fun a ln => addNew a (s.seenAt (ln * 64) 64)) seen
  s.updSpring gs fun sp => sp.load 256 (s.rowWord gs g) seen

theorem springsKept_cleanRow (s : State) (gs g : Nat) : SpringsKept s (s.cleanRow gs g) := by
  unfold State.cleanRow
  exact SpringsKept.foldl (fun s ln => springsKept_clean s _ ln) _ s

theorem rowWord_cleanRow (s : State) (gs g : Nat) {i : Nat} (hi : i < 256) : (s.cleanRow gs g).rowWord gs g i = BitVec.ofNat 32
    (takeData ((s.clean (lineHome (rowLine g (gs % 64) (i / 16))) (rowLine g (gs % 64) (i / 16))).homeData (rowLine g (gs % 64) (i / 16)))
      (i % 16 * 4) 4) := by
  have mem : rowLine g (gs % 64) (i / 16) ∈ (List.range 16).map fun x => rowLine g (gs % 64) x :=
    List.mem_map.2 ⟨i / 16, List.mem_range.2 (by omega), rfl⟩
  rw [State.rowWord, State.cleanRow, homeData_clean_each _ (rowLine_nodup g gs) mem]

theorem loadRow_eq (s : State) (gs g : Nat) (seen : List Nat) : ∃ seen', s.loadRow gs g seen =
    (s.cleanRow gs g).updSpring gs fun sp => sp.load 256 ((s.cleanRow gs g).rowWord gs g) seen' := ⟨_, rfl⟩

theorem loadRow_spring (s : State) (gs g : Nat) (seen : List Nat) :
    (∃ seen', (s.loadRow gs g seen).spring gs = (s.spring gs).load 256 ((s.cleanRow gs g).rowWord gs g) seen') ∧
      (s.loadRow gs g seen).mem = s.mem ∧ (s.loadRow gs g seen).blocks = s.blocks := by
  obtain ⟨spring, mem, blocks⟩ := springsKept_cleanRow s gs g
  obtain ⟨seen', load⟩ := loadRow_eq s gs g seen
  rw [load, spring_updSpring, spring, State.updSpring_mem, State.updSpring_blocks]
  exact ⟨⟨seen', rfl⟩, mem, blocks⟩

/-! ### Lines written whole -/

theorem leNat_append (as bs : List Byte) : leNat (as ++ bs) = leNat as + 256 ^ as.length * leNat bs := by
  induction as with
  | nil => simp [leNat]
  | cons a as ih =>
    rw [List.cons_append, leNat, ih, leNat, List.length_cons, Nat.pow_succ]
    grind

theorem leNat_word {w : Nat} (hw : w < 2 ^ 32) : leNat ((List.range 4).map fun r => BitVec.ofNat 8 (w / 256 ^ r)) = w := by
  simp only [List.range_succ, List.range_zero, List.nil_append, List.cons_append, List.map_cons, List.map_nil, leNat, BitVec.toNat_ofNat,
    Nat.reducePow]
  omega

/-- Words laid out as bytes read back as the words. -/
theorem leNat_words {w : Nat → Nat} (hw : ∀ i, w i < 2 ^ 32) : ∀ n,
    let d := leNat ((List.range (4 * n)).map fun k => BitVec.ofNat 8 (w (k / 4) / 256 ^ (k % 4)))
    d < 2 ^ (32 * n) ∧ ∀ i, i < n → d / 2 ^ (32 * i) % 2 ^ 32 = w i
  | 0 => ⟨Nat.one_pos, fun _ h => absurd h (Nat.not_lt_zero _)⟩
  | n + 1 => by
    obtain ⟨bound, words⟩ := leNat_words hw n
    have last : (List.range 4).map (fun r => BitVec.ofNat 8 (w ((4 * n + r) / 4) / 256 ^ ((4 * n + r) % 4))) =
        (List.range 4).map fun r => BitVec.ofNat 8 (w n / 256 ^ r) := List.map_congr_left fun r hr => by
      have := List.mem_range.1 hr
      rw [show (4 * n + r) / 4 = n by omega, show (4 * n + r) % 4 = r by omega]
    have grown : leNat ((List.range (4 * (n + 1))).map fun k => BitVec.ofNat 8 (w (k / 4) / 256 ^ (k % 4))) =
        leNat ((List.range (4 * n)).map fun k => BitVec.ofNat 8 (w (k / 4) / 256 ^ (k % 4))) + 2 ^ (32 * n) * w n := by
      rw [Nat.mul_succ, List.range_add, List.map_append, List.map_map, leNat_append, List.length_map, List.length_range,
        show (256 : Nat) ^ (4 * n) = 2 ^ (32 * n) by rw [show 256 = 2 ^ 8 by rfl, ← Nat.pow_mul]; congr 1; omega]
      exact congrArg _ (congrArg _ ((congrArg leNat last).trans (leNat_word (hw n))))
    intro d
    have hd : d = _ := grown
    refine ⟨?_, fun i hi => ?_⟩
    · rw [hd, Nat.mul_succ, Nat.pow_add]
      have := Nat.mul_le_mul_left (2 ^ (32 * n)) (Nat.succ_le_of_lt (hw n))
      rw [Nat.succ_eq_add_one, Nat.mul_add] at this
      omega
    · rw [hd]
      by_cases hin : i = n
      · rw [hin, Nat.add_mul_div_left _ _ (Nat.two_pow_pos _), Nat.div_eq_of_lt bound, Nat.zero_add, Nat.mod_eq_of_lt (hw n)]
      · rw [show 2 ^ (32 * n) * w n = 2 ^ (32 * i) * (2 ^ 32 * (2 ^ (32 * (n - i - 1)) * w n)) by
            rw [← Nat.mul_assoc, ← Nat.mul_assoc, ← Nat.pow_add, ← Nat.pow_add]; congr 2; omega,
          Nat.add_mul_div_left _ _ (Nat.two_pow_pos _), Nat.add_mul_mod_self_left]
        exact words i (by omega)

theorem toNat_ofNat_small {w d : Nat} (h : d < 2 ^ w) : (BitVec.ofNat w d).toNat = d := (BitVec.toNat_ofNat d w).trans (Nat.mod_eq_of_lt h)

/-- Line `x` of a row buffer, as a number. -/
def Spring.rowData (sp : Spring) (x : Nat) : Nat :=
  leNat ((List.range 64).map fun k => BitVec.ofNat 8 ((rbGet sp (16 * x + k / 4)).toNat / 256 ^ (k % 4)))

theorem takeData_rowData (sp : Spring) (x : Nat) {i : Nat} (hi : i < 16) :
    takeData (BitVec.ofNat 512 (sp.rowData x)) (4 * i) 4 = (rbGet sp (16 * x + i)).toNat := by
  obtain ⟨bound, words⟩ := leNat_words (w := fun j => (rbGet sp (16 * x + j)).toNat) (fun j => (rbGet sp (16 * x + j)).isLt) 16
  have data : (BitVec.ofNat (32 * 16) (sp.rowData x)).toNat = sp.rowData x := toNat_ofNat_small bound
  rw [takeData, show (BitVec.ofNat 512 (sp.rowData x)).toNat = sp.rowData x from data, ← Nat.mul_assoc]
  exact words i hi

/-- The masked lines among the first `n` of a row take those of a row buffer. -/
def State.writeRow (s : State) (gs g : Nat) (sp : Spring) (mask n : Nat) : State :=
  (List.range n).foldl (fun s x =>
    if mask.testBit x then (s.homeWrite (rowLine g (gs % 64) x) (BitVec.allOnes 64) (BitVec.ofNat 512 (sp.rowData x)) 0 false).1 else s) s

theorem copiesOf_place {s : State} {ln x : Nat} (h : x ∈ s.copiesOf ln) : x % 1024 = ln % 1024 := by
  obtain ⟨mv, _, hx⟩ := List.mem_filterMap.1 h
  split at hx
  · cases hx
    omega
  · cases hx

theorem homeWrite_mem (s : State) (ln : Nat) (m : BitVec 64) (d : BitVec 512) : (s.homeWrite ln m d 0 false).1.mem = s.mem := by
  have home (s : State) (x : Nat) : (s.putHome x m d 0).mem = s.mem := (sameLine_putHome (Nat.succ_ne_self x) s m d).mem
  refine (sameLine_ownInval _ ln ln m).mem.trans ?_
  refine foldl_keeps (P := fun t : State => t.mem = s.mem) (fun t x h => ?_) _ (home s ln)
  exact ((sameLine_dropSpans (ln := x + 4) (by omega) _ m _).mem.trans (home t x)).trans h

theorem writeRow_spec (s : State) (gs g : Nat) (sp : Spring) (mask : Nat) : ∀ n, n ≤ 16 → (s.writeRow gs g sp mask n).mem = s.mem ∧
    ∀ x, x < n → mask.testBit x = true → HomeHolds (s.writeRow gs g sp mask n) (rowLine g (gs % 64) x) (BitVec.ofNat 512 (sp.rowData x))
  | 0, _ => ⟨rfl, fun _ h => absurd h (Nat.not_lt_zero _)⟩
  | n + 1, hn => by
    obtain ⟨mem, lines⟩ := writeRow_spec s gs g sp mask n (by omega)
    have next : s.writeRow gs g sp mask (n + 1) = if mask.testBit n then ((s.writeRow gs g sp mask n).homeWrite (rowLine g (gs % 64) n)
        (BitVec.allOnes 64) (BitVec.ofNat 512 (sp.rowData n)) 0 false).1 else s.writeRow gs g sp mask n := by
      rw [State.writeRow, List.range_succ, List.foldl_append]
      rfl
    rw [next]
    split
    · refine ⟨(homeWrite_mem ..).trans mem, fun x hx hbit => ?_⟩
      obtain ⟨r, hr, hln⟩ := rowLine_place g gs n
      by_cases hxn : x = n
      · rw [hxn]
        exact homeHolds_homeWrite _ _ _ fun y hy => by have := copiesOf_place hy; omega
      · obtain ⟨r', hr', hlx⟩ := rowLine_place g gs x
        exact (lines x (by omega) hbit).of_slice ((sameLine_homeWrite (by omega) _ _ _ fun y hy => by
          have := copiesOf_place hy; omega).slice _)
    · next hbit => exact ⟨mem, fun x hx hx' => lines x (by
        have : x ≠ n := fun h => hbit (h ▸ hx')
        omega) hx'⟩

section
variable {s : State} {gs : Nat} {w : W2} {m : Msg} (hcur : s.cur = .spring gs) (hrun : (s.spring gs).run = some m)
include hcur

theorem exec_rowrd_skips (hg : guardOk (s.spring gs).gp w.p w.n = false) :
    exec (.rowrd w) s = .next (s.updSpring gs fun sp => { sp with at_ := sp.at_ + 2 }) := by
  change execRowrd w s = _
  simp only [execRowrd, hcur, hg, Bool.not_false, if_true]

theorem exec_rowwr_skips (hg : guardOk (s.spring gs).gp w.p w.n = false) :
    exec (.rowwr w) s = .next (s.updSpring gs fun sp => { sp with at_ := sp.at_ + 2 }) := by
  change execRowwr w s = _
  simp only [execRowwr, hcur, hg, Bool.not_false, if_true]

variable (hg : guardOk (s.spring gs).gp w.p w.n = true) (hheld : s.rowHeld gs (m.pa / 65536) = false)
include hrun hg hheld

section
variable (hdram : ∀ x, x < 16 → s.dramHeld (rowLine (m.pa / 65536) (gs % 64) x) = false)
include hdram

theorem exec_rowrd_loads (hp : ∀ x, x < 16 → s.isPoisoned (rowLine (m.pa / 65536) (gs % 64) x) = false) : exec (.rowrd w) s =
    .next ((s.activate gs (m.pa / 65536) (some m.slot)).loadRow gs (m.pa / 65536) (s.spring gs).seen) := by
  have free : ((List.range 16).map fun x => rowLine (m.pa / 65536) (gs % 64) x).any s.dramHeld = false := by
    rw [List.any_map]
    exact List.any_eq_false.2 fun x hx => by simpa using hdram x (List.mem_range.1 hx)
  have clean : ((List.range 16).find? fun x =>
      (s.activate gs (m.pa / 65536) (some m.slot)).isPoisoned (rowLine (m.pa / 65536) (gs % 64) x)) = none :=
    List.find?_eq_none.2 fun x hx => by simp [activate_isPoisoned, hp x (List.mem_range.1 hx)]
  change execRowrd w s = _
  simp only [execRowrd, hcur, hrun, hg, hheld, free, clean, Bool.not_true, Bool.or_self, Bool.false_eq_true, if_false]
  rfl

theorem exec_rowrd_poisoned {x : Nat}
    (hp : ((List.range 16).find? fun x => s.isPoisoned (rowLine (m.pa / 65536) (gs % 64) x)) = some x) : exec (.rowrd w) s =
    .next ((s.activate gs (m.pa / 65536) (some m.slot)).endHandler gs 1 (64 * x) 0#32 outPoison) := by
  have free : ((List.range 16).map fun x => rowLine (m.pa / 65536) (gs % 64) x).any s.dramHeld = false := by
    rw [List.any_map]
    exact List.any_eq_false.2 fun x hx => by simpa using hdram x (List.mem_range.1 hx)
  change execRowrd w s = _
  simp only [execRowrd, hcur, hrun, hg, hheld, free, activate_isPoisoned, hp, Bool.not_true, Bool.or_self, Bool.false_eq_true, if_false]

end

theorem exec_rowwr_writes : exec (.rowwr w) s = .next (((s.activate gs (m.pa / 65536) (some m.slot)).writeRow gs (m.pa / 65536) (s.spring gs)
    (regGet (s.spring gs).g w.a.toNat).toNat 16).updSpring gs fun sp => { sp with at_ := sp.at_ + 2 }) := by
  change execRowwr w s = _
  simp only [execRowwr, hcur, hrun, hg, hheld, Bool.not_true, Bool.false_eq_true, if_false]
  rfl

end

/-! ### The instructions on the row buffer -/

section
variable (w : W2) (sp : Spring)

/-- What LINERD does to the context of a handler: a line of the row buffer goes into 16 registers. -/
def Spring.lineRead : Spring :=
  let x := (regGet sp.g w.a.toNat).toNat % 16
  { sp with g := (List.range 16).foldl (fun g y => regPut g (w.d.toNat + y) (rbGet sp (16 * x + y))) sp.g }

/-- What LINEWR does to the context of a handler: 16 registers go into a line of the row buffer. -/
def Spring.lineWritten : Spring :=
  let x := (regGet sp.g w.a.toNat).toNat % 16
  { sp with rb := (List.range 16).foldl (fun rb y => regPut rb (16 * x + y) (regGet sp.g (w.d.toNat + y))) sp.rb }

/-- The first word, the number of words and the operand of ROWRED. -/
def Spring.redFrom : Nat := (regGet sp.g w.a.toNat).toNat % 256
def Spring.redWords : Nat := (regGet sp.g w.a.toNat).toNat / 256 % 256 + 1
def Spring.redOperand : Nat := opBG { g := sp.g, gp := sp.gp } w false w.x.imm20.toNat

/-- The operation of ROWRED. -/
def redOp (x y : Nat) : Nat := combine (w.x.sub.toNat % 8) (tyOf w) x y 0

/-- What ROWRED does to the context of a handler: it reduces words of the row buffer. -/
def Spring.reduced : Spring :=
  { sp with g := regPut sp.g w.d.toNat (BitVec.ofNat 32
      ((List.range (sp.redWords w)).foldl (fun x i => redOp w x (rbGet sp (sp.redFrom w + i)).toNat) (sp.redOperand w))) }

/-- What ROWRED.upd does to the context of a handler: it updates words of the row buffer. -/
def Spring.updated : Spring :=
  { sp with
    g := regPut sp.g w.d.toNat (rbGet sp (sp.redFrom w))
    rb := (List.range (sp.redWords w)).foldl (fun rb i => regPut rb ((sp.redFrom w + i) % 256)
      (BitVec.ofNat 32 (redOp w (regGet rb ((sp.redFrom w + i) % 256)).toNat (sp.redOperand w)))) sp.rb }

theorem exec_linerd (s : State) : exec (.linerd w) s = springStep s w.p w.n (Spring.lineRead w) := rfl

theorem exec_linewr (s : State) : exec (.linewr w) s = springStep s w.p w.n (Spring.lineWritten w) := rfl

variable {w} in
theorem exec_rowred_reduces (s : State) (hu : w.x.sub.getLsbD 3 = false) : exec (.rowred w) s = springStep s w.p w.n (Spring.reduced w) := by
  change execRowred w s = _
  unfold execRowred
  congr 1
  funext sp
  rw [hu]
  rfl

variable {w} in
theorem exec_rowred_updates (s : State) (hu : w.x.sub.getLsbD 3 = true) : exec (.rowred w) s = springStep s w.p w.n (Spring.updated w) := by
  change execRowred w s = _
  unfold execRowred
  congr 1
  funext sp
  rw [hu]
  rfl

theorem Spring.lineRead_regs : let x := (regGet sp.g w.a.toNat).toNat % 16
    (∀ y, y < 16 → regGet (sp.lineRead w).g (w.d.toNat + y) = rbGet sp (16 * x + y)) ∧
      ∀ n, (n < w.d.toNat ∨ w.d.toNat + 16 ≤ n) → regGet (sp.lineRead w).g n = regGet sp.g n := by
  intro x
  obtain ⟨inside, outside⟩ := regGet_foldl_regPut (fun y => w.d.toNat + y) (fun y _ => rbGet sp (16 * x + y)) sp.g 16
    fun _ _ _ _ h => by omega
  exact ⟨inside, fun n hn => outside n fun y hy => by omega⟩

theorem Spring.lineWritten_words : let x := (regGet sp.g w.a.toNat).toNat % 16
    (∀ y, y < 16 → rbGet (sp.lineWritten w) (16 * x + y) = regGet sp.g (w.d.toNat + y)) ∧
      ∀ i, i < 256 → i / 16 ≠ x → rbGet (sp.lineWritten w) i = rbGet sp i := by
  intro x
  have hx : x < 16 := Nat.mod_lt _ (by decide)
  obtain ⟨inside, outside⟩ := regGet_foldl_regPut (fun y => 16 * x + y) (fun y _ => regGet sp.g (w.d.toNat + y)) sp.rb 16
    fun _ _ _ _ h => by omega
  refine ⟨fun y hy => ?_, fun i hi hix => ?_⟩
  · rw [rbGet, Nat.mod_eq_of_lt (by omega)]
    exact inside y hy
  · rw [rbGet, rbGet, Nat.mod_eq_of_lt hi]
    exact outside i fun y hy => by omega

theorem Spring.updated_words :
    (∀ i, i < sp.redWords w → rbGet (sp.updated w) (sp.redFrom w + i) =
      BitVec.ofNat 32 (redOp w (rbGet sp (sp.redFrom w + i)).toNat (sp.redOperand w))) ∧
    ∀ j, j < 256 → (∀ i, i < sp.redWords w → j ≠ (sp.redFrom w + i) % 256) → rbGet (sp.updated w) j = rbGet sp j := by
  have few : sp.redWords w ≤ 256 := Nat.succ_le_of_lt (Nat.mod_lt _ (by decide))
  obtain ⟨inside, outside⟩ := regGet_foldl_regPut (fun i => (sp.redFrom w + i) % 256)
    (fun _ x => BitVec.ofNat 32 (redOp w x.toNat (sp.redOperand w))) sp.rb (sp.redWords w) fun _ _ _ _ h => by omega
  refine ⟨inside, fun j hj hout => ?_⟩
  rw [rbGet, rbGet, Nat.mod_eq_of_lt hj]
  exact outside j hout

end

theorem activate_mem (s : State) (gs g : Nat) (b : Option Nat) : (s.activate gs g b).mem = s.mem := rfl

theorem activate_blocks (s : State) (gs g : Nat) (b : Option Nat) : (s.activate gs g b).blocks = s.blocks := rfl

theorem sameLine_activate (s : State) (gs g : Nat) (b : Option Nat) (ln : Nat) : SameLine s (s.activate gs g b) ln := by
  rw [State.activate]
  exact sameLine_updSpring s gs ln _

/-- What ROWRD leaves: the words of the row's lines, each recalled as it stood. -/
theorem rowRead_spec (s : State) (gs g : Nat) (b : Option Nat) {m : Msg} (hrun : (s.spring gs).run = some m) :
    let t := (s.activate gs g b).loadRow gs g (s.spring gs).seen
    ((t.spring gs).g = (s.spring gs).g ∧ ∀ i, i < 256 → rbGet (t.spring gs) i = BitVec.ofNat 32
      (takeData ((s.clean (lineHome (rowLine g (gs % 64) (i / 16))) (rowLine g (gs % 64) (i / 16))).homeData (rowLine g (gs % 64) (i / 16)))
        (i % 16 * 4) 4)) ∧
      (t.spring gs).at_ = (s.spring gs).at_ + 2 ∧ (t.spring gs).run = some m ∧ t.mem = s.mem ∧ t.blocks = s.blocks := by
  intro t
  obtain ⟨⟨seen, spring⟩, mem, blocks⟩ := loadRow_spring (s.activate gs g b) gs g (s.spring gs).seen
  obtain ⟨hG, hAt, hRun⟩ := activate_spring s gs g b
  refine ⟨?_, ?_, ?_, mem.trans (activate_mem s gs g b), blocks.trans (activate_blocks s gs g b)⟩
  · rw [spring]
    refine ⟨hG, fun i hi => ?_⟩
    rw [Spring.load_word _ _ _ hi, rowWord_cleanRow _ _ _ hi]
    exact congrArg (fun d => BitVec.ofNat 32 (takeData d (i % 16 * 4) 4)) ((sameLine_activate s gs g b _).clean_homeData _)
  · rw [spring]
    exact congrArg (· + 2) hAt
  · rw [spring]
    exact hRun.trans hrun

/-- What ROWWR leaves: the masked lines read as the row buffer had them. -/
theorem rowWritten_spec (s : State) (gs g : Nat) (b : Option Nat) (sp : Spring) (mask : Nat) (f : Spring → Spring) :
    let t := ((s.activate gs g b).writeRow gs g sp mask 16).updSpring gs f
    t.mem = s.mem ∧ ∀ x, x < 16 → mask.testBit x = true → ∀ i, i < 16 →
      takeData (t.homeData (rowLine g (gs % 64) x)) (4 * i) 4 = (rbGet sp (16 * x + i)).toNat := by
  intro t
  obtain ⟨mem, lines⟩ := writeRow_spec (s.activate gs g b) gs g sp mask 16 (Nat.le_refl 16)
  refine ⟨mem.trans (activate_mem s gs g b), fun x hx hbit i hi => ?_⟩
  rw [(sameLine_updSpring _ gs _ f).homeData, (lines x hx hbit).homeData, takeData_rowData sp x hi]

/-- Settles O48: a handler starts in a fresh context and ends as its instructions and limits say; each row instruction goes by the row's
lines at their homes and by the row buffer. -/
theorem springHandlers : Obligations.SpringHandlers := by
  refine ⟨⟨fun s gs m ms hrun hre hmit hq => ?start, fun s gs m k ws hrun hs hsteps hat => ?limit, fun s gs w hcur => ?reply,
    fun s gs code detail out r m hrun => ?ends⟩, fun s gs w m hcur hrun => ?rows⟩
  case start =>
    refine ⟨exec_handlerStart_none hrun hre hmit hq, fun ws => exec_handlerStart_disabled hrun hre hmit hq, fun ws hs =>
      ⟨_, exec_handlerStart_begins hrun hre hmit hq hs, ?_⟩⟩
    rw [spring_updSpring, spring_updSpring]
    exact ⟨rfl, rfl, rfl, rfl, rfl, fun _ => rfl, m.args_arg0, m.args_arg1, m.args_row, m.args_sender, fun _ => m.args_rest, rfl, rfl, rfl,
      fun g hg => (spring_updSpring_ne _ hg _).trans (spring_updSpring_ne _ hg _)⟩
  case limit =>
    change execStepLimit gs s = _
    simp only [execStepLimit, hrun, hs, hsteps, hat, and_self, if_true]
  case reply =>
    refine ⟨fun hg => ?_, fun hg => ?_⟩
    · change execReply w s = _
      simp only [execReply, hcur, hg, if_true]
    · change execReply w s = _
      simp only [execReply, hcur, hg, Bool.false_eq_true, if_false]
  case ends =>
    simp only [State.endHandler, hrun]
  case rows =>
    intro sp g line ok a skips steps
    refine ⟨fun hg => ⟨exec_rowrd_skips hcur hg, exec_rowwr_skips hcur hg, springStep_skips hcur _ hg, springStep_skips hcur _ hg,
        springStep_skips hcur _ hg⟩, fun hg hheld hdram hp => ?_,
      fun x hg hheld hdram hp => exec_rowrd_poisoned hcur hrun hg hheld hdram hp, fun hg hheld _ => ?_, fun hg _ => ?_, fun hg => ?_, ?_⟩
    · exact ⟨_, exec_rowrd_loads hcur hrun hg hheld hdram hp, rowRead_spec s gs (m.pa / 65536) (some m.slot) hrun⟩
    · exact ⟨_, exec_rowwr_writes hcur hrun hg hheld, rowWritten_spec s gs (m.pa / 65536) (some m.slot) _ _ _⟩
    · obtain ⟨inside, outside⟩ := sp.lineRead_regs w
      refine ⟨_, (exec_linerd w s).trans (springStep_runs hcur _ hg), ?_⟩
      rw [spring_updSpring]
      exact ⟨⟨fun _ => rfl, inside, outside⟩, rfl, hrun, rfl, rfl⟩
    · obtain ⟨inside, outside⟩ := sp.lineWritten_words w
      refine ⟨_, (exec_linewr w s).trans (springStep_runs hcur _ hg), ?_⟩
      rw [spring_updSpring]
      exact ⟨⟨rfl, inside, outside⟩, rfl, hrun, rfl, rfl⟩
    · intro b n op hg
      refine ⟨fun hu => ⟨_, (exec_rowred_reduces s hu).trans (springStep_runs hcur _ hg), ?_⟩,
        fun hu => ⟨_, (exec_rowred_updates s hu).trans (springStep_runs hcur _ hg), ?_⟩⟩
      · rw [spring_updSpring]
        exact ⟨⟨rfl, rfl⟩, rfl, hrun, rfl, rfl⟩
      · obtain ⟨inside, outside⟩ := sp.updated_words w
        rw [spring_updSpring]
        exact ⟨⟨rfl, inside, outside⟩, rfl, hrun, rfl, rfl⟩

end Sys2Proof.Machine
